-- ==== Sys2Proof/Word.lean ====
section
/-! DEFINITION. The machine's words and the sparse tables that hold everything addressed by a number. -/

namespace Sys2Proof

/-- A register of control space, or a strand's general register: 64 bits (R84, R112). -/
abbrev Word := BitVec 64

/-- A byte of memory or of a message. -/
abbrev Byte := BitVec 8

/-- A wide register of a strand: 512 bits (R113). -/
abbrev Wide := BitVec 512

/-- Data addressed by a number: (key, value) pairs with strictly rising keys, none of which carries the
value that an unlisted key reads as. -/
abbrev Tbl (α : Type) := List (Nat × α)

end Sys2Proof
end

