-- ==== Sys2Proof/Syntax.lean ====
section
/-!
DEFINITION. The commands of the block: one constructor per row of spec/opcode_table.json, with the operands
that the command brings from outside.
A Luasol instruction is the command that a strand's next instruction is that one: it carries the strand and every
field of the word, the fields that must be zero among them. Data that the outside world supplies (bytes a host
returns, a received frame, a level on a pin) are operands.
-/

namespace Sys2Proof

/-- What firmware reads of a tenant's ledgers where they stand outside the device: the durable generation-3 records
of a ledger homed elsewhere, the 128-byte records of the tenant's generation-2 ledger from SEQ 1 on (R586), and the
SHA-256 of the generation-2 ledger's head that the estate's custodian gave firmware (R587). -/
structure LedgerRead where
  recs : List (List (BitVec 8)) := []
  old : List (List (BitVec 8)) := []
  head : List (BitVec 8) := []
  deriving DecidableEq, Repr

/-- The commands of spec/opcode_table.json. -/
inductive Instr where
  /-- POWER_ON_RESET (R821). Supplies become valid; the T512 leaves power-on reset, reads its fuses and starts the boot ROM. -/
  | powerOnReset
  /-- FIRST_AVS_REQUEST (R819). 1 ms after supplies are valid, the governor sends its first AVSBus voltage request. -/
  | firstAvsRequest
  /-- STRIP_TRAINING_START (R32). 5 ms after supplies are valid, every strip except S4 leaves electrical idle and starts training. -/
  | stripTrainingStart
  /-- HBM_TRAINING_DONE (R821). HBM training completes. -/
  | hbmTrainingDone
  /-- BOOT_MAILBOX_OPEN (R784). At 60 ms the boot ROM opens the boot mailbox and starts the push wait. -/
  | bootMailboxOpen
  /-- POWER_LOSS (R820). PWR_OK falls or VDD_SRAM leaves its range, and the T512 returns to power-on reset within 1 µs. -/
  | powerLoss (sram : Bool)
  /-- RAIL_OUT_OF_RANGE (R820). Another rail leaves its operating range while supplies are valid, and raises its fault. -/
  | railOutOfRange (rail : Nat)
  /-- REFCLK_LOSS (R850). REFCLK stops; lanes lose lock and TIME_MONO stops advancing. -/
  | refclkLoss
  /-- REGISTER_WRITE (R98). A write to a register that has no row of its own; stopped-only, reserved-encoding and size checks apply. -/
  | registerWrite (master off size : Nat) (value : BitVec 64)
  /-- SNAP_CAPTURE_READ (R90). A read of a group's head copies the whole group into the reader's capture buffer. -/
  | snapCaptureRead (master off size : Nat)
  /-- RC_READ (R86). A read of a register with RC fields returns them and clears the bits it returned. -/
  | rcRead (master off size : Nat)
  /-- PLACE_WRITE (R20). A write to DEVICE_PLACE sets the identifiers and LOCK, or is ignored once LOCK is 1. -/
  | placeWrite (master size half : Nat) (value : BitVec 64)
  /-- PACE_INTERVAL (R46). Every 100 µs the governor raises, lowers or keeps its voltage request by busy fraction, clamped to [L, U]. -/
  | paceInterval (tj : Nat) (busy : List Nat)
  /-- AVS_REPORT (R50). The regulator reports its voltage, which can start deadlines that waited for VFLOOR. -/
  | avsReport (code : Nat)
  /-- AVS_REQUEST_FAIL (R51). An AVSBus request goes unacknowledged; it is repeated at 100 µs, and AVS_ERR is set after the third failure. -/
  | avsRequestFail
  /-- BELOW_FLOOR_FAULT (R52). In each 1 ms interval with deadline work pending and BELOW_FLOOR set, a corrected fault is recorded. -/
  | belowFloorFault
  /-- TRD_QUIET_EXPIRE (R47). 10 ms pass after the last TRD packet with nothing outstanding, and DEVICE_PACE_DEADLINE.TRD clears. -/
  | trdQuietExpire
  /-- TIME_ADJ_WRITE (R70). A write to TIME_ADJ slews or steps the time of day. -/
  | timeAdjWrite (master size : Nat) (value : BitVec 64)
  /-- SLEW_COMPLETE (R69). A slew ends, SLEWING clears, and QUALITY returns to a locked code. -/
  | slewComplete
  /-- STEP_PEND_CLEAR (R71). Firmware clears STEP_PEND, and held seal operations proceed. -/
  | stepPendClear (master size half : Nat) (value : BitVec 64)
  /-- TIME_REF_WRITE (R64). A write to TIME_REF is a heartbeat with LOCKED 1, or declares the reference lost with LOCKED 0. -/
  | timeRefWrite (master size half : Nat) (value : BitVec 64)
  /-- REF_TIMEOUT (R64). No heartbeat arrives within REF_TIMEOUT × 100 ms, and the reference is declared lost. -/
  | refTimeout
  /-- PPS_IN_EDGE (R65). A 1PPS_IN rising edge is stamped, and its offset is slewed out. -/
  | ppsInEdge
  /-- PPS_LOST (R65). 1.5 s pass without a 1PPS_IN edge, and the reference is declared lost. -/
  | ppsLost
  /-- PPS_OUT_PULSE (R66). At each second boundary, 1PPS_OUT rises with a width that encodes the quality class. -/
  | ppsOutPulse
  /-- HOLDOVER_QUALITY_STEP (R68). The holdover error bound passes a quality threshold, and QUALITY moves to the next code. -/
  | holdoverQualityStep
  /-- ADD (R133). g[D] := g[A] + g[B]. -/
  | add (k : Nat) (d a b : BitVec 5)
  /-- SUB (R133). g[D] := g[A] − g[B]. -/
  | sub (k : Nat) (d a b : BitVec 5)
  /-- AND (R133). Bitwise AND. -/
  | and (k : Nat) (d a b : BitVec 5)
  /-- OR (R133). Bitwise OR. -/
  | or (k : Nat) (d a b : BitVec 5)
  /-- XOR (R133). Bitwise XOR. -/
  | xor (k : Nat) (d a b : BitVec 5)
  /-- ANDN (R133). g[A] AND NOT g[B]. -/
  | andn (k : Nat) (d a b : BitVec 5)
  /-- SHL (R133). Shift left. -/
  | shl (k : Nat) (d a b : BitVec 5)
  /-- SHR (R133). Logical shift right. -/
  | shr (k : Nat) (d a b : BitVec 5)
  /-- SAR (R133). Arithmetic shift right. -/
  | sar (k : Nat) (d a b : BitVec 5)
  /-- ROR (R133). Rotate right. -/
  | ror (k : Nat) (d a b : BitVec 5)
  /-- MUL (R133). Low 64 bits of the product. -/
  | mul (k : Nat) (d a b : BitVec 5)
  /-- MULHU (R133). High 64 bits of the unsigned product. -/
  | mulhu (k : Nat) (d a b : BitVec 5)
  /-- DIVU (R133). Unsigned division, defined for a zero divisor. -/
  | divu (k : Nat) (d a b : BitVec 5)
  /-- REMU (R133). Unsigned remainder, defined for a zero divisor. -/
  | remu (k : Nat) (d a b : BitVec 5)
  /-- SLT (R133). Signed compare, less than. -/
  | slt (k : Nat) (d a b : BitVec 5)
  /-- SLTU (R133). Unsigned compare, less than. -/
  | sltu (k : Nat) (d a b : BitVec 5)
  /-- MINU (R133). Unsigned minimum. -/
  | minu (k : Nat) (d a b : BitVec 5)
  /-- MAXU (R133). Unsigned maximum. -/
  | maxu (k : Nat) (d a b : BitVec 5)
  /-- CLZ (R133). Count of leading zeros. -/
  | clz (k : Nat) (d a b : BitVec 5)
  /-- CTZ (R133). Count of trailing zeros. -/
  | ctz (k : Nat) (d a b : BitVec 5)
  /-- POPC (R133). Count of 1 bits. -/
  | popc (k : Nat) (d a b : BitVec 5)
  /-- BSWAP (R133). Byte order reversed. -/
  | bswap (k : Nat) (d a b : BitVec 5)
  /-- ADDI (R134). Add immediate. -/
  | addi (k : Nat) (d a : BitVec 5) (imm : BitVec 16)
  /-- ANDI (R134). AND with a zero-extended immediate. -/
  | andi (k : Nat) (d a : BitVec 5) (imm : BitVec 16)
  /-- ORI (R134). OR with a zero-extended immediate. -/
  | ori (k : Nat) (d a : BitVec 5) (imm : BitVec 16)
  /-- XORI (R134). XOR with a zero-extended immediate. -/
  | xori (k : Nat) (d a : BitVec 5) (imm : BitVec 16)
  /-- SHLI (R134). Shift left by an immediate. -/
  | shli (k : Nat) (d a : BitVec 5) (imm : BitVec 16)
  /-- SHRI (R134). Logical shift right by an immediate. -/
  | shri (k : Nat) (d a : BitVec 5) (imm : BitVec 16)
  /-- SARI (R134). Arithmetic shift right by an immediate. -/
  | sari (k : Nat) (d a : BitVec 5) (imm : BitVec 16)
  /-- SLTI (R134). Signed compare with an immediate. -/
  | slti (k : Nat) (d a : BitVec 5) (imm : BitVec 16)
  /-- SLTIU (R134). Unsigned compare with a sign-extended immediate. -/
  | sltiu (k : Nat) (d a : BitVec 5) (imm : BitVec 16)
  /-- MOVW (R134). Moves or inserts a 16-bit immediate at halfword HW. -/
  | movw (k : Nat) (d : BitVec 5) (hw : BitVec 2) (keep : BitVec 1) (z : BitVec 2) (imm : BitVec 16)
  /-- ADDPC (R134). g[D] := PC + OFF21 × 4. -/
  | addpc (k : Nat) (d : BitVec 5) (off : BitVec 21)
  /-- LDB (R136). Absolute load of a byte, zero-extended. -/
  | ldb (k : Nat) (d a : BitVec 5) (imm : BitVec 16)
  /-- LDH (R136). Absolute load of 2 bytes, zero-extended. -/
  | ldh (k : Nat) (d a : BitVec 5) (imm : BitVec 16)
  /-- LDW (R136). Absolute load of 4 bytes, zero-extended. -/
  | ldw (k : Nat) (d a : BitVec 5) (imm : BitVec 16)
  /-- LDD (R136). Absolute load of 8 bytes. -/
  | ldd (k : Nat) (d a : BitVec 5) (imm : BitVec 16)
  /-- LDBS (R136). Absolute load of a byte, sign-extended. -/
  | ldbs (k : Nat) (d a : BitVec 5) (imm : BitVec 16)
  /-- LDHS (R136). Absolute load of 2 bytes, sign-extended. -/
  | ldhs (k : Nat) (d a : BitVec 5) (imm : BitVec 16)
  /-- LDWS (R136). Absolute load of 4 bytes, sign-extended. -/
  | ldws (k : Nat) (d a : BitVec 5) (imm : BitVec 16)
  /-- STB (R136). Absolute store of a byte. -/
  | stb (k : Nat) (d a : BitVec 5) (imm : BitVec 16)
  /-- STH (R136). Absolute store of 2 bytes. -/
  | sth (k : Nat) (d a : BitVec 5) (imm : BitVec 16)
  /-- STW (R136). Absolute store of 4 bytes. -/
  | stw (k : Nat) (d a : BitVec 5) (imm : BitVec 16)
  /-- STD (R136). Absolute store of 8 bytes. -/
  | std (k : Nat) (d a : BitVec 5) (imm : BitVec 16)
  /-- WLD (R136). Wide load of 64 bytes. -/
  | wld (k : Nat) (d a : BitVec 5) (imm : BitVec 16)
  /-- WST (R136). Wide store of 64 bytes. -/
  | wst (k : Nat) (d a : BitVec 5) (imm : BitVec 16)
  /-- LOAD_DATA_RETURN (R138). A load's data arrives and is written to its destination, or raises MEMFAULT when uncorrectable. -/
  | loadDataReturn (k : Nat) (ext : List (BitVec 8)) (bad : Bool)
  /-- HLD (R140). Handle-checked load through a handle slot. -/
  | hld (k : Nat) (d a : BitVec 5) (h sz : BitVec 3) (sx : BitVec 1) (off : BitVec 9)
  /-- HST (R140). Handle-checked store through a handle slot. -/
  | hst (k : Nat) (d a : BitVec 5) (h sz : BitVec 3) (sx : BitVec 1) (off : BitVec 9)
  /-- AADD (R141). Atomic add. -/
  | aadd (k : Nat) (d a b : BitVec 5)
  /-- AAND (R141). Atomic AND. -/
  | aand (k : Nat) (d a b : BitVec 5)
  /-- AOR (R141). Atomic OR. -/
  | aor (k : Nat) (d a b : BitVec 5)
  /-- AXOR (R141). Atomic XOR. -/
  | axor (k : Nat) (d a b : BitVec 5)
  /-- ASWP (R141). Atomic swap. -/
  | aswp (k : Nat) (d a b : BitVec 5)
  /-- AMINU (R141). Atomic unsigned minimum. -/
  | aminu (k : Nat) (d a b : BitVec 5)
  /-- AMAXU (R141). Atomic unsigned maximum. -/
  | amaxu (k : Nat) (d a b : BitVec 5)
  /-- ACAS (R141). Atomic compare and swap. -/
  | acas (k : Nat) (d a b : BitVec 5)
  /-- FENCE (R185). Orders the selected earlier and later accesses of the strand. -/
  | fence (k : Nat) (d a b : BitVec 5) (fn : BitVec 11)
  /-- FENCE_RELEASE (R185). A fence's condition holds, and the waiting strand continues. -/
  | fenceRelease (k : Nat)
  /-- BEQ (R143). Branch if equal. -/
  | beq (k : Nat) (a b : BitVec 5) (off : BitVec 16) (predict : Option Bool)
  /-- BNE (R143). Branch if not equal. -/
  | bne (k : Nat) (a b : BitVec 5) (off : BitVec 16) (predict : Option Bool)
  /-- BLT (R143). Branch if less than, signed. -/
  | blt (k : Nat) (a b : BitVec 5) (off : BitVec 16) (predict : Option Bool)
  /-- BGE (R143). Branch if greater or equal, signed. -/
  | bge (k : Nat) (a b : BitVec 5) (off : BitVec 16) (predict : Option Bool)
  /-- BLTU (R143). Branch if less than, unsigned. -/
  | bltu (k : Nat) (a b : BitVec 5) (off : BitVec 16) (predict : Option Bool)
  /-- BGEU (R143). Branch if greater or equal, unsigned. -/
  | bgeu (k : Nat) (a b : BitVec 5) (off : BitVec 16) (predict : Option Bool)
  /-- BRANCH_RESOLVE (R202). A predicted branch resolves; held stores are performed, or the work beyond it is discarded. -/
  | branchResolve (k : Nat)
  /-- JAL (R144). Jump and link, PC-relative. -/
  | jal (k : Nat) (d : BitVec 5) (off : BitVec 21)
  /-- JALR (R144). Jump and link through a register. -/
  | jalr (k : Nat) (d a : BitVec 5) (imm : BitVec 16)
  /-- MFS (R145). Reads a state register. -/
  | mfs (k : Nat) (d a b : BitVec 5) (fn : BitVec 11)
  /-- MTS (R117). Writes the RW fields of a state register. -/
  | mts (k : Nat) (d a b : BitVec 5) (fn : BitVec 11)
  /-- ERET (R145). Returns from an exception to EPC in context ECTX. -/
  | eret (k : Nat) (d a b : BitVec 5)
  /-- DENTER (R120). Enters drill context with a valid ticket, or raises TICKET. -/
  | denter (k : Nat) (d a b : BitVec 5)
  /-- DEXIT (R126). Leaves drill context for DRET. -/
  | dexit (k : Nat) (d a b : BitVec 5)
  /-- HALT (R145). Stops the strand with RUN cleared. -/
  | halt (k : Nat) (d a b : BitVec 5)
  /-- YIELD (R145). The strand gives up its issue slot in the next step in which another context is ready. -/
  | yield (k : Nat) (d a b : BitVec 5)
  /-- IFLUSH (R145). Discards the tine's cached instructions. -/
  | iflush (k : Nat) (d a b : BitVec 5)
  /-- WCALL (R145). Raises the WCALL exception. -/
  | wcall (k : Nat) (z1 z2 : BitVec 5) (imm : BitVec 16)
  /-- BRK (R145). Raises the BREAK exception. -/
  | brk (k : Nat) (z1 z2 : BitVec 5) (imm : BitVec 16)
  /-- STALE_EXCEPTION (R127). A drill strand whose generation has become stale raises STALE at its next instruction boundary. -/
  | staleException (k : Nat)
  /-- QPUT (R149). Puts a message to a queue port, waiting for space unless TRY is set. -/
  | qput (k : Nat) (d a : BitVec 5) (port fn : BitVec 8)
  /-- QGET (R149). Takes a message from a queue port, waiting for one unless TRY is set. -/
  | qget (k : Nat) (d a : BitVec 5) (port fn : BitVec 8)
  /-- QLEN (R149). Reads the messages present or the places free at a port. -/
  | qlen (k : Nat) (d a : BitVec 5) (port fn : BitVec 8)
  /-- WAIT (R153). Waits for a ready port in a group, for a deadline, or for a time. -/
  | wait (k : Nat) (d a b : BitVec 5) (fn : BitVec 11)
  /-- QUEUE_WAIT_RESUME (R155). A waiting QPUT, QGET or WAIT finds its condition holding and resumes. -/
  | queueWaitResume (k : Nat)
  /-- WAIT_DEADLINE (R153). TIME_MONO reaches a WAIT's deadline or time, and WAIT returns. -/
  | waitDeadline (k : Nat)
  /-- WXOR (R156). Wide XOR. -/
  | wxor (k : Nat) (d a b : BitVec 5)
  /-- WMOV (R156). Wide move. -/
  | wmov (k : Nat) (d a b : BitVec 5)
  /-- WZERO (R156). Wide zero. -/
  | wzero (k : Nat) (d a b : BitVec 5)
  /-- GFMAC (R156). GF(2⁸) multiply-accumulate on each byte. -/
  | gfmac (k : Nat) (d a b : BitVec 5)
  /-- GFMUL (R156). GF(2⁸) multiply of each byte. -/
  | gfmul (k : Nat) (d a b : BitVec 5)
  /-- WGET (R156). Reads one 64-bit lane of a wide register. -/
  | wget (k : Nat) (d a b : BitVec 5)
  /-- WPUT (R156). Writes one 64-bit lane of a wide register. -/
  | wput (k : Nat) (d a b : BitVec 5)
  /-- GFINV (R156). GF(2⁸) inverse. -/
  | gfinv (k : Nat) (d a b : BitVec 5)
  /-- GFMULS (R156). Scalar GF(2⁸) multiply. -/
  | gfmuls (k : Nat) (d a b : BitVec 5)
  /-- HS256I (R157). Loads the SHA-256 initial hash value. -/
  | hs256i (k : Nat) (d a b : BitVec 5)
  /-- HS256 (R157). One SHA-256 compression. -/
  | hs256 (k : Nat) (d a b : BitVec 5)
  /-- KECCAK (R158). Keccak-f[1600] over four wide registers. -/
  | keccak (k : Nat) (d a b : BitVec 5)
  /-- WCMP (R156). Compares 32 bytes of two wide registers. -/
  | wcmp (k : Nat) (d a b : BitVec 5)
  /-- STRAND_RUN (R170). A write of RUN = 1 starts the strand at TINE_STRAND_PC. -/
  | strandRun (master k size : Nat) (value : BitVec 64)
  /-- STRAND_STOP (R171). A write of RUN = 0 stops the strand; waiting instructions are left to execute again. -/
  | strandStop (master k size : Nat) (value : BitVec 64)
  /-- STRAND_STEP (R169). RUN with STEP retires one instruction or takes one exception, and then clears RUN. -/
  | strandStep (master k size : Nat) (value : BitVec 64)
  /-- STRAND_STOPPED (R171). The stopping strand's issued instructions complete, and STOPPED reads 1. -/
  | strandStopped (k : Nat)
  /-- TINE_FAIL (R176). The fault collector declares a tine failed, and its strands are redispatched to spare contexts. -/
  | tineFail (t : Nat) (readable : List Bool)
  /-- SPEC_CLR_DEVICE (R217). The eight DEVICE_SPEC counters become 0. -/
  | specClrDevice (master size : Nat)
  /-- SPEC_CLR_TINES (R217). Every strand's speculation counters become 0. -/
  | specClrTines (master size : Nat)
  /-- SQ_DOORBELL (R310). A write of a submission ring's tail doorbell, which starts a fetch read when needed. -/
  | sqDoorbell (f n : Nat) (value : BitVec 64)
  /-- RING_FETCH_RETURN (R207). A ring fetch returns; entries with OWN set are confirmed, and the others are discarded. -/
  | ringFetchReturn (g : Nat) (data : List (BitVec 8))
  /-- RING_FETCH_FAIL (R206). A ring fetch read fails at the host; a prefetch is discarded, and any other is a failed host request. -/
  | ringFetchFail (g err : Nat)
  /-- DRILL_GAP_EXPIRE (R221). The drill gap passes with no further entry, and the open drill is rejected INCOMPLETE. -/
  | drillGapExpire (g : Nat)
  /-- DRILL_DISPATCH (R317). A dispatch queue with space runs arbitration and dispatches whole drills. -/
  | drillDispatch (q k : Nat)
  /-- NOP (R232). Work entry that completes SUCCESS. -/
  | nop (r i : Nat)
  /-- CODE (R238). Carries drill code instructions. -/
  | code (r i : Nat)
  /-- RUN (R239). Stages buffers and runs the drill's code in drill context, then copies back. -/
  | run (r i k : Nat) (stage : List Nat) (data : List (List (BitVec 8)))
  /-- SOW_OPEN (R379). Opens a sowing session and issues a new object ID. -/
  | sowOpen (r i : Nat)
  /-- SOW_WRITE (R405). Sows bytes from a host buffer into the session at the frontier. -/
  | sowWrite (r i : Nat) (data : List (BitVec 8)) (place : List (Nat × Nat × Nat))
  /-- SOW_SEAL (R423). Checks the length and begins sealing the session's object. -/
  | sowSeal (r i : Nat) (place : List (Nat × Nat × Nat))
  /-- SOW_DROP (R400). Closes the session without sealing. -/
  | sowDrop (r i : Nat)
  /-- GLEAN_READ (R519). Reads verified plaintext of an object into a host buffer. -/
  | gleanRead (r i : Nat) (ledger : LedgerRead) (descs : List (List (BitVec 8)))
  /-- OBJ_STAT (R233). Writes an object's seal record to a host buffer. -/
  | objStat (r i : Nat) (ledger : LedgerRead)
  /-- LEDGER_READ (R236). Writes a run of durable ledger records to a host buffer. -/
  | ledgerRead (r i : Nat) (ledger : List (List (BitVec 8)))
  /-- FIXITY (R542). Verifies every position of an object, writes a fixity report, and appends a FIXITY record. -/
  | fixity (r i : Nat) (ledger : LedgerRead) (descs : List (List (BitVec 8))) (rows : List (Nat × List (BitVec 8)))
  /-- REPAIR (R529). Rebuilds and rewrites an object's failed positions, and appends a REPAIR record. -/
  | repair (r i : Nat) (ledger : LedgerRead) (descs : List (List (BitVec 8)))
  /-- SELFTEST (R342). Runs a short or extended self-test. -/
  | selftest (r i checks bad n : Nat) (plots : List Nat)
  /-- SELFTEST_RESUME (R342). 1 ms with no conflicting drill passes, and a paused self-test resumes. -/
  | selftestResume (r n : Nat)
  /-- ABORT (R337). Aborts confirmed, undispatched drills that hold the target tag. -/
  | abort (r : Nat)
  /-- COMPLETION_MESSAGE (R322). Firmware puts a completion message to the ring engine, which matches it to a dispatched drill. -/
  | completionMessage
  /-- CQ_ENTRY_WRITE (R325). A held completion entry is written once its completion ring can take it. -/
  | cqEntryWrite (g : Nat)
  /-- CQ_DOORBELL (R327). A write of a completion ring's head doorbell, which ends FULL. -/
  | cqDoorbell (f n : Nat) (value : BitVec 64)
  /-- CQ_COAL_TIMER (R329). COAL_TIME passes after the oldest unsignalled entry, and the vector's message is sent. -/
  | cqCoalTimer (g : Nat)
  /-- SQ_RUN (R307). A write of RUN = 1 starts a submission ring, or takes it to CONFIG or HALTED. -/
  | sqRun (master g size half : Nat) (value : BitVec 64)
  /-- SQ_STOP (R305). A write of RUN = 0 takes a ring to STOPPING or STOPPED. -/
  | sqStop (master g size half : Nat) (value : BitVec 64)
  /-- CQ_RUN (R309). A write of RUN = 1 or 0 to a completion ring, which may set or clear CONFIG. -/
  | cqRun (master g size half : Nat) (value : BitVec 64)
  /-- RESTART_SKIP (R334). A FROZEN ring writes its held completions and dispatches its held drills from the entry after each failure. -/
  | restartSkip (master g size : Nat)
  /-- RESTART_RETRY (R334). A FROZEN ring discards its held completions and dispatches its held drills from each failing entry. -/
  | restartRetry (master g size : Nat)
  /-- RESTART_RESUME (R334). A HALTED ring rewrites its dropped OWN clears and resumes. -/
  | restartResume (master g size : Nat)
  /-- ERRLOG_ACK_WRITE (R333). The host acknowledges error log entries. -/
  | errlogAckWrite (f size half : Nat) (value : BitVec 64)
  /-- PERST_ASSERT (R280). PERST_N[l] is asserted, and every function of the link undergoes the effects of an FLR; `cold` where the host removed the link's power or reference clock first (R289). -/
  | perstAssert (l : Nat) (cold : Bool)
  /-- PERST_DEASSERT (R282). PERST_N[l] deasserts, and the link trains and answers within 80 ms. -/
  | perstDeassert (l : Nat)
  /-- HOT_RESET (R280). A hot reset of a host link resets its functions. -/
  | hotReset (l : Nat)
  /-- HOST_LINK_DOWN (R280). A host link goes down, its functions are reset, and retraining begins; `l2` where it goes to L2. -/
  | hostLinkDown (l : Nat) (l2 : Bool)
  /-- HOST_LINK_UP (R282). A host link completes training and answers configuration requests, or passes between L0, L0p, recovery and L1: `state` is HOST_LINK_STATUS.STATE. -/
  | hostLinkUp (l state rate lanes : Nat)
  /-- FLR (R277). An FLR increments the generation and starts the reset of the function. -/
  | flr (f : Nat)
  /-- FLR_SILENCED (R277). By 2 µs the function issues no request, and its apertures are invalidated. -/
  | flrSilenced (f : Nat)
  /-- FLR_COMPLETE (R277). By 10 ms the function's state is reset and stale work is discarded. -/
  | flrComplete (f : Nat)
  /-- BME_CLEAR (R283). Bus Master Enable is cleared; requests stop, and the function's rings halt. -/
  | bmeClear (f : Nat)
  /-- BME_SET (R285). Bus Master Enable is set; requests are allowed, and nothing restarts. -/
  | bmeSet (f : Nat)
  /-- D3HOT_ENTER (R287). A function enters D3hot and is silenced. -/
  | d3hotEnter (f : Nat)
  /-- D0_RETURN (R288). A function returns to D0, keeping its settings. -/
  | d0Return (f : Nat)
  /-- VF_ENABLE_SET (R257). VF Enable is set, and NumVFs VFs come into being. -/
  | vfEnableSet (p : Nat)
  /-- VF_ENABLE_CLEAR (R257). VF Enable is cleared; the VFs cease to exist and are reset. -/
  | vfEnableClear (p : Nat)
  /-- NUMVFS_WRITE (R257). NumVFs takes a value only while VF Enable is 0. -/
  | numvfsWrite (p n : Nat)
  /-- BUF_SLOT_WRITE (R266). A write of FN_BUF_SLOT loads the buffer window with that slot's entry. -/
  | bufSlotWrite (f size half : Nat) (value : BitVec 64)
  /-- BUF_ATTR_COMMIT (R267). A write of FN_BUF_ATTR commits the whole buffer table entry, or is refused with BUF_REJECT. -/
  | bufAttrCommit (f size half : Nat) (value : BitVec 64)
  /-- BAR_HOLE_ACCESS (R263). A host access to a BAR hole completes normally and sets BAR_HOLE. -/
  | barHoleAccess (f : Nat)
  /-- ATS_INVALIDATE (R272). An Invalidate Request stops the use of matching translations. -/
  | atsInvalidate (f : Nat) (pasid : Option Nat) (lo hi itag : Nat)
  /-- ATS_INVALIDATE_DONE (R272). Matching requests have drained, and the Invalidate Completion is sent. -/
  | atsInvalidateDone
  /-- HOST_CPL_TIMEOUT (R273). A host read completion times out, and its work item ends HOST_TIMEOUT. -/
  | hostCplTimeout (kind a b moved : Nat)
  /-- HOST_CPL_ERROR (R273). A host request is refused or returns poisoned, and its work item ends HOST_ABORT. -/
  | hostCplError (kind a b moved err : Nat)
  /-- MSIX_UNMASK (R276). A vector is unmasked; its address and data are taken up, and pending messages are sent. -/
  | msixUnmask (f v : Nat)
  /-- FREEZE (R371). A write of FREEZE = 1 stops confirmation of new drills and ends waiting SOW_WRITEs. -/
  | freeze (master f size half : Nat) (value : BitVec 64)
  /-- THAW (R375). A write of FREEZE = 0 lets a frozen function run, unless SAVED is 1. -/
  | thaw (master f size half : Nat) (value : BitVec 64)
  /-- SAVE (R374). Writes the tenant state record of a frozen function and sets SAVED. -/
  | save (master size half : Nat) (value : BitVec 64) (newest : List (BitVec 8))
  /-- RESTORE (R375). Checks a tenant state record and installs it into a frozen target function. -/
  | restore (master size half : Nat) (value : BitVec 64)
  /-- MB_HOST_SEND (R366). The host sets FULL in the host-to-manager box. -/
  | mbHostSend (f : Nat) (header : BitVec 64) (payload : List (BitVec 8))
  /-- MB_NOTICE_DELIVER (R366). A held mailbox notice reaches MB_STRAND's mailbox once it has space. -/
  | mbNoticeDeliver
  /-- MB_RAISE (R368). The manager signals a reply, which raises vector 0 or is discarded as stale. -/
  | mbRaise (master size : Nat) (value : BitVec 64)
  /-- MB_HOST_FREE (R369). The host frees the manager-to-host box. -/
  | mbHostFree (f : Nat) (header : BitVec 64)
  /-- GRAIN_BUFFER_GRANT (R354). A waiting request receives a freed grain buffer. -/
  | grainBufferGrant (place : List (Nat × Nat × Nat))
  /-- SOW_EPOCH_WRITE (R382). A write to DEVICE_SOW_EPOCH, allowed only while LOCK is 0. -/
  | sowEpochWrite (master size half : Nat) (value : BitVec 64)
  /-- SOW_NEXT_WRITE (R384). A write to DEVICE_SOW_NEXT; when DRY is set, the epoch switches at once. -/
  | sowNextWrite (master size half : Nat) (value : BitVec 64)
  /-- DRY_OPEN_RESUME (R383). SOW_OPENs waiting while DRY issue IDs in order once the epoch switches. -/
  | dryOpenResume
  /-- PROFILE_WRITE (R393). A write to DEVICE_PROFILE, discarded whole when the shape is invalid. -/
  | profileWrite (master n size half : Nat) (value : BitVec 64)
  /-- SESSION_EXPIRE (R402). A session's idle time reaches IDLE, and the session expires. -/
  | sessionExpire (f slot : Nat)
  /-- FRONTIER_WRITE_RESUME (R407). F reaches a waiting SOW_WRITE's OBJ_OFFSET, and the write proceeds. -/
  | frontierWriteResume (r i : Nat) (data : List (BitVec 8)) (place : List (Nat × Nat × Nat))
  /-- PEER_GRAIN_RECEIVE (R420). A peer receives a grain row and writes it as received. -/
  | peerGrainReceive (node target row : Nat) (data : List (BitVec 8))
  /-- PEER_DURABLE_REPORT (R420). A peer's durable report arrives, and its grain is on media. -/
  | peerDurableReport (node target row : Nat) (ok : Bool) (alt : Option (Nat × Nat × Nat))
  /-- SEAL_FULL_REDUNDANCY (R423). Every sheaf is on media; the seal completes the tally and builds and MACs its record. -/
  | sealFullRedundancy (f slot : Nat) (place : List (Nat × Nat × Nat))
  /-- LEDGER_RECORD_APPEND (R425). The ledger home receives a record, assigns its sequence and chains it. -/
  | ledgerRecordAppend (tenant : Nat) (peer : Option (Nat × List (BitVec 8))) (place : List (Nat × Nat × Nat))
  /-- LEDGER_HOME_REPORT (R425). The ledger home reports a record durable, and the seal writes B and completes. -/
  | ledgerHomeReport (tenant : Nat) (remote : Option (Nat × List (BitVec 8))) (place : List (Nat × Nat × Nat))
  /-- INIT (R451). Fold command that claims an SCX and zeroes its accumulator. -/
  | init (p u : Nat)
  /-- FOLD (R452). Fold command that hashes a data grain and adds it into the parity. -/
  | fold (p u : Nat)
  /-- CLOSE (R453). Fold command that writes the parity and its digests and closes the SCX. -/
  | close (p u : Nat)
  /-- HASH (R444). Fold command that hashes a range of bytes. -/
  | hash (p u : Nat)
  /-- TALLY_APPEND (R457). Fold command that appends leaves to a TSB. -/
  | tallyAppend (p u : Nat)
  /-- TALLY_FINAL (R458). Fold command that returns the tally of a TSB. -/
  | tallyFinal (p u : Nat)
  /-- VERIFY (R460). Fold command that verifies a grain and releases or discards its release entry. -/
  | verify (p u : Nat)
  /-- RECON (R463). Fold command that reconstructs targets under R438 and writes those that verify. -/
  | recon (p u : Nat)
  /-- TSB_LOCK_FREE (R457). A TSB lock is released, and a waiting unit takes it. -/
  | tsbLockFree (p u : Nat)
  /-- FOLD_CHAIN_UNIT_READY (R503). A chained unit is marked written, and a waiting fold command reads it. -/
  | foldChainUnitReady (p u : Nat)
  /-- FOLD_UNIT_FAIL (R467). A fold unit is declared failed and becomes fallow. -/
  | foldUnitFail (p u : Nat)
  /-- FOLD_CLR (R469). Clears the fold unit's counters. -/
  | foldClr (master p u size : Nat) (value : BitVec 64)
  /-- DERIVE (R489). Vault places a derived XTS key in a plot key slot. -/
  | derive
  /-- MAC (R489). Vault computes HMAC-SHA-256 under a derived key. -/
  | mac
  /-- MAC_CHECK (R489). Vault computes a MAC and compares it. -/
  | macCheck
  /-- EXPORT_EK (R489). Vault writes the encapsulation key. -/
  | exportEk
  /-- PROVISION (R484). Vault decapsulates and unwraps a bundle, and installs the root. -/
  | provision
  /-- LOAD_ROOT (R485). Vault installs the root from a flash record. -/
  | loadRoot
  /-- CLEAR_ROOT (R486). Vault removes the root and empties the cache and key slots. -/
  | clearRoot
  /-- FLUSH (R489). Vault removes key cache entries. -/
  | flush
  /-- VAULT_CLR (R514). Clears the vault counters. -/
  | vaultClr (master size : Nat) (value : BitVec 64)
  /-- XTS_ENC (R497). Cipher command that encrypts units under XTS-AES-256. -/
  | xtsEnc (p : Nat) (ext : List (BitVec 8))
  /-- XTS_DEC (R505). Cipher command that decrypts units, optionally into a release entry. -/
  | xtsDec (p : Nat) (ext : List (BitVec 8))
  /-- AES_ENC (R497). Cipher command that applies raw AES encryption to each block. -/
  | aesEnc (p : Nat) (ext : List (BitVec 8))
  /-- AES_DEC (R497). Cipher command that applies raw AES decryption to each block. -/
  | aesDec (p : Nat) (ext : List (BitVec 8))
  /-- G2_ENC (R479). Cipher command that encrypts in generation-2 mode. -/
  | g2Enc (p : Nat) (ext : List (BitVec 8))
  /-- G2_DEC (R479). Cipher command that decrypts in generation-2 mode. -/
  | g2Dec (p : Nat) (ext : List (BitVec 8))
  /-- LOAD_PLAIN (R496). Cipher command that loads a PLAIN key into a slot. -/
  | loadPlain (p : Nat) (ext : List (BitVec 8))
  /-- SLOT_CLEAR (R497). Cipher command that empties a key slot. -/
  | slotClear (p : Nat)
  /-- DISCARD (R507). Cipher command that discards a release entry. -/
  | discard (p : Nat)
  /-- CHAIN_UNIT_WRITTEN (R502). A unit's ciphertext is performed and marked written in its chain entry. -/
  | chainUnitWritten (p : Nat) (ext : List (BitVec 8))
  /-- RELEASE_ENTRY_FREE (R505). A release entry frees, and a decryption waiting for one takes it. -/
  | releaseEntryFree (p : Nat) (ext : List (BitVec 8))
  /-- CIPHER_CORE_FAIL (R512). A cipher core is declared failed, and its units are rerun elsewhere. -/
  | cipherCoreFail (p core : Nat)
  /-- CIPHER_CLR (R515). Clears the cipher counters. -/
  | cipherClr (master p size : Nat) (value : BitVec 64)
  /-- GLEAN_FETCH_ARRIVE (R519). A fetched row arrives; its header is checked, and it is decrypted and verified. -/
  | gleanFetchArrive (r sheaf pos : Nat) (data : List (BitVec 8))
  /-- GLEAN_FETCH_TIMEOUT (R520). FETCH_TO passes without a reply, and the grain becomes missing. -/
  | gleanFetchTimeout (r sheaf pos : Nat)
  /-- HEDGE_THRESHOLD (R521). A fetch passes HEDGE µs, and a reconstruction starts for the slow grain. -/
  | hedgeThreshold (r sheaf pos : Nat)
  /-- SURVIVOR_ARRIVE (R523). A survivor arrives and is verified before use, and RECON is sent once solvable. -/
  | survivorArrive (r sheaf pos : Nat) (data : List (BitVec 8))
  /-- REPAIR_LOCK_GRANT (R532). The ledger home grants the object's repair lock to a waiting repair. -/
  | repairLockGrant (obj : Nat) (rows : List (Nat × List (BitVec 8))) (place : List (Nat × Nat × Nat)) (copies : List (Nat × Nat × Nat × Nat))
  /-- OLD_ROW_FREE (R530). FETCH_TO after a durable descriptor change, the replaced row is freed. -/
  | oldRowFree
  /-- HARROW_READ_ISSUE (R538). A quiet target within budget receives the next harrowing read. -/
  | harrowReadIssue (t row : Nat)
  /-- HARROW_READ_DONE (R535). A harrowed row is verified, freed or skipped, and a failure is repaired and recorded. -/
  | harrowReadDone (t : Nat) (listed last : Bool) (data : List (BitVec 8)) (ledger : LedgerRead) (descs : List (List (BitVec 8)))
  /-- HARROW_STATE_RECORD (R539). At least every 60 s, harrowing records its sweep position in a state record. -/
  | harrowStateRecord (t : Nat)
  /-- LEDGER_CHECK (R540). Once per pass, the ledger home checks each ledger's chain and MACs. -/
  | ledgerCheck (tenant : Nat)
  /-- GLEAN_CLR (R550). Clears the gleaning counters. -/
  | gleanClr (master size : Nat) (value : BitVec 64)
  /-- HARROW_CLR (R550). Clears the harrowing counters. -/
  | harrowClr (master size : Nat) (value : BitVec 64)
  /-- STORAGE_PORT_UP (R595). A storage port completes training. -/
  | storagePortUp (n rate lanes : Nat) (l0p : Bool)
  /-- STORAGE_PORT_DOWN (R600). A storage port goes down; its targets leave PRESENT, and their commands end TARGET_DOWN. -/
  | storagePortDown (n : Nat) (alts : List (Nat × Nat × Nat))
  /-- PORT_HOT_RESET (R631). HOTRST sends a hot reset on a storage port. -/
  | portHotReset (master n size half : Nat) (value : BitVec 64)
  /-- CFG_REQUEST (R599). A write to STORAGE_CFG_CMD starts a configuration request below a port. -/
  | cfgRequest (master size half : Nat) (value : BitVec 64)
  /-- CFG_COMPLETE (R599). A configuration request completes, and BUSY clears, with ERR set on failure. -/
  | cfgComplete (err : Bool) (data : Nat)
  /-- CFG_TIMEOUT (R599). 1 s passes without a good completion, and ERR is set. -/
  | cfgTimeout
  /-- INBOUND_REQUEST (R596). An inbound request from a storage device is performed through a window, or refused. -/
  | inboundRequest (n addr len : Nat) (write : Bool) (data : List (BitVec 8))
  /-- CQ_WAKE (R603). An inbound write into a completion queue wakes the queue engine to take entries. -/
  | cqWake (r : Nat) (notes : List (Option (Nat × Nat × Nat) × List (BitVec 8)))
  /-- NVME_TIMEOUT (R607). CMD_TO passes without a completion, and the command ends NVME_TIMEOUT. -/
  | nvmeTimeout (r cid : Nat) (alt : Option (Nat × Nat × Nat))
  /-- STORAGE_CPL_TIMEOUT (R598). A non-posted storage-window request exceeds CPL_TO. -/
  | storageCplTimeout (kind a b moved : Nat)
  /-- QP_STOP (R608). RUN = 0 ends waiting submissions QP_STOPPED. -/
  | qpStop (master r size half : Nat) (value : BitVec 64)
  /-- DMA_GO (R609). A QPUT or a GO write loads the shadow set. -/
  | dmaGo (master p c size half : Nat) (value : BitVec 64)
  /-- DMA_PROMOTE (R611). An idle channel promotes a loaded shadow set to active. -/
  | dmaPromote (p c : Nat)
  /-- COPY (R613). DMA descriptor that moves bytes between regions. -/
  | copy (p c : Nat) (ext : List (BitVec 8))
  /-- NVME (R614). DMA descriptor that submits an NVMe command and awaits its completion. -/
  | nvme (p c : Nat) (ext : List (BitVec 8))
  /-- DMA_BUS_ERROR (R616). A bus error reruns the descriptor, or halts the channel. -/
  | dmaBusError (p c moved : Nat) (hub : Bool)
  /-- DMA_RETRY (R617). ACTION RETRY reruns a halted descriptor. -/
  | dmaRetry (master p c size : Nat)
  /-- DMA_DROP (R617). ACTION DROP discards a halted descriptor. -/
  | dmaDrop (master p c size : Nat)
  /-- BUFM_ALLOC (R625). A read that allocates one cell. -/
  | bufmAlloc (master p size : Nat)
  /-- BUFM_FREE (R626). Frees a cell owned by the writer, or records an event. -/
  | bufmFree (master p size : Nat) (value : BitVec 64)
  /-- BUFM_GIVE (R626). Gives a cell to a new owner. -/
  | bufmGive (master p size : Nat) (value : BitVec 64)
  /-- BUFM_RECLAIM (R627). Frees every cell of an owner tag. -/
  | bufmReclaim (master p size : Nat) (value : BitVec 64)
  /-- BUFM_DISABLE (R628). EN = 0 frees every cell. -/
  | bufmDisable (master p size half : Nat) (value : BitVec 64)
  /-- NET_LINK_UP (R637). A network port's link comes up. -/
  | netLinkUp (n : Nat)
  /-- NET_LINK_DOWN (R692). A network port leaves up; bridge entries are removed, and routed frames are rerouted. -/
  | netLinkDown (n st : Nat) (part : List (BitVec 8)) (cut : List Nat)
  /-- PORT_STOP (R640). RUN = 0 stops a network port. -/
  | portStop (master n size half : Nat) (value : BitVec 64) (part : List (BitVec 8)) (cut : List Nat)
  /-- RX_FRAME (R649). A frame is received, parsed, classified, policed and decided. -/
  | rxFrame (n : Nat) (l : List (BitVec 8)) (whole : Bool) (cut flaws : List Nat) (lost : List (Nat × Nat))
  /-- PFC_REFRESH (R642). Every REFRESH × 100 ns, a paused priority's PFC frame is repeated. -/
  | pfcRefresh (n : Nat)
  /-- PFC_RECEIVE (R644). A received PFC frame pauses or resumes priorities. -/
  | pfcReceive (n enable : Nat) (quanta : List Nat)
  /-- PFC_PAUSE_EXPIRE (R644). A pause's quanta elapse, and the priority resumes. -/
  | pfcPauseExpire (n i : Nat)
  /-- PARSE_CELL_RUN (R654). An idle cell takes a waiting frame and runs the parse program. -/
  | parseCellRun (p : Nat)
  /-- PARSE_SWAP (R659). Swaps the parse code banks. -/
  | parseSwap (master p size : Nat) (value : BitVec 64)
  /-- CLS_SWAP (R665). Swaps the rule banks. -/
  | clsSwap (master p size : Nat) (value : BitVec 64)
  /-- RULE_VALID_WRITE (R664). A write of VALID to a rule row, with the HITS reset. -/
  | ruleValidWrite (master p b r : Nat) (valid : Bool)
  /-- DQ_FRAME_DELIVER (R668). A frame is written to a delivery queue slot, and the strand is notified. -/
  | dqFrameDeliver (p q : Nat)
  /-- FRAME_ADMIT (R680). A waiting frame is admitted to an output buffer. -/
  | frameAdmit (n i : Nat)
  /-- FRAME_TRANSMIT (R707). A port picks and starts its next frame. -/
  | frameTransmit (n : Nat)
  /-- FRAME_TX_DONE (R675). A frame's transmission ends; its cells are freed, and its ingress account falls. -/
  | frameTxDone (n : Nat)
  /-- MESH_ANNOUNCE (R686). On link up and every 1 ms, an announce is sent on each mesh port. -/
  | meshAnnounce (n : Nat)
  /-- MESH_ANNOUNCE_RX (R686). A received announce pins the bridge entry and sets PEER_NODE. -/
  | meshAnnounceRx (n : Nat) (smac : List (BitVec 8)) (node : Nat)
  /-- BRIDGE_AGE (R687). Entries not refreshed for AGE seconds are removed. -/
  | bridgeAge
  /-- ROUTE_HOLDOFF_EXPIRE (R689). A port up for HOLDOFF ms sets ROUTE_UP. -/
  | routeHoldoffExpire (n : Nat)
  /-- PORT_FLUSH (R703). FLUSH discards a port's queued frames. -/
  | portFlush (master n size half : Nat) (value : BitVec 64)
  /-- TABLE_READ (R696). Reads a table entry. -/
  | tableRead (master t i : Nat) (bad : Bool)
  /-- TABLE_WRITE (R696). Writes a table entry. -/
  | tableWrite (master t i : Nat)
  /-- TABLE_INSERT (R696). Inserts an entry, possibly evicting. -/
  | tableInsert (master t : Nat)
  /-- TABLE_DELETE (R696). Deletes an entry by key. -/
  | tableDelete (master t : Nat)
  /-- TABLE_LOOKUP (R696). Looks up an entry by key. -/
  | tableLookup (master t : Nat) (bad : Bool)
  /-- PLC_START (R704). EN = 1 invalidates every placement cache entry. -/
  | plcStart (master size half : Nat) (value : BitVec 64)
  /-- SW_CLR (R703). Clears the switch counters. -/
  | swClr (master size : Nat) (value : BitVec 64)
  /-- POLICER_CONFIG (R715). A write of SCHED_POL_CFG sets T to BURST. -/
  | policerConfig (master p k size half : Nat) (value : BitVec 64)
  /-- RESV_ADMIT (R718). Admits a reservation, or refuses it OVER_COMMIT. -/
  | resvAdmit (master cls func rate : Nat)
  /-- RESV_RELEASE (R726). Releases a reservation slot. -/
  | resvRelease (master slot : Nat)
  /-- QUEUE_SAMPLE (R721). Every PERIOD µs, each queue's depth and delay are sampled. -/
  | queueSample (n : Nat)
  /-- TRD_WRITE (R738). Send command that writes to a remote reach space. -/
  | trdWrite (p : Nat)
  /-- TRD_READ (R738). Send command that reads from a remote reach space. -/
  | trdRead (p : Nat)
  /-- TRD_SEND (R738). Send command that places a message in a remote receive ring. -/
  | trdSend (p : Nat)
  /-- TRD_PACKET_RX (R745). A sequenced TRD packet is checked against its PET entry and accepted, discarded or NAKed. -/
  | trdPacketRx (p : Nat) (host : Option (List (BitVec 8)))
  /-- ACK_TRANSMIT (R746). An owed ACK is sent within 2 µs. -/
  | ackTransmit (node splot dplot cls : Nat)
  /-- ACK (R742). A received ACK advances UNA and ends commands. -/
  | ack (p : Nat)
  /-- NAK_SEQ (R742). Retransmits from APSN + 1. -/
  | nakSeq (p : Nat)
  /-- NAK_SYNC (R742). Clears SYNCED and retransmits with SYNC. -/
  | nakSync (p : Nat)
  /-- NAK_ACCESS (R742). The command ends REMOTE_ACCESS. -/
  | nakAccess (p : Nat)
  /-- NAK_HOST (R742). The command ends REMOTE_HOST. -/
  | nakHost (p : Nat)
  /-- NAK_RNR (R742). Waits RNR_DELAY before retransmitting. -/
  | nakRnr (p : Nat)
  /-- NAK_MSG (R742). The command ends REMOTE_MSG. -/
  | nakMsg (p : Nat)
  /-- RNR_DELAY_EXPIRE (R742). After RNR_DELAY, the sender retransmits. -/
  | rnrDelayExpire (node splot dplot cls : Nat)
  /-- RETX_TIMEOUT (R741). The retransmit timer expires; the window is retransmitted, or the peer is lost. -/
  | retxTimeout (node splot dplot cls : Nat) (alts : List (Nat × Nat × Nat))
  /-- SWC_WAIT_RESUME (R754). An unpinned SWC entry lets the oldest waiting command insert. -/
  | swcWaitResume (p : Nat)
  /-- TRD_CLR (R758). Clears the TRD counters. -/
  | trdClr (master size : Nat) (value : BitVec 64)
  /-- FAULT_REPORT (R764). The collector writes a fault record or coalesces it. -/
  | faultReport (unit : Nat)
  /-- FAULT_QUEUE_DRAIN (R769). A held report enters the collector once its queue has room. -/
  | faultQueueDrain (unit : Nat)
  /-- COALESCE_WINDOW_CLOSE (R768). A 1 ms window closes with a count, and a REPEAT record is written. -/
  | coalesceWindowClose
  /-- FATAL_DETECT (R772). A class F fault drives the device into the safe state within 2 µs. -/
  | fatalDetect (code unit : Nat)
  /-- HBM_PC_FAIL (R777). A failed pseudo-channel is mapped to a spare and copied, or raises a fatal fault. -/
  | hbmPcFail (stack pc : Nat) (badLines : List Nat)
  /-- FAULT_RING_ACK_WRITE (R766). Acknowledges fault records. -/
  | faultRingAckWrite (master size half : Nat) (value : BitVec 64)
  /-- FAULT_CLR (R783). Clears the fault counters. -/
  | faultClr (master size : Nat) (value : BitVec 64)
  /-- FAULT_FORCE (R775). Declares fatal fault 0x0F08. -/
  | faultForce (master size : Nat) (value : BitVec 64)
  /-- FAULT_FATAL_CLR (R774). Clears the retained fatal record. -/
  | faultFatalClr (master size : Nat) (value : BitVec 64)
  /-- FAULT_INJECT (R781). Injects a fault when INJ_AVAIL is 1. -/
  | faultInject (master size half : Nat) (value : BitVec 64)
  /-- BOOT_PUSH (R788). Copies a pushed image chunk to IMAGE_BASE. -/
  | bootPush (off len : Nat)
  /-- BOOT_RELEASE (R789). Verifies the pushed image and releases it. -/
  | bootRelease
  /-- BOOT_FLASH (R785). Ends the push wait. -/
  | bootFlash
  /-- PUSH_WAIT_EXPIRE (R785). The 2 s push wait ends, and the flash slot is released. -/
  | pushWaitExpire (readBad tryBad : Bool)
  /-- PUSH_STALL (R786). A push without a command for 2 s is abandoned STALLED. -/
  | pushStall
  /-- ZENCEN_HELLO (R791). Reports status and identity. -/
  | zencenHello (payload : List (BitVec 8)) (crcGood : Bool)
  /-- ZENCEN_PUSH (R791). Writes data bytes to IMAGE_BASE + offset. -/
  | zencenPush (payload : List (BitVec 8)) (crcGood : Bool)
  /-- ZENCEN_RELEASE (R791). Acts as RELEASE. -/
  | zencenRelease (payload : List (BitVec 8)) (crcGood : Bool)
  /-- ZENCEN_FLASH (R791). Acts as FLASH. -/
  | zencenFlash (payload : List (BitVec 8)) (crcGood : Bool)
  /-- ZENCEN_STATUS (R791). Reports status. -/
  | zencenStatus (payload : List (BitVec 8)) (crcGood : Bool)
  /-- ERASE_SLOT (R803). Erases a slot's image and its state sector. -/
  | eraseSlot (master slot : Nat) (bad : Bool)
  /-- FLASH_PROGRAM (R803). Programs image bytes into a slot. -/
  | flashProgram (master slot off len : Nat) (bad : Bool)
  /-- FLASH_VERIFY (R803). Verifies a slot and programs VERIFIED. -/
  | flashVerify (master slot : Nat) (bad : Bool)
  /-- ACTIVATE (R805). Programs ACTIVE in a slot. -/
  | activate (master slot : Nat) (bad : Bool)
  /-- CONFIRM (R803). Programs CONFIRMED and optionally raises the rollback counter. -/
  | confirm (master raise : Nat) (flashBad fuseBad : Bool)
  /-- FLASH_READ (R803). Copies flash bytes to memory. -/
  | flashRead (master off len : Nat) (bad : Bool)
  /-- ERASE_RAW (R803). Erases a raw-region sector. -/
  | eraseRaw (master off : Nat) (bad : Bool)
  /-- PROGRAM_RAW (R803). Programs bytes in the raw region. -/
  | programRaw (master off len : Nat) (bad : Bool)
  /-- PROGRAM_KEY (R808). Programs an unprogrammed key slot. -/
  | programKey (master slot : Nat) (bad : Bool)
  /-- REVOKE (R808). Sets a key slot's revocation bit. -/
  | revoke (master slot : Nat) (bad : Bool)
  /-- WARM_RESTART (R824). POWER_RESET WARM resets functions while forwarding continues. -/
  | warmRestart (master size key : Nat)
  /-- COLD_BOOT (R822). POWER_RESET COLD resets the whole device. -/
  | coldBoot (master size key : Nat)
  /-- DEEP_SLEEP (R826). POWER_SLEEP GO gates blocks and enters deep sleep. -/
  | deepSleep (master size kind key : Nat)
  /-- WAKE (R811). An enabled wake event wakes the device and takes the fast or the cold path. -/
  | wake (perst : List Nat) (mask : Nat)
  /-- WAKE_TIMER (R828). TIME_MONO reaches POWER_WAKE_TIME in deep sleep. -/
  | wakeTimer
  /-- POWER_GATE_REQUEST (R830). REQ = 1 stops new work, and the block drains. -/
  | powerGateRequest (master g size half : Nat) (value : BitVec 64)
  /-- GATE_DRAIN_END (R830). After the drain or 100 µs, remaining work ends FALLOW, and STATE reads FALLOW. -/
  | gateDrainEnd (g : Nat)
  /-- POWER_GATE_RELEASE (R832). REQ = 0 makes a fallow block WAKING. -/
  | powerGateRelease (master g size half : Nat) (value : BitVec 64)
  /-- GATE_WAKE_DONE (R832). Within 50 µs the block is ON and empty. -/
  | gateWakeDone (g : Nat)
  /-- GPIO_CONFIG (R839). A FUNC change parks the pin. -/
  | gpioConfig (master i size half : Nat) (value : BitVec 64)
  /-- GPIO_PARK_END (R839). After parking, the pin takes its new function. -/
  | gpioParkEnd (i : Nat)
  /-- SMB_IDENT (R837). Reads the identity. -/
  | smbIdent
  /-- SMB_HEALTH (R837). Reads the status registers. -/
  | smbHealth
  /-- SMB_WARM (R837). Warm restart by SMBus. -/
  | smbWarm (byte : BitVec 8)
  /-- SMB_COLD (R837). Cold boot by SMBus. -/
  | smbCold (byte : BitVec 8)
  /-- SMB_WAKE (R837). Wake event by SMBus. -/
  | smbWake (byte : BitVec 8)
  /-- SLEW_QUALITY_STEP (R69). While a slew runs, the remaining offset shrinks past a quality threshold and QUALITY moves to a better code. -/
  | slewQualityStep
  /-- REFCLK_RETURN (R850). REFCLK starts running again after a stop, so lanes can regain lock and TIME_MONO advances again. -/
  | refclkReturn
  /-- PET_HOLD_EXPIRE (R734). PET_HOLD passes after a flow's latest packet with no acknowledgement owed, and its PET entry becomes unpinned, which can let TRD_CTL.STOPPED read 1. -/
  | petHoldExpire (node splot dplot cls : Nat)
  /-- GATE_DRAIN_CUTOFF (R466). 80 µs after a gate request, the fold, cipher and DMA engines end their remaining commands FALLOW and begin parking and discarding. -/
  | gateDrainCutoff (g : Nat)
  /-- DMA_CHANNEL_FAIL (R620). The fault collector declares a DMA channel failed, and the channel is fallow until the next cold boot. -/
  | dmaChannelFail (p c : Nat)
  /-- FLASH_SLOT_LOADED (R785). The ROM finishes loading and verifying the chosen flash slot and releases it, or falls to the other slot or to Zencen, when the push wait has already ended. -/
  | flashSlotLoaded (readBad tryBad : Bool)
  /-- STORAGE_ERROR_MESSAGE (R631). An error message arrives from a device below a storage port, and ERR_EV is set. -/
  | storageErrorMessage (n : Nat)
  /-- HOST_CONFIG_WRITE (R271). A host configuration write sets a function field with behaviour of its own, such as ATS Enable, Memory Space Enable, PME_En or the Completion Timeout Value. -/
  | hostConfigWrite (f field value : Nat)
  /-- TEST_MODE_CHANGE (R780). The TEST_MODE pin changes level, and FAULT_STATUS.INJ_AVAIL follows it while the factory fuse is intact. -/
  | testModeChange (level : Bool)
  deriving DecidableEq, Repr

end Sys2Proof
end

