-- ==== Sys2Proof/Decode.lean ====
section
/-!
DEFINITION. The command that a word of the opcode table spells. The table's rows give their commands no bits, so no
word spells a command.
-/

namespace Sys2Proof

/-- The command spelled by the low `nbits` bits of `w`: none, since no row of the table has fields. -/
def decodeTableWord (_nbits _w : Nat) : Option Instr := none

end Sys2Proof
end

