-- ==== Sys2Proof/Config.lean ====
section
/-!
DEFINITION. What a single device fixes and the spec leaves to it, and the free values: constants without a
body, so that a statement about one of them holds whatever it is.
-/

namespace Sys2Proof.Config

/-- Free 64-bit values, by draw number: the spec leaves the value open and the machine goes on (assumption 3). -/
opaque freeWord : Nat → BitVec 64

/-- Free bytes, by draw number and address: what a memory holds that the spec says is undefined (assumption 3). -/
opaque freeByte : Nat → Nat → BitVec 8

/-- The seeds `d` and `z` of the enrolment key pair, the device key and the device serial: made at manufacture, one
value for each device (R259, R470). -/
opaque enrolD : BitVec 256
opaque enrolZ : BitVec 256
opaque deviceKey : BitVec 256
opaque deviceSerial : BitVec 64

/-- What a one-step or two-step clock does to the PTP event message that a port starts to send at a time: the spec gives the
kinds of clock and states no selection among them (R9, R63, assumption 147). -/
opaque ptpAct : Nat → Nat → BitVec 2

/-- Ifegan's assigned PCI Vendor ID, whose value the spec does not give (R258). -/
opaque vendorId : BitVec 16

end Sys2Proof.Config
end

