-- ==== Sys2Proof/Machine/Device.lean ====
section
/-!
DEFINITION. The block's state, unit by unit, as plain data.
Every structure's field defaults are its values at reset; `Dev` at the end joins the units, and
`Machine/State.lean` adds memory and the queue of waiting commands.
Registers that hold nothing but what is written to them live in one table (`Dev.regs`), under the names of
`Machine/RegMap.lean`; registers that show another unit's state are computed when read.
-/

namespace Sys2Proof.Machine

/-- The two parts of R1. -/
inductive Part where
  | t512 | t256
  deriving DecidableEq, Repr

/-- Memory of R72: (address, byte) pairs, strictly rising addresses, no entry 0. -/
abbrev Mem := List Host.Cell

/-! ### Time (R59 to R71) -/

/-- The time unit. `frac` is the fractional accumulator of R59 in units of 1/(5 * 2^40) ns; `tod` is the time of
day and `slew` the offset still to be slewed out, both in units of 10^-6 ns. -/
structure Clock where
  /-- REFCLK runs (R850). -/
  refclk : Bool := true
  mono : Nat := 0
  frac : Nat := 0
  tod : Int := 0
  slew : Int := 0
  /-- The time of day has been set since cold boot (QUALITY 0xFE against 0xFF, R67; R70's first write). -/
  set : Bool := false
  /-- A reference has locked since cold boot (R67). -/
  everLocked : Bool := false
  /-- A reference is locked now (R64, R65). -/
  locked : Bool := false
  /-- TIME_MONO of the last heartbeat or accepted 1PPS_IN edge (R64, R65, R68). -/
  lastRef : Nat := 0
  /-- The second boundary of the last 1PPS_OUT pulse (R66). -/
  lastPps : Int := 0
  /-- Steps of the time of day so far (R70); the last one's old time and its offset in ns (R572's STEP record). -/
  steps : Nat := 0
  stepOld : Int := 0
  stepOff : Int := 0
  deriving DecidableEq, Repr

/-- The pace governor (R43 to R52). Its registers are in the register table. -/
structure PaceSt where
  /-- The regulator's last acknowledged request (R51). -/
  acked : Nat := 0
  /-- Failed attempts of the present request, 0 to 3 (R51). -/
  fails : Nat := 0
  /-- TIME_MONO of the last interval (R46), of the last failed attempt (R51) and of the last BELOW_FLOOR record (R52). -/
  lastInterval : Nat := 0
  lastAttempt : Nat := 0
  lastBelow : Nat := 0
  /-- A deadline source became set while VDD_CORE was below VFLOOR: its deadlines wait for the regulator (R50). -/
  waiting : Bool := false
  /-- TIME_MONO of the last TRD packet (R47). -/
  lastTrd : Nat := 0
  deriving DecidableEq, Repr

/-! ### Strands (chapters 4 and 5) -/

/-- A message of a queue endpoint of R148 with the WORKID its sender carried (R118). Eight-byte messages use the
low 64 bits. -/
structure Msg where
  workid : Word := 0
  data : Wide := 0
  /-- Owner tag of the sender, or 0xFFFF. -/
  sender : Nat := 0xFFFF
  deriving DecidableEq, Repr

/-- What a load or atomic waits for (R136, R141). -/
inductive LoadKind where
  /-- `size` bytes into g[D], sign-extended or not. -/
  | general (size : Nat) (signed : Bool)
  /-- 64 bytes into w[D]. -/
  | wide
  /-- The atomic of R141 with its FN, g[B] and g[D] as the instruction began. -/
  | atomic (fn : Nat) (b old : Word)
  deriving DecidableEq, Repr

/-- Why a strand waits (R132, R168): its instruction has not completed, and PC still names it. -/
inductive Wait where
  | load (kind : LoadKind) (dst : Nat) (addr : Nat) (eval : Word)
  | fence (fn : Nat)
  | qput (d a : BitVec 5) (port : BitVec 8) (fn : BitVec 8)
  | qget (d a : BitVec 5) (port : BitVec 8) (fn : BitVec 8)
  | wait (d a b : BitVec 5) (fn : BitVec 11)
  deriving DecidableEq, Repr

/-- The registers of a strand (R112 to R116). `g` and `w` list the registers that are not 0. -/
structure Regs where
  g : Tbl Word := []
  w : Tbl Wide := []
  pc : Nat := 0
  drill : Bool := false
  inex : Bool := false
  evec : Word := 0
  epc : Word := 0
  ecause : Word := 0
  eval : Word := 0
  ectx : Bool := false
  spri : Nat := 0
  workid : Word := 0
  /-- WORKID's function has been purged since it was set, so its generation is stale whatever GEN is (R363, R364). -/
  wvoid : Bool := false
  dcode : Word := 0
  dlen : Word := 0
  dret : Word := 0
  dbudget : Word := 0
  hbase : Tbl Word := []
  hlim : Tbl Word := []
  qmap : Tbl Word := []
  retired : Word := 0
  deriving DecidableEq, Repr

/-- A predicted branch that has not resolved (R109, R202): the registers to return to if the prediction fails, what
the branch will do, and the stores held beyond it. -/
structure Ckpt where
  saved : Regs
  /-- The branch's own address. -/
  at' : Nat := 0
  mispredicted : Bool
  stores : List Host.Cell := []
  beyond : Nat := 0
  deriving DecidableEq, Repr

/-- A strand: registers, run control (R169), the last exception (R174) and what it waits for. -/
structure Strand where
  regs : Regs := {}
  run : Bool := false
  stopped : Bool := true
  step : Bool := false
  cause : Nat := 0
  double : Bool := false
  lost : Bool := false
  causePc : Nat := 0
  mispred : Word := 0
  squash : Word := 0
  wait : Option Wait := none
  /-- The port WAIT last returned (R154). -/
  lastPort : Nat := 255
  /-- Unresolved predicted branches, oldest first. -/
  spec : List Ckpt := []
  /-- The strand executed IFLUSH, and its next fetch reads memory (R108, R145). -/
  refetch : Bool := false
  deriving DecidableEq, Repr

/-- A tine: failed (R176), the strand its spare context holds, and its issue stage and instruction cache. -/
structure Tine where
  failed : Bool := false
  spare : Option Nat := none
  /-- The context that took the first slot of the latest issue step, and its instruction while the step's second slot is
  open (R104, R105). -/
  turn : Nat := 4
  first : Option (BitVec 32) := none
  /-- The strand that takes no slot in the next step in which another is ready, for its YIELD, and the one passed over in the
  present step for that reason (R145). -/
  yielded : Option Nat := none
  skipped : Option Nat := none
  /-- Instructions cached, by address, the latest fetched first (R108, assumption 138). -/
  icache : List (Nat × BitVec 32) := []
  deriving DecidableEq, Repr

/-- A drill ticket the ring engine issued (R119, R121, R242). -/
structure Ticket where
  strand : Nat := 0
  dcode : Word := 0
  dlen : Word := 0
  workid : Word := 0
  used : Bool := false
  deriving DecidableEq, Repr

structure TineSt where
  strands : Tbl Strand := []
  tines : Tbl Tine := []
  /-- Queue endpoints of R148, keyed class * 4096 + instance, oldest message first. -/
  queues : Tbl (List Msg) := []
  /-- Tickets issued, by the ticket's 64 bits (R242). -/
  tickets : Tbl Ticket := []
  deriving DecidableEq, Repr

/-! ### Capture buffers (R90) -/

/-- One requester's capture buffer: the head's key and the captured words. -/
structure Capture where
  head : Nat := 0
  words : List Word := []
  deriving DecidableEq, Repr

/-! ### Faults (chapter 20) -/

/-- One report of a detecting unit, with the fields of a record (R763). -/
structure Report where
  code : Nat
  kind : Nat
  unit : Nat
  count : Nat := 1
  time : Nat := 0
  master : Nat := 0xFFFF
  func : Nat := 0xFFFF
  object : Nat := 0
  addr : Nat := 0
  node : Nat := 0
  detail : Nat := 0
  injected : Bool := false
  deriving DecidableEq, Repr

/-- An open coalescing window (R768). -/
structure Window where
  code : Nat
  kind : Nat
  unit : Nat
  due : Nat
  count : Nat := 0
  last : Report
  deriving DecidableEq, Repr

/-- What a slot of the fault ring holds (R764). -/
structure FaultSlot where
  seq : Nat
  cls : Nat
  deriving DecidableEq, Repr

structure FaultSt where
  /-- Reports waiting at the collector, by detecting unit, at most 1,024 each (R769). -/
  queues : Tbl (List Report) := []
  /-- Reports a unit holds because its queue is full (R769). -/
  held : Tbl (List Report) := []
  windows : List Window := []
  slots : Tbl FaultSlot := []
  /-- The fatal safe state (R772, R773). -/
  safe : Bool := false
  /-- FAULT_FATAL0-7 hold a record (R774). -/
  retained : Bool := false
  /-- Failed pseudo-channels, keyed stack * 64 + channel, and whether a spare took their place (R777). -/
  pcFailed : Tbl Bool := []
  sparesUsed : Tbl Nat := []
  /-- 64-byte lines marked poisoned (R777). -/
  poisoned : List Nat := []
  /-- The TEST_MODE pin (R780). -/
  testMode : Bool := false
  /-- The command in progress acts out an injected fault, so its reports have INJECTED set (R781). -/
  injecting : Bool := false
  deriving DecidableEq, Repr

/-! ### Posted writes to windows (R188, R189) -/

/-- A write to host memory or to a storage device that a master has issued and the link has not transmitted. -/
structure Posted where
  /-- The master that issued it (owner tag of R624), or 0xFFFF. -/
  master : Nat := 0xFFFF
  /-- To a host, by function; otherwise to a storage target. -/
  toHost : Bool := true
  unit : Nat := 0
  addr : Nat := 0
  /-- The PASID prefix, if any, and the requester's routing ID (R268). -/
  pasid : Option Nat := none
  rid : Nat := 0
  /-- The aperture it came through (R269). -/
  apt : Option Nat := none
  /-- It uses a translation (R271), and the tags of the invalidations that have met it since (R272). -/
  xlated : Bool := false
  old : List Nat := []
  data : List Byte := []
  deriving DecidableEq, Repr

/-! ### Host face (chapter 7) -/

/-- An entry of a function's buffer table (R226, R266). -/
structure Buf where
  base : Nat := 0
  len : Nat := 0
  pasid : Nat := 0
  pasidEn : Bool := false
  read : Bool := false
  write : Bool := false
  valid : Bool := false
  gen : Nat := 0
  deriving DecidableEq, Repr

/-- An MSI-X vector: the table entry as the host reads it, the address and data taken up at the last unmask
(R276), and the pending bit (R275). -/
structure Vec where
  addr : Nat := 0
  data : Nat := 0
  masked : Bool := true
  upAddr : Nat := 0
  upData : Nat := 0
  pending : Bool := false
  deriving DecidableEq, Repr

/-- What a function holds beyond its registers: configuration fields with behaviour of their own, the buffer table,
MSI-X, the error log, and the reset in progress. -/
structure Fn where
  atsEn : Bool := false
  /-- Of a PF, for itself and its VFs (R259). -/
  pasidEn : Bool := false
  /-- ATS Smallest Translation Unit (R259, R271). -/
  stu : Nat := 0
  /-- Device Control 2 Completion Timeout Value (R260). -/
  cplTo : Nat := 0
  pmeEn : Bool := false
  pmeStatus : Bool := false
  /-- AER of a PF (R259, R281, R773; assumption 130): the uncorrectable errors' status, mask and severity, and the
  correctable errors' status and mask. -/
  aerStatus : Nat := 0
  aerMask : Nat := 0x400000
  aerSeverity : Nat := 0x462030
  aerCorStatus : Nat := 0
  aerCorMask : Nat := 0xE000
  vfEnable : Bool := false
  /-- NumVFs as last taken (R257). -/
  numVfs : Nat := 0
  msixEn : Bool := false
  msixMask : Bool := false
  bufs : Tbl Buf := []
  msix : Tbl Vec := []
  /-- Error log entries by slot: 64 bytes each (R332). -/
  errlog : Tbl (List Byte) := []
  /-- TIME_MONO of the latest reset event, and the next step of R277 to take: 0 none, 2 or 3. -/
  flrAt : Nat := 0
  flrStep : Nat := 0
  /-- Every event of the reset in progress came from the link, so sticky bits keep their values (R281). -/
  sticky : Bool := false
  /-- SOW_WRITEs of the function that wait for grain buffers (R428). -/
  sowWaits : Nat := 0
  deriving DecidableEq, Repr

/-- Who awaits a host read's completion. -/
inductive ReadFor where
  | strand (k : Nat)
  | dma (p c : Nat)
  | ring (g : Nat)
  | entry (drill index : Nat)
  deriving DecidableEq, Repr

/-- A host read that a function's master has issued and the host has not answered (R260, R273). -/
structure HostRead where
  func : Nat := 0
  addr : Nat := 0
  len : Nat := 0
  due : Nat := 0
  pasid : Option Nat := none
  /-- The aperture it came through, and as `Posted` has them. -/
  apt : Option Nat := none
  xlated : Bool := false
  old : List Nat := []
  requester : ReadFor := .strand 0
  deriving DecidableEq, Repr

/-- A translation the ATS cache holds (R271): one page of a function and PASID. -/
structure AtcEntry where
  func : Nat
  pasid : Option Nat
  page : Nat
  deriving DecidableEq, Repr

/-- An Invalidate Request whose completion has not been sent (R272): pages [lo, hi), its tag. -/
structure Inval where
  func : Nat
  pasid : Option Nat
  lo : Nat
  hi : Nat
  itag : Nat
  deriving DecidableEq, Repr

structure HostSt where
  fns : Tbl Fn := []
  /-- Host reads in flight, oldest first. -/
  reads : List HostRead := []
  /-- Translations held, newest first, at most 16,384 (R271). -/
  atc : List AtcEntry := []
  invals : List Inval := []
  /-- TIME_MONO from which a link's 80 ms bound runs (R282), by link. -/
  trainFrom : Tbl Nat := []
  /-- Links whose training in progress follows a PERST_N deassertion (R47). -/
  perstTrain : List Nat := []
  /-- The bus number that the host has given each link (R256, assumption 131). -/
  bus : Tbl Nat := []
  /-- The image's link plan differs or has been applied (R251, R252). -/
  planApplied : Bool := false
  deriving DecidableEq, Repr

/-! ### Rings and drills (chapters 6 and 8) -/

/-- A fetch read in flight (R310, R206): how many entries from HEAD it covers, and how many of them a doorbell had
named. Once returned, `stalled` holds the submitted entries that wait for a drill record (R315). -/
structure Fetch where
  count : Nat
  named : Nat
  /-- Its host address, when it times out (R260), and as `Posted` has them. -/
  addr : Nat := 0
  due : Nat := 0
  xlated : Bool := false
  old : List Nat := []
  stalled : List (List Byte) := []
  /-- Every entry of the read showed OWN set. -/
  whole : Bool := false
  deriving DecidableEq, Repr

/-- Where a drill stands. A caught or rejected drill waits for its completions to be written; an `abortReady` drill
is an accepted ABORT that has yet to take effect, and an `ended` one an ABORT that has. -/
inductive DrillPhase where
  | opened | accepted | abortReady | dispatched | held | rejected | caught | ended
  deriving DecidableEq, Repr

/-- The outcome of a work entry: status value, detail, and 16 bytes of result (R325). -/
structure Outcome16 where
  status : Nat := 0
  detail : Nat := 0
  result : Nat := 0
  deriving DecidableEq, Repr

/-- A drill in its record (R219, R315, R321). -/
structure Drill where
  func : Nat := 0
  gen : Nat := 0
  /-- Global submission ring, and the ring index of entry 0. -/
  sq : Nat := 0
  index0 : Nat := 0
  entries : List (List Byte) := []
  phase : DrillPhase := .opened
  /-- TIME_MONO from which the drill gap runs (R221, R315). -/
  gapFrom : Nat := 0
  /-- Its code record (R241). -/
  code : Option Nat := none
  /-- It has won arbitration (R319), and it counts among its ring's dispatched drills until it ends. -/
  won : Bool := false
  /-- START of the present or next dispatch, and whether it is RESUMED or RETRY (R320). -/
  start : Nat := 0
  /-- The strand its latest dispatch issued tickets to: where firmware executes it. -/
  strand : Nat := 0
  resumed : Bool := false
  retry : Bool := false
  /-- The next entry to execute: every earlier work entry has put its completion message. -/
  next : Nat := 0
  /-- Status of each entry whose completion message was taken. -/
  done : Tbl Nat := []
  /-- Every work entry below this one has its completion entry written or dropped. -/
  written : Nat := 0
  /-- The object ID each entry names for the error log (R332). -/
  objs : Tbl Nat := []
  /-- A work entry of it waits inside the device (for a serial, a grain buffer, the frontier, media or a peer). -/
  busy : Bool := false
  /-- The host's answer to the next entry's requests once so many of their bytes have passed: 0 a timeout, 1 an abort or
  Unsupported Request, 2 a poisoned completion, 3 a refused translation (R273). -/
  answer : Option (Nat × Nat) := none
  deriving DecidableEq, Repr

/-- A completion entry that waits for its ring (R324, R328). -/
structure HeldCpl where
  func : Nat
  /-- Local completion ring, global submission ring. -/
  cq : Nat
  sq : Nat
  tag : Nat
  index : Nat
  out : Outcome16
  last : Bool
  /-- The drill record and the entry, when the drill has one. -/
  record : Option Nat
  entry : Nat
  /-- It will not be written (R283, R335). -/
  drop : Bool := false
  deriving DecidableEq, Repr

/-- A failure a frozen ring holds (R331). -/
structure HeldFail where
  drill : Nat
  entry : Nat
  out : Outcome16
  deriving DecidableEq, Repr

/-- A submission ring beyond its settings. -/
structure Sq where
  head : Nat := 0
  tail : Nat := 0
  /-- HEAD has passed TAIL: entries were confirmed before a doorbell named them (R207). -/
  overtook : Bool := false
  /-- STATE of R305. -/
  state : Nat := 0
  cause : Nat := 0
  outstanding : Nat := 0
  malformed : Nat := 0
  fetch : Option Fetch := none
  /-- A doorbell has named entries since the fetch in flight was issued (R310). -/
  asked : Bool := false
  /-- A fetch is owed with no entry named: the last read reached past TAIL with every OWN set, and the function's sake
  kept the next from following it (R310). -/
  owed : Bool := false
  /-- TIME_MONO at which a RESUME was ignored for Bus Master Enable 0 (R286, assumption 132). -/
  resumeAt : Option Nat := none
  /-- The open drill's record. -/
  openDrill : Option Nat := none
  /-- Accepted drills to dispatch, in ring order; drills to dispatch again come first (R334). -/
  ready : List Nat := []
  dispatched : Nat := 0
  held : List HeldFail := []
  /-- The host addresses of OWN clears that were dropped (R334). -/
  ownDropped : List Nat := []
  /-- IOVA, LOG2SIZE or CQ changed since the ring last ran (R306). -/
  changed : Bool := false
  /-- Turns left in the arbitration round (R317). -/
  turns : Nat := 0
  /-- Completions of drills rejected while the ring was HALTED (R314). -/
  rejects : List HeldCpl := []
  deriving DecidableEq, Repr

/-- A completion ring beyond its settings. -/
structure Cq where
  tail : Nat := 0
  head : Nat := 0
  phase : Bool := true
  config : Bool := false
  running : Bool := false
  changed : Bool := false
  unsignalled : Nat := 0
  oldest : Nat := 0
  deriving DecidableEq, Repr

/-- A self-test in progress (R342). -/
structure SelfTest where
  drill : Nat := 0
  entry : Nat := 0
  plots : List Nat := []
  /-- Its checks in all, those of them that fail, and those still to run. -/
  run : Nat := 0
  failed : Nat := 0
  left : Nat := 0
  paused : Bool := false
  /-- TIME_MONO when the last drill that conflicts with it ceased to. -/
  quietFrom : Nat := 0
  deriving DecidableEq, Repr

structure RingSt where
  sqs : Tbl Sq := []
  cqs : Tbl Cq := []
  /-- Drill records in use, by number (R315). -/
  drills : Tbl Drill := []
  /-- Rings whose FIRST entry waits for a drill record, in the order they began to wait. -/
  waiters : List Nat := []
  /-- Code records in use (R241). -/
  codes : List Nat := []
  /-- The next ticket serial (R242). -/
  serial : Nat := 0
  /-- Completions that wait for their rings, in the order they reached the ring engine (R328). -/
  cpls : List HeldCpl := []
  /-- By dispatch queue: the ring in whose turn it is and the entries dispatched in that turn (R317). -/
  turn : Tbl (Nat × Nat) := []
  tests : List SelfTest := []
  deriving DecidableEq, Repr

/-! ### Key vault and cipher schedulers (chapter 12) -/

/-- The key vault. A cache entry is the tag of R492 as a number with its derived output. -/
structure VaultSt where
  /-- The estate root, 32 bytes, and its estate (R470, R471). -/
  root : Option (List Byte) := none
  estate : Nat := 0
  /-- Key cache by set, most recently used first, at most 8 a set (R492). -/
  cache : Tbl (List (Nat × List Byte)) := []
  deriving DecidableEq, Repr

/-- A key slot of a plot (R496). -/
inductive KeySlot where
  | empty
  | xts3 (key : List Byte)
  | xts2 (key : List Byte)
  | plain (key : List Byte)
  deriving DecidableEq, Repr

/-- A chain table entry (R502 to R504): registered by its command's QPUT; `started` once the command runs. -/
structure ChainEnt where
  dst : Nat
  len : Nat
  started : Bool := false
  /-- Units marked written, in order. -/
  written : Nat := 0
  /-- The result a fold command waiting on it ends with, once it is marked failed. -/
  failed : Option Nat := none
  deriving DecidableEq, Repr

/-- A release entry: the decryption's command, its plaintext, and what a release writes (R505, R506). -/
structure Release where
  workid : Word
  ctag : Nat
  plain : List Byte
  dst : Nat
  off : Nat
  len : Nat
  deriving DecidableEq, Repr

/-- A chained encryption in progress: its command, the key it read, and the units done. -/
structure EncJob where
  msg : Msg
  key : List Byte
  done : Nat := 0
  deriving DecidableEq, Repr

/-- A plot's cipher scheduler. -/
structure CipherSt where
  slots : Tbl KeySlot := []
  /-- Failed pipelined cores, and the compatibility core (R512). -/
  coresDown : List Nat := []
  g2Down : Bool := false
  chain : List ChainEnt := []
  releases : Tbl Release := []
  job : Option EncJob := none
  /-- The command at the front waits for a release entry (R505). -/
  waitRelease : Bool := false
  deriving DecidableEq, Repr

/-- A DMA channel beyond its registers (R609 to R620): the WORKIDs of its two descriptor sets, the command ID of an NVMe
command in flight, a completion held while its queue is full, and whether it has failed. -/
structure DmaCh where
  shadowWid : Word := 0
  wid : Word := 0
  /-- TIME_MONO at which the active set's requests began, and whether the read that BARRIER adds is in flight (R260, R598,
  R615). -/
  since : Nat := 0
  barrier : Bool := false
  cid : Option Nat := none
  /-- Completions that wait for space at the endpoint, oldest first (R611). -/
  held : List Msg := []
  failed : Bool := false
  deriving DecidableEq, Repr

/-! ### Storage (chapter 15) -/

/-- What an NVMe command's entry asks for: the write of a whole row with Force Unit Access (R419), a read that begins with the
target's label (R554), or something else. -/
inductive NvmeOp where
  | row (row : Nat)
  | label
  | other
  deriving DecidableEq, Repr

/-- An NVMe command whose ID is taken: the DMA channel that waits for it, when it times out, whether its descriptor
has ended, so that its completion will be discarded (R607), and what its entry asks for. -/
structure NvmeCmd where
  plot : Nat
  ch : Nat
  due : Nat
  late : Bool := false
  op : NvmeOp := .other
  deriving DecidableEq, Repr

/-- A queue pair: commands by ID, and whether its base or size changed since it last ran (R632). -/
structure QpSt where
  cmds : Tbl NvmeCmd := []
  changed : Bool := false
  deriving DecidableEq, Repr

/-- A plot's buffer manager (R623 to R628): owner tags of owned cells plus 1, the freed cells, latest first, and the first
cell never allocated. -/
structure Bufm where
  owner : Tbl Nat := []
  freed : List Nat := []
  fresh : Nat := 0
  deriving DecidableEq, Repr

structure StgSt where
  qps : Tbl QpSt := []
  /-- When the configuration request in progress fails (R599). -/
  cfgDue : Nat := 0
  /-- When a strand's read of the storage window fails (R598), by strand. -/
  loads : Tbl Nat := []
  bufms : Tbl Bufm := []
  /-- The label of each target whose LBA 0 firmware has read since it became present (R554). -/
  labels : Tbl (List Byte) := []
  deriving DecidableEq, Repr

/-! ### Fold units (chapter 11) -/

/-- An accumulator: the SCX it holds with the shape and buffers read when it was claimed or loaded (R454), and the
parity so far. -/
structure FoldAcc where
  slot : Nat
  scx : Nat
  k : Nat
  m : Nat
  g : Nat
  hash : Nat
  pbuf : List Nat
  done : Nat
  grains : List (List Byte)
  deriving DecidableEq, Repr

/-- A command in progress that waits: for a chained unit (R445) with what it has read, or for a TSB's lock (R457). -/
structure FoldJob where
  msg : Msg
  read : List Byte := []
  /-- The command claimed its SCX. -/
  claimed : Bool := false
  lock : Bool := false
  deriving DecidableEq, Repr

/-- A fold unit: its accumulators, most recently used first, at most 4. -/
structure FoldU where
  accs : List FoldAcc := []
  job : Option FoldJob := none
  deriving DecidableEq, Repr

/-! ### Sowing and ledgers (chapters 10 and 14) -/

/-- A placement: node number, target index on that node, row (R418). -/
abbrev Place := Nat × Nat × Nat

/-- A row that is to be on media: a grain of a sheaf by position, or from 256 up a copy of the sheaf's descriptor;
`place` is where firmware put it, `none` while no placement has room (R422). -/
structure RowW where
  sheaf : Nat
  pos : Nat
  place : Option Place
  durable : Bool := false
  deriving DecidableEq, Repr

/-- A sheaf that has been closed: its grains by position until it is on media at full redundancy (R421), their digests,
its rows, and the grain buffers it holds in plot SRAM and in the HBM write buffer (R415, R416). -/
structure SowSheaf where
  idx : Nat
  kp : Nat
  grains : List (List Byte)
  digs : List (List Byte)
  rows : List RowW
  /-- Its grain buffers: in the sowing area of each plot, and in the HBM write buffer (R415). -/
  sram : Tbl Nat := []
  hbm : Nat := 0
  full : Bool := false
  deriving DecidableEq, Repr

/-- A SOW_SEAL in progress: its entry, where the seal record goes, what R870 undoes, and its step of R423: 1 waiting for
the buffers of an object of length 0 (R354, R388), 2 waiting for media, 3 waiting for the descriptors, 5 handed to the ledger home. -/
structure SealJob where
  drill : Nat
  entry : Nat
  buf : Option (Nat × Option Nat) := none
  part : List Byte := []
  cur : List (List Byte) := []
  digests : List (List Byte) := []
  descs : List RowW := []
  step : Nat := 2
  deriving DecidableEq, Repr

/-- OPEN, SEALING and EXPIRED of R399. -/
inductive SowPhase where
  | opened | sealing | expired
  deriving DecidableEq, Repr

/-- A sowing session (R396 to R413). -/
structure SowSess where
  obj : Nat
  tenant : Nat
  epoch : Nat
  prof : Nat
  k : Nat
  m : Nat
  g : Nat
  hash : Nat
  expected : Nat := 0
  /-- The frontier F. -/
  fr : Nat := 0
  phase : SowPhase := .opened
  plot : Nat := 0
  /-- Plaintext of the incomplete grain. -/
  part : List Byte := []
  /-- Ciphertext of the completed grains of the sheaf being filled, and the buffers that sheaf holds. -/
  cur : List (List Byte) := []
  sram : Tbl Nat := []
  hbm : Nat := 0
  /-- The buffers that the grain last begun took: of which plot's area, how many there, and how many in HBM. -/
  took : Nat × Nat × Nat := (0, 0, 0)
  /-- Digests of every completed data grain. -/
  digests : List (List Byte) := []
  sheaves : List SowSheaf := []
  /-- Idle time counted before `idleFrom` (R402). -/
  idle : Nat := 0
  idleFrom : Nat := 0
  sealJob : Option SealJob := none
  deriving DecidableEq, Repr

/-- A SOW_WRITE that waits: for the frontier (R407) at `off`, or for a grain buffer (R354) with the bytes left to take, the
first of them at `off`; or a SOW_SEAL that waits for buffers. -/
structure SowWait where
  drill : Nat
  entry : Nat
  key : Nat
  off : Nat
  frontier : Bool
  rest : List Byte := []
  /-- The status with which the write ends after those bytes, when its host request has failed. -/
  fails : Option Nat := none
  seals : Bool := false
  deriving DecidableEq, Repr

/-- Who waits for a ledger record to be durable. -/
inductive ReqFrom where
  | sealOf (key : Nat)
  | entry (drill index : Nat)
  | harrow (object : Nat)
  | peer (node : Nat)
  | nobody
  deriving DecidableEq, Repr

/-- A record handed to a tenant's ledger home: what R570 holds but SEQ, PREV and MAC. -/
structure LedgerReq where
  tenant : Nat
  kind : Nat
  node : Nat := 0
  object : Nat := 0
  sec : Nat := 0
  ns : Nat := 0
  quality : Nat := 0
  label : Nat := 0
  epoch : Nat := 0
  body : List Byte := []
  origin : ReqFrom := .nobody
  /-- Its sequence, once this device appended it as the ledger home. -/
  seq : Option Nat := none
  /-- It has gone to the ledger home; a record handed on while STEP_PEND is 1 waits (R71, R547). -/
  sent : Bool := true
  deriving DecidableEq, Repr

/-- A tenant's ledger homed on this device (R574 to R581). -/
structure Ledger where
  recs : List (List Byte) := []
  durable : Nat := 0
  /-- Records the version in flight covers, that version, its grain rows and, once these are on media, its descriptor
  copies; none in flight when `rows` is empty. `spare` holds placements for the copies. -/
  writing : Nat := 0
  version : Nat := 0
  rows : List RowW := []
  copies : List RowW := []
  spare : List Place := []
  /-- Version, rows and copies of each grain of the open segment as last made durable. -/
  grains : Tbl (Nat × List RowW × List RowW) := []
  /-- Descriptor copies of a completed segment still to be rewritten, by grain, in order (R581). -/
  closing : List (Nat × Place) := []
  /-- Time steps a STEP record was written for (R71). -/
  steps : Nat := 0
  /-- The pass in which it was last checked (R540), plus 1. -/
  checked : Nat := 0
  deriving DecidableEq, Repr

structure SowSt where
  /-- Sessions, keyed function * 2^20 + slot. -/
  sess : Tbl SowSess := []
  waits : List SowWait := []
  /-- SOW_OPENs that wait while DRY is 1: drill and entry, in order (R383). -/
  dry : List (Nat × Nat) := []
  /-- Grain buffers of each plot's sowing area, and of them those in use (R415). -/
  area : Tbl Nat := []
  areaUsed : Tbl Nat := []
  reqs : List LedgerReq := []
  ledgers : Tbl Ledger := []
  /-- Peers' grains in the peer pool until they are on media: the sending node, target, row (R420). -/
  peers : List Place := []
  deriving DecidableEq, Repr

/-! ### Gleaning, repair and harrowing (chapter 13) -/

/-- What is known of an object being read: the fields of its seal, and its sheaves' descriptors. -/
structure ObjRef where
  obj : Nat
  tenant : Nat
  epoch : Nat := 0
  len : Nat := 0
  prof : Nat := 0
  k : Nat := 0
  m : Nat := 0
  g : Nat := 0
  hash : Nat := 0
  tally : List Byte := []
  sealSeq : Nat := 0
  /-- The seal's label: 1 for an object's own key, 3 for a ledger segment, 17 for a generation-2 object. -/
  label : Nat := 1
  /-- The generation whose rows it has (R582 to R586). -/
  gen : Nat := 3
  /-- Descriptor rows that check, by sheaf. -/
  descs : Tbl (List Byte) := []
  deriving DecidableEq, Repr

/-- How a grain of a read stands. -/
inductive GrainSt where
  | flying | missing | mismatch | released | lost
  deriving DecidableEq, Repr

/-- A data grain of a read: when its fetch times out and when it becomes slow (R520, R521, R528). -/
structure GFetch where
  sheaf : Nat
  pos : Nat
  due : Nat
  hedgeAt : Option Nat
  slow : Bool := false
  st : GrainSt := .flying
  /-- Its fetch is still in flight after another copy was released. -/
  inFlight : Bool := true
  /-- A copy has verified: each other is a loser (R210). -/
  verified : Bool := false
  /-- A reconstruction with it as a target has failed (R527). -/
  reconFailed : Bool := false
  deriving DecidableEq, Repr

/-- A running reconstruction (R522 to R524): its targets, the survivors it fetches with the time each fetch fails, those
it has tried, and whether it has turned to order 2. -/
structure GRecon where
  sheaf : Nat
  targets : List Nat
  asked : List (Nat × Nat) := []
  tried : List Nat := []
  order2 : Bool := false
  deriving DecidableEq, Repr

/-- A GLEAN_READ in progress. -/
structure GleanJob where
  drill : Nat
  entry : Nat
  ref : ObjRef
  lo : Nat
  hi : Nat
  /-- Where the byte at `lo` goes. -/
  dst : Nat
  pasid : Option Nat
  /-- The plot whose cipher and fold blocks serve the read. -/
  plot : Nat := 0
  fetches : List GFetch := []
  recons : List GRecon := []
  /-- Copies in hand that verified, by sheaf and position. -/
  held : List ((Nat × Nat) × List Byte) := []
  /-- Copies that wait for a release entry, oldest first: whether rebuilt, and so verified, and the ciphertext (R196). -/
  waiting : List ((Nat × Nat) × Bool × List Byte) := []
  deriving DecidableEq, Repr

/-- A repair: of a REPAIR entry, or of one position by harrowing. `phase` 0 waits for the object's lock, 1 for its
rows, 2 for the descriptors, 3 for its record. -/
structure RepairJob where
  drill : Option (Nat × Nat) := none
  ref : ObjRef
  phase : Nat := 0
  /-- Grain rows being written, and what they hold. -/
  rows : List RowW := []
  data : List ((Nat × Nat) × List Byte) := []
  /-- Where each sheaf's descriptor copies lie. -/
  copies : List (Nat × Place) := []
  /-- Descriptor copies to rewrite, one at a time. -/
  descs : List RowW := []
  /-- Positions left without a verified copy. -/
  lost : List (Nat × Nat) := []
  /-- For harrowing: sheaf, position, FAULT, target. -/
  harrow : Option (Nat × Nat × Nat × Nat) := none
  deriving DecidableEq, Repr

/-- A FIXITY entry whose record is not yet durable: its status, its result. -/
structure FixityJob where
  drill : Nat
  entry : Nat
  status : Nat
  checked : Nat
  failed : Nat
  deriving DecidableEq, Repr

/-- A target's harrowing: its next row, the read outstanding, whether it is swept in this pass, and its state record:
when it was last written, its SEQ and the row it names (R535, R539, R556). -/
structure HarrowTgt where
  row : Nat := 0
  reading : Option Nat := none
  swept : Bool := false
  recordedAt : Nat := 0
  seq : Nat := 0
  recordedRow : Nat := 0
  passes : Nat := 0
  deriving DecidableEq, Repr

/-- A position whose copy gleaning found bad (R526). -/
structure BadPos where
  obj : Nat
  tenant : Nat
  sheaf : Nat
  pos : Nat
  place : Place
  deriving DecidableEq, Repr

structure GleanSt where
  gleans : List GleanJob := []
  /-- Losers still in flight after their read ended, by its drill, sheaf and position (R210). -/
  losers : List (Nat × Nat × Nat) := []
  repairs : List RepairJob := []
  fixities : List FixityJob := []
  /-- Rows to free, and when (R530). -/
  oldRows : List (Nat × Place) := []
  /-- The repair list of R526, oldest first, and the position of it that harrowing is reading. -/
  repairList : List BadPos := []
  listed : Option BadPos := none
  targets : Tbl HarrowTgt := []
  /-- Targets in service when the pass began. -/
  pass : List Nat := []
  /-- The harrowing budget: bytes that may still be read, and when it was last raised (R537). -/
  tokens : Int := 16777216
  tokenAt : Nat := 0
  /-- TIME_MONO of the last foreground completion, by target (R538). -/
  quietFrom : Tbl Nat := []
  deriving DecidableEq, Repr

/-! ### Network ports, switch core, tables and scheduling (chapters 16 to 18) -/

/-- A frame inside the device, from DMAC through FCS. `port` is its ingress port, or 512 + p for one that plot p's TRD
engine sends; `record` its parse record; `time` TIME_MONO at its first byte; `waited` that SW_WAITS has counted it. -/
structure Frame where
  port : Nat
  pri : Nat
  data : List Byte
  record : List Byte := []
  time : Nat := 0
  waited : Bool := false
  deriving DecidableEq, Repr

/-- A route table and index with the source's DEVICE field: what R690 chooses a member by. -/
structure RouteKey where
  table : Nat
  index : Nat
  src : Nat
  deriving DecidableEq, Repr

/-- A frame at its ingress port that waits to be admitted (R680): the egress ports and queues it is bound for. -/
structure WaitF where
  frame : Frame
  ports : List (Nat × Nat)
  route : Option RouteKey := none
  deriving DecidableEq, Repr

/-- A frame's place in an egress queue. `plot` is the plot whose output buffer, or if `pushed` whose push-out store,
holds it; `away` marks a frame moved from another plot that its new plot has not yet admitted (R692). -/
structure QEnt where
  fr : Nat
  port : Nat
  q : Nat
  plot : Nat
  since : Nat
  pushed : Bool := false
  route : Option RouteKey := none
  away : Bool := false
  deriving DecidableEq, Repr

/-- What a port transmits: a queued frame, or a control frame of its own. -/
inductive Sending where
  | frame (e : QEnt)
  | control
  deriving DecidableEq, Repr

/-- A port beyond its registers: when it came up, when the next announce and the next PFC refresh are due, the
priorities whose PFC frame is owed and whether an announce is, when each pause ends, the tags S and F of each weighted
queue and which are eligible (R708, R709), what it transmits, and when the next sample is due. -/
structure PortSt where
  upAt : Nat := 0
  announceAt : Nat := 0
  refreshAt : Nat := 0
  pfcOwed : Nat := 0
  announce : Bool := false
  pauses : Tbl Nat := []
  startTag : Tbl Word := []
  finishTag : Tbl Word := []
  awake : Nat := 0
  sending : Option Sending := none
  sampleAt : Nat := 0
  deriving DecidableEq, Repr

/-- A classifier row (R661): KEY and MASK as 64-byte numbers, ACTION as a 16-byte one; `bad` while it fails its check. -/
structure ClsRow where
  key : Nat := 0
  mask : Nat := 0
  action : Nat := 0
  hits : Word := 0
  valid : Bool := false
  bad : Bool := false
  deriving DecidableEq, Repr

/-- An entry of a hub table: its bytes, and TIME_MONO of its last refresh, use or arrival. -/
structure TabEnt where
  data : List Byte := []
  stamp : Nat := 0
  deriving DecidableEq, Repr

/-- A policer's bucket (R713): its bytes in units of 1/8000, and when that was. -/
structure Bucket where
  level : Nat := 0
  stamp : Nat := 0
  deriving DecidableEq, Repr

structure NetSt where
  ports : Tbl PortSt := []
  /-- Frames in the parse stage, oldest first, and which of them have been parsed (R653, R657). -/
  parse : List (Frame × Bool) := []
  /-- The cell each plot used last. -/
  lastCell : Tbl Nat := []
  /-- Classifier rows, keyed (2 * plot + bank) * 16384 + row. -/
  rows : Tbl ClsRow := []
  /-- Frames that wait for a delivery queue, keyed 256 * plot + queue. -/
  dq : Tbl (List Frame) := []
  /-- DQ_BASE changed since the queue last ran (R674), by the same key. -/
  dqChanged : Tbl Bool := []
  /-- Frames in the input of each plot's TRD engine. -/
  trdIn : Tbl (List Frame) := []
  waits : List WaitF := []
  /-- Frames in output buffers and push-out stores, by number, and the next number. -/
  frames : Tbl Frame := []
  next : Nat := 0
  /-- Every egress queue's frames, in queue order. -/
  ents : List QEnt := []
  /-- Hub tables 1 to 5 by entry index. -/
  tables : Tbl (Tbl TabEnt) := []
  buckets : Tbl Bucket := []
  deriving DecidableEq, Repr

/-! ### Reliable datagrams (chapter 19) -/

/-- A sequenced packet of a flow, sent and not acknowledged or still to be sent. Its payload is memory from `src`, read
anew whenever it is sent, or for a read response the bytes `data`. `off` is where it stands within its command. -/
structure TrdPkt where
  psn : Nat := 0
  typ : Nat
  first : Bool := false
  last : Bool := false
  err : Bool := false
  key : Nat := 0
  msgLen : Nat := 0
  addr : Nat := 0
  off : Nat := 0
  src : Option Nat := none
  len : Nat := 0
  data : List Byte := []
  cmd : Option Nat := none
  deriving DecidableEq, Repr

/-- A send command of a flow: its number and message, the PSN of its last packet once sent and whether that packet is
acknowledged, how many of its bytes are performed, a failure's RESULT and INFO, whether a READ's data has arrived, and
whether it has become stale (R744). -/
structure TrdCmd where
  num : Nat
  plot : Nat
  msg : Msg
  lastPsn : Option Nat := none
  acked : Bool := false
  bytes : Nat := 0
  fail : Option (Nat × Nat) := none
  arrived : Bool := false
  dead : Bool := false
  deriving DecidableEq, Repr

/-- What a flow's source holds beside its SWC entry: packets sent from UNA on, packets to send, commands in order, and
when an RNR wait ends (R742). -/
structure Flow where
  sent : List TrdPkt := []
  todo : List TrdPkt := []
  cmds : List TrdCmd := []
  rnrAt : Option Nat := none
  deriving DecidableEq, Repr

/-- A message of a flow that a receive ring's slot is being filled with (R748). -/
structure RxMsg where
  ring : Nat
  slot : Nat
  inc : Nat
  deriving DecidableEq, Repr

/-- A receive ring beyond its registers: slots taken from TAIL on, with whether each is complete, and whether its base
changed since it last ran (R748, R758). -/
structure RxRing where
  taken : List (Nat × Bool) := []
  changed : Bool := false
  deriving DecidableEq, Repr

structure TrdSt where
  /-- Flows this device sends on, by the first four key bytes of R734. -/
  flows : Tbl Flow := []
  /-- The number of the next command. -/
  next : Nat := 0
  /-- Incarnation counters by plot (R735). -/
  inc : Tbl Nat := []
  /-- Messages coming in, by flow; receive rings, keyed 64 * plot + ring. -/
  rx : Tbl RxMsg := []
  rings : Tbl RxRing := []
  deriving DecidableEq, Repr

/-! ### Tenant instances (chapter 9) -/

structure TenSt where
  /-- Mailbox notices that wait for space in a strand's mailbox, oldest first: the strand, FUNC and GEN and SEQ (R366). -/
  notices : List (Nat × Word) := []
  /-- Ledger heads that a RESTORE installed, by tenant: the sequence and digest of the newest record (R375). -/
  heads : Tbl (Nat × List Byte) := []
  deriving DecidableEq, Repr

/-! ### Boot (chapter 21) -/

/-- What is retained of the image that runs (R797, R810): its length, entry, rollback value, key slot and FUSE_OK. -/
structure RunImage where
  len : Nat := 0
  entry : Nat := 0
  rollback : Nat := 0
  key : Nat := 0
  fuseOk : Bool := false
  /-- The flash slot it came from, 1 for A and 2 for B, if any. -/
  slot : Nat := 0
  deriving DecidableEq, Repr

structure BootSt where
  /-- The bytes of the flash device that are not erased (0xFF), by offset (R799). -/
  flash : Tbl Byte := []
  /-- Programmed key slots, revocation bits, blown counter bits, and whether the factory fuse is intact (R780, R807). -/
  keys : Tbl (List Byte) := []
  revoked : Nat := 0
  blown : Nat := 0
  factory : Bool := false
  /-- The push wait runs, and since when (R785). -/
  waiting : Bool := false
  waitFrom : Nat := 0
  /-- The path that owns the push, MGMT_UART if `true`, how far it has pushed, and when it last sent a command
  (R786, R790). -/
  owner : Option Bool := none
  pushed : Nat := 0
  lastCmd : Nat := 0
  /-- Flash slots still to be tried, the one being loaded first (R784). -/
  slots : List Nat := []
  /-- The image that runs. -/
  run : Option RunImage := none
  /-- The plan's WRITE_BUF entry: where the HBM write buffer lies, and its grain buffers (R794). -/
  writeBuf : Nat := 0
  deriving DecidableEq, Repr

/-! ### Power (chapter 22) -/

/-- A gate beyond its register: when its block was gated, and whether the engines that end their work 80 µs later have
done so (R466, R511, R620, R830). -/
structure GateSt where
  since : Nat := 0
  cut : Bool := false
  deriving DecidableEq, Repr

/-- A GPIO pin: the level it drives, if any; and while it parks the direction of its weak pull (R839). -/
structure GpioSt where
  drives : Option Bool := none
  pullUp : Bool := false
  deriving DecidableEq, Repr

structure PowerSt where
  /-- Supplies are valid, and power-on reset is released (R820, R821). -/
  on : Bool := true
  /-- TIME_MONO when the start-up sequence of R821 began, and how far it has come: the first AVSBus request sent, the
  strips of R821 step 3 training, HBM trained. -/
  start : Nat := 0
  avs : Bool := false
  strips : Bool := false
  hbm : Bool := false
  /-- Deep sleep (R826). -/
  asleep : Bool := false
  gates : Tbl GateSt := []
  gpio : Tbl GpioSt := []
  deriving DecidableEq, Repr

/-! ### Outside the device -/

/-- What the device sends or drives, in order: the model's own record of its external interfaces. -/
inductive Out where
  /-- A signal pin's new level. -/
  | pin (name : String) (index : Nat) (level : Bool)
  /-- An AVSBus request for a voltage code (R43). -/
  | avs (code : Nat)
  /-- A 1PPS_OUT pulse and its width in ms (R66). -/
  | pps (widthMs : Nat)
  /-- A write transmitted on a link (R189). -/
  | linkWrite (w : Posted)
  /-- A read request sent to a host, with its routing ID and PASID prefix, and whether it is a translated request (R268,
  R271). -/
  | hostRead (f addr len : Nat) (rid : Nat) (pasid : Option Nat) (xlated : Bool)
  /-- An ATS Translation Request for a page (R271). -/
  | translationRequest (f : Nat) (rid : Nat) (pasid : Option Nat) (page : Nat)
  /-- A read request sent to a storage target: its address in the target's BAR (R598). -/
  | storageRead (target addr len : Nat)
  /-- An Invalidate Completion (R272), a PM_PME message (R290). -/
  | invalidateDone (f itag : Nat)
  | pmPme (f : Nat)
  /-- A row's bit set or cleared in a local target's bitmap (R558). -/
  | rowAlloc (target row : Nat)
  | rowFree (target row : Nat)
  /-- A row written: to a local target from block `lba` on, by an NVMe write with Force Unit Access set (R419, R553); or sent to
  a peer by TRD (R420). -/
  | rowWrite (target lba : Nat) (data : List Byte)
  | rowSend (node target row : Nat) (data : List Byte)
  /-- A fetch of a row (R519). -/
  | rowFetch (node target row : Nat)
  /-- A record handed to a tenant's ledger home, and a home's report of a durable record (R425). -/
  | ledgerHand (record : LedgerReq)
  | ledgerReport (node tenant seq : Nat)
  /-- A durable report for a peer's grain (R420). -/
  | durableReport (node target row : Nat) (ok : Bool)
  /-- A request for, and a release of, an object's repair lock (R532). -/
  | repairLock (object : Nat) (take : Bool)
  /-- A harrowing state record written (R556). -/
  | stateRecord (target lba : Nat) (data : List Byte)
  /-- A hot reset sent on a storage port; a configuration request sent below one (R599, R631). -/
  | portHotReset (port : Nat)
  | cfgRequest (cmd data : Word)
  /-- The completion of a request from below a storage port (R596). -/
  | inboundCpl (port : Nat) (ok : Bool) (data : List Byte)
  /-- The value a register read returns to a master (R85). -/
  | regRead (master offset : Nat) (value : Word)
  /-- A frame a network port starts to send, and one it ends with an error control character and an inverted FCS (R648). -/
  | frameTx (port : Nat) (data : List Byte)
  /-- The stamp of a PTP event message received or sent: time of day in seconds and nanoseconds (R63). -/
  | ptpStamp (port : Nat) (sent : Bool) (sec ns : Nat)
  | frameAbort (port : Nat)
  /-- A GPIO pin's driver: a level, or released (R838, R839). -/
  | gpio (index : Nat) (drives : Option Bool)
  /-- A copy of a 1PPS_OUT pulse on a GPIO pin. -/
  | gpioPps (index widthMs : Nat)
  /-- The answer to an SMBus command, or a NACK (R837); the answer frame of the Zencen loader (R791). -/
  | smb (ack : Bool) (data : List Byte)
  | zencen (frame : List Byte)
  deriving DecidableEq, Repr

/-- Everything but memory and the command queue. -/
structure Dev where
  part : Part := .t512
  /-- Registers whose value is not their reset value, by key (`RegName.key`). -/
  regs : Tbl Word := []
  clk : Clock := {}
  pace : PaceSt := {}
  tine : TineSt := {}
  caps : Tbl Capture := []
  flt : FaultSt := {}
  /-- Writes to windows not yet transmitted, oldest first: each idle cycle transmits them. -/
  posted : List Posted := []
  host : HostSt := {}
  ring : RingSt := {}
  vault : VaultSt := {}
  /-- Cipher schedulers by plot. -/
  cipher : Tbl CipherSt := []
  /-- DMA channels, keyed 64 * plot + channel. -/
  dma : Tbl DmaCh := []
  stg : StgSt := {}
  /-- Fold units, keyed 4 * plot + unit. -/
  fold : Tbl FoldU := []
  sow : SowSt := {}
  glean : GleanSt := {}
  net : NetSt := {}
  trd : TrdSt := {}
  ten : TenSt := {}
  boot : BootSt := {}
  pw : PowerSt := {}
  /-- Subsystem Vendor ID and Subsystem ID of the image's plan (R259, R794). -/
  subsys : Nat := 0
  out : List Out := []
  /-- Memory areas whose contents became undefined (R832): first address, size, and the free draw that stands for
  what they hold. -/
  pads : List (Nat × Nat × Nat) := []
  /-- How many free values the model has drawn: the model's own field, no state of the device. -/
  free : Nat := 0
  /-- Stores of the command in progress, newest first; empty between commands. They reach memory in order when
  the command ends (`State.run`), and the command itself sees them. -/
  wlog : List Host.Cell := []
  deriving DecidableEq, Repr

end Sys2Proof.Machine
end

