-- ==== Sys2Proof/Machine/RegMap.lean ====
section
/-!
DEFINITION. The register map of control space and of the functions' own pages: one name per
register of the spec's register tables, its place, its reset value and its fields.
Each register keeps the spec's own name, and each field is named `REGISTER.FIELD`.
The tables are those of the rules named beside each register.
-/

namespace Sys2Proof.Machine

/-- The registers the spec's tables name. -/
inductive RegName where
  | DEVICE_IDENT
  | DEVICE_STRIP_PLAN
  | DEVICE_PLACE
  | DEVICE_PACE_CTL
  | DEVICE_PACE_STATUS
  | DEVICE_PACE_DEADLINE
  | TIME_CTL
  | TIME_STATUS
  | TIME_MONO
  | TIME_NOW_SEC
  | TIME_NOW_NS
  | TIME_RATE
  | TIME_ADJ
  | TIME_REF
  | TIME_PPS_IN
  | TINE_STATUS
  | TINE_STRAND_CTL
  | TINE_STRAND_PC
  | TINE_STRAND_CAUSE
  | TINE_STRAND_RETIRED
  | TINE_STRAND_G
  | TINE_STRAND_W
  | TINE_STRAND_MISPRED
  | TINE_STRAND_SQUASH
  | DEVICE_SPEC_RING_FETCH
  | DEVICE_SPEC_RING_DISCARD
  | DEVICE_SPEC_RING_HOSTERR
  | DEVICE_SPEC_HEDGE_START
  | DEVICE_SPEC_HEDGE_WON
  | DEVICE_SPEC_LOSER
  | DEVICE_SPEC_DECRYPT_EARLY
  | DEVICE_SPEC_DECRYPT_DISCARD
  | DEVICE_SPEC_CLR
  | FN_IDENT
  | FN_STATUS
  | FN_HOST_ERR
  | FN_HOST_ERR_ADDR
  | FN_BUF_SLOT
  | FN_BUF_BASE
  | FN_BUF_LEN
  | FN_BUF_ATTR
  | HOST_LINK_PLAN
  | HOST_LINK_STATUS
  | HOST_PF_PLAN
  | HOST_FN_STATE
  | HOST_APT_BASE
  | HOST_APT_CTL
  | RINGS_FN_CAPS
  | RINGS_ERRLOG_HEAD
  | RINGS_ERRLOG_ACK
  | RINGS_ERRLOG_LOST
  | RINGS_SQ_BASE
  | RINGS_SQ_CTL
  | RINGS_SQ_STATUS
  | RINGS_SQ_COUNT
  | RINGS_SQ_RESTART
  | RINGS_CQ_BASE
  | RINGS_CQ_CTL
  | RINGS_CQ_STATUS
  | RINGS_SQ_BIND
  | RINGS_CQ_BIND
  | RINGS_CODE_BASE
  | RINGS_DRILL_BASE
  | TENANT_ID
  | TENANT_LIMITS
  | TENANT_TABLES
  | TENANT_POLICY
  | TENANT_POOL
  | TENANT_CTL
  | TENANT_STATE
  | TENANT_ITEMS
  | TENANT_POOL_TOTAL
  | TENANT_POOL_RESV
  | TENANT_STALE_DISCARDS
  | TENANT_PURGES
  | TENANT_MB_BASE
  | TENANT_MB_RAISE
  | TENANT_MIG_CTL
  | TENANT_MIG_ADDR
  | TENANT_MIG_LEN
  | DEVICE_PROFILE
  | DEVICE_SOW_CTL
  | DEVICE_SOW_EPOCH
  | DEVICE_SOW_NEXT
  | DEVICE_SOW_ISSUED
  | DEVICE_SOW_SESS
  | DEVICE_SOW_STATUS
  | FOLD_STATUS
  | FOLD_CMDS
  | FOLD_BYTES
  | FOLD_MISMATCH
  | FOLD_EVICT
  | FOLD_RECON
  | FOLD_CLR
  | FOLD_SLOT
  | DEVICE_VAULT_STATUS
  | DEVICE_VAULT_CHECK
  | DEVICE_VAULT_EKDIG
  | DEVICE_VAULT_DERIVES
  | DEVICE_VAULT_HITS
  | DEVICE_VAULT_MISSES
  | DEVICE_VAULT_PARITY
  | DEVICE_VAULT_CLR
  | CIPHER_STATUS
  | CIPHER_CMDS
  | CIPHER_BYTES
  | CIPHER_G2_BYTES
  | CIPHER_RELEASED
  | CIPHER_DISCARDED
  | CIPHER_CLR
  | DEVICE_GLEAN_CTL
  | DEVICE_GLEAN_RELEASED
  | DEVICE_GLEAN_MISMATCH
  | DEVICE_GLEAN_FETCHFAIL
  | DEVICE_GLEAN_UNRECOV
  | DEVICE_GLEAN_CLR
  | DEVICE_HARROW_CTL
  | DEVICE_HARROW_STATUS
  | DEVICE_HARROW_ROWS
  | DEVICE_HARROW_FAILED
  | DEVICE_HARROW_REPAIRED
  | DEVICE_HARROW_FREED
  | DEVICE_HARROW_BYTES
  | DEVICE_HARROW_BREAKS
  | DEVICE_HARROW_CLR
  | STORAGE_PORT_PLAN
  | STORAGE_PORT_STATUS
  | STORAGE_PORT_CTL
  | STORAGE_INWIN_BASE
  | STORAGE_INWIN_LIM
  | STORAGE_CFG_CMD
  | STORAGE_CFG_DATA
  | STORAGE_LATE
  | STORAGE_TGT_BIND
  | STORAGE_TGT_BAR
  | STORAGE_TGT_CTL
  | STORAGE_TGT_STATUS
  | STORAGE_QP_SQ
  | STORAGE_QP_CQ
  | STORAGE_QP_CTL
  | STORAGE_QP_STATUS
  | DMA_CTL
  | DMA_STATUS
  | DMA_BYTES
  | DMA_DESCS
  | DMA_BUSERR
  | DMA_ACTIVE
  | DMA_SHADOW
  | BUFM_CFG
  | BUFM_STATUS
  | BUFM_ALLOC
  | BUFM_FREE
  | BUFM_GIVE
  | BUFM_RECLAIM
  | BUFM_EVENTS
  | BUFM_LAST_EVENT
  | BUFM_RECLAIMED
  | NET_PORT_CTL
  | NET_PORT_STATUS
  | NET_PORT_PFC
  | NET_PORT_PFC_STATUS
  | NET_PRI_THRESH
  | NET_RX_FRAMES
  | NET_RX_BYTES
  | NET_RX_BAD
  | NET_RX_RUNT
  | NET_RX_OVERSIZE
  | NET_RX_OVERRUN
  | NET_TX_ABORT
  | NET_RX_MACCTL
  | NET_PARSE_CFG
  | PARSE_CTL
  | PARSE_STATUS
  | PARSE_SWAP
  | PARSE_CODE
  | PARSE_TABLE
  | PARSE_CELLS
  | PARSE_FRAMES
  | PARSE_FAULTS
  | CLS_CTL
  | CLS_STATUS
  | CLS_SWAP
  | CLS_MISSES
  | CLS_PARITY
  | DQ_BASE
  | DQ_CTL
  | DQ_HEAD
  | DQ_TAIL
  | SW_CTL
  | SW_BRIDGE_CTL
  | SW_ROUTE_CTL
  | SW_PUSHOUT
  | SW_WAITS
  | SW_FLUSHED
  | SW_MOVES
  | SW_ROUTE_DROP
  | SW_REROUTE
  | SW_REROUTE_DROP
  | SW_LOCAL_DROP
  | SW_CLR
  | SW_OB_STATUS
  | SW_PUSH
  | SW_PORT_CTL
  | SW_PORT_STATUS
  | SW_PORT_PEER
  | TABLES_CMD
  | TABLES_DATA
  | TABLES_PARITY
  | TABLES_PLC
  | SCHED_PORT_QMAP
  | SCHED_PORT_TEL
  | SCHED_PORT_VT
  | SCHED_Q_CTL
  | SCHED_QTEL_LAST
  | SCHED_QTEL_MAX
  | SCHED_POL_CFG
  | SCHED_POL_PASS
  | SCHED_POL_DROP
  | SCHED_RESV_CMD
  | SCHED_RESV_STATUS
  | SCHED_RESV
  | TRD_CTL
  | TRD_TIMER
  | TRD_ADDR
  | TRD_PREFIX6
  | TRD_REACH
  | TRD_TX_PKTS
  | TRD_RX_PKTS
  | TRD_RETX
  | TRD_RX_BAD
  | TRD_DUP
  | TRD_OOO
  | TRD_STALE_ACK
  | TRD_SWC_WAITS
  | TRD_PET_FULL
  | TRD_RNR
  | TRD_ACCESS
  | TRD_DROPPED
  | TRD_CLR
  | TRD_PLOT_STATUS
  | TRD_RING_BASE
  | TRD_RING_CTL
  | TRD_RING_HEAD
  | TRD_RING_TAIL
  | FAULT_CTL
  | FAULT_STATUS
  | FAULT_RING_BASE
  | FAULT_RING_SEQ
  | FAULT_RING_ACK
  | FAULT_RING_LOST
  | FAULT_NOTICE_LOST
  | FAULT_COALESCED
  | FAULT_CLR
  | FAULT_FORCE
  | FAULT_FATAL
  | FAULT_FATAL_CLR
  | FAULT_INJ_CTL
  | FAULT_INJ_UNIT
  | FAULT_INJ_ADDR
  | BOOT_STATUS
  | BOOT_CMD
  | BOOT_RESULT
  | BOOT_FLASH_CMD
  | BOOT_FLASH_ADDR
  | BOOT_SLOT_STATE
  | BOOT_FUSE_CMD
  | BOOT_FUSE_STATUS
  | BOOT_KEY_DIG
  | BOOT_WAKE_DIG
  | POWER_STATUS
  | POWER_RESET
  | POWER_SLEEP_CTL
  | POWER_SLEEP
  | POWER_WAKE_TIME
  | POWER_GATE
  | POWER_GPIO_CFG
  | POWER_GPIO_IN
  deriving DecidableEq, Repr

/-- A field of a register: the register, its lowest bit and its width. -/
structure Fld where
  reg : RegName
  lo : Nat
  width : Nat
  deriving DecidableEq, Repr

/-- The access codes of R12. -/
inductive Acc where
  | ro | rw | rw1c | rw1s | wo | rc
  deriving DecidableEq, Repr

/-- Which values a field takes: any, an inclusive range (any other value is a reserved encoding under
R95), or a rule of its own that `CtlWrite` decides (R866 and the register's own rule). -/
inductive Legal where
  | any
  | range (lo hi : Nat)
  | ruled
  deriving DecidableEq, Repr

/-- A field with its access code, whether R96 lets it change only while its unit is stopped, and the
values it takes. -/
structure FieldDesc where
  fld : Fld
  acc : Acc
  stopOnly : Bool
  legal : Legal
  deriving DecidableEq, Repr

def DEVICE_IDENT.PART : Fld := ⟨.DEVICE_IDENT, 0, 16⟩
def DEVICE_IDENT.STEPPING : Fld := ⟨.DEVICE_IDENT, 16, 8⟩
def DEVICE_IDENT.GEN_WRITE : Fld := ⟨.DEVICE_IDENT, 24, 8⟩
def DEVICE_IDENT.GEN_READ_MIN : Fld := ⟨.DEVICE_IDENT, 32, 8⟩
def DEVICE_STRIP_PLAN.S0 : Fld := ⟨.DEVICE_STRIP_PLAN, 0, 4⟩
def DEVICE_STRIP_PLAN.S1 : Fld := ⟨.DEVICE_STRIP_PLAN, 4, 4⟩
def DEVICE_STRIP_PLAN.S2 : Fld := ⟨.DEVICE_STRIP_PLAN, 8, 4⟩
def DEVICE_STRIP_PLAN.S3 : Fld := ⟨.DEVICE_STRIP_PLAN, 12, 4⟩
def DEVICE_STRIP_PLAN.S4 : Fld := ⟨.DEVICE_STRIP_PLAN, 16, 4⟩
def DEVICE_STRIP_PLAN.S5 : Fld := ⟨.DEVICE_STRIP_PLAN, 20, 4⟩
def DEVICE_STRIP_PLAN.S6 : Fld := ⟨.DEVICE_STRIP_PLAN, 24, 4⟩
def DEVICE_STRIP_PLAN.S7 : Fld := ⟨.DEVICE_STRIP_PLAN, 28, 4⟩
def DEVICE_PLACE.DEVICE : Fld := ⟨.DEVICE_PLACE, 6, 6⟩
def DEVICE_PLACE.HOLDING : Fld := ⟨.DEVICE_PLACE, 12, 12⟩
def DEVICE_PLACE.COMMON : Fld := ⟨.DEVICE_PLACE, 24, 12⟩
def DEVICE_PLACE.ESTATE : Fld := ⟨.DEVICE_PLACE, 36, 16⟩
def DEVICE_PLACE.LOCK : Fld := ⟨.DEVICE_PLACE, 63, 1⟩
def DEVICE_PACE_CTL.VMIN : Fld := ⟨.DEVICE_PACE_CTL, 0, 8⟩
def DEVICE_PACE_CTL.VMAX : Fld := ⟨.DEVICE_PACE_CTL, 8, 8⟩
def DEVICE_PACE_CTL.VFLOOR : Fld := ⟨.DEVICE_PACE_CTL, 16, 8⟩
def DEVICE_PACE_CTL.HEADROOM : Fld := ⟨.DEVICE_PACE_CTL, 32, 8⟩
def DEVICE_PACE_CTL.FORCE : Fld := ⟨.DEVICE_PACE_CTL, 40, 1⟩
def DEVICE_PACE_CTL.PIN : Fld := ⟨.DEVICE_PACE_CTL, 41, 1⟩
def DEVICE_PACE_STATUS.VREQ : Fld := ⟨.DEVICE_PACE_STATUS, 0, 8⟩
def DEVICE_PACE_STATUS.VREP : Fld := ⟨.DEVICE_PACE_STATUS, 8, 8⟩
def DEVICE_PACE_STATUS.TJ : Fld := ⟨.DEVICE_PACE_STATUS, 16, 8⟩
def DEVICE_PACE_STATUS.BELOW_FLOOR : Fld := ⟨.DEVICE_PACE_STATUS, 24, 1⟩
def DEVICE_PACE_STATUS.AVS_ERR : Fld := ⟨.DEVICE_PACE_STATUS, 25, 1⟩
def DEVICE_PACE_DEADLINE.TRD : Fld := ⟨.DEVICE_PACE_DEADLINE, 0, 1⟩
def DEVICE_PACE_DEADLINE.RESV : Fld := ⟨.DEVICE_PACE_DEADLINE, 1, 1⟩
def DEVICE_PACE_DEADLINE.HOSTRST : Fld := ⟨.DEVICE_PACE_DEADLINE, 2, 1⟩
def DEVICE_PACE_DEADLINE.RECOVERY : Fld := ⟨.DEVICE_PACE_DEADLINE, 3, 1⟩
def DEVICE_PACE_DEADLINE.FORCE : Fld := ⟨.DEVICE_PACE_DEADLINE, 4, 1⟩
def DEVICE_PACE_DEADLINE.BOOT : Fld := ⟨.DEVICE_PACE_DEADLINE, 6, 1⟩
def TIME_CTL.SRC : Fld := ⟨.TIME_CTL, 0, 2⟩
def TIME_CTL.HOLD_PPB : Fld := ⟨.TIME_CTL, 4, 12⟩
def TIME_CTL.SLEW_PPM : Fld := ⟨.TIME_CTL, 16, 7⟩
def TIME_CTL.REF_TIMEOUT : Fld := ⟨.TIME_CTL, 24, 8⟩
def TIME_CTL.PPS_OUT_EN : Fld := ⟨.TIME_CTL, 32, 1⟩
def TIME_STATUS.QUALITY : Fld := ⟨.TIME_STATUS, 0, 8⟩
def TIME_STATUS.STEP_PEND : Fld := ⟨.TIME_STATUS, 8, 1⟩
def TIME_STATUS.REF_LOST : Fld := ⟨.TIME_STATUS, 9, 1⟩
def TIME_STATUS.SLEWING : Fld := ⟨.TIME_STATUS, 10, 1⟩
def TIME_MONO.NS : Fld := ⟨.TIME_MONO, 0, 64⟩
def TIME_NOW_SEC.SEC : Fld := ⟨.TIME_NOW_SEC, 0, 48⟩
def TIME_NOW_NS.NS : Fld := ⟨.TIME_NOW_NS, 0, 32⟩
def TIME_NOW_NS.QUALITY : Fld := ⟨.TIME_NOW_NS, 32, 8⟩
def TIME_RATE.RATE : Fld := ⟨.TIME_RATE, 0, 32⟩
def TIME_ADJ.OFFSET : Fld := ⟨.TIME_ADJ, 0, 64⟩
def TIME_REF.BOUND_NS : Fld := ⟨.TIME_REF, 0, 32⟩
def TIME_REF.LOCKED : Fld := ⟨.TIME_REF, 32, 1⟩
def TIME_REF.TRACEABLE : Fld := ⟨.TIME_REF, 33, 1⟩
def TIME_PPS_IN.STAMP : Fld := ⟨.TIME_PPS_IN, 0, 64⟩
def TINE_STATUS.CTX0 : Fld := ⟨.TINE_STATUS, 0, 3⟩
def TINE_STATUS.CTX1 : Fld := ⟨.TINE_STATUS, 3, 3⟩
def TINE_STATUS.CTX2 : Fld := ⟨.TINE_STATUS, 6, 3⟩
def TINE_STATUS.CTX3 : Fld := ⟨.TINE_STATUS, 9, 3⟩
def TINE_STATUS.CTX4 : Fld := ⟨.TINE_STATUS, 12, 3⟩
def TINE_STATUS.SPARE_SID : Fld := ⟨.TINE_STATUS, 15, 9⟩
def TINE_STATUS.SPARE_USED : Fld := ⟨.TINE_STATUS, 24, 1⟩
def TINE_STATUS.FAULTED : Fld := ⟨.TINE_STATUS, 25, 1⟩
def TINE_STRAND_CTL.RUN : Fld := ⟨.TINE_STRAND_CTL, 0, 1⟩
def TINE_STRAND_CTL.STOPPED : Fld := ⟨.TINE_STRAND_CTL, 1, 1⟩
def TINE_STRAND_CTL.STEP : Fld := ⟨.TINE_STRAND_CTL, 2, 1⟩
def TINE_STRAND_PC.PC : Fld := ⟨.TINE_STRAND_PC, 2, 46⟩
def TINE_STRAND_CAUSE.CAUSE : Fld := ⟨.TINE_STRAND_CAUSE, 0, 8⟩
def TINE_STRAND_CAUSE.DOUBLE : Fld := ⟨.TINE_STRAND_CAUSE, 8, 1⟩
def TINE_STRAND_CAUSE.LOST : Fld := ⟨.TINE_STRAND_CAUSE, 9, 1⟩
def TINE_STRAND_CAUSE.PC : Fld := ⟨.TINE_STRAND_CAUSE, 16, 48⟩
def TINE_STRAND_RETIRED.COUNT : Fld := ⟨.TINE_STRAND_RETIRED, 0, 64⟩
def TINE_STRAND_G.VALUE : Fld := ⟨.TINE_STRAND_G, 0, 64⟩
def TINE_STRAND_W.VALUE : Fld := ⟨.TINE_STRAND_W, 0, 64⟩
def TINE_STRAND_MISPRED.COUNT : Fld := ⟨.TINE_STRAND_MISPRED, 0, 64⟩
def TINE_STRAND_SQUASH.COUNT : Fld := ⟨.TINE_STRAND_SQUASH, 0, 64⟩
def DEVICE_SPEC_RING_FETCH.COUNT : Fld := ⟨.DEVICE_SPEC_RING_FETCH, 0, 64⟩
def DEVICE_SPEC_RING_DISCARD.COUNT : Fld := ⟨.DEVICE_SPEC_RING_DISCARD, 0, 64⟩
def DEVICE_SPEC_RING_HOSTERR.COUNT : Fld := ⟨.DEVICE_SPEC_RING_HOSTERR, 0, 64⟩
def DEVICE_SPEC_HEDGE_START.COUNT : Fld := ⟨.DEVICE_SPEC_HEDGE_START, 0, 64⟩
def DEVICE_SPEC_HEDGE_WON.COUNT : Fld := ⟨.DEVICE_SPEC_HEDGE_WON, 0, 64⟩
def DEVICE_SPEC_LOSER.COUNT : Fld := ⟨.DEVICE_SPEC_LOSER, 0, 64⟩
def DEVICE_SPEC_DECRYPT_EARLY.COUNT : Fld := ⟨.DEVICE_SPEC_DECRYPT_EARLY, 0, 64⟩
def DEVICE_SPEC_DECRYPT_DISCARD.COUNT : Fld := ⟨.DEVICE_SPEC_DECRYPT_DISCARD, 0, 64⟩
def DEVICE_SPEC_CLR.DEVICE : Fld := ⟨.DEVICE_SPEC_CLR, 0, 1⟩
def DEVICE_SPEC_CLR.TINES : Fld := ⟨.DEVICE_SPEC_CLR, 1, 1⟩
def FN_IDENT.FUNC : Fld := ⟨.FN_IDENT, 0, 13⟩
def FN_IDENT.LINK : Fld := ⟨.FN_IDENT, 16, 6⟩
def FN_IDENT.PF : Fld := ⟨.FN_IDENT, 24, 8⟩
def FN_IDENT.IS_VF : Fld := ⟨.FN_IDENT, 32, 1⟩
def FN_STATUS.GEN : Fld := ⟨.FN_STATUS, 0, 16⟩
def FN_STATUS.SILENCED : Fld := ⟨.FN_STATUS, 16, 1⟩
def FN_STATUS.ATS_EN : Fld := ⟨.FN_STATUS, 17, 1⟩
def FN_STATUS.PASID_EN : Fld := ⟨.FN_STATUS, 18, 1⟩
def FN_STATUS.BUF_SLOTS : Fld := ⟨.FN_STATUS, 32, 21⟩
def FN_HOST_ERR.CPL_TIMEOUT : Fld := ⟨.FN_HOST_ERR, 0, 1⟩
def FN_HOST_ERR.CPL_ABORT : Fld := ⟨.FN_HOST_ERR, 1, 1⟩
def FN_HOST_ERR.POISONED : Fld := ⟨.FN_HOST_ERR, 2, 1⟩
def FN_HOST_ERR.XLATE : Fld := ⟨.FN_HOST_ERR, 3, 1⟩
def FN_HOST_ERR.BME_DROP : Fld := ⟨.FN_HOST_ERR, 4, 1⟩
def FN_HOST_ERR.BAR_HOLE : Fld := ⟨.FN_HOST_ERR, 5, 1⟩
def FN_HOST_ERR.BUF_REJECT : Fld := ⟨.FN_HOST_ERR, 6, 1⟩
def FN_HOST_ERR_ADDR.ADDR : Fld := ⟨.FN_HOST_ERR_ADDR, 0, 64⟩
def FN_BUF_SLOT.SLOT : Fld := ⟨.FN_BUF_SLOT, 0, 20⟩
def FN_BUF_BASE.BASE : Fld := ⟨.FN_BUF_BASE, 0, 64⟩
def FN_BUF_LEN.LENGTH : Fld := ⟨.FN_BUF_LEN, 0, 48⟩
def FN_BUF_ATTR.PASID : Fld := ⟨.FN_BUF_ATTR, 0, 20⟩
def FN_BUF_ATTR.PASID_EN : Fld := ⟨.FN_BUF_ATTR, 20, 1⟩
def FN_BUF_ATTR.READ : Fld := ⟨.FN_BUF_ATTR, 21, 1⟩
def FN_BUF_ATTR.WRITE : Fld := ⟨.FN_BUF_ATTR, 22, 1⟩
def FN_BUF_ATTR.VALID : Fld := ⟨.FN_BUF_ATTR, 23, 1⟩
def FN_BUF_ATTR.GEN : Fld := ⟨.FN_BUF_ATTR, 24, 8⟩
def HOST_LINK_PLAN.PRESENT : Fld := ⟨.HOST_LINK_PLAN, 0, 1⟩
def HOST_LINK_PLAN.FIRST_LANE : Fld := ⟨.HOST_LINK_PLAN, 1, 6⟩
def HOST_LINK_PLAN.WIDTH : Fld := ⟨.HOST_LINK_PLAN, 7, 3⟩
def HOST_LINK_PLAN.MAX_RATE : Fld := ⟨.HOST_LINK_PLAN, 10, 3⟩
def HOST_LINK_PLAN.PF_COUNT : Fld := ⟨.HOST_LINK_PLAN, 13, 3⟩
def HOST_LINK_PLAN.FIRST_PF : Fld := ⟨.HOST_LINK_PLAN, 16, 8⟩
def HOST_LINK_PLAN.WAKE : Fld := ⟨.HOST_LINK_PLAN, 24, 3⟩
def HOST_LINK_PLAN.BOOT : Fld := ⟨.HOST_LINK_PLAN, 27, 1⟩
def HOST_LINK_STATUS.STATE : Fld := ⟨.HOST_LINK_STATUS, 0, 4⟩
def HOST_LINK_STATUS.RATE : Fld := ⟨.HOST_LINK_STATUS, 4, 3⟩
def HOST_LINK_STATUS.LANES : Fld := ⟨.HOST_LINK_STATUS, 7, 5⟩
def HOST_LINK_STATUS.PERST : Fld := ⟨.HOST_LINK_STATUS, 12, 1⟩
def HOST_LINK_STATUS.DOWN_EV : Fld := ⟨.HOST_LINK_STATUS, 13, 1⟩
def HOST_LINK_STATUS.PERST_EV : Fld := ⟨.HOST_LINK_STATUS, 14, 1⟩
def HOST_LINK_STATUS.HOTRST_EV : Fld := ⟨.HOST_LINK_STATUS, 15, 1⟩
def HOST_LINK_STATUS.WAKE_PEND : Fld := ⟨.HOST_LINK_STATUS, 16, 1⟩
def HOST_PF_PLAN.LINK : Fld := ⟨.HOST_PF_PLAN, 0, 6⟩
def HOST_PF_PLAN.INDEX : Fld := ⟨.HOST_PF_PLAN, 6, 2⟩
def HOST_PF_PLAN.TOTAL_VFS : Fld := ⟨.HOST_PF_PLAN, 8, 13⟩
def HOST_PF_PLAN.PRESENT : Fld := ⟨.HOST_PF_PLAN, 31, 1⟩
def HOST_PF_PLAN.FIRST_VF : Fld := ⟨.HOST_PF_PLAN, 32, 12⟩
def HOST_PF_PLAN.VF_OFFSET : Fld := ⟨.HOST_PF_PLAN, 48, 16⟩
def HOST_FN_STATE.ENABLED : Fld := ⟨.HOST_FN_STATE, 0, 1⟩
def HOST_FN_STATE.MSE : Fld := ⟨.HOST_FN_STATE, 1, 1⟩
def HOST_FN_STATE.BME : Fld := ⟨.HOST_FN_STATE, 2, 1⟩
def HOST_FN_STATE.DSTATE : Fld := ⟨.HOST_FN_STATE, 3, 2⟩
def HOST_FN_STATE.SILENCED : Fld := ⟨.HOST_FN_STATE, 5, 1⟩
def HOST_FN_STATE.FLR_BUSY : Fld := ⟨.HOST_FN_STATE, 6, 1⟩
def HOST_FN_STATE.NUM_VFS : Fld := ⟨.HOST_FN_STATE, 7, 13⟩
def HOST_FN_STATE.FLR_EV : Fld := ⟨.HOST_FN_STATE, 32, 1⟩
def HOST_FN_STATE.BME_EV : Fld := ⟨.HOST_FN_STATE, 33, 1⟩
def HOST_FN_STATE.DSTATE_EV : Fld := ⟨.HOST_FN_STATE, 34, 1⟩
def HOST_FN_STATE.VF_EV : Fld := ⟨.HOST_FN_STATE, 35, 1⟩
def HOST_FN_STATE.LINKRST_EV : Fld := ⟨.HOST_FN_STATE, 36, 1⟩
def HOST_APT_BASE.IOVA : Fld := ⟨.HOST_APT_BASE, 27, 37⟩
def HOST_APT_CTL.FUNC : Fld := ⟨.HOST_APT_CTL, 0, 13⟩
def HOST_APT_CTL.PASID : Fld := ⟨.HOST_APT_CTL, 16, 20⟩
def HOST_APT_CTL.PASID_EN : Fld := ⟨.HOST_APT_CTL, 36, 1⟩
def HOST_APT_CTL.WRITE : Fld := ⟨.HOST_APT_CTL, 37, 1⟩
def HOST_APT_CTL.VALID : Fld := ⟨.HOST_APT_CTL, 38, 1⟩
def HOST_APT_CTL.IDLE : Fld := ⟨.HOST_APT_CTL, 39, 1⟩
def RINGS_FN_CAPS.SQ_MAX : Fld := ⟨.RINGS_FN_CAPS, 0, 17⟩
def RINGS_FN_CAPS.CQ_MAX : Fld := ⟨.RINGS_FN_CAPS, 32, 17⟩
def RINGS_ERRLOG_HEAD.SEQ : Fld := ⟨.RINGS_ERRLOG_HEAD, 0, 64⟩
def RINGS_ERRLOG_ACK.SEQ : Fld := ⟨.RINGS_ERRLOG_ACK, 0, 64⟩
def RINGS_ERRLOG_LOST.COUNT : Fld := ⟨.RINGS_ERRLOG_LOST, 0, 64⟩
def RINGS_SQ_BASE.IOVA : Fld := ⟨.RINGS_SQ_BASE, 10, 54⟩
def RINGS_SQ_CTL.RUN : Fld := ⟨.RINGS_SQ_CTL, 0, 1⟩
def RINGS_SQ_CTL.STOPPED : Fld := ⟨.RINGS_SQ_CTL, 1, 1⟩
def RINGS_SQ_CTL.MODE : Fld := ⟨.RINGS_SQ_CTL, 2, 2⟩
def RINGS_SQ_CTL.LOG2SIZE : Fld := ⟨.RINGS_SQ_CTL, 4, 5⟩
def RINGS_SQ_CTL.WEIGHT : Fld := ⟨.RINGS_SQ_CTL, 16, 8⟩
def RINGS_SQ_CTL.BURST : Fld := ⟨.RINGS_SQ_CTL, 24, 7⟩
def RINGS_SQ_CTL.CQ : Fld := ⟨.RINGS_SQ_CTL, 32, 16⟩
def RINGS_SQ_CTL.PREFETCH : Fld := ⟨.RINGS_SQ_CTL, 48, 3⟩
def RINGS_SQ_CTL.GAP : Fld := ⟨.RINGS_SQ_CTL, 52, 4⟩
def RINGS_SQ_STATUS.HEAD : Fld := ⟨.RINGS_SQ_STATUS, 0, 16⟩
def RINGS_SQ_STATUS.TAIL : Fld := ⟨.RINGS_SQ_STATUS, 16, 16⟩
def RINGS_SQ_STATUS.STATE : Fld := ⟨.RINGS_SQ_STATUS, 32, 3⟩
def RINGS_SQ_STATUS.HELD : Fld := ⟨.RINGS_SQ_STATUS, 36, 5⟩
def RINGS_SQ_STATUS.CAUSE : Fld := ⟨.RINGS_SQ_STATUS, 48, 16⟩
def RINGS_SQ_COUNT.OUTSTANDING : Fld := ⟨.RINGS_SQ_COUNT, 0, 17⟩
def RINGS_SQ_COUNT.MALFORMED : Fld := ⟨.RINGS_SQ_COUNT, 32, 32⟩
def RINGS_SQ_RESTART.GO : Fld := ⟨.RINGS_SQ_RESTART, 0, 1⟩
def RINGS_SQ_RESTART.ACTION : Fld := ⟨.RINGS_SQ_RESTART, 1, 2⟩
def RINGS_CQ_BASE.IOVA : Fld := ⟨.RINGS_CQ_BASE, 9, 55⟩
def RINGS_CQ_CTL.RUN : Fld := ⟨.RINGS_CQ_CTL, 0, 1⟩
def RINGS_CQ_CTL.STOPPED : Fld := ⟨.RINGS_CQ_CTL, 1, 1⟩
def RINGS_CQ_CTL.LOG2SIZE : Fld := ⟨.RINGS_CQ_CTL, 4, 5⟩
def RINGS_CQ_CTL.VECTOR : Fld := ⟨.RINGS_CQ_CTL, 16, 11⟩
def RINGS_CQ_CTL.COAL_COUNT : Fld := ⟨.RINGS_CQ_CTL, 32, 8⟩
def RINGS_CQ_CTL.COAL_TIME : Fld := ⟨.RINGS_CQ_CTL, 40, 8⟩
def RINGS_CQ_STATUS.TAIL : Fld := ⟨.RINGS_CQ_STATUS, 0, 16⟩
def RINGS_CQ_STATUS.HEAD : Fld := ⟨.RINGS_CQ_STATUS, 16, 16⟩
def RINGS_CQ_STATUS.PHASE : Fld := ⟨.RINGS_CQ_STATUS, 32, 1⟩
def RINGS_CQ_STATUS.FULL : Fld := ⟨.RINGS_CQ_STATUS, 33, 1⟩
def RINGS_CQ_STATUS.CONFIG : Fld := ⟨.RINGS_CQ_STATUS, 34, 1⟩
def RINGS_SQ_BIND.FUNC : Fld := ⟨.RINGS_SQ_BIND, 0, 13⟩
def RINGS_SQ_BIND.LOCAL : Fld := ⟨.RINGS_SQ_BIND, 16, 16⟩
def RINGS_SQ_BIND.DQ : Fld := ⟨.RINGS_SQ_BIND, 32, 6⟩
def RINGS_SQ_BIND.VALID : Fld := ⟨.RINGS_SQ_BIND, 63, 1⟩
def RINGS_CQ_BIND.FUNC : Fld := ⟨.RINGS_CQ_BIND, 0, 13⟩
def RINGS_CQ_BIND.LOCAL : Fld := ⟨.RINGS_CQ_BIND, 16, 16⟩
def RINGS_CQ_BIND.VALID : Fld := ⟨.RINGS_CQ_BIND, 63, 1⟩
def RINGS_CODE_BASE.BASE : Fld := ⟨.RINGS_CODE_BASE, 22, 26⟩
def RINGS_DRILL_BASE.BASE : Fld := ⟨.RINGS_DRILL_BASE, 27, 21⟩
def TENANT_ID.TENANT : Fld := ⟨.TENANT_ID, 0, 32⟩
def TENANT_ID.EPOCH : Fld := ⟨.TENANT_ID, 32, 16⟩
def TENANT_LIMITS.SQ_MAX : Fld := ⟨.TENANT_LIMITS, 0, 17⟩
def TENANT_LIMITS.CQ_MAX : Fld := ⟨.TENANT_LIMITS, 32, 17⟩
def TENANT_TABLES.BUF_SLOTS : Fld := ⟨.TENANT_TABLES, 0, 21⟩
def TENANT_TABLES.SESSIONS : Fld := ⟨.TENANT_TABLES, 32, 21⟩
def TENANT_POLICY.PROFILES : Fld := ⟨.TENANT_POLICY, 0, 16⟩
def TENANT_POLICY.BUDGET_MAX : Fld := ⟨.TENANT_POLICY, 16, 32⟩
def TENANT_POLICY.MB_STRAND : Fld := ⟨.TENANT_POLICY, 48, 9⟩
def TENANT_POOL.RESV : Fld := ⟨.TENANT_POOL, 0, 24⟩
def TENANT_POOL.LIMIT : Fld := ⟨.TENANT_POOL, 32, 24⟩
def TENANT_CTL.FREEZE : Fld := ⟨.TENANT_CTL, 0, 1⟩
def TENANT_CTL.FROZEN : Fld := ⟨.TENANT_CTL, 1, 1⟩
def TENANT_CTL.SAVED : Fld := ⟨.TENANT_CTL, 2, 1⟩
def TENANT_STATE.GEN : Fld := ⟨.TENANT_STATE, 0, 16⟩
def TENANT_STATE.OLDEST : Fld := ⟨.TENANT_STATE, 16, 16⟩
def TENANT_STATE.GRAINS : Fld := ⟨.TENANT_STATE, 32, 24⟩
def TENANT_ITEMS.LIVE : Fld := ⟨.TENANT_ITEMS, 0, 24⟩
def TENANT_ITEMS.STALE : Fld := ⟨.TENANT_ITEMS, 24, 24⟩
def TENANT_POOL_TOTAL.COUNT : Fld := ⟨.TENANT_POOL_TOTAL, 0, 24⟩
def TENANT_POOL_RESV.COUNT : Fld := ⟨.TENANT_POOL_RESV, 0, 24⟩
def TENANT_STALE_DISCARDS.COUNT : Fld := ⟨.TENANT_STALE_DISCARDS, 0, 64⟩
def TENANT_PURGES.COUNT : Fld := ⟨.TENANT_PURGES, 0, 64⟩
def TENANT_MB_BASE.BASE : Fld := ⟨.TENANT_MB_BASE, 26, 22⟩
def TENANT_MB_RAISE.FUNC : Fld := ⟨.TENANT_MB_RAISE, 0, 13⟩
def TENANT_MB_RAISE.GEN : Fld := ⟨.TENANT_MB_RAISE, 16, 16⟩
def TENANT_MIG_CTL.FUNC : Fld := ⟨.TENANT_MIG_CTL, 0, 13⟩
def TENANT_MIG_CTL.OP : Fld := ⟨.TENANT_MIG_CTL, 16, 2⟩
def TENANT_MIG_CTL.GO : Fld := ⟨.TENANT_MIG_CTL, 24, 1⟩
def TENANT_MIG_CTL.RESULT : Fld := ⟨.TENANT_MIG_CTL, 32, 4⟩
def TENANT_MIG_ADDR.ADDR : Fld := ⟨.TENANT_MIG_ADDR, 6, 42⟩
def TENANT_MIG_LEN.LENGTH : Fld := ⟨.TENANT_MIG_LEN, 0, 32⟩
def DEVICE_PROFILE.K : Fld := ⟨.DEVICE_PROFILE, 0, 7⟩
def DEVICE_PROFILE.M : Fld := ⟨.DEVICE_PROFILE, 8, 5⟩
def DEVICE_PROFILE.G : Fld := ⟨.DEVICE_PROFILE, 16, 3⟩
def DEVICE_PROFILE.HASH : Fld := ⟨.DEVICE_PROFILE, 20, 1⟩
def DEVICE_PROFILE.IDLE : Fld := ⟨.DEVICE_PROFILE, 62, 1⟩
def DEVICE_PROFILE.EN : Fld := ⟨.DEVICE_PROFILE, 63, 1⟩
def DEVICE_SOW_CTL.IDLE : Fld := ⟨.DEVICE_SOW_CTL, 0, 32⟩
def DEVICE_SOW_CTL.PEER_POOL : Fld := ⟨.DEVICE_SOW_CTL, 32, 24⟩
def DEVICE_SOW_EPOCH.EPOCH : Fld := ⟨.DEVICE_SOW_EPOCH, 0, 42⟩
def DEVICE_SOW_EPOCH.VALID : Fld := ⟨.DEVICE_SOW_EPOCH, 63, 1⟩
def DEVICE_SOW_NEXT.EPOCH : Fld := ⟨.DEVICE_SOW_NEXT, 0, 42⟩
def DEVICE_SOW_NEXT.VALID : Fld := ⟨.DEVICE_SOW_NEXT, 63, 1⟩
def DEVICE_SOW_ISSUED.COUNT : Fld := ⟨.DEVICE_SOW_ISSUED, 0, 40⟩
def DEVICE_SOW_ISSUED.DRY : Fld := ⟨.DEVICE_SOW_ISSUED, 62, 1⟩
def DEVICE_SOW_ISSUED.LOW : Fld := ⟨.DEVICE_SOW_ISSUED, 63, 1⟩
def DEVICE_SOW_SESS.TOTAL : Fld := ⟨.DEVICE_SOW_SESS, 0, 21⟩
def DEVICE_SOW_SESS.BASE : Fld := ⟨.DEVICE_SOW_SESS, 26, 22⟩
def DEVICE_SOW_STATUS.OPEN : Fld := ⟨.DEVICE_SOW_STATUS, 0, 21⟩
def DEVICE_SOW_STATUS.SPILLED : Fld := ⟨.DEVICE_SOW_STATUS, 32, 24⟩
def FOLD_STATUS.QUEUED : Fld := ⟨.FOLD_STATUS, 0, 5⟩
def FOLD_STATUS.BUSY : Fld := ⟨.FOLD_STATUS, 5, 1⟩
def FOLD_STATUS.HELD : Fld := ⟨.FOLD_STATUS, 6, 3⟩
def FOLD_STATUS.FAILED : Fld := ⟨.FOLD_STATUS, 9, 1⟩
def FOLD_STATUS.FALLOW : Fld := ⟨.FOLD_STATUS, 10, 1⟩
def FOLD_CMDS.COUNT : Fld := ⟨.FOLD_CMDS, 0, 64⟩
def FOLD_BYTES.COUNT : Fld := ⟨.FOLD_BYTES, 0, 64⟩
def FOLD_MISMATCH.COUNT : Fld := ⟨.FOLD_MISMATCH, 0, 64⟩
def FOLD_EVICT.COUNT : Fld := ⟨.FOLD_EVICT, 0, 64⟩
def FOLD_RECON.COUNT : Fld := ⟨.FOLD_RECON, 0, 64⟩
def FOLD_CLR.COUNTERS : Fld := ⟨.FOLD_CLR, 0, 1⟩
def FOLD_SLOT.SCX : Fld := ⟨.FOLD_SLOT, 0, 48⟩
def FOLD_SLOT.VALID : Fld := ⟨.FOLD_SLOT, 63, 1⟩
def DEVICE_VAULT_STATUS.ROOT : Fld := ⟨.DEVICE_VAULT_STATUS, 0, 1⟩
def DEVICE_VAULT_STATUS.ENROLLED : Fld := ⟨.DEVICE_VAULT_STATUS, 1, 1⟩
def DEVICE_VAULT_STATUS.PROVISIONED : Fld := ⟨.DEVICE_VAULT_STATUS, 2, 1⟩
def DEVICE_VAULT_STATUS.ESTATE : Fld := ⟨.DEVICE_VAULT_STATUS, 16, 16⟩
def DEVICE_VAULT_CHECK.CHECK : Fld := ⟨.DEVICE_VAULT_CHECK, 0, 64⟩
def DEVICE_VAULT_EKDIG.DIGEST : Fld := ⟨.DEVICE_VAULT_EKDIG, 0, 64⟩
def DEVICE_VAULT_DERIVES.COUNT : Fld := ⟨.DEVICE_VAULT_DERIVES, 0, 64⟩
def DEVICE_VAULT_HITS.COUNT : Fld := ⟨.DEVICE_VAULT_HITS, 0, 64⟩
def DEVICE_VAULT_MISSES.COUNT : Fld := ⟨.DEVICE_VAULT_MISSES, 0, 64⟩
def DEVICE_VAULT_PARITY.COUNT : Fld := ⟨.DEVICE_VAULT_PARITY, 0, 64⟩
def DEVICE_VAULT_CLR.COUNTERS : Fld := ⟨.DEVICE_VAULT_CLR, 0, 1⟩
def CIPHER_STATUS.QUEUED : Fld := ⟨.CIPHER_STATUS, 0, 7⟩
def CIPHER_STATUS.BUSY : Fld := ⟨.CIPHER_STATUS, 7, 1⟩
def CIPHER_STATUS.CORES : Fld := ⟨.CIPHER_STATUS, 8, 5⟩
def CIPHER_STATUS.G2_UP : Fld := ⟨.CIPHER_STATUS, 13, 1⟩
def CIPHER_STATUS.FALLOW : Fld := ⟨.CIPHER_STATUS, 14, 1⟩
def CIPHER_STATUS.REL_HELD : Fld := ⟨.CIPHER_STATUS, 15, 8⟩
def CIPHER_STATUS.CHAIN_HELD : Fld := ⟨.CIPHER_STATUS, 23, 7⟩
def CIPHER_STATUS.SLOTS : Fld := ⟨.CIPHER_STATUS, 30, 12⟩
def CIPHER_CMDS.COUNT : Fld := ⟨.CIPHER_CMDS, 0, 64⟩
def CIPHER_BYTES.COUNT : Fld := ⟨.CIPHER_BYTES, 0, 64⟩
def CIPHER_G2_BYTES.COUNT : Fld := ⟨.CIPHER_G2_BYTES, 0, 64⟩
def CIPHER_RELEASED.COUNT : Fld := ⟨.CIPHER_RELEASED, 0, 64⟩
def CIPHER_DISCARDED.COUNT : Fld := ⟨.CIPHER_DISCARDED, 0, 64⟩
def CIPHER_CLR.COUNTERS : Fld := ⟨.CIPHER_CLR, 0, 1⟩
def DEVICE_GLEAN_CTL.HEDGE : Fld := ⟨.DEVICE_GLEAN_CTL, 0, 20⟩
def DEVICE_GLEAN_CTL.FETCH_TO : Fld := ⟨.DEVICE_GLEAN_CTL, 20, 12⟩
def DEVICE_GLEAN_RELEASED.COUNT : Fld := ⟨.DEVICE_GLEAN_RELEASED, 0, 64⟩
def DEVICE_GLEAN_MISMATCH.COUNT : Fld := ⟨.DEVICE_GLEAN_MISMATCH, 0, 64⟩
def DEVICE_GLEAN_FETCHFAIL.COUNT : Fld := ⟨.DEVICE_GLEAN_FETCHFAIL, 0, 64⟩
def DEVICE_GLEAN_UNRECOV.COUNT : Fld := ⟨.DEVICE_GLEAN_UNRECOV, 0, 64⟩
def DEVICE_GLEAN_CLR.COUNTERS : Fld := ⟨.DEVICE_GLEAN_CLR, 0, 1⟩
def DEVICE_HARROW_CTL.EN : Fld := ⟨.DEVICE_HARROW_CTL, 0, 1⟩
def DEVICE_HARROW_CTL.REPAIR : Fld := ⟨.DEVICE_HARROW_CTL, 1, 1⟩
def DEVICE_HARROW_CTL.LEDGER : Fld := ⟨.DEVICE_HARROW_CTL, 2, 1⟩
def DEVICE_HARROW_CTL.RATE : Fld := ⟨.DEVICE_HARROW_CTL, 8, 16⟩
def DEVICE_HARROW_CTL.QUIET : Fld := ⟨.DEVICE_HARROW_CTL, 24, 8⟩
def DEVICE_HARROW_STATUS.PASSES : Fld := ⟨.DEVICE_HARROW_STATUS, 0, 32⟩
def DEVICE_HARROW_STATUS.ACTIVE : Fld := ⟨.DEVICE_HARROW_STATUS, 32, 1⟩
def DEVICE_HARROW_STATUS.BUDGET_WAIT : Fld := ⟨.DEVICE_HARROW_STATUS, 33, 1⟩
def DEVICE_HARROW_STATUS.REPAIRING : Fld := ⟨.DEVICE_HARROW_STATUS, 34, 1⟩
def DEVICE_HARROW_ROWS.COUNT : Fld := ⟨.DEVICE_HARROW_ROWS, 0, 64⟩
def DEVICE_HARROW_FAILED.COUNT : Fld := ⟨.DEVICE_HARROW_FAILED, 0, 64⟩
def DEVICE_HARROW_REPAIRED.COUNT : Fld := ⟨.DEVICE_HARROW_REPAIRED, 0, 64⟩
def DEVICE_HARROW_FREED.COUNT : Fld := ⟨.DEVICE_HARROW_FREED, 0, 64⟩
def DEVICE_HARROW_BYTES.COUNT : Fld := ⟨.DEVICE_HARROW_BYTES, 0, 64⟩
def DEVICE_HARROW_BREAKS.COUNT : Fld := ⟨.DEVICE_HARROW_BREAKS, 0, 64⟩
def DEVICE_HARROW_CLR.COUNTERS : Fld := ⟨.DEVICE_HARROW_CLR, 0, 1⟩
def STORAGE_PORT_PLAN.PRESENT : Fld := ⟨.STORAGE_PORT_PLAN, 0, 1⟩
def STORAGE_PORT_PLAN.WIDTH : Fld := ⟨.STORAGE_PORT_PLAN, 1, 3⟩
def STORAGE_PORT_PLAN.MAX_RATE : Fld := ⟨.STORAGE_PORT_PLAN, 4, 3⟩
def STORAGE_PORT_STATUS.STATE : Fld := ⟨.STORAGE_PORT_STATUS, 0, 4⟩
def STORAGE_PORT_STATUS.RATE : Fld := ⟨.STORAGE_PORT_STATUS, 4, 3⟩
def STORAGE_PORT_STATUS.LANES : Fld := ⟨.STORAGE_PORT_STATUS, 7, 5⟩
def STORAGE_PORT_STATUS.DOWN_EV : Fld := ⟨.STORAGE_PORT_STATUS, 12, 1⟩
def STORAGE_PORT_STATUS.ERR_EV : Fld := ⟨.STORAGE_PORT_STATUS, 13, 1⟩
def STORAGE_PORT_CTL.ENABLE : Fld := ⟨.STORAGE_PORT_CTL, 0, 1⟩
def STORAGE_PORT_CTL.HOTRST : Fld := ⟨.STORAGE_PORT_CTL, 1, 1⟩
def STORAGE_PORT_CTL.CPL_TO : Fld := ⟨.STORAGE_PORT_CTL, 8, 8⟩
def STORAGE_INWIN_BASE.BASE : Fld := ⟨.STORAGE_INWIN_BASE, 12, 36⟩
def STORAGE_INWIN_LIM.LIMIT : Fld := ⟨.STORAGE_INWIN_LIM, 12, 36⟩
def STORAGE_INWIN_LIM.WRITE : Fld := ⟨.STORAGE_INWIN_LIM, 62, 1⟩
def STORAGE_INWIN_LIM.VALID : Fld := ⟨.STORAGE_INWIN_LIM, 63, 1⟩
def STORAGE_CFG_CMD.PORT : Fld := ⟨.STORAGE_CFG_CMD, 0, 8⟩
def STORAGE_CFG_CMD.BUS : Fld := ⟨.STORAGE_CFG_CMD, 8, 8⟩
def STORAGE_CFG_CMD.DEV : Fld := ⟨.STORAGE_CFG_CMD, 16, 5⟩
def STORAGE_CFG_CMD.FN : Fld := ⟨.STORAGE_CFG_CMD, 21, 3⟩
def STORAGE_CFG_CMD.REG : Fld := ⟨.STORAGE_CFG_CMD, 24, 12⟩
def STORAGE_CFG_CMD.WRITE : Fld := ⟨.STORAGE_CFG_CMD, 36, 1⟩
def STORAGE_CFG_CMD.BE : Fld := ⟨.STORAGE_CFG_CMD, 37, 4⟩
def STORAGE_CFG_CMD.ERR : Fld := ⟨.STORAGE_CFG_CMD, 62, 1⟩
def STORAGE_CFG_CMD.BUSY : Fld := ⟨.STORAGE_CFG_CMD, 63, 1⟩
def STORAGE_CFG_DATA.DATA : Fld := ⟨.STORAGE_CFG_DATA, 0, 32⟩
def STORAGE_LATE.COUNT : Fld := ⟨.STORAGE_LATE, 0, 64⟩
def STORAGE_TGT_BIND.PORT : Fld := ⟨.STORAGE_TGT_BIND, 0, 8⟩
def STORAGE_TGT_BIND.RID : Fld := ⟨.STORAGE_TGT_BIND, 8, 16⟩
def STORAGE_TGT_BIND.NSID : Fld := ⟨.STORAGE_TGT_BIND, 32, 32⟩
def STORAGE_TGT_BAR.BASE : Fld := ⟨.STORAGE_TGT_BAR, 14, 50⟩
def STORAGE_TGT_CTL.VALID : Fld := ⟨.STORAGE_TGT_CTL, 0, 1⟩
def STORAGE_TGT_CTL.STOPPED : Fld := ⟨.STORAGE_TGT_CTL, 1, 1⟩
def STORAGE_TGT_CTL.DSTRD : Fld := ⟨.STORAGE_TGT_CTL, 2, 4⟩
def STORAGE_TGT_CTL.CMD_TO : Fld := ⟨.STORAGE_TGT_CTL, 6, 16⟩
def STORAGE_TGT_STATUS.PRESENT : Fld := ⟨.STORAGE_TGT_STATUS, 0, 1⟩
def STORAGE_TGT_STATUS.OUTSTANDING : Fld := ⟨.STORAGE_TGT_STATUS, 1, 20⟩
def STORAGE_TGT_STATUS.DOWN_EV : Fld := ⟨.STORAGE_TGT_STATUS, 21, 1⟩
def STORAGE_QP_SQ.BASE : Fld := ⟨.STORAGE_QP_SQ, 12, 36⟩
def STORAGE_QP_SQ.LOG2SIZE : Fld := ⟨.STORAGE_QP_SQ, 48, 5⟩
def STORAGE_QP_CQ.BASE : Fld := ⟨.STORAGE_QP_CQ, 12, 36⟩
def STORAGE_QP_CQ.LOG2SIZE : Fld := ⟨.STORAGE_QP_CQ, 48, 5⟩
def STORAGE_QP_CTL.RUN : Fld := ⟨.STORAGE_QP_CTL, 0, 1⟩
def STORAGE_QP_CTL.STOPPED : Fld := ⟨.STORAGE_QP_CTL, 1, 1⟩
def STORAGE_QP_STATUS.SQ_TAIL : Fld := ⟨.STORAGE_QP_STATUS, 0, 16⟩
def STORAGE_QP_STATUS.CQ_HEAD : Fld := ⟨.STORAGE_QP_STATUS, 16, 16⟩
def STORAGE_QP_STATUS.PHASE : Fld := ⟨.STORAGE_QP_STATUS, 32, 1⟩
def STORAGE_QP_STATUS.INFLIGHT : Fld := ⟨.STORAGE_QP_STATUS, 33, 17⟩
def DMA_CTL.GO : Fld := ⟨.DMA_CTL, 0, 1⟩
def DMA_CTL.ACTION : Fld := ⟨.DMA_CTL, 1, 2⟩
def DMA_STATUS.ACTIVE : Fld := ⟨.DMA_STATUS, 0, 1⟩
def DMA_STATUS.SHEMPTY : Fld := ⟨.DMA_STATUS, 1, 1⟩
def DMA_STATUS.HALTED : Fld := ⟨.DMA_STATUS, 2, 1⟩
def DMA_STATUS.TRIES : Fld := ⟨.DMA_STATUS, 3, 5⟩
def DMA_STATUS.FALLOW : Fld := ⟨.DMA_STATUS, 8, 1⟩
def DMA_BYTES.COUNT : Fld := ⟨.DMA_BYTES, 0, 64⟩
def DMA_DESCS.COUNT : Fld := ⟨.DMA_DESCS, 0, 64⟩
def DMA_BUSERR.COUNT : Fld := ⟨.DMA_BUSERR, 0, 64⟩
def DMA_ACTIVE.QWORD : Fld := ⟨.DMA_ACTIVE, 0, 64⟩
def DMA_SHADOW.QWORD : Fld := ⟨.DMA_SHADOW, 0, 64⟩
def BUFM_CFG.BASE : Fld := ⟨.BUFM_CFG, 8, 19⟩
def BUFM_CFG.COUNT : Fld := ⟨.BUFM_CFG, 32, 19⟩
def BUFM_CFG.EN : Fld := ⟨.BUFM_CFG, 63, 1⟩
def BUFM_STATUS.FREE : Fld := ⟨.BUFM_STATUS, 0, 19⟩
def BUFM_STATUS.IDLE : Fld := ⟨.BUFM_STATUS, 19, 1⟩
def BUFM_ALLOC.ADDR : Fld := ⟨.BUFM_ALLOC, 0, 48⟩
def BUFM_ALLOC.VALID : Fld := ⟨.BUFM_ALLOC, 63, 1⟩
def BUFM_FREE.ADDR : Fld := ⟨.BUFM_FREE, 0, 48⟩
def BUFM_GIVE.ADDR : Fld := ⟨.BUFM_GIVE, 0, 48⟩
def BUFM_GIVE.OWNER : Fld := ⟨.BUFM_GIVE, 48, 16⟩
def BUFM_RECLAIM.OWNER : Fld := ⟨.BUFM_RECLAIM, 0, 16⟩
def BUFM_EVENTS.COUNT : Fld := ⟨.BUFM_EVENTS, 0, 64⟩
def BUFM_LAST_EVENT.CELL : Fld := ⟨.BUFM_LAST_EVENT, 0, 19⟩
def BUFM_LAST_EVENT.KIND : Fld := ⟨.BUFM_LAST_EVENT, 20, 2⟩
def BUFM_LAST_EVENT.MASTER : Fld := ⟨.BUFM_LAST_EVENT, 32, 16⟩
def BUFM_RECLAIMED.COUNT : Fld := ⟨.BUFM_RECLAIMED, 0, 64⟩
def NET_PORT_CTL.RUN : Fld := ⟨.NET_PORT_CTL, 0, 1⟩
def NET_PORT_CTL.STOPPED : Fld := ⟨.NET_PORT_CTL, 1, 1⟩
def NET_PORT_CTL.MODE : Fld := ⟨.NET_PORT_CTL, 2, 3⟩
def NET_PORT_CTL.PARSE : Fld := ⟨.NET_PORT_CTL, 5, 1⟩
def NET_PORT_CTL.CUT : Fld := ⟨.NET_PORT_CTL, 6, 1⟩
def NET_PORT_CTL.DEF_PCP : Fld := ⟨.NET_PORT_CTL, 8, 3⟩
def NET_PORT_CTL.MAX_FRAME : Fld := ⟨.NET_PORT_CTL, 16, 14⟩
def NET_PORT_STATUS.STATE : Fld := ⟨.NET_PORT_STATUS, 0, 3⟩
def NET_PORT_STATUS.DOWN_EV : Fld := ⟨.NET_PORT_STATUS, 3, 1⟩
def NET_PORT_STATUS.UP_EV : Fld := ⟨.NET_PORT_STATUS, 4, 1⟩
def NET_PORT_PFC.PFC_EN : Fld := ⟨.NET_PORT_PFC, 0, 8⟩
def NET_PORT_PFC.QUANTA : Fld := ⟨.NET_PORT_PFC, 16, 16⟩
def NET_PORT_PFC.REFRESH : Fld := ⟨.NET_PORT_PFC, 32, 16⟩
def NET_PORT_PFC_STATUS.PAUSED : Fld := ⟨.NET_PORT_PFC_STATUS, 0, 8⟩
def NET_PORT_PFC_STATUS.PAUSING : Fld := ⟨.NET_PORT_PFC_STATUS, 8, 8⟩
def NET_PRI_THRESH.XOFF : Fld := ⟨.NET_PRI_THRESH, 0, 20⟩
def NET_PRI_THRESH.XON : Fld := ⟨.NET_PRI_THRESH, 20, 20⟩
def NET_PRI_THRESH.LIMIT : Fld := ⟨.NET_PRI_THRESH, 40, 20⟩
def NET_RX_FRAMES.COUNT : Fld := ⟨.NET_RX_FRAMES, 0, 64⟩
def NET_RX_BYTES.COUNT : Fld := ⟨.NET_RX_BYTES, 0, 64⟩
def NET_RX_BAD.COUNT : Fld := ⟨.NET_RX_BAD, 0, 64⟩
def NET_RX_RUNT.COUNT : Fld := ⟨.NET_RX_RUNT, 0, 64⟩
def NET_RX_OVERSIZE.COUNT : Fld := ⟨.NET_RX_OVERSIZE, 0, 64⟩
def NET_RX_OVERRUN.COUNT : Fld := ⟨.NET_RX_OVERRUN, 0, 64⟩
def NET_TX_ABORT.COUNT : Fld := ⟨.NET_TX_ABORT, 0, 64⟩
def NET_RX_MACCTL.COUNT : Fld := ⟨.NET_RX_MACCTL, 0, 64⟩
def NET_PARSE_CFG.TRD_PORT : Fld := ⟨.NET_PARSE_CFG, 0, 16⟩
def NET_PARSE_CFG.VXLAN_PORT : Fld := ⟨.NET_PARSE_CFG, 16, 16⟩
def PARSE_CTL.BUDGET : Fld := ⟨.PARSE_CTL, 0, 11⟩
def PARSE_CTL.EN : Fld := ⟨.PARSE_CTL, 11, 1⟩
def PARSE_STATUS.BANK : Fld := ⟨.PARSE_STATUS, 0, 1⟩
def PARSE_STATUS.OLD_BUSY : Fld := ⟨.PARSE_STATUS, 1, 1⟩
def PARSE_STATUS.STOPPED : Fld := ⟨.PARSE_STATUS, 2, 1⟩
def PARSE_SWAP.GO : Fld := ⟨.PARSE_SWAP, 0, 1⟩
def PARSE_CODE.BASE : Fld := ⟨.PARSE_CODE, 12, 36⟩
def PARSE_TABLE.BASE : Fld := ⟨.PARSE_TABLE, 12, 36⟩
def PARSE_TABLE.SIZE : Fld := ⟨.PARSE_TABLE, 48, 8⟩
def PARSE_CELLS.CELLS : Fld := ⟨.PARSE_CELLS, 0, 64⟩
def PARSE_FRAMES.COUNT : Fld := ⟨.PARSE_FRAMES, 0, 64⟩
def PARSE_FAULTS.COUNT : Fld := ⟨.PARSE_FAULTS, 0, 64⟩
def CLS_CTL.MISS : Fld := ⟨.CLS_CTL, 0, 2⟩
def CLS_CTL.MISS_DQ : Fld := ⟨.CLS_CTL, 2, 8⟩
def CLS_STATUS.BANK : Fld := ⟨.CLS_STATUS, 0, 1⟩
def CLS_STATUS.OLD_BUSY : Fld := ⟨.CLS_STATUS, 1, 1⟩
def CLS_SWAP.GO : Fld := ⟨.CLS_SWAP, 0, 1⟩
def CLS_MISSES.COUNT : Fld := ⟨.CLS_MISSES, 0, 64⟩
def CLS_PARITY.COUNT : Fld := ⟨.CLS_PARITY, 0, 64⟩
def DQ_BASE.BASE : Fld := ⟨.DQ_BASE, 12, 36⟩
def DQ_BASE.LOG2SIZE : Fld := ⟨.DQ_BASE, 48, 5⟩
def DQ_CTL.RUN : Fld := ⟨.DQ_CTL, 0, 1⟩
def DQ_CTL.STOPPED : Fld := ⟨.DQ_CTL, 1, 1⟩
def DQ_CTL.SLOTLOG : Fld := ⟨.DQ_CTL, 2, 4⟩
def DQ_CTL.STRAND : Fld := ⟨.DQ_CTL, 16, 9⟩
def DQ_HEAD.INDEX : Fld := ⟨.DQ_HEAD, 0, 16⟩
def DQ_TAIL.INDEX : Fld := ⟨.DQ_TAIL, 0, 16⟩
def SW_CTL.MAC : Fld := ⟨.SW_CTL, 0, 48⟩
def SW_BRIDGE_CTL.AGE : Fld := ⟨.SW_BRIDGE_CTL, 0, 16⟩
def SW_BRIDGE_CTL.LEARN_EN : Fld := ⟨.SW_BRIDGE_CTL, 16, 1⟩
def SW_ROUTE_CTL.HOLDOFF : Fld := ⟨.SW_ROUTE_CTL, 0, 16⟩
def SW_PUSHOUT.COUNT : Fld := ⟨.SW_PUSHOUT, 0, 64⟩
def SW_WAITS.COUNT : Fld := ⟨.SW_WAITS, 0, 64⟩
def SW_FLUSHED.COUNT : Fld := ⟨.SW_FLUSHED, 0, 64⟩
def SW_MOVES.COUNT : Fld := ⟨.SW_MOVES, 0, 64⟩
def SW_ROUTE_DROP.COUNT : Fld := ⟨.SW_ROUTE_DROP, 0, 64⟩
def SW_REROUTE.COUNT : Fld := ⟨.SW_REROUTE, 0, 64⟩
def SW_REROUTE_DROP.COUNT : Fld := ⟨.SW_REROUTE_DROP, 0, 64⟩
def SW_LOCAL_DROP.COUNT : Fld := ⟨.SW_LOCAL_DROP, 0, 64⟩
def SW_CLR.COUNTERS : Fld := ⟨.SW_CLR, 0, 1⟩
def SW_OB_STATUS.TOTAL : Fld := ⟨.SW_OB_STATUS, 0, 20⟩
def SW_OB_STATUS.FREE : Fld := ⟨.SW_OB_STATUS, 20, 20⟩
def SW_PUSH.EN : Fld := ⟨.SW_PUSH, 0, 1⟩
def SW_PUSH.IDLE : Fld := ⟨.SW_PUSH, 1, 1⟩
def SW_PUSH.SIZE : Fld := ⟨.SW_PUSH, 24, 6⟩
def SW_PUSH.BASE : Fld := ⟨.SW_PUSH, 30, 18⟩
def SW_PORT_CTL.LIMIT : Fld := ⟨.SW_PORT_CTL, 0, 20⟩
def SW_PORT_CTL.LEARN : Fld := ⟨.SW_PORT_CTL, 20, 1⟩
def SW_PORT_CTL.FLOOD : Fld := ⟨.SW_PORT_CTL, 21, 1⟩
def SW_PORT_CTL.MESH : Fld := ⟨.SW_PORT_CTL, 22, 1⟩
def SW_PORT_CTL.FLUSH : Fld := ⟨.SW_PORT_CTL, 23, 1⟩
def SW_PORT_STATUS.CELLS : Fld := ⟨.SW_PORT_STATUS, 0, 20⟩
def SW_PORT_STATUS.PUSHED : Fld := ⟨.SW_PORT_STATUS, 20, 19⟩
def SW_PORT_STATUS.ROUTE_UP : Fld := ⟨.SW_PORT_STATUS, 39, 1⟩
def SW_PORT_STATUS.PEER_SEEN : Fld := ⟨.SW_PORT_STATUS, 40, 1⟩
def SW_PORT_PEER.PEER_NODE : Fld := ⟨.SW_PORT_PEER, 0, 24⟩
def TABLES_CMD.OP : Fld := ⟨.TABLES_CMD, 0, 4⟩
def TABLES_CMD.TABLE : Fld := ⟨.TABLES_CMD, 4, 4⟩
def TABLES_CMD.INDEX : Fld := ⟨.TABLES_CMD, 8, 24⟩
def TABLES_CMD.RESULT : Fld := ⟨.TABLES_CMD, 32, 4⟩
def TABLES_CMD.BUSY : Fld := ⟨.TABLES_CMD, 63, 1⟩
def TABLES_DATA.QWORD : Fld := ⟨.TABLES_DATA, 0, 64⟩
def TABLES_PARITY.COUNT : Fld := ⟨.TABLES_PARITY, 0, 64⟩
def TABLES_PLC.EN : Fld := ⟨.TABLES_PLC, 0, 1⟩
def TABLES_PLC.IDLE : Fld := ⟨.TABLES_PLC, 1, 1⟩
def TABLES_PLC.BASE : Fld := ⟨.TABLES_PLC, 26, 22⟩
def SCHED_PORT_QMAP.Q_PRI0 : Fld := ⟨.SCHED_PORT_QMAP, 0, 4⟩
def SCHED_PORT_QMAP.Q_PRI1 : Fld := ⟨.SCHED_PORT_QMAP, 4, 4⟩
def SCHED_PORT_QMAP.Q_PRI2 : Fld := ⟨.SCHED_PORT_QMAP, 8, 4⟩
def SCHED_PORT_QMAP.Q_PRI3 : Fld := ⟨.SCHED_PORT_QMAP, 12, 4⟩
def SCHED_PORT_QMAP.Q_PRI4 : Fld := ⟨.SCHED_PORT_QMAP, 16, 4⟩
def SCHED_PORT_QMAP.Q_PRI5 : Fld := ⟨.SCHED_PORT_QMAP, 20, 4⟩
def SCHED_PORT_QMAP.Q_PRI6 : Fld := ⟨.SCHED_PORT_QMAP, 24, 4⟩
def SCHED_PORT_QMAP.Q_PRI7 : Fld := ⟨.SCHED_PORT_QMAP, 28, 4⟩
def SCHED_PORT_TEL.PERIOD : Fld := ⟨.SCHED_PORT_TEL, 0, 20⟩
def SCHED_PORT_TEL.EN : Fld := ⟨.SCHED_PORT_TEL, 20, 1⟩
def SCHED_PORT_VT.V : Fld := ⟨.SCHED_PORT_VT, 0, 64⟩
def SCHED_Q_CTL.WEIGHT : Fld := ⟨.SCHED_Q_CTL, 0, 8⟩
def SCHED_Q_CTL.PRI : Fld := ⟨.SCHED_Q_CTL, 8, 3⟩
def SCHED_QTEL_LAST.DEPTH : Fld := ⟨.SCHED_QTEL_LAST, 0, 24⟩
def SCHED_QTEL_LAST.DELAY : Fld := ⟨.SCHED_QTEL_LAST, 24, 40⟩
def SCHED_QTEL_MAX.DEPTH : Fld := ⟨.SCHED_QTEL_MAX, 0, 24⟩
def SCHED_QTEL_MAX.DELAY : Fld := ⟨.SCHED_QTEL_MAX, 24, 40⟩
def SCHED_POL_CFG.RATE : Fld := ⟨.SCHED_POL_CFG, 0, 24⟩
def SCHED_POL_CFG.BURST : Fld := ⟨.SCHED_POL_CFG, 24, 24⟩
def SCHED_POL_PASS.COUNT : Fld := ⟨.SCHED_POL_PASS, 0, 64⟩
def SCHED_POL_DROP.COUNT : Fld := ⟨.SCHED_POL_DROP, 0, 64⟩
def SCHED_RESV_CMD.OP : Fld := ⟨.SCHED_RESV_CMD, 0, 2⟩
def SCHED_RESV_CMD.CLASS : Fld := ⟨.SCHED_RESV_CMD, 2, 3⟩
def SCHED_RESV_CMD.FUNC : Fld := ⟨.SCHED_RESV_CMD, 5, 13⟩
def SCHED_RESV_CMD.RATE : Fld := ⟨.SCHED_RESV_CMD, 18, 13⟩
def SCHED_RESV_CMD.SLOT : Fld := ⟨.SCHED_RESV_CMD, 32, 8⟩
def SCHED_RESV_CMD.RESULT : Fld := ⟨.SCHED_RESV_CMD, 40, 4⟩
def SCHED_RESV_CMD.BUSY : Fld := ⟨.SCHED_RESV_CMD, 63, 1⟩
def SCHED_RESV_STATUS.RESERVED : Fld := ⟨.SCHED_RESV_STATUS, 0, 13⟩
def SCHED_RESV_STATUS.RESERVABLE : Fld := ⟨.SCHED_RESV_STATUS, 40, 13⟩
def SCHED_RESV.CLASS : Fld := ⟨.SCHED_RESV, 2, 3⟩
def SCHED_RESV.FUNC : Fld := ⟨.SCHED_RESV, 5, 13⟩
def SCHED_RESV.RATE : Fld := ⟨.SCHED_RESV, 18, 13⟩
def SCHED_RESV.VALID : Fld := ⟨.SCHED_RESV, 63, 1⟩
def TRD_CTL.EN : Fld := ⟨.TRD_CTL, 0, 1⟩
def TRD_CTL.STOPPED : Fld := ⟨.TRD_CTL, 1, 1⟩
def TRD_CTL.DATA_PCP : Fld := ⟨.TRD_CTL, 4, 3⟩
def TRD_CTL.CTL_PCP : Fld := ⟨.TRD_CTL, 8, 3⟩
def TRD_CTL.VID : Fld := ⟨.TRD_CTL, 12, 12⟩
def TRD_CTL.MAXPAY : Fld := ⟨.TRD_CTL, 24, 6⟩
def TRD_CTL.WINDOW : Fld := ⟨.TRD_CTL, 32, 13⟩
def TRD_TIMER.RTO : Fld := ⟨.TRD_TIMER, 0, 16⟩
def TRD_TIMER.RETRIES : Fld := ⟨.TRD_TIMER, 16, 4⟩
def TRD_TIMER.RNR_DELAY : Fld := ⟨.TRD_TIMER, 20, 16⟩
def TRD_TIMER.PET_AGE : Fld := ⟨.TRD_TIMER, 36, 16⟩
def TRD_TIMER.PET_HOLD : Fld := ⟨.TRD_TIMER, 52, 12⟩
def TRD_ADDR.PREFIX4 : Fld := ⟨.TRD_ADDR, 0, 8⟩
def TRD_ADDR.IPV6 : Fld := ⟨.TRD_ADDR, 8, 1⟩
def TRD_ADDR.SPORT : Fld := ⟨.TRD_ADDR, 16, 16⟩
def TRD_PREFIX6.PREFIX : Fld := ⟨.TRD_PREFIX6, 0, 64⟩
def TRD_REACH.LOG2 : Fld := ⟨.TRD_REACH, 0, 5⟩
def TRD_REACH.VALID : Fld := ⟨.TRD_REACH, 5, 1⟩
def TRD_REACH.BASE : Fld := ⟨.TRD_REACH, 12, 36⟩
def TRD_TX_PKTS.COUNT : Fld := ⟨.TRD_TX_PKTS, 0, 64⟩
def TRD_RX_PKTS.COUNT : Fld := ⟨.TRD_RX_PKTS, 0, 64⟩
def TRD_RETX.COUNT : Fld := ⟨.TRD_RETX, 0, 64⟩
def TRD_RX_BAD.COUNT : Fld := ⟨.TRD_RX_BAD, 0, 64⟩
def TRD_DUP.COUNT : Fld := ⟨.TRD_DUP, 0, 64⟩
def TRD_OOO.COUNT : Fld := ⟨.TRD_OOO, 0, 64⟩
def TRD_STALE_ACK.COUNT : Fld := ⟨.TRD_STALE_ACK, 0, 64⟩
def TRD_SWC_WAITS.COUNT : Fld := ⟨.TRD_SWC_WAITS, 0, 64⟩
def TRD_PET_FULL.COUNT : Fld := ⟨.TRD_PET_FULL, 0, 64⟩
def TRD_RNR.COUNT : Fld := ⟨.TRD_RNR, 0, 64⟩
def TRD_ACCESS.COUNT : Fld := ⟨.TRD_ACCESS, 0, 64⟩
def TRD_DROPPED.COUNT : Fld := ⟨.TRD_DROPPED, 0, 64⟩
def TRD_CLR.COUNTERS : Fld := ⟨.TRD_CLR, 0, 1⟩
def TRD_PLOT_STATUS.WAITING : Fld := ⟨.TRD_PLOT_STATUS, 0, 7⟩
def TRD_RING_BASE.BASE : Fld := ⟨.TRD_RING_BASE, 12, 36⟩
def TRD_RING_BASE.LOG2 : Fld := ⟨.TRD_RING_BASE, 48, 5⟩
def TRD_RING_CTL.RUN : Fld := ⟨.TRD_RING_CTL, 0, 1⟩
def TRD_RING_CTL.STOPPED : Fld := ⟨.TRD_RING_CTL, 1, 1⟩
def TRD_RING_CTL.SLOTLOG : Fld := ⟨.TRD_RING_CTL, 2, 4⟩
def TRD_RING_HEAD.INDEX : Fld := ⟨.TRD_RING_HEAD, 0, 16⟩
def TRD_RING_TAIL.INDEX : Fld := ⟨.TRD_RING_TAIL, 0, 16⟩
def FAULT_CTL.NOTIFY : Fld := ⟨.FAULT_CTL, 0, 3⟩
def FAULT_CTL.ALERT : Fld := ⟨.FAULT_CTL, 4, 3⟩
def FAULT_CTL.RING_EN : Fld := ⟨.FAULT_CTL, 8, 1⟩
def FAULT_STATUS.FATAL : Fld := ⟨.FAULT_STATUS, 0, 1⟩
def FAULT_STATUS.OVERFLOW : Fld := ⟨.FAULT_STATUS, 1, 1⟩
def FAULT_STATUS.ALERT : Fld := ⟨.FAULT_STATUS, 2, 1⟩
def FAULT_STATUS.RING_IDLE : Fld := ⟨.FAULT_STATUS, 3, 1⟩
def FAULT_STATUS.INJ_AVAIL : Fld := ⟨.FAULT_STATUS, 4, 1⟩
def FAULT_STATUS.WINDOWS : Fld := ⟨.FAULT_STATUS, 5, 9⟩
def FAULT_RING_BASE.BASE : Fld := ⟨.FAULT_RING_BASE, 18, 30⟩
def FAULT_RING_SEQ.SEQ : Fld := ⟨.FAULT_RING_SEQ, 0, 64⟩
def FAULT_RING_ACK.SEQ : Fld := ⟨.FAULT_RING_ACK, 0, 64⟩
def FAULT_RING_LOST.COUNT : Fld := ⟨.FAULT_RING_LOST, 0, 64⟩
def FAULT_NOTICE_LOST.COUNT : Fld := ⟨.FAULT_NOTICE_LOST, 0, 64⟩
def FAULT_COALESCED.COUNT : Fld := ⟨.FAULT_COALESCED, 0, 64⟩
def FAULT_CLR.CLEAR : Fld := ⟨.FAULT_CLR, 0, 1⟩
def FAULT_FORCE.GO : Fld := ⟨.FAULT_FORCE, 0, 1⟩
def FAULT_FORCE.DETAIL : Fld := ⟨.FAULT_FORCE, 16, 32⟩
def FAULT_FATAL.BYTES : Fld := ⟨.FAULT_FATAL, 0, 64⟩
def FAULT_FATAL_CLR.CLEAR : Fld := ⟨.FAULT_FATAL_CLR, 0, 1⟩
def FAULT_INJ_CTL.CODE : Fld := ⟨.FAULT_INJ_CTL, 0, 16⟩
def FAULT_INJ_CTL.UNIT_KIND : Fld := ⟨.FAULT_INJ_CTL, 16, 4⟩
def FAULT_INJ_CTL.GO : Fld := ⟨.FAULT_INJ_CTL, 63, 1⟩
def FAULT_INJ_UNIT.UNIT : Fld := ⟨.FAULT_INJ_UNIT, 0, 32⟩
def FAULT_INJ_ADDR.ADDR : Fld := ⟨.FAULT_INJ_ADDR, 0, 48⟩
def BOOT_STATUS.PHASE : Fld := ⟨.BOOT_STATUS, 0, 3⟩
def BOOT_STATUS.SOURCE : Fld := ⟨.BOOT_STATUS, 3, 3⟩
def BOOT_STATUS.WAIT_MS : Fld := ⟨.BOOT_STATUS, 8, 12⟩
def BOOT_STATUS.RUN_SLOT : Fld := ⟨.BOOT_STATUS, 20, 2⟩
def BOOT_STATUS.PENDING : Fld := ⟨.BOOT_STATUS, 22, 1⟩
def BOOT_STATUS.COUNTER : Fld := ⟨.BOOT_STATUS, 32, 9⟩
def BOOT_CMD.OP : Fld := ⟨.BOOT_CMD, 0, 3⟩
def BOOT_CMD.OFFSET : Fld := ⟨.BOOT_CMD, 8, 26⟩
def BOOT_CMD.LENGTH : Fld := ⟨.BOOT_CMD, 34, 23⟩
def BOOT_CMD.BUSY : Fld := ⟨.BOOT_CMD, 63, 1⟩
def BOOT_RESULT.CODE : Fld := ⟨.BOOT_RESULT, 0, 8⟩
def BOOT_RESULT.A_CODE : Fld := ⟨.BOOT_RESULT, 8, 8⟩
def BOOT_RESULT.B_CODE : Fld := ⟨.BOOT_RESULT, 16, 8⟩
def BOOT_FLASH_CMD.OP : Fld := ⟨.BOOT_FLASH_CMD, 0, 4⟩
def BOOT_FLASH_CMD.SLOT : Fld := ⟨.BOOT_FLASH_CMD, 4, 1⟩
def BOOT_FLASH_CMD.RAISE : Fld := ⟨.BOOT_FLASH_CMD, 5, 1⟩
def BOOT_FLASH_CMD.OFFSET : Fld := ⟨.BOOT_FLASH_CMD, 8, 28⟩
def BOOT_FLASH_CMD.LENGTH : Fld := ⟨.BOOT_FLASH_CMD, 36, 23⟩
def BOOT_FLASH_CMD.RESULT : Fld := ⟨.BOOT_FLASH_CMD, 59, 4⟩
def BOOT_FLASH_CMD.BUSY : Fld := ⟨.BOOT_FLASH_CMD, 63, 1⟩
def BOOT_FLASH_ADDR.ADDR : Fld := ⟨.BOOT_FLASH_ADDR, 0, 48⟩
def BOOT_SLOT_STATE.SLOT0 : Fld := ⟨.BOOT_SLOT_STATE, 0, 8⟩
def BOOT_SLOT_STATE.SLOT1 : Fld := ⟨.BOOT_SLOT_STATE, 8, 8⟩
def BOOT_FUSE_CMD.OP : Fld := ⟨.BOOT_FUSE_CMD, 0, 2⟩
def BOOT_FUSE_CMD.SLOT : Fld := ⟨.BOOT_FUSE_CMD, 2, 3⟩
def BOOT_FUSE_CMD.RESULT : Fld := ⟨.BOOT_FUSE_CMD, 59, 4⟩
def BOOT_FUSE_CMD.BUSY : Fld := ⟨.BOOT_FUSE_CMD, 63, 1⟩
def BOOT_FUSE_STATUS.PROGRAMMED : Fld := ⟨.BOOT_FUSE_STATUS, 0, 8⟩
def BOOT_FUSE_STATUS.REVOKED : Fld := ⟨.BOOT_FUSE_STATUS, 8, 8⟩
def BOOT_FUSE_STATUS.RUN_KEY : Fld := ⟨.BOOT_FUSE_STATUS, 16, 3⟩
def BOOT_FUSE_STATUS.COUNTER : Fld := ⟨.BOOT_FUSE_STATUS, 19, 9⟩
def BOOT_FUSE_STATUS.FACTORY : Fld := ⟨.BOOT_FUSE_STATUS, 28, 1⟩
def BOOT_KEY_DIG.BYTES : Fld := ⟨.BOOT_KEY_DIG, 0, 64⟩
def BOOT_WAKE_DIG.BYTES : Fld := ⟨.BOOT_WAKE_DIG, 0, 64⟩
def POWER_STATUS.LAST_RESET : Fld := ⟨.POWER_STATUS, 0, 3⟩
def POWER_STATUS.WAKE_CAUSE : Fld := ⟨.POWER_STATUS, 3, 5⟩
def POWER_RESET.KIND : Fld := ⟨.POWER_RESET, 0, 2⟩
def POWER_RESET.KEY : Fld := ⟨.POWER_RESET, 8, 8⟩
def POWER_SLEEP_CTL.WAKE_EN : Fld := ⟨.POWER_SLEEP_CTL, 0, 5⟩
def POWER_SLEEP.KIND : Fld := ⟨.POWER_SLEEP, 0, 2⟩
def POWER_SLEEP.KEY : Fld := ⟨.POWER_SLEEP, 8, 8⟩
def POWER_WAKE_TIME.TIME : Fld := ⟨.POWER_WAKE_TIME, 0, 64⟩
def POWER_GATE.REQ : Fld := ⟨.POWER_GATE, 0, 1⟩
def POWER_GATE.STATE : Fld := ⟨.POWER_GATE, 1, 2⟩
def POWER_GATE.FORCED : Fld := ⟨.POWER_GATE, 3, 1⟩
def POWER_GATE.FAILED : Fld := ⟨.POWER_GATE, 4, 1⟩
def POWER_GPIO_CFG.FUNC : Fld := ⟨.POWER_GPIO_CFG, 0, 4⟩
def POWER_GPIO_CFG.PULL : Fld := ⟨.POWER_GPIO_CFG, 4, 2⟩
def POWER_GPIO_CFG.OUT : Fld := ⟨.POWER_GPIO_CFG, 6, 1⟩
def POWER_GPIO_CFG.PARKED : Fld := ⟨.POWER_GPIO_CFG, 7, 1⟩
def POWER_GPIO_IN.LEVEL : Fld := ⟨.POWER_GPIO_IN, 0, 32⟩

/-- Every register name, in the order of the spec's chapters. -/
def regNames0 : List RegName :=
  [.DEVICE_IDENT, .DEVICE_STRIP_PLAN, .DEVICE_PLACE, .DEVICE_PACE_CTL, .DEVICE_PACE_STATUS, .DEVICE_PACE_DEADLINE, .TIME_CTL, .TIME_STATUS, .TIME_MONO, .TIME_NOW_SEC, .TIME_NOW_NS, .TIME_RATE, .TIME_ADJ, .TIME_REF, .TIME_PPS_IN, .TINE_STATUS, .TINE_STRAND_CTL, .TINE_STRAND_PC, .TINE_STRAND_CAUSE, .TINE_STRAND_RETIRED, .TINE_STRAND_G, .TINE_STRAND_W, .TINE_STRAND_MISPRED, .TINE_STRAND_SQUASH, .DEVICE_SPEC_RING_FETCH, .DEVICE_SPEC_RING_DISCARD, .DEVICE_SPEC_RING_HOSTERR, .DEVICE_SPEC_HEDGE_START, .DEVICE_SPEC_HEDGE_WON, .DEVICE_SPEC_LOSER, .DEVICE_SPEC_DECRYPT_EARLY, .DEVICE_SPEC_DECRYPT_DISCARD, .DEVICE_SPEC_CLR, .FN_IDENT, .FN_STATUS, .FN_HOST_ERR, .FN_HOST_ERR_ADDR, .FN_BUF_SLOT, .FN_BUF_BASE, .FN_BUF_LEN]
def regNames1 : List RegName :=
  [.FN_BUF_ATTR, .HOST_LINK_PLAN, .HOST_LINK_STATUS, .HOST_PF_PLAN, .HOST_FN_STATE, .HOST_APT_BASE, .HOST_APT_CTL, .RINGS_FN_CAPS, .RINGS_ERRLOG_HEAD, .RINGS_ERRLOG_ACK, .RINGS_ERRLOG_LOST, .RINGS_SQ_BASE, .RINGS_SQ_CTL, .RINGS_SQ_STATUS, .RINGS_SQ_COUNT, .RINGS_SQ_RESTART, .RINGS_CQ_BASE, .RINGS_CQ_CTL, .RINGS_CQ_STATUS, .RINGS_SQ_BIND, .RINGS_CQ_BIND, .RINGS_CODE_BASE, .RINGS_DRILL_BASE, .TENANT_ID, .TENANT_LIMITS, .TENANT_TABLES, .TENANT_POLICY, .TENANT_POOL, .TENANT_CTL, .TENANT_STATE, .TENANT_ITEMS, .TENANT_POOL_TOTAL, .TENANT_POOL_RESV, .TENANT_STALE_DISCARDS, .TENANT_PURGES, .TENANT_MB_BASE, .TENANT_MB_RAISE, .TENANT_MIG_CTL, .TENANT_MIG_ADDR, .TENANT_MIG_LEN]
def regNames2 : List RegName :=
  [.DEVICE_PROFILE, .DEVICE_SOW_CTL, .DEVICE_SOW_EPOCH, .DEVICE_SOW_NEXT, .DEVICE_SOW_ISSUED, .DEVICE_SOW_SESS, .DEVICE_SOW_STATUS, .FOLD_STATUS, .FOLD_CMDS, .FOLD_BYTES, .FOLD_MISMATCH, .FOLD_EVICT, .FOLD_RECON, .FOLD_CLR, .FOLD_SLOT, .DEVICE_VAULT_STATUS, .DEVICE_VAULT_CHECK, .DEVICE_VAULT_EKDIG, .DEVICE_VAULT_DERIVES, .DEVICE_VAULT_HITS, .DEVICE_VAULT_MISSES, .DEVICE_VAULT_PARITY, .DEVICE_VAULT_CLR, .CIPHER_STATUS, .CIPHER_CMDS, .CIPHER_BYTES, .CIPHER_G2_BYTES, .CIPHER_RELEASED, .CIPHER_DISCARDED, .CIPHER_CLR, .DEVICE_GLEAN_CTL, .DEVICE_GLEAN_RELEASED, .DEVICE_GLEAN_MISMATCH, .DEVICE_GLEAN_FETCHFAIL, .DEVICE_GLEAN_UNRECOV, .DEVICE_GLEAN_CLR, .DEVICE_HARROW_CTL, .DEVICE_HARROW_STATUS, .DEVICE_HARROW_ROWS, .DEVICE_HARROW_FAILED]
def regNames3 : List RegName :=
  [.DEVICE_HARROW_REPAIRED, .DEVICE_HARROW_FREED, .DEVICE_HARROW_BYTES, .DEVICE_HARROW_BREAKS, .DEVICE_HARROW_CLR, .STORAGE_PORT_PLAN, .STORAGE_PORT_STATUS, .STORAGE_PORT_CTL, .STORAGE_INWIN_BASE, .STORAGE_INWIN_LIM, .STORAGE_CFG_CMD, .STORAGE_CFG_DATA, .STORAGE_LATE, .STORAGE_TGT_BIND, .STORAGE_TGT_BAR, .STORAGE_TGT_CTL, .STORAGE_TGT_STATUS, .STORAGE_QP_SQ, .STORAGE_QP_CQ, .STORAGE_QP_CTL, .STORAGE_QP_STATUS, .DMA_CTL, .DMA_STATUS, .DMA_BYTES, .DMA_DESCS, .DMA_BUSERR, .DMA_ACTIVE, .DMA_SHADOW, .BUFM_CFG, .BUFM_STATUS, .BUFM_ALLOC, .BUFM_FREE, .BUFM_GIVE, .BUFM_RECLAIM, .BUFM_EVENTS, .BUFM_LAST_EVENT, .BUFM_RECLAIMED, .NET_PORT_CTL, .NET_PORT_STATUS, .NET_PORT_PFC]
def regNames4 : List RegName :=
  [.NET_PORT_PFC_STATUS, .NET_PRI_THRESH, .NET_RX_FRAMES, .NET_RX_BYTES, .NET_RX_BAD, .NET_RX_RUNT, .NET_RX_OVERSIZE, .NET_RX_OVERRUN, .NET_TX_ABORT, .NET_RX_MACCTL, .NET_PARSE_CFG, .PARSE_CTL, .PARSE_STATUS, .PARSE_SWAP, .PARSE_CODE, .PARSE_TABLE, .PARSE_CELLS, .PARSE_FRAMES, .PARSE_FAULTS, .CLS_CTL, .CLS_STATUS, .CLS_SWAP, .CLS_MISSES, .CLS_PARITY, .DQ_BASE, .DQ_CTL, .DQ_HEAD, .DQ_TAIL, .SW_CTL, .SW_BRIDGE_CTL, .SW_ROUTE_CTL, .SW_PUSHOUT, .SW_WAITS, .SW_FLUSHED, .SW_MOVES, .SW_ROUTE_DROP, .SW_REROUTE, .SW_REROUTE_DROP, .SW_LOCAL_DROP, .SW_CLR]
def regNames5 : List RegName :=
  [.SW_OB_STATUS, .SW_PUSH, .SW_PORT_CTL, .SW_PORT_STATUS, .SW_PORT_PEER, .TABLES_CMD, .TABLES_DATA, .TABLES_PARITY, .TABLES_PLC, .SCHED_PORT_QMAP, .SCHED_PORT_TEL, .SCHED_PORT_VT, .SCHED_Q_CTL, .SCHED_QTEL_LAST, .SCHED_QTEL_MAX, .SCHED_POL_CFG, .SCHED_POL_PASS, .SCHED_POL_DROP, .SCHED_RESV_CMD, .SCHED_RESV_STATUS, .SCHED_RESV, .TRD_CTL, .TRD_TIMER, .TRD_ADDR, .TRD_PREFIX6, .TRD_REACH, .TRD_TX_PKTS, .TRD_RX_PKTS, .TRD_RETX, .TRD_RX_BAD, .TRD_DUP, .TRD_OOO, .TRD_STALE_ACK, .TRD_SWC_WAITS, .TRD_PET_FULL, .TRD_RNR, .TRD_ACCESS, .TRD_DROPPED, .TRD_CLR, .TRD_PLOT_STATUS]
def regNames6 : List RegName :=
  [.TRD_RING_BASE, .TRD_RING_CTL, .TRD_RING_HEAD, .TRD_RING_TAIL, .FAULT_CTL, .FAULT_STATUS, .FAULT_RING_BASE, .FAULT_RING_SEQ, .FAULT_RING_ACK, .FAULT_RING_LOST, .FAULT_NOTICE_LOST, .FAULT_COALESCED, .FAULT_CLR, .FAULT_FORCE, .FAULT_FATAL, .FAULT_FATAL_CLR, .FAULT_INJ_CTL, .FAULT_INJ_UNIT, .FAULT_INJ_ADDR, .BOOT_STATUS, .BOOT_CMD, .BOOT_RESULT, .BOOT_FLASH_CMD, .BOOT_FLASH_ADDR, .BOOT_SLOT_STATE, .BOOT_FUSE_CMD, .BOOT_FUSE_STATUS, .BOOT_KEY_DIG, .BOOT_WAKE_DIG, .POWER_STATUS, .POWER_RESET, .POWER_SLEEP_CTL, .POWER_SLEEP, .POWER_WAKE_TIME, .POWER_GATE, .POWER_GPIO_CFG, .POWER_GPIO_IN]
def regNames : List RegName :=
  regNames0 ++ regNames1 ++ regNames2 ++ regNames3 ++ regNames4 ++ regNames5 ++ regNames6

/-- Offset of the register's first instance: in control space under R74, or, for a function's own
register, 2^48 + f * 2^26 + its place in BAR0 of a PF (R261, R264, R301): the model's own key. -/
def RegName.base : RegName → Nat
  | .DEVICE_IDENT => 0x0
  | .DEVICE_STRIP_PLAN => 0x8
  | .DEVICE_PLACE => 0x10
  | .DEVICE_PACE_CTL => 0x100
  | .DEVICE_PACE_STATUS => 0x108
  | .DEVICE_PACE_DEADLINE => 0x110
  | .TIME_CTL => 0x3000000
  | .TIME_STATUS => 0x3000008
  | .TIME_MONO => 0x3000010
  | .TIME_NOW_SEC => 0x3000018
  | .TIME_NOW_NS => 0x3000020
  | .TIME_RATE => 0x3000028
  | .TIME_ADJ => 0x3000030
  | .TIME_REF => 0x3000038
  | .TIME_PPS_IN => 0x3000040
  | .TINE_STATUS => 0x20000000
  | .TINE_STRAND_CTL => 0x20000100
  | .TINE_STRAND_PC => 0x20000108
  | .TINE_STRAND_CAUSE => 0x20000110
  | .TINE_STRAND_RETIRED => 0x20000118
  | .TINE_STRAND_G => 0x20001000
  | .TINE_STRAND_W => 0x20002000
  | .TINE_STRAND_MISPRED => 0x20000120
  | .TINE_STRAND_SQUASH => 0x20000128
  | .DEVICE_SPEC_RING_FETCH => 0x200
  | .DEVICE_SPEC_RING_DISCARD => 0x208
  | .DEVICE_SPEC_RING_HOSTERR => 0x210
  | .DEVICE_SPEC_HEDGE_START => 0x218
  | .DEVICE_SPEC_HEDGE_WON => 0x220
  | .DEVICE_SPEC_LOSER => 0x228
  | .DEVICE_SPEC_DECRYPT_EARLY => 0x230
  | .DEVICE_SPEC_DECRYPT_DISCARD => 0x238
  | .DEVICE_SPEC_CLR => 0x240
  | .FN_IDENT => 0x1000000000000
  | .FN_STATUS => 0x1000000000008
  | .FN_HOST_ERR => 0x1000000000010
  | .FN_HOST_ERR_ADDR => 0x1000000000018
  | .FN_BUF_SLOT => 0x1000000000020
  | .FN_BUF_BASE => 0x1000000000028
  | .FN_BUF_LEN => 0x1000000000030
  | .FN_BUF_ATTR => 0x1000000000038
  | .HOST_LINK_PLAN => 0x5000000
  | .HOST_LINK_STATUS => 0x5000008
  | .HOST_PF_PLAN => 0x5010000
  | .HOST_FN_STATE => 0x5020000
  | .HOST_APT_BASE => 0x5100000
  | .HOST_APT_CTL => 0x5100008
  | .RINGS_FN_CAPS => 0x1000001000000
  | .RINGS_ERRLOG_HEAD => 0x1000001000008
  | .RINGS_ERRLOG_ACK => 0x1000001000010
  | .RINGS_ERRLOG_LOST => 0x1000001000018
  | .RINGS_SQ_BASE => 0xc000000
  | .RINGS_SQ_CTL => 0xc000008
  | .RINGS_SQ_STATUS => 0xc000010
  | .RINGS_SQ_COUNT => 0xc000018
  | .RINGS_SQ_RESTART => 0xc000020
  | .RINGS_CQ_BASE => 0xc400000
  | .RINGS_CQ_CTL => 0xc400008
  | .RINGS_CQ_STATUS => 0xc400010
  | .RINGS_SQ_BIND => 0xc800000
  | .RINGS_CQ_BIND => 0xca00000
  | .RINGS_CODE_BASE => 0xcc00000
  | .RINGS_DRILL_BASE => 0xcc00008
  | .TENANT_ID => 0xd000000
  | .TENANT_LIMITS => 0xd000008
  | .TENANT_TABLES => 0xd000010
  | .TENANT_POLICY => 0xd000018
  | .TENANT_POOL => 0xd000020
  | .TENANT_CTL => 0xd000028
  | .TENANT_STATE => 0xd000030
  | .TENANT_ITEMS => 0xd000038
  | .TENANT_POOL_TOTAL => 0xd100000
  | .TENANT_POOL_RESV => 0xd100008
  | .TENANT_STALE_DISCARDS => 0xd100010
  | .TENANT_PURGES => 0xd100018
  | .TENANT_MB_BASE => 0xd100020
  | .TENANT_MB_RAISE => 0xd100028
  | .TENANT_MIG_CTL => 0xd100040
  | .TENANT_MIG_ADDR => 0xd100048
  | .TENANT_MIG_LEN => 0xd100050
  | .DEVICE_PROFILE => 0x400
  | .DEVICE_SOW_CTL => 0x300
  | .DEVICE_SOW_EPOCH => 0x308
  | .DEVICE_SOW_NEXT => 0x310
  | .DEVICE_SOW_ISSUED => 0x318
  | .DEVICE_SOW_SESS => 0x320
  | .DEVICE_SOW_STATUS => 0x328
  | .FOLD_STATUS => 0x10300000
  | .FOLD_CMDS => 0x10300008
  | .FOLD_BYTES => 0x10300010
  | .FOLD_MISMATCH => 0x10300018
  | .FOLD_EVICT => 0x10300020
  | .FOLD_RECON => 0x10300028
  | .FOLD_CLR => 0x10300030
  | .FOLD_SLOT => 0x10300040
  | .DEVICE_VAULT_STATUS => 0x600
  | .DEVICE_VAULT_CHECK => 0x608
  | .DEVICE_VAULT_EKDIG => 0x620
  | .DEVICE_VAULT_DERIVES => 0x640
  | .DEVICE_VAULT_HITS => 0x648
  | .DEVICE_VAULT_MISSES => 0x650
  | .DEVICE_VAULT_PARITY => 0x658
  | .DEVICE_VAULT_CLR => 0x660
  | .CIPHER_STATUS => 0x10400000
  | .CIPHER_CMDS => 0x10400008
  | .CIPHER_BYTES => 0x10400010
  | .CIPHER_G2_BYTES => 0x10400018
  | .CIPHER_RELEASED => 0x10400020
  | .CIPHER_DISCARDED => 0x10400028
  | .CIPHER_CLR => 0x10400030
  | .DEVICE_GLEAN_CTL => 0x700
  | .DEVICE_GLEAN_RELEASED => 0x708
  | .DEVICE_GLEAN_MISMATCH => 0x710
  | .DEVICE_GLEAN_FETCHFAIL => 0x718
  | .DEVICE_GLEAN_UNRECOV => 0x720
  | .DEVICE_GLEAN_CLR => 0x728
  | .DEVICE_HARROW_CTL => 0x740
  | .DEVICE_HARROW_STATUS => 0x748
  | .DEVICE_HARROW_ROWS => 0x750
  | .DEVICE_HARROW_FAILED => 0x758
  | .DEVICE_HARROW_REPAIRED => 0x760
  | .DEVICE_HARROW_FREED => 0x768
  | .DEVICE_HARROW_BYTES => 0x770
  | .DEVICE_HARROW_BREAKS => 0x778
  | .DEVICE_HARROW_CLR => 0x780
  | .STORAGE_PORT_PLAN => 0x6000000
  | .STORAGE_PORT_STATUS => 0x6000008
  | .STORAGE_PORT_CTL => 0x6000010
  | .STORAGE_INWIN_BASE => 0x6010000
  | .STORAGE_INWIN_LIM => 0x6010008
  | .STORAGE_CFG_CMD => 0x6020000
  | .STORAGE_CFG_DATA => 0x6020008
  | .STORAGE_LATE => 0x6020010
  | .STORAGE_TGT_BIND => 0x6100000
  | .STORAGE_TGT_BAR => 0x6100008
  | .STORAGE_TGT_CTL => 0x6100010
  | .STORAGE_TGT_STATUS => 0x6100018
  | .STORAGE_QP_SQ => 0x6200000
  | .STORAGE_QP_CQ => 0x6200008
  | .STORAGE_QP_CTL => 0x6200010
  | .STORAGE_QP_STATUS => 0x6200018
  | .DMA_CTL => 0x10500000
  | .DMA_STATUS => 0x10500008
  | .DMA_BYTES => 0x10500010
  | .DMA_DESCS => 0x10500018
  | .DMA_BUSERR => 0x10500020
  | .DMA_ACTIVE => 0x10500040
  | .DMA_SHADOW => 0x10500080
  | .BUFM_CFG => 0x10600000
  | .BUFM_STATUS => 0x10600008
  | .BUFM_ALLOC => 0x10600010
  | .BUFM_FREE => 0x10600018
  | .BUFM_GIVE => 0x10600020
  | .BUFM_RECLAIM => 0x10600028
  | .BUFM_EVENTS => 0x10600030
  | .BUFM_LAST_EVENT => 0x10600038
  | .BUFM_RECLAIMED => 0x10600040
  | .NET_PORT_CTL => 0x7000000
  | .NET_PORT_STATUS => 0x7000008
  | .NET_PORT_PFC => 0x7000010
  | .NET_PORT_PFC_STATUS => 0x7000018
  | .NET_PRI_THRESH => 0x7010000
  | .NET_RX_FRAMES => 0x7020000
  | .NET_RX_BYTES => 0x7020008
  | .NET_RX_BAD => 0x7020010
  | .NET_RX_RUNT => 0x7020018
  | .NET_RX_OVERSIZE => 0x7020020
  | .NET_RX_OVERRUN => 0x7020028
  | .NET_TX_ABORT => 0x7020030
  | .NET_RX_MACCTL => 0x7020038
  | .NET_PARSE_CFG => 0x7030000
  | .PARSE_CTL => 0x10100000
  | .PARSE_STATUS => 0x10100008
  | .PARSE_SWAP => 0x10100010
  | .PARSE_CODE => 0x10100018
  | .PARSE_TABLE => 0x10100028
  | .PARSE_CELLS => 0x10100030
  | .PARSE_FRAMES => 0x10100040
  | .PARSE_FAULTS => 0x10100048
  | .CLS_CTL => 0x10200000
  | .CLS_STATUS => 0x10200008
  | .CLS_SWAP => 0x10200010
  | .CLS_MISSES => 0x10200018
  | .CLS_PARITY => 0x10200020
  | .DQ_BASE => 0x10280000
  | .DQ_CTL => 0x10280008
  | .DQ_HEAD => 0x10280010
  | .DQ_TAIL => 0x10280018
  | .SW_CTL => 0x8000000
  | .SW_BRIDGE_CTL => 0x8000008
  | .SW_ROUTE_CTL => 0x8000010
  | .SW_PUSHOUT => 0x8000100
  | .SW_WAITS => 0x8000108
  | .SW_FLUSHED => 0x8000110
  | .SW_MOVES => 0x8000118
  | .SW_ROUTE_DROP => 0x8000120
  | .SW_REROUTE => 0x8000128
  | .SW_REROUTE_DROP => 0x8000130
  | .SW_LOCAL_DROP => 0x8000138
  | .SW_CLR => 0x8000140
  | .SW_OB_STATUS => 0x8010000
  | .SW_PUSH => 0x8010008
  | .SW_PORT_CTL => 0x8020000
  | .SW_PORT_STATUS => 0x8020008
  | .SW_PORT_PEER => 0x8020010
  | .TABLES_CMD => 0x9000000
  | .TABLES_DATA => 0x9000040
  | .TABLES_PARITY => 0x9000108
  | .TABLES_PLC => 0x9000200
  | .SCHED_PORT_QMAP => 0xa000000
  | .SCHED_PORT_TEL => 0xa000008
  | .SCHED_PORT_VT => 0xa000010
  | .SCHED_Q_CTL => 0xa000040
  | .SCHED_QTEL_LAST => 0xa100000
  | .SCHED_QTEL_MAX => 0xa100008
  | .SCHED_POL_CFG => 0xa400000
  | .SCHED_POL_PASS => 0xa400008
  | .SCHED_POL_DROP => 0xa400010
  | .SCHED_RESV_CMD => 0xa800000
  | .SCHED_RESV_STATUS => 0xa800008
  | .SCHED_RESV => 0xa801000
  | .TRD_CTL => 0xb000000
  | .TRD_TIMER => 0xb000008
  | .TRD_ADDR => 0xb000010
  | .TRD_PREFIX6 => 0xb000018
  | .TRD_REACH => 0xb000020
  | .TRD_TX_PKTS => 0xb000100
  | .TRD_RX_PKTS => 0xb000108
  | .TRD_RETX => 0xb000110
  | .TRD_RX_BAD => 0xb000118
  | .TRD_DUP => 0xb000120
  | .TRD_OOO => 0xb000128
  | .TRD_STALE_ACK => 0xb000130
  | .TRD_SWC_WAITS => 0xb000138
  | .TRD_PET_FULL => 0xb000140
  | .TRD_RNR => 0xb000148
  | .TRD_ACCESS => 0xb000150
  | .TRD_DROPPED => 0xb000158
  | .TRD_CLR => 0xb000160
  | .TRD_PLOT_STATUS => 0xb000200
  | .TRD_RING_BASE => 0xb010000
  | .TRD_RING_CTL => 0xb010008
  | .TRD_RING_HEAD => 0xb010010
  | .TRD_RING_TAIL => 0xb010018
  | .FAULT_CTL => 0x1000000
  | .FAULT_STATUS => 0x1000008
  | .FAULT_RING_BASE => 0x1000010
  | .FAULT_RING_SEQ => 0x1000018
  | .FAULT_RING_ACK => 0x1000020
  | .FAULT_RING_LOST => 0x1000028
  | .FAULT_NOTICE_LOST => 0x1000030
  | .FAULT_COALESCED => 0x1000038
  | .FAULT_CLR => 0x1000040
  | .FAULT_FORCE => 0x1000048
  | .FAULT_FATAL => 0x1000100
  | .FAULT_FATAL_CLR => 0x1000140
  | .FAULT_INJ_CTL => 0x1000200
  | .FAULT_INJ_UNIT => 0x1000208
  | .FAULT_INJ_ADDR => 0x1000210
  | .BOOT_STATUS => 0x2000000
  | .BOOT_CMD => 0x2000008
  | .BOOT_RESULT => 0x2000010
  | .BOOT_FLASH_CMD => 0x2000100
  | .BOOT_FLASH_ADDR => 0x2000108
  | .BOOT_SLOT_STATE => 0x2000110
  | .BOOT_FUSE_CMD => 0x2000118
  | .BOOT_FUSE_STATUS => 0x2000120
  | .BOOT_KEY_DIG => 0x2000200
  | .BOOT_WAKE_DIG => 0x2000300
  | .POWER_STATUS => 0x4000000
  | .POWER_RESET => 0x4000008
  | .POWER_SLEEP_CTL => 0x4000010
  | .POWER_SLEEP => 0x4000018
  | .POWER_WAKE_TIME => 0x4000020
  | .POWER_GATE => 0x4001000
  | .POWER_GPIO_CFG => 0x4002000
  | .POWER_GPIO_IN => 0x4002100

/-- The register's indices, outermost first: how many instances, and how far apart. -/
def RegName.dims : RegName → List (Nat × Nat)
  | .DEVICE_IDENT => []
  | .DEVICE_STRIP_PLAN => []
  | .DEVICE_PLACE => []
  | .DEVICE_PACE_CTL => []
  | .DEVICE_PACE_STATUS => []
  | .DEVICE_PACE_DEADLINE => []
  | .TIME_CTL => []
  | .TIME_STATUS => []
  | .TIME_MONO => []
  | .TIME_NOW_SEC => []
  | .TIME_NOW_NS => []
  | .TIME_RATE => []
  | .TIME_ADJ => []
  | .TIME_REF => []
  | .TIME_PPS_IN => []
  | .TINE_STATUS => [(128, 0x100000)]
  | .TINE_STRAND_CTL => [(128, 0x100000), (4, 0x40)]
  | .TINE_STRAND_PC => [(128, 0x100000), (4, 0x40)]
  | .TINE_STRAND_CAUSE => [(128, 0x100000), (4, 0x40)]
  | .TINE_STRAND_RETIRED => [(128, 0x100000), (4, 0x40)]
  | .TINE_STRAND_G => [(128, 0x100000), (4, 0x100), (32, 0x8)]
  | .TINE_STRAND_W => [(128, 0x100000), (4, 0x200), (8, 0x40), (8, 0x8)]
  | .TINE_STRAND_MISPRED => [(128, 0x100000), (4, 0x40)]
  | .TINE_STRAND_SQUASH => [(128, 0x100000), (4, 0x40)]
  | .DEVICE_SPEC_RING_FETCH => []
  | .DEVICE_SPEC_RING_DISCARD => []
  | .DEVICE_SPEC_RING_HOSTERR => []
  | .DEVICE_SPEC_HEDGE_START => []
  | .DEVICE_SPEC_HEDGE_WON => []
  | .DEVICE_SPEC_LOSER => []
  | .DEVICE_SPEC_DECRYPT_EARLY => []
  | .DEVICE_SPEC_DECRYPT_DISCARD => []
  | .DEVICE_SPEC_CLR => []
  | .FN_IDENT => [(4352, 0x4000000)]
  | .FN_STATUS => [(4352, 0x4000000)]
  | .FN_HOST_ERR => [(4352, 0x4000000)]
  | .FN_HOST_ERR_ADDR => [(4352, 0x4000000)]
  | .FN_BUF_SLOT => [(4352, 0x4000000)]
  | .FN_BUF_BASE => [(4352, 0x4000000)]
  | .FN_BUF_LEN => [(4352, 0x4000000)]
  | .FN_BUF_ATTR => [(4352, 0x4000000)]
  | .HOST_LINK_PLAN => [(64, 0x40)]
  | .HOST_LINK_STATUS => [(64, 0x40)]
  | .HOST_PF_PLAN => [(256, 0x10)]
  | .HOST_FN_STATE => [(4352, 0x10)]
  | .HOST_APT_BASE => [(65536, 0x10)]
  | .HOST_APT_CTL => [(65536, 0x10)]
  | .RINGS_FN_CAPS => [(4352, 0x4000000)]
  | .RINGS_ERRLOG_HEAD => [(4352, 0x4000000)]
  | .RINGS_ERRLOG_ACK => [(4352, 0x4000000)]
  | .RINGS_ERRLOG_LOST => [(4352, 0x4000000)]
  | .RINGS_SQ_BASE => [(65536, 0x40)]
  | .RINGS_SQ_CTL => [(65536, 0x40)]
  | .RINGS_SQ_STATUS => [(65536, 0x40)]
  | .RINGS_SQ_COUNT => [(65536, 0x40)]
  | .RINGS_SQ_RESTART => [(65536, 0x40)]
  | .RINGS_CQ_BASE => [(65536, 0x40)]
  | .RINGS_CQ_CTL => [(65536, 0x40)]
  | .RINGS_CQ_STATUS => [(65536, 0x40)]
  | .RINGS_SQ_BIND => [(65536, 0x8)]
  | .RINGS_CQ_BIND => [(65536, 0x8)]
  | .RINGS_CODE_BASE => []
  | .RINGS_DRILL_BASE => []
  | .TENANT_ID => [(4352, 0x40)]
  | .TENANT_LIMITS => [(4352, 0x40)]
  | .TENANT_TABLES => [(4352, 0x40)]
  | .TENANT_POLICY => [(4352, 0x40)]
  | .TENANT_POOL => [(4352, 0x40)]
  | .TENANT_CTL => [(4352, 0x40)]
  | .TENANT_STATE => [(4352, 0x40)]
  | .TENANT_ITEMS => [(4352, 0x40)]
  | .TENANT_POOL_TOTAL => []
  | .TENANT_POOL_RESV => []
  | .TENANT_STALE_DISCARDS => []
  | .TENANT_PURGES => []
  | .TENANT_MB_BASE => []
  | .TENANT_MB_RAISE => []
  | .TENANT_MIG_CTL => []
  | .TENANT_MIG_ADDR => []
  | .TENANT_MIG_LEN => []
  | .DEVICE_PROFILE => [(16, 0x8)]
  | .DEVICE_SOW_CTL => []
  | .DEVICE_SOW_EPOCH => []
  | .DEVICE_SOW_NEXT => []
  | .DEVICE_SOW_ISSUED => []
  | .DEVICE_SOW_SESS => []
  | .DEVICE_SOW_STATUS => []
  | .FOLD_STATUS => [(4, 0x1000000), (4, 0x100)]
  | .FOLD_CMDS => [(4, 0x1000000), (4, 0x100)]
  | .FOLD_BYTES => [(4, 0x1000000), (4, 0x100)]
  | .FOLD_MISMATCH => [(4, 0x1000000), (4, 0x100)]
  | .FOLD_EVICT => [(4, 0x1000000), (4, 0x100)]
  | .FOLD_RECON => [(4, 0x1000000), (4, 0x100)]
  | .FOLD_CLR => [(4, 0x1000000), (4, 0x100)]
  | .FOLD_SLOT => [(4, 0x1000000), (4, 0x100), (4, 0x8)]
  | .DEVICE_VAULT_STATUS => []
  | .DEVICE_VAULT_CHECK => []
  | .DEVICE_VAULT_EKDIG => [(4, 0x8)]
  | .DEVICE_VAULT_DERIVES => []
  | .DEVICE_VAULT_HITS => []
  | .DEVICE_VAULT_MISSES => []
  | .DEVICE_VAULT_PARITY => []
  | .DEVICE_VAULT_CLR => []
  | .CIPHER_STATUS => [(4, 0x1000000)]
  | .CIPHER_CMDS => [(4, 0x1000000)]
  | .CIPHER_BYTES => [(4, 0x1000000)]
  | .CIPHER_G2_BYTES => [(4, 0x1000000)]
  | .CIPHER_RELEASED => [(4, 0x1000000)]
  | .CIPHER_DISCARDED => [(4, 0x1000000)]
  | .CIPHER_CLR => [(4, 0x1000000)]
  | .DEVICE_GLEAN_CTL => []
  | .DEVICE_GLEAN_RELEASED => []
  | .DEVICE_GLEAN_MISMATCH => []
  | .DEVICE_GLEAN_FETCHFAIL => []
  | .DEVICE_GLEAN_UNRECOV => []
  | .DEVICE_GLEAN_CLR => []
  | .DEVICE_HARROW_CTL => []
  | .DEVICE_HARROW_STATUS => []
  | .DEVICE_HARROW_ROWS => []
  | .DEVICE_HARROW_FAILED => []
  | .DEVICE_HARROW_REPAIRED => []
  | .DEVICE_HARROW_FREED => []
  | .DEVICE_HARROW_BYTES => []
  | .DEVICE_HARROW_BREAKS => []
  | .DEVICE_HARROW_CLR => []
  | .STORAGE_PORT_PLAN => [(192, 0x40)]
  | .STORAGE_PORT_STATUS => [(192, 0x40)]
  | .STORAGE_PORT_CTL => [(192, 0x40)]
  | .STORAGE_INWIN_BASE => [(192, 0x40), (4, 0x10)]
  | .STORAGE_INWIN_LIM => [(192, 0x40), (4, 0x10)]
  | .STORAGE_CFG_CMD => []
  | .STORAGE_CFG_DATA => []
  | .STORAGE_LATE => []
  | .STORAGE_TGT_BIND => [(4096, 0x20)]
  | .STORAGE_TGT_BAR => [(4096, 0x20)]
  | .STORAGE_TGT_CTL => [(4096, 0x20)]
  | .STORAGE_TGT_STATUS => [(4096, 0x20)]
  | .STORAGE_QP_SQ => [(65536, 0x20)]
  | .STORAGE_QP_CQ => [(65536, 0x20)]
  | .STORAGE_QP_CTL => [(65536, 0x20)]
  | .STORAGE_QP_STATUS => [(65536, 0x20)]
  | .DMA_CTL => [(4, 0x1000000), (64, 0x100)]
  | .DMA_STATUS => [(4, 0x1000000), (64, 0x100)]
  | .DMA_BYTES => [(4, 0x1000000), (64, 0x100)]
  | .DMA_DESCS => [(4, 0x1000000), (64, 0x100)]
  | .DMA_BUSERR => [(4, 0x1000000), (64, 0x100)]
  | .DMA_ACTIVE => [(4, 0x1000000), (64, 0x100), (8, 0x8)]
  | .DMA_SHADOW => [(4, 0x1000000), (64, 0x100), (8, 0x8)]
  | .BUFM_CFG => [(4, 0x1000000)]
  | .BUFM_STATUS => [(4, 0x1000000)]
  | .BUFM_ALLOC => [(4, 0x1000000)]
  | .BUFM_FREE => [(4, 0x1000000)]
  | .BUFM_GIVE => [(4, 0x1000000)]
  | .BUFM_RECLAIM => [(4, 0x1000000)]
  | .BUFM_EVENTS => [(4, 0x1000000)]
  | .BUFM_LAST_EVENT => [(4, 0x1000000)]
  | .BUFM_RECLAIMED => [(4, 0x1000000)]
  | .NET_PORT_CTL => [(320, 0x40)]
  | .NET_PORT_STATUS => [(320, 0x40)]
  | .NET_PORT_PFC => [(320, 0x40)]
  | .NET_PORT_PFC_STATUS => [(320, 0x40)]
  | .NET_PRI_THRESH => [(320, 0x80), (8, 0x8)]
  | .NET_RX_FRAMES => [(320, 0x40)]
  | .NET_RX_BYTES => [(320, 0x40)]
  | .NET_RX_BAD => [(320, 0x40)]
  | .NET_RX_RUNT => [(320, 0x40)]
  | .NET_RX_OVERSIZE => [(320, 0x40)]
  | .NET_RX_OVERRUN => [(320, 0x40)]
  | .NET_TX_ABORT => [(320, 0x40)]
  | .NET_RX_MACCTL => [(320, 0x40)]
  | .NET_PARSE_CFG => []
  | .PARSE_CTL => [(4, 0x1000000)]
  | .PARSE_STATUS => [(4, 0x1000000)]
  | .PARSE_SWAP => [(4, 0x1000000)]
  | .PARSE_CODE => [(4, 0x1000000), (2, 0x8)]
  | .PARSE_TABLE => [(4, 0x1000000)]
  | .PARSE_CELLS => [(4, 0x1000000)]
  | .PARSE_FRAMES => [(4, 0x1000000)]
  | .PARSE_FAULTS => [(4, 0x1000000)]
  | .CLS_CTL => [(4, 0x1000000)]
  | .CLS_STATUS => [(4, 0x1000000)]
  | .CLS_SWAP => [(4, 0x1000000)]
  | .CLS_MISSES => [(4, 0x1000000)]
  | .CLS_PARITY => [(4, 0x1000000)]
  | .DQ_BASE => [(4, 0x1000000), (256, 0x20)]
  | .DQ_CTL => [(4, 0x1000000), (256, 0x20)]
  | .DQ_HEAD => [(4, 0x1000000), (256, 0x20)]
  | .DQ_TAIL => [(4, 0x1000000), (256, 0x20)]
  | .SW_CTL => []
  | .SW_BRIDGE_CTL => []
  | .SW_ROUTE_CTL => []
  | .SW_PUSHOUT => []
  | .SW_WAITS => []
  | .SW_FLUSHED => []
  | .SW_MOVES => []
  | .SW_ROUTE_DROP => []
  | .SW_REROUTE => []
  | .SW_REROUTE_DROP => []
  | .SW_LOCAL_DROP => []
  | .SW_CLR => []
  | .SW_OB_STATUS => [(4, 0x40)]
  | .SW_PUSH => [(4, 0x40)]
  | .SW_PORT_CTL => [(320, 0x20)]
  | .SW_PORT_STATUS => [(320, 0x20)]
  | .SW_PORT_PEER => [(320, 0x20)]
  | .TABLES_CMD => []
  | .TABLES_DATA => [(8, 0x8)]
  | .TABLES_PARITY => [(6, 0x8)]
  | .TABLES_PLC => []
  | .SCHED_PORT_QMAP => [(320, 0x100)]
  | .SCHED_PORT_TEL => [(320, 0x100)]
  | .SCHED_PORT_VT => [(320, 0x100)]
  | .SCHED_Q_CTL => [(320, 0x100), (16, 0x8)]
  | .SCHED_QTEL_LAST => [(320, 0x200), (16, 0x20)]
  | .SCHED_QTEL_MAX => [(320, 0x200), (16, 0x20)]
  | .SCHED_POL_CFG => [(4, 0x80000), (16384, 0x20)]
  | .SCHED_POL_PASS => [(4, 0x80000), (16384, 0x20)]
  | .SCHED_POL_DROP => [(4, 0x80000), (16384, 0x20)]
  | .SCHED_RESV_CMD => []
  | .SCHED_RESV_STATUS => []
  | .SCHED_RESV => [(256, 0x8)]
  | .TRD_CTL => []
  | .TRD_TIMER => []
  | .TRD_ADDR => []
  | .TRD_PREFIX6 => []
  | .TRD_REACH => []
  | .TRD_TX_PKTS => []
  | .TRD_RX_PKTS => []
  | .TRD_RETX => []
  | .TRD_RX_BAD => []
  | .TRD_DUP => []
  | .TRD_OOO => []
  | .TRD_STALE_ACK => []
  | .TRD_SWC_WAITS => []
  | .TRD_PET_FULL => []
  | .TRD_RNR => []
  | .TRD_ACCESS => []
  | .TRD_DROPPED => []
  | .TRD_CLR => []
  | .TRD_PLOT_STATUS => [(4, 0x8)]
  | .TRD_RING_BASE => [(4, 0x1000), (64, 0x20)]
  | .TRD_RING_CTL => [(4, 0x1000), (64, 0x20)]
  | .TRD_RING_HEAD => [(4, 0x1000), (64, 0x20)]
  | .TRD_RING_TAIL => [(4, 0x1000), (64, 0x20)]
  | .FAULT_CTL => []
  | .FAULT_STATUS => []
  | .FAULT_RING_BASE => []
  | .FAULT_RING_SEQ => []
  | .FAULT_RING_ACK => []
  | .FAULT_RING_LOST => []
  | .FAULT_NOTICE_LOST => []
  | .FAULT_COALESCED => []
  | .FAULT_CLR => []
  | .FAULT_FORCE => []
  | .FAULT_FATAL => [(8, 0x8)]
  | .FAULT_FATAL_CLR => []
  | .FAULT_INJ_CTL => []
  | .FAULT_INJ_UNIT => []
  | .FAULT_INJ_ADDR => []
  | .BOOT_STATUS => []
  | .BOOT_CMD => []
  | .BOOT_RESULT => []
  | .BOOT_FLASH_CMD => []
  | .BOOT_FLASH_ADDR => []
  | .BOOT_SLOT_STATE => []
  | .BOOT_FUSE_CMD => []
  | .BOOT_FUSE_STATUS => []
  | .BOOT_KEY_DIG => [(8, 0x20), (4, 0x8)]
  | .BOOT_WAKE_DIG => [(4, 0x8)]
  | .POWER_STATUS => []
  | .POWER_RESET => []
  | .POWER_SLEEP_CTL => []
  | .POWER_SLEEP => []
  | .POWER_WAKE_TIME => []
  | .POWER_GATE => [(55, 0x10)]
  | .POWER_GPIO_CFG => [(32, 0x8)]
  | .POWER_GPIO_IN => []

/-- The network ports that R639 starts in MODE 4: every fourth lane of S0 to S3. -/
def meshPort (n : Nat) : Bool := n < 256 && n % 4 = 0

/-- The register's reset value as the spec's table gives it. Where the table says it depends on the part, the
fuses or the image's plan, the value here is the model's (assumption 4) or is replaced on reading. -/
def RegName.resetNat : RegName → List Nat → Nat
  | .DEVICE_IDENT, _ => 0x00000002_03B00512
  | .DEVICE_STRIP_PLAN, _ => 0x322F1111
  | .DEVICE_PLACE, _ => 0x0
  | .DEVICE_PACE_CTL, _ => 0x4b00142c14
  | .DEVICE_PACE_STATUS, _ => 0x0
  | .DEVICE_PACE_DEADLINE, _ => 0x40
  | .TIME_CTL, _ => 0x114643e80
  | .TIME_STATUS, _ => 0xff
  | .TIME_MONO, _ => 0x0
  | .TIME_NOW_SEC, _ => 0x0
  | .TIME_NOW_NS, _ => 0xff00000000
  | .TIME_RATE, _ => 0x0
  | .TIME_ADJ, _ => 0x0
  | .TIME_REF, _ => 0x0
  | .TIME_PPS_IN, _ => 0x0
  | .TINE_STATUS, _ => 0x0
  | .TINE_STRAND_CTL, _ => 0x2
  | .TINE_STRAND_PC, _ => 0x0
  | .TINE_STRAND_CAUSE, _ => 0x0
  | .TINE_STRAND_RETIRED, _ => 0x0
  | .TINE_STRAND_G, _ => 0x0
  | .TINE_STRAND_W, _ => 0x0
  | .TINE_STRAND_MISPRED, _ => 0x0
  | .TINE_STRAND_SQUASH, _ => 0x0
  | .DEVICE_SPEC_RING_FETCH, _ => 0x0
  | .DEVICE_SPEC_RING_DISCARD, _ => 0x0
  | .DEVICE_SPEC_RING_HOSTERR, _ => 0x0
  | .DEVICE_SPEC_HEDGE_START, _ => 0x0
  | .DEVICE_SPEC_HEDGE_WON, _ => 0x0
  | .DEVICE_SPEC_LOSER, _ => 0x0
  | .DEVICE_SPEC_DECRYPT_EARLY, _ => 0x0
  | .DEVICE_SPEC_DECRYPT_DISCARD, _ => 0x0
  | .DEVICE_SPEC_CLR, _ => 0x0
  | .FN_IDENT, _ => 0
  | .FN_STATUS, _ => 0
  | .FN_HOST_ERR, _ => 0x0
  | .FN_HOST_ERR_ADDR, _ => 0x0
  | .FN_BUF_SLOT, _ => 0x0
  | .FN_BUF_BASE, _ => 0x0
  | .FN_BUF_LEN, _ => 0x0
  | .FN_BUF_ATTR, _ => 0x0
  | .HOST_LINK_PLAN, i => if i.headD 0 = 0 then 0x0F003E01 else 0
  | .HOST_LINK_STATUS, _ => 0x0
  | .HOST_PF_PLAN, i => if i.headD 0 = 0 then 0x80000000 else 0
  | .HOST_FN_STATE, _ => 0x0
  | .HOST_APT_BASE, _ => 0x0
  | .HOST_APT_CTL, _ => 0x8000000000
  | .RINGS_FN_CAPS, _ => 0
  | .RINGS_ERRLOG_HEAD, _ => 0x0
  | .RINGS_ERRLOG_ACK, _ => 0x0
  | .RINGS_ERRLOG_LOST, _ => 0x0
  | .RINGS_SQ_BASE, _ => 0x0
  | .RINGS_SQ_CTL, _ => 0x63000001010042
  | .RINGS_SQ_STATUS, _ => 0x0
  | .RINGS_SQ_COUNT, _ => 0x0
  | .RINGS_SQ_RESTART, _ => 0x0
  | .RINGS_CQ_BASE, _ => 0x0
  | .RINGS_CQ_CTL, _ => 0x10042
  | .RINGS_CQ_STATUS, _ => 0x100000000
  | .RINGS_SQ_BIND, _ => 0x0
  | .RINGS_CQ_BIND, _ => 0x0
  | .RINGS_CODE_BASE, _ => 0x3fffc00000
  | .RINGS_DRILL_BASE, _ => 0x3ff0000000
  | .TENANT_ID, _ => 0x0
  | .TENANT_LIMITS, _ => 0x0
  | .TENANT_TABLES, _ => 0x0
  | .TENANT_POLICY, _ => 0x0
  | .TENANT_POOL, _ => 0x0
  | .TENANT_CTL, _ => 0x2
  | .TENANT_STATE, _ => 0x0
  | .TENANT_ITEMS, _ => 0x0
  | .TENANT_POOL_TOTAL, _ => 0
  | .TENANT_POOL_RESV, _ => 0x0
  | .TENANT_STALE_DISCARDS, _ => 0x0
  | .TENANT_PURGES, _ => 0x0
  | .TENANT_MB_BASE, _ => 0x3ff8000000
  | .TENANT_MB_RAISE, _ => 0x0
  | .TENANT_MIG_CTL, _ => 0x0
  | .TENANT_MIG_ADDR, _ => 0x0
  | .TENANT_MIG_LEN, _ => 0x0
  | .DEVICE_PROFILE, _ => 0x4000000000000000
  | .DEVICE_SOW_CTL, _ => 86400
  | .DEVICE_SOW_EPOCH, _ => 0x0
  | .DEVICE_SOW_NEXT, _ => 0x0
  | .DEVICE_SOW_ISSUED, _ => 0x0
  | .DEVICE_SOW_SESS, _ => 0
  | .DEVICE_SOW_STATUS, _ => 0x0
  | .FOLD_STATUS, _ => 0x0
  | .FOLD_CMDS, _ => 0x0
  | .FOLD_BYTES, _ => 0x0
  | .FOLD_MISMATCH, _ => 0x0
  | .FOLD_EVICT, _ => 0x0
  | .FOLD_RECON, _ => 0x0
  | .FOLD_CLR, _ => 0x0
  | .FOLD_SLOT, _ => 0x0
  | .DEVICE_VAULT_STATUS, _ => 0x2
  | .DEVICE_VAULT_CHECK, _ => 0x0
  | .DEVICE_VAULT_EKDIG, _ => 0
  | .DEVICE_VAULT_DERIVES, _ => 0x0
  | .DEVICE_VAULT_HITS, _ => 0x0
  | .DEVICE_VAULT_MISSES, _ => 0x0
  | .DEVICE_VAULT_PARITY, _ => 0x0
  | .DEVICE_VAULT_CLR, _ => 0x0
  | .CIPHER_STATUS, _ => 0x3000
  | .CIPHER_CMDS, _ => 0x0
  | .CIPHER_BYTES, _ => 0x0
  | .CIPHER_G2_BYTES, _ => 0x0
  | .CIPHER_RELEASED, _ => 0x0
  | .CIPHER_DISCARDED, _ => 0x0
  | .CIPHER_CLR, _ => 0x0
  | .DEVICE_GLEAN_CTL, _ => 0x6400190
  | .DEVICE_GLEAN_RELEASED, _ => 0x0
  | .DEVICE_GLEAN_MISMATCH, _ => 0x0
  | .DEVICE_GLEAN_FETCHFAIL, _ => 0x0
  | .DEVICE_GLEAN_UNRECOV, _ => 0x0
  | .DEVICE_GLEAN_CLR, _ => 0x0
  | .DEVICE_HARROW_CTL, _ => 0x14006407
  | .DEVICE_HARROW_STATUS, _ => 0x0
  | .DEVICE_HARROW_ROWS, _ => 0x0
  | .DEVICE_HARROW_FAILED, _ => 0x0
  | .DEVICE_HARROW_REPAIRED, _ => 0x0
  | .DEVICE_HARROW_FREED, _ => 0x0
  | .DEVICE_HARROW_BYTES, _ => 0x0
  | .DEVICE_HARROW_BREAKS, _ => 0x0
  | .DEVICE_HARROW_CLR, _ => 0x0
  | .STORAGE_PORT_PLAN, _ => 0
  | .STORAGE_PORT_STATUS, _ => 0x0
  | .STORAGE_PORT_CTL, _ => 0x3201
  | .STORAGE_INWIN_BASE, _ => 0x0
  | .STORAGE_INWIN_LIM, _ => 0x0
  | .STORAGE_CFG_CMD, _ => 0x0
  | .STORAGE_CFG_DATA, _ => 0x0
  | .STORAGE_LATE, _ => 0x0
  | .STORAGE_TGT_BIND, _ => 0x0
  | .STORAGE_TGT_BAR, _ => 0x0
  | .STORAGE_TGT_CTL, _ => 0x1f402
  | .STORAGE_TGT_STATUS, _ => 0x0
  | .STORAGE_QP_SQ, _ => 0x0
  | .STORAGE_QP_CQ, _ => 0x0
  | .STORAGE_QP_CTL, _ => 0x2
  | .STORAGE_QP_STATUS, _ => 0x100000000
  | .DMA_CTL, _ => 0x0
  | .DMA_STATUS, _ => 0x2
  | .DMA_BYTES, _ => 0x0
  | .DMA_DESCS, _ => 0x0
  | .DMA_BUSERR, _ => 0x0
  | .DMA_ACTIVE, _ => 0x0
  | .DMA_SHADOW, _ => 0x0
  | .BUFM_CFG, _ => 0x0
  | .BUFM_STATUS, _ => 0x80000
  | .BUFM_ALLOC, _ => 0x0
  | .BUFM_FREE, _ => 0x0
  | .BUFM_GIVE, _ => 0x0
  | .BUFM_RECLAIM, _ => 0x0
  | .BUFM_EVENTS, _ => 0x0
  | .BUFM_LAST_EVENT, _ => 0x0
  | .BUFM_RECLAIMED, _ => 0x0
  | .NET_PORT_CTL, i => if meshPort (i.headD 0) then 0x24000051 else 0x24000002
  | .NET_PORT_STATUS, _ => 0x0
  | .NET_PORT_PFC, _ => 0xc8ffff00ff
  | .NET_PORT_PFC_STATUS, _ => 0x0
  | .NET_PRI_THRESH, _ => 0xa800070000800
  | .NET_RX_FRAMES, _ => 0x0
  | .NET_RX_BYTES, _ => 0x0
  | .NET_RX_BAD, _ => 0x0
  | .NET_RX_RUNT, _ => 0x0
  | .NET_RX_OVERSIZE, _ => 0x0
  | .NET_RX_OVERRUN, _ => 0x0
  | .NET_TX_ABORT, _ => 0x0
  | .NET_RX_MACCTL, _ => 0x0
  | .NET_PARSE_CFG, _ => 0x12b5edf2
  | .PARSE_CTL, _ => 0x40
  | .PARSE_STATUS, _ => 0x4
  | .PARSE_SWAP, _ => 0x0
  | .PARSE_CODE, _ => 0x0
  | .PARSE_TABLE, _ => 0x0
  | .PARSE_CELLS, _ => 0xffffffffffffffff
  | .PARSE_FRAMES, _ => 0x0
  | .PARSE_FAULTS, _ => 0x0
  | .CLS_CTL, _ => 0x0
  | .CLS_STATUS, _ => 0x0
  | .CLS_SWAP, _ => 0x0
  | .CLS_MISSES, _ => 0x0
  | .CLS_PARITY, _ => 0x0
  | .DQ_BASE, _ => 0x0
  | .DQ_CTL, _ => 0x2
  | .DQ_HEAD, _ => 0x0
  | .DQ_TAIL, _ => 0x0
  | .SW_CTL, _ => 0
  | .SW_BRIDGE_CTL, _ => 0x1012c
  | .SW_ROUTE_CTL, _ => 0x64
  | .SW_PUSHOUT, _ => 0x0
  | .SW_WAITS, _ => 0x0
  | .SW_FLUSHED, _ => 0x0
  | .SW_MOVES, _ => 0x0
  | .SW_ROUTE_DROP, _ => 0x0
  | .SW_REROUTE, _ => 0x0
  | .SW_REROUTE_DROP, _ => 0x0
  | .SW_LOCAL_DROP, _ => 0x0
  | .SW_CLR, _ => 0x0
  | .SW_OB_STATUS, _ => 0x3000030000
  | .SW_PUSH, _ => 0x2
  | .SW_PORT_CTL, i => if meshPort (i.headD 0) then 0x00710000 else 0x00310000
  | .SW_PORT_STATUS, _ => 0x0
  | .SW_PORT_PEER, _ => 0x0
  | .TABLES_CMD, _ => 0x0
  | .TABLES_DATA, _ => 0x0
  | .TABLES_PARITY, _ => 0x0
  | .TABLES_PLC, _ => 0x2
  | .SCHED_PORT_QMAP, _ => 0x1234567
  | .SCHED_PORT_TEL, _ => 0x3e8
  | .SCHED_PORT_VT, _ => 0x0
  | .SCHED_Q_CTL, i => 1 + 256 * (7 - min 7 (i.getD 1 0))
  | .SCHED_QTEL_LAST, _ => 0x0
  | .SCHED_QTEL_MAX, _ => 0x0
  | .SCHED_POL_CFG, _ => 0x0
  | .SCHED_POL_PASS, _ => 0x0
  | .SCHED_POL_DROP, _ => 0x0
  | .SCHED_RESV_CMD, _ => 0x0
  | .SCHED_RESV_STATUS, _ => 0x19000000000000
  | .SCHED_RESV, _ => 0x0
  | .TRD_CTL, _ => 0x100020000632
  | .TRD_TIMER, _ => 0x4000064006470040
  | .TRD_ADDR, _ => 0xedf2000a
  | .TRD_PREFIX6, _ => 0x0
  | .TRD_REACH, _ => 0x0
  | .TRD_TX_PKTS, _ => 0x0
  | .TRD_RX_PKTS, _ => 0x0
  | .TRD_RETX, _ => 0x0
  | .TRD_RX_BAD, _ => 0x0
  | .TRD_DUP, _ => 0x0
  | .TRD_OOO, _ => 0x0
  | .TRD_STALE_ACK, _ => 0x0
  | .TRD_SWC_WAITS, _ => 0x0
  | .TRD_PET_FULL, _ => 0x0
  | .TRD_RNR, _ => 0x0
  | .TRD_ACCESS, _ => 0x0
  | .TRD_DROPPED, _ => 0x0
  | .TRD_CLR, _ => 0x0
  | .TRD_PLOT_STATUS, _ => 0x0
  | .TRD_RING_BASE, _ => 0x0
  | .TRD_RING_CTL, _ => 0x2
  | .TRD_RING_HEAD, _ => 0x0
  | .TRD_RING_TAIL, _ => 0x0
  | .FAULT_CTL, _ => 0x166
  | .FAULT_STATUS, _ => 0
  | .FAULT_RING_BASE, _ => 0x3fffb00000
  | .FAULT_RING_SEQ, _ => 0x0
  | .FAULT_RING_ACK, _ => 0x0
  | .FAULT_RING_LOST, _ => 0x0
  | .FAULT_NOTICE_LOST, _ => 0x0
  | .FAULT_COALESCED, _ => 0x0
  | .FAULT_CLR, _ => 0x0
  | .FAULT_FORCE, _ => 0x0
  | .FAULT_FATAL, _ => 0x0
  | .FAULT_FATAL_CLR, _ => 0x0
  | .FAULT_INJ_CTL, _ => 0x0
  | .FAULT_INJ_UNIT, _ => 0x0
  | .FAULT_INJ_ADDR, _ => 0x0
  | .BOOT_STATUS, _ => 0x0
  | .BOOT_CMD, _ => 0x0
  | .BOOT_RESULT, _ => 0x0
  | .BOOT_FLASH_CMD, _ => 0x0
  | .BOOT_FLASH_ADDR, _ => 0x0
  | .BOOT_SLOT_STATE, _ => 0
  | .BOOT_FUSE_CMD, _ => 0x0
  | .BOOT_FUSE_STATUS, _ => 0
  | .BOOT_KEY_DIG, _ => 0
  | .BOOT_WAKE_DIG, _ => 0x0
  | .POWER_STATUS, _ => 0x1
  | .POWER_RESET, _ => 0x0
  | .POWER_SLEEP_CTL, _ => 0x1
  | .POWER_SLEEP, _ => 0x0
  | .POWER_WAKE_TIME, _ => 0x0
  | .POWER_GATE, _ => 0x0
  | .POWER_GPIO_CFG, _ => 0x10
  | .POWER_GPIO_IN, _ => 0x0

/-- The register's fields; every bit outside them is reserved: it reads 0 and a write to it is ignored (R12, R94). -/
def RegName.fields : RegName → List FieldDesc
  | .DEVICE_IDENT => [⟨DEVICE_IDENT.PART, .ro, false, .any⟩,
      ⟨DEVICE_IDENT.STEPPING, .ro, false, .any⟩,
      ⟨DEVICE_IDENT.GEN_WRITE, .ro, false, .any⟩,
      ⟨DEVICE_IDENT.GEN_READ_MIN, .ro, false, .any⟩]
  | .DEVICE_STRIP_PLAN => [⟨DEVICE_STRIP_PLAN.S0, .ro, false, .any⟩,
      ⟨DEVICE_STRIP_PLAN.S1, .ro, false, .any⟩,
      ⟨DEVICE_STRIP_PLAN.S2, .ro, false, .any⟩,
      ⟨DEVICE_STRIP_PLAN.S3, .ro, false, .any⟩,
      ⟨DEVICE_STRIP_PLAN.S4, .ro, false, .any⟩,
      ⟨DEVICE_STRIP_PLAN.S5, .ro, false, .any⟩,
      ⟨DEVICE_STRIP_PLAN.S6, .ro, false, .any⟩,
      ⟨DEVICE_STRIP_PLAN.S7, .ro, false, .any⟩]
  | .DEVICE_PLACE => [⟨DEVICE_PLACE.DEVICE, .rw, false, .any⟩,
      ⟨DEVICE_PLACE.HOLDING, .rw, false, .any⟩,
      ⟨DEVICE_PLACE.COMMON, .rw, false, .any⟩,
      ⟨DEVICE_PLACE.ESTATE, .rw, false, .any⟩,
      ⟨DEVICE_PLACE.LOCK, .rw1s, false, .any⟩]
  | .DEVICE_PACE_CTL => [⟨DEVICE_PACE_CTL.VMIN, .rw, false, .any⟩,
      ⟨DEVICE_PACE_CTL.VMAX, .rw, false, .any⟩,
      ⟨DEVICE_PACE_CTL.VFLOOR, .rw, false, .any⟩,
      ⟨DEVICE_PACE_CTL.HEADROOM, .rw, false, .any⟩,
      ⟨DEVICE_PACE_CTL.FORCE, .rw, false, .any⟩,
      ⟨DEVICE_PACE_CTL.PIN, .rw, false, .any⟩]
  | .DEVICE_PACE_STATUS => [⟨DEVICE_PACE_STATUS.VREQ, .ro, false, .any⟩,
      ⟨DEVICE_PACE_STATUS.VREP, .ro, false, .any⟩,
      ⟨DEVICE_PACE_STATUS.TJ, .ro, false, .any⟩,
      ⟨DEVICE_PACE_STATUS.BELOW_FLOOR, .ro, false, .any⟩,
      ⟨DEVICE_PACE_STATUS.AVS_ERR, .rw1c, false, .any⟩]
  | .DEVICE_PACE_DEADLINE => [⟨DEVICE_PACE_DEADLINE.TRD, .ro, false, .any⟩,
      ⟨DEVICE_PACE_DEADLINE.RESV, .ro, false, .any⟩,
      ⟨DEVICE_PACE_DEADLINE.HOSTRST, .ro, false, .any⟩,
      ⟨DEVICE_PACE_DEADLINE.RECOVERY, .ro, false, .any⟩,
      ⟨DEVICE_PACE_DEADLINE.FORCE, .ro, false, .any⟩,
      ⟨DEVICE_PACE_DEADLINE.BOOT, .ro, false, .any⟩]
  | .TIME_CTL => [⟨TIME_CTL.SRC, .rw, false, .any⟩,
      ⟨TIME_CTL.HOLD_PPB, .rw, false, .any⟩,
      ⟨TIME_CTL.SLEW_PPM, .rw, false, .any⟩,
      ⟨TIME_CTL.REF_TIMEOUT, .rw, false, .any⟩,
      ⟨TIME_CTL.PPS_OUT_EN, .rw, false, .any⟩]
  | .TIME_STATUS => [⟨TIME_STATUS.QUALITY, .ro, false, .any⟩,
      ⟨TIME_STATUS.STEP_PEND, .rw1c, false, .any⟩,
      ⟨TIME_STATUS.REF_LOST, .rw1c, false, .any⟩,
      ⟨TIME_STATUS.SLEWING, .ro, false, .any⟩]
  | .TIME_MONO => [⟨TIME_MONO.NS, .ro, false, .any⟩]
  | .TIME_NOW_SEC => [⟨TIME_NOW_SEC.SEC, .ro, false, .any⟩]
  | .TIME_NOW_NS => [⟨TIME_NOW_NS.NS, .ro, false, .any⟩,
      ⟨TIME_NOW_NS.QUALITY, .ro, false, .any⟩]
  | .TIME_RATE => [⟨TIME_RATE.RATE, .rw, false, .any⟩]
  | .TIME_ADJ => [⟨TIME_ADJ.OFFSET, .wo, false, .any⟩]
  | .TIME_REF => [⟨TIME_REF.BOUND_NS, .rw, false, .any⟩,
      ⟨TIME_REF.LOCKED, .rw, false, .any⟩,
      ⟨TIME_REF.TRACEABLE, .rw, false, .any⟩]
  | .TIME_PPS_IN => [⟨TIME_PPS_IN.STAMP, .ro, false, .any⟩]
  | .TINE_STATUS => [⟨TINE_STATUS.CTX0, .ro, false, .any⟩,
      ⟨TINE_STATUS.CTX1, .ro, false, .any⟩,
      ⟨TINE_STATUS.CTX2, .ro, false, .any⟩,
      ⟨TINE_STATUS.CTX3, .ro, false, .any⟩,
      ⟨TINE_STATUS.CTX4, .ro, false, .any⟩,
      ⟨TINE_STATUS.SPARE_SID, .ro, false, .any⟩,
      ⟨TINE_STATUS.SPARE_USED, .ro, false, .any⟩,
      ⟨TINE_STATUS.FAULTED, .ro, false, .any⟩]
  | .TINE_STRAND_CTL => [⟨TINE_STRAND_CTL.RUN, .rw, false, .any⟩,
      ⟨TINE_STRAND_CTL.STOPPED, .ro, false, .any⟩,
      ⟨TINE_STRAND_CTL.STEP, .rw, false, .any⟩]
  | .TINE_STRAND_PC => [⟨TINE_STRAND_PC.PC, .rw, true, .any⟩]
  | .TINE_STRAND_CAUSE => [⟨TINE_STRAND_CAUSE.CAUSE, .ro, false, .any⟩,
      ⟨TINE_STRAND_CAUSE.DOUBLE, .ro, false, .any⟩,
      ⟨TINE_STRAND_CAUSE.LOST, .ro, false, .any⟩,
      ⟨TINE_STRAND_CAUSE.PC, .ro, false, .any⟩]
  | .TINE_STRAND_RETIRED => [⟨TINE_STRAND_RETIRED.COUNT, .ro, false, .any⟩]
  | .TINE_STRAND_G => [⟨TINE_STRAND_G.VALUE, .rw, true, .any⟩]
  | .TINE_STRAND_W => [⟨TINE_STRAND_W.VALUE, .rw, true, .any⟩]
  | .TINE_STRAND_MISPRED => [⟨TINE_STRAND_MISPRED.COUNT, .ro, false, .any⟩]
  | .TINE_STRAND_SQUASH => [⟨TINE_STRAND_SQUASH.COUNT, .ro, false, .any⟩]
  | .DEVICE_SPEC_RING_FETCH => [⟨DEVICE_SPEC_RING_FETCH.COUNT, .ro, false, .any⟩]
  | .DEVICE_SPEC_RING_DISCARD => [⟨DEVICE_SPEC_RING_DISCARD.COUNT, .ro, false, .any⟩]
  | .DEVICE_SPEC_RING_HOSTERR => [⟨DEVICE_SPEC_RING_HOSTERR.COUNT, .ro, false, .any⟩]
  | .DEVICE_SPEC_HEDGE_START => [⟨DEVICE_SPEC_HEDGE_START.COUNT, .ro, false, .any⟩]
  | .DEVICE_SPEC_HEDGE_WON => [⟨DEVICE_SPEC_HEDGE_WON.COUNT, .ro, false, .any⟩]
  | .DEVICE_SPEC_LOSER => [⟨DEVICE_SPEC_LOSER.COUNT, .ro, false, .any⟩]
  | .DEVICE_SPEC_DECRYPT_EARLY => [⟨DEVICE_SPEC_DECRYPT_EARLY.COUNT, .ro, false, .any⟩]
  | .DEVICE_SPEC_DECRYPT_DISCARD => [⟨DEVICE_SPEC_DECRYPT_DISCARD.COUNT, .ro, false, .any⟩]
  | .DEVICE_SPEC_CLR => [⟨DEVICE_SPEC_CLR.DEVICE, .wo, false, .any⟩,
      ⟨DEVICE_SPEC_CLR.TINES, .wo, false, .any⟩]
  | .FN_IDENT => [⟨FN_IDENT.FUNC, .ro, false, .any⟩,
      ⟨FN_IDENT.LINK, .ro, false, .any⟩,
      ⟨FN_IDENT.PF, .ro, false, .any⟩,
      ⟨FN_IDENT.IS_VF, .ro, false, .any⟩]
  | .FN_STATUS => [⟨FN_STATUS.GEN, .ro, false, .any⟩,
      ⟨FN_STATUS.SILENCED, .ro, false, .any⟩,
      ⟨FN_STATUS.ATS_EN, .ro, false, .any⟩,
      ⟨FN_STATUS.PASID_EN, .ro, false, .any⟩,
      ⟨FN_STATUS.BUF_SLOTS, .ro, false, .any⟩]
  | .FN_HOST_ERR => [⟨FN_HOST_ERR.CPL_TIMEOUT, .rw1c, false, .any⟩,
      ⟨FN_HOST_ERR.CPL_ABORT, .rw1c, false, .any⟩,
      ⟨FN_HOST_ERR.POISONED, .rw1c, false, .any⟩,
      ⟨FN_HOST_ERR.XLATE, .rw1c, false, .any⟩,
      ⟨FN_HOST_ERR.BME_DROP, .rw1c, false, .any⟩,
      ⟨FN_HOST_ERR.BAR_HOLE, .rw1c, false, .any⟩,
      ⟨FN_HOST_ERR.BUF_REJECT, .rw1c, false, .any⟩]
  | .FN_HOST_ERR_ADDR => [⟨FN_HOST_ERR_ADDR.ADDR, .ro, false, .any⟩]
  | .FN_BUF_SLOT => [⟨FN_BUF_SLOT.SLOT, .rw, false, .any⟩]
  | .FN_BUF_BASE => [⟨FN_BUF_BASE.BASE, .rw, false, .any⟩]
  | .FN_BUF_LEN => [⟨FN_BUF_LEN.LENGTH, .rw, false, .any⟩]
  | .FN_BUF_ATTR => [⟨FN_BUF_ATTR.PASID, .rw, false, .any⟩,
      ⟨FN_BUF_ATTR.PASID_EN, .rw, false, .any⟩,
      ⟨FN_BUF_ATTR.READ, .rw, false, .any⟩,
      ⟨FN_BUF_ATTR.WRITE, .rw, false, .any⟩,
      ⟨FN_BUF_ATTR.VALID, .rw, false, .any⟩,
      ⟨FN_BUF_ATTR.GEN, .rw, false, .any⟩]
  | .HOST_LINK_PLAN => [⟨HOST_LINK_PLAN.PRESENT, .ro, false, .any⟩,
      ⟨HOST_LINK_PLAN.FIRST_LANE, .ro, false, .any⟩,
      ⟨HOST_LINK_PLAN.WIDTH, .ro, false, .any⟩,
      ⟨HOST_LINK_PLAN.MAX_RATE, .ro, false, .any⟩,
      ⟨HOST_LINK_PLAN.PF_COUNT, .ro, false, .any⟩,
      ⟨HOST_LINK_PLAN.FIRST_PF, .ro, false, .any⟩,
      ⟨HOST_LINK_PLAN.WAKE, .ro, false, .any⟩,
      ⟨HOST_LINK_PLAN.BOOT, .ro, false, .any⟩]
  | .HOST_LINK_STATUS => [⟨HOST_LINK_STATUS.STATE, .ro, false, .any⟩,
      ⟨HOST_LINK_STATUS.RATE, .ro, false, .any⟩,
      ⟨HOST_LINK_STATUS.LANES, .ro, false, .any⟩,
      ⟨HOST_LINK_STATUS.PERST, .ro, false, .any⟩,
      ⟨HOST_LINK_STATUS.DOWN_EV, .rw1c, false, .any⟩,
      ⟨HOST_LINK_STATUS.PERST_EV, .rw1c, false, .any⟩,
      ⟨HOST_LINK_STATUS.HOTRST_EV, .rw1c, false, .any⟩,
      ⟨HOST_LINK_STATUS.WAKE_PEND, .ro, false, .any⟩]
  | .HOST_PF_PLAN => [⟨HOST_PF_PLAN.LINK, .ro, false, .any⟩,
      ⟨HOST_PF_PLAN.INDEX, .ro, false, .any⟩,
      ⟨HOST_PF_PLAN.TOTAL_VFS, .ro, false, .any⟩,
      ⟨HOST_PF_PLAN.PRESENT, .ro, false, .any⟩,
      ⟨HOST_PF_PLAN.FIRST_VF, .ro, false, .any⟩,
      ⟨HOST_PF_PLAN.VF_OFFSET, .ro, false, .any⟩]
  | .HOST_FN_STATE => [⟨HOST_FN_STATE.ENABLED, .ro, false, .any⟩,
      ⟨HOST_FN_STATE.MSE, .ro, false, .any⟩,
      ⟨HOST_FN_STATE.BME, .ro, false, .any⟩,
      ⟨HOST_FN_STATE.DSTATE, .ro, false, .any⟩,
      ⟨HOST_FN_STATE.SILENCED, .ro, false, .any⟩,
      ⟨HOST_FN_STATE.FLR_BUSY, .ro, false, .any⟩,
      ⟨HOST_FN_STATE.NUM_VFS, .ro, false, .any⟩,
      ⟨HOST_FN_STATE.FLR_EV, .rw1c, false, .any⟩,
      ⟨HOST_FN_STATE.BME_EV, .rw1c, false, .any⟩,
      ⟨HOST_FN_STATE.DSTATE_EV, .rw1c, false, .any⟩,
      ⟨HOST_FN_STATE.VF_EV, .rw1c, false, .any⟩,
      ⟨HOST_FN_STATE.LINKRST_EV, .rw1c, false, .any⟩]
  | .HOST_APT_BASE => [⟨HOST_APT_BASE.IOVA, .rw, true, .any⟩]
  | .HOST_APT_CTL => [⟨HOST_APT_CTL.FUNC, .rw, true, .any⟩,
      ⟨HOST_APT_CTL.PASID, .rw, true, .any⟩,
      ⟨HOST_APT_CTL.PASID_EN, .rw, true, .any⟩,
      ⟨HOST_APT_CTL.WRITE, .rw, true, .any⟩,
      ⟨HOST_APT_CTL.VALID, .rw, false, .any⟩,
      ⟨HOST_APT_CTL.IDLE, .ro, false, .any⟩]
  | .RINGS_FN_CAPS => [⟨RINGS_FN_CAPS.SQ_MAX, .ro, false, .any⟩,
      ⟨RINGS_FN_CAPS.CQ_MAX, .ro, false, .any⟩]
  | .RINGS_ERRLOG_HEAD => [⟨RINGS_ERRLOG_HEAD.SEQ, .ro, false, .any⟩]
  | .RINGS_ERRLOG_ACK => [⟨RINGS_ERRLOG_ACK.SEQ, .rw, false, .any⟩]
  | .RINGS_ERRLOG_LOST => [⟨RINGS_ERRLOG_LOST.COUNT, .ro, false, .any⟩]
  | .RINGS_SQ_BASE => [⟨RINGS_SQ_BASE.IOVA, .rw, true, .any⟩]
  | .RINGS_SQ_CTL => [⟨RINGS_SQ_CTL.RUN, .rw, false, .any⟩,
      ⟨RINGS_SQ_CTL.STOPPED, .ro, false, .any⟩,
      ⟨RINGS_SQ_CTL.MODE, .rw, true, .any⟩,
      ⟨RINGS_SQ_CTL.LOG2SIZE, .rw, true, .range 4 16⟩,
      ⟨RINGS_SQ_CTL.WEIGHT, .rw, true, .range 1 255⟩,
      ⟨RINGS_SQ_CTL.BURST, .rw, true, .range 1 64⟩,
      ⟨RINGS_SQ_CTL.CQ, .rw, true, .any⟩,
      ⟨RINGS_SQ_CTL.PREFETCH, .rw, true, .range 0 5⟩,
      ⟨RINGS_SQ_CTL.GAP, .rw, true, .any⟩]
  | .RINGS_SQ_STATUS => [⟨RINGS_SQ_STATUS.HEAD, .ro, false, .any⟩,
      ⟨RINGS_SQ_STATUS.TAIL, .ro, false, .any⟩,
      ⟨RINGS_SQ_STATUS.STATE, .ro, false, .any⟩,
      ⟨RINGS_SQ_STATUS.HELD, .ro, false, .any⟩,
      ⟨RINGS_SQ_STATUS.CAUSE, .ro, false, .any⟩]
  | .RINGS_SQ_COUNT => [⟨RINGS_SQ_COUNT.OUTSTANDING, .ro, false, .any⟩,
      ⟨RINGS_SQ_COUNT.MALFORMED, .ro, false, .any⟩]
  | .RINGS_SQ_RESTART => [⟨RINGS_SQ_RESTART.GO, .wo, false, .any⟩,
      ⟨RINGS_SQ_RESTART.ACTION, .wo, false, .any⟩]
  | .RINGS_CQ_BASE => [⟨RINGS_CQ_BASE.IOVA, .rw, true, .any⟩]
  | .RINGS_CQ_CTL => [⟨RINGS_CQ_CTL.RUN, .rw, false, .any⟩,
      ⟨RINGS_CQ_CTL.STOPPED, .ro, false, .any⟩,
      ⟨RINGS_CQ_CTL.LOG2SIZE, .rw, true, .range 4 16⟩,
      ⟨RINGS_CQ_CTL.VECTOR, .rw, true, .range 1 2047⟩,
      ⟨RINGS_CQ_CTL.COAL_COUNT, .rw, true, .any⟩,
      ⟨RINGS_CQ_CTL.COAL_TIME, .rw, true, .any⟩]
  | .RINGS_CQ_STATUS => [⟨RINGS_CQ_STATUS.TAIL, .ro, false, .any⟩,
      ⟨RINGS_CQ_STATUS.HEAD, .ro, false, .any⟩,
      ⟨RINGS_CQ_STATUS.PHASE, .ro, false, .any⟩,
      ⟨RINGS_CQ_STATUS.FULL, .ro, false, .any⟩,
      ⟨RINGS_CQ_STATUS.CONFIG, .ro, false, .any⟩]
  | .RINGS_SQ_BIND => [⟨RINGS_SQ_BIND.FUNC, .rw, true, .any⟩,
      ⟨RINGS_SQ_BIND.LOCAL, .rw, true, .any⟩,
      ⟨RINGS_SQ_BIND.DQ, .rw, true, .any⟩,
      ⟨RINGS_SQ_BIND.VALID, .rw, true, .any⟩]
  | .RINGS_CQ_BIND => [⟨RINGS_CQ_BIND.FUNC, .rw, true, .any⟩,
      ⟨RINGS_CQ_BIND.LOCAL, .rw, true, .any⟩,
      ⟨RINGS_CQ_BIND.VALID, .rw, true, .any⟩]
  | .RINGS_CODE_BASE => [⟨RINGS_CODE_BASE.BASE, .rw, true, .ruled⟩]
  | .RINGS_DRILL_BASE => [⟨RINGS_DRILL_BASE.BASE, .rw, true, .ruled⟩]
  | .TENANT_ID => [⟨TENANT_ID.TENANT, .rw, true, .any⟩,
      ⟨TENANT_ID.EPOCH, .rw, true, .any⟩]
  | .TENANT_LIMITS => [⟨TENANT_LIMITS.SQ_MAX, .rw, true, .any⟩,
      ⟨TENANT_LIMITS.CQ_MAX, .rw, true, .any⟩]
  | .TENANT_TABLES => [⟨TENANT_TABLES.BUF_SLOTS, .rw, true, .any⟩,
      ⟨TENANT_TABLES.SESSIONS, .rw, true, .any⟩]
  | .TENANT_POLICY => [⟨TENANT_POLICY.PROFILES, .rw, true, .any⟩,
      ⟨TENANT_POLICY.BUDGET_MAX, .rw, true, .any⟩,
      ⟨TENANT_POLICY.MB_STRAND, .rw, true, .any⟩]
  | .TENANT_POOL => [⟨TENANT_POOL.RESV, .rw, false, .any⟩,
      ⟨TENANT_POOL.LIMIT, .rw, false, .any⟩]
  | .TENANT_CTL => [⟨TENANT_CTL.FREEZE, .rw, false, .any⟩,
      ⟨TENANT_CTL.FROZEN, .ro, false, .any⟩,
      ⟨TENANT_CTL.SAVED, .ro, false, .any⟩]
  | .TENANT_STATE => [⟨TENANT_STATE.GEN, .ro, false, .any⟩,
      ⟨TENANT_STATE.OLDEST, .ro, false, .any⟩,
      ⟨TENANT_STATE.GRAINS, .ro, false, .any⟩]
  | .TENANT_ITEMS => [⟨TENANT_ITEMS.LIVE, .ro, false, .any⟩,
      ⟨TENANT_ITEMS.STALE, .ro, false, .any⟩]
  | .TENANT_POOL_TOTAL => [⟨TENANT_POOL_TOTAL.COUNT, .ro, false, .any⟩]
  | .TENANT_POOL_RESV => [⟨TENANT_POOL_RESV.COUNT, .ro, false, .any⟩]
  | .TENANT_STALE_DISCARDS => [⟨TENANT_STALE_DISCARDS.COUNT, .ro, false, .any⟩]
  | .TENANT_PURGES => [⟨TENANT_PURGES.COUNT, .ro, false, .any⟩]
  | .TENANT_MB_BASE => [⟨TENANT_MB_BASE.BASE, .rw, true, .ruled⟩]
  | .TENANT_MB_RAISE => [⟨TENANT_MB_RAISE.FUNC, .wo, false, .any⟩,
      ⟨TENANT_MB_RAISE.GEN, .wo, false, .any⟩]
  | .TENANT_MIG_CTL => [⟨TENANT_MIG_CTL.FUNC, .rw, false, .any⟩,
      ⟨TENANT_MIG_CTL.OP, .rw, false, .range 1 2⟩,
      ⟨TENANT_MIG_CTL.GO, .rw1s, false, .any⟩,
      ⟨TENANT_MIG_CTL.RESULT, .ro, false, .any⟩]
  | .TENANT_MIG_ADDR => [⟨TENANT_MIG_ADDR.ADDR, .rw, false, .any⟩]
  | .TENANT_MIG_LEN => [⟨TENANT_MIG_LEN.LENGTH, .rw, false, .any⟩]
  | .DEVICE_PROFILE => [⟨DEVICE_PROFILE.K, .rw, true, .any⟩,
      ⟨DEVICE_PROFILE.M, .rw, true, .any⟩,
      ⟨DEVICE_PROFILE.G, .rw, true, .any⟩,
      ⟨DEVICE_PROFILE.HASH, .rw, true, .any⟩,
      ⟨DEVICE_PROFILE.IDLE, .ro, false, .any⟩,
      ⟨DEVICE_PROFILE.EN, .rw, false, .any⟩]
  | .DEVICE_SOW_CTL => [⟨DEVICE_SOW_CTL.IDLE, .rw, false, .any⟩,
      ⟨DEVICE_SOW_CTL.PEER_POOL, .ro, false, .any⟩]
  | .DEVICE_SOW_EPOCH => [⟨DEVICE_SOW_EPOCH.EPOCH, .rw, false, .any⟩,
      ⟨DEVICE_SOW_EPOCH.VALID, .rw, false, .any⟩]
  | .DEVICE_SOW_NEXT => [⟨DEVICE_SOW_NEXT.EPOCH, .rw, false, .any⟩,
      ⟨DEVICE_SOW_NEXT.VALID, .rw, false, .any⟩]
  | .DEVICE_SOW_ISSUED => [⟨DEVICE_SOW_ISSUED.COUNT, .ro, false, .any⟩,
      ⟨DEVICE_SOW_ISSUED.DRY, .ro, false, .any⟩,
      ⟨DEVICE_SOW_ISSUED.LOW, .ro, false, .any⟩]
  | .DEVICE_SOW_SESS => [⟨DEVICE_SOW_SESS.TOTAL, .ro, false, .any⟩,
      ⟨DEVICE_SOW_SESS.BASE, .ro, false, .any⟩]
  | .DEVICE_SOW_STATUS => [⟨DEVICE_SOW_STATUS.OPEN, .ro, false, .any⟩,
      ⟨DEVICE_SOW_STATUS.SPILLED, .ro, false, .any⟩]
  | .FOLD_STATUS => [⟨FOLD_STATUS.QUEUED, .ro, false, .any⟩,
      ⟨FOLD_STATUS.BUSY, .ro, false, .any⟩,
      ⟨FOLD_STATUS.HELD, .ro, false, .any⟩,
      ⟨FOLD_STATUS.FAILED, .ro, false, .any⟩,
      ⟨FOLD_STATUS.FALLOW, .ro, false, .any⟩]
  | .FOLD_CMDS => [⟨FOLD_CMDS.COUNT, .ro, false, .any⟩]
  | .FOLD_BYTES => [⟨FOLD_BYTES.COUNT, .ro, false, .any⟩]
  | .FOLD_MISMATCH => [⟨FOLD_MISMATCH.COUNT, .ro, false, .any⟩]
  | .FOLD_EVICT => [⟨FOLD_EVICT.COUNT, .ro, false, .any⟩]
  | .FOLD_RECON => [⟨FOLD_RECON.COUNT, .ro, false, .any⟩]
  | .FOLD_CLR => [⟨FOLD_CLR.COUNTERS, .wo, false, .any⟩]
  | .FOLD_SLOT => [⟨FOLD_SLOT.SCX, .ro, false, .any⟩,
      ⟨FOLD_SLOT.VALID, .ro, false, .any⟩]
  | .DEVICE_VAULT_STATUS => [⟨DEVICE_VAULT_STATUS.ROOT, .ro, false, .any⟩,
      ⟨DEVICE_VAULT_STATUS.ENROLLED, .ro, false, .any⟩,
      ⟨DEVICE_VAULT_STATUS.PROVISIONED, .ro, false, .any⟩,
      ⟨DEVICE_VAULT_STATUS.ESTATE, .ro, false, .any⟩]
  | .DEVICE_VAULT_CHECK => [⟨DEVICE_VAULT_CHECK.CHECK, .ro, false, .any⟩]
  | .DEVICE_VAULT_EKDIG => [⟨DEVICE_VAULT_EKDIG.DIGEST, .ro, false, .any⟩]
  | .DEVICE_VAULT_DERIVES => [⟨DEVICE_VAULT_DERIVES.COUNT, .ro, false, .any⟩]
  | .DEVICE_VAULT_HITS => [⟨DEVICE_VAULT_HITS.COUNT, .ro, false, .any⟩]
  | .DEVICE_VAULT_MISSES => [⟨DEVICE_VAULT_MISSES.COUNT, .ro, false, .any⟩]
  | .DEVICE_VAULT_PARITY => [⟨DEVICE_VAULT_PARITY.COUNT, .ro, false, .any⟩]
  | .DEVICE_VAULT_CLR => [⟨DEVICE_VAULT_CLR.COUNTERS, .wo, false, .any⟩]
  | .CIPHER_STATUS => [⟨CIPHER_STATUS.QUEUED, .ro, false, .any⟩,
      ⟨CIPHER_STATUS.BUSY, .ro, false, .any⟩,
      ⟨CIPHER_STATUS.CORES, .ro, false, .any⟩,
      ⟨CIPHER_STATUS.G2_UP, .ro, false, .any⟩,
      ⟨CIPHER_STATUS.FALLOW, .ro, false, .any⟩,
      ⟨CIPHER_STATUS.REL_HELD, .ro, false, .any⟩,
      ⟨CIPHER_STATUS.CHAIN_HELD, .ro, false, .any⟩,
      ⟨CIPHER_STATUS.SLOTS, .ro, false, .any⟩]
  | .CIPHER_CMDS => [⟨CIPHER_CMDS.COUNT, .ro, false, .any⟩]
  | .CIPHER_BYTES => [⟨CIPHER_BYTES.COUNT, .ro, false, .any⟩]
  | .CIPHER_G2_BYTES => [⟨CIPHER_G2_BYTES.COUNT, .ro, false, .any⟩]
  | .CIPHER_RELEASED => [⟨CIPHER_RELEASED.COUNT, .ro, false, .any⟩]
  | .CIPHER_DISCARDED => [⟨CIPHER_DISCARDED.COUNT, .ro, false, .any⟩]
  | .CIPHER_CLR => [⟨CIPHER_CLR.COUNTERS, .wo, false, .any⟩]
  | .DEVICE_GLEAN_CTL => [⟨DEVICE_GLEAN_CTL.HEDGE, .rw, false, .any⟩,
      ⟨DEVICE_GLEAN_CTL.FETCH_TO, .rw, false, .any⟩]
  | .DEVICE_GLEAN_RELEASED => [⟨DEVICE_GLEAN_RELEASED.COUNT, .ro, false, .any⟩]
  | .DEVICE_GLEAN_MISMATCH => [⟨DEVICE_GLEAN_MISMATCH.COUNT, .ro, false, .any⟩]
  | .DEVICE_GLEAN_FETCHFAIL => [⟨DEVICE_GLEAN_FETCHFAIL.COUNT, .ro, false, .any⟩]
  | .DEVICE_GLEAN_UNRECOV => [⟨DEVICE_GLEAN_UNRECOV.COUNT, .ro, false, .any⟩]
  | .DEVICE_GLEAN_CLR => [⟨DEVICE_GLEAN_CLR.COUNTERS, .wo, false, .any⟩]
  | .DEVICE_HARROW_CTL => [⟨DEVICE_HARROW_CTL.EN, .rw, false, .any⟩,
      ⟨DEVICE_HARROW_CTL.REPAIR, .rw, false, .any⟩,
      ⟨DEVICE_HARROW_CTL.LEDGER, .rw, false, .any⟩,
      ⟨DEVICE_HARROW_CTL.RATE, .rw, false, .any⟩,
      ⟨DEVICE_HARROW_CTL.QUIET, .rw, false, .any⟩]
  | .DEVICE_HARROW_STATUS => [⟨DEVICE_HARROW_STATUS.PASSES, .ro, false, .any⟩,
      ⟨DEVICE_HARROW_STATUS.ACTIVE, .ro, false, .any⟩,
      ⟨DEVICE_HARROW_STATUS.BUDGET_WAIT, .ro, false, .any⟩,
      ⟨DEVICE_HARROW_STATUS.REPAIRING, .ro, false, .any⟩]
  | .DEVICE_HARROW_ROWS => [⟨DEVICE_HARROW_ROWS.COUNT, .ro, false, .any⟩]
  | .DEVICE_HARROW_FAILED => [⟨DEVICE_HARROW_FAILED.COUNT, .ro, false, .any⟩]
  | .DEVICE_HARROW_REPAIRED => [⟨DEVICE_HARROW_REPAIRED.COUNT, .ro, false, .any⟩]
  | .DEVICE_HARROW_FREED => [⟨DEVICE_HARROW_FREED.COUNT, .ro, false, .any⟩]
  | .DEVICE_HARROW_BYTES => [⟨DEVICE_HARROW_BYTES.COUNT, .ro, false, .any⟩]
  | .DEVICE_HARROW_BREAKS => [⟨DEVICE_HARROW_BREAKS.COUNT, .ro, false, .any⟩]
  | .DEVICE_HARROW_CLR => [⟨DEVICE_HARROW_CLR.COUNTERS, .wo, false, .any⟩]
  | .STORAGE_PORT_PLAN => [⟨STORAGE_PORT_PLAN.PRESENT, .ro, false, .any⟩,
      ⟨STORAGE_PORT_PLAN.WIDTH, .ro, false, .any⟩,
      ⟨STORAGE_PORT_PLAN.MAX_RATE, .ro, false, .any⟩]
  | .STORAGE_PORT_STATUS => [⟨STORAGE_PORT_STATUS.STATE, .ro, false, .any⟩,
      ⟨STORAGE_PORT_STATUS.RATE, .ro, false, .any⟩,
      ⟨STORAGE_PORT_STATUS.LANES, .ro, false, .any⟩,
      ⟨STORAGE_PORT_STATUS.DOWN_EV, .rw1c, false, .any⟩,
      ⟨STORAGE_PORT_STATUS.ERR_EV, .rw1c, false, .any⟩]
  | .STORAGE_PORT_CTL => [⟨STORAGE_PORT_CTL.ENABLE, .rw, false, .any⟩,
      ⟨STORAGE_PORT_CTL.HOTRST, .rw1s, false, .any⟩,
      ⟨STORAGE_PORT_CTL.CPL_TO, .rw, false, .any⟩]
  | .STORAGE_INWIN_BASE => [⟨STORAGE_INWIN_BASE.BASE, .rw, true, .any⟩]
  | .STORAGE_INWIN_LIM => [⟨STORAGE_INWIN_LIM.LIMIT, .rw, true, .any⟩,
      ⟨STORAGE_INWIN_LIM.WRITE, .rw, true, .any⟩,
      ⟨STORAGE_INWIN_LIM.VALID, .rw, false, .any⟩]
  | .STORAGE_CFG_CMD => [⟨STORAGE_CFG_CMD.PORT, .rw, false, .any⟩,
      ⟨STORAGE_CFG_CMD.BUS, .rw, false, .any⟩,
      ⟨STORAGE_CFG_CMD.DEV, .rw, false, .any⟩,
      ⟨STORAGE_CFG_CMD.FN, .rw, false, .any⟩,
      ⟨STORAGE_CFG_CMD.REG, .rw, false, .any⟩,
      ⟨STORAGE_CFG_CMD.WRITE, .rw, false, .any⟩,
      ⟨STORAGE_CFG_CMD.BE, .rw, false, .any⟩,
      ⟨STORAGE_CFG_CMD.ERR, .ro, false, .any⟩,
      ⟨STORAGE_CFG_CMD.BUSY, .ro, false, .any⟩]
  | .STORAGE_CFG_DATA => [⟨STORAGE_CFG_DATA.DATA, .rw, false, .any⟩]
  | .STORAGE_LATE => [⟨STORAGE_LATE.COUNT, .ro, false, .any⟩]
  | .STORAGE_TGT_BIND => [⟨STORAGE_TGT_BIND.PORT, .rw, true, .any⟩,
      ⟨STORAGE_TGT_BIND.RID, .rw, true, .any⟩,
      ⟨STORAGE_TGT_BIND.NSID, .rw, true, .any⟩]
  | .STORAGE_TGT_BAR => [⟨STORAGE_TGT_BAR.BASE, .rw, true, .any⟩]
  | .STORAGE_TGT_CTL => [⟨STORAGE_TGT_CTL.VALID, .rw, false, .any⟩,
      ⟨STORAGE_TGT_CTL.STOPPED, .ro, false, .any⟩,
      ⟨STORAGE_TGT_CTL.DSTRD, .rw, true, .any⟩,
      ⟨STORAGE_TGT_CTL.CMD_TO, .rw, true, .any⟩]
  | .STORAGE_TGT_STATUS => [⟨STORAGE_TGT_STATUS.PRESENT, .ro, false, .any⟩,
      ⟨STORAGE_TGT_STATUS.OUTSTANDING, .ro, false, .any⟩,
      ⟨STORAGE_TGT_STATUS.DOWN_EV, .rw1c, false, .any⟩]
  | .STORAGE_QP_SQ => [⟨STORAGE_QP_SQ.BASE, .rw, true, .ruled⟩,
      ⟨STORAGE_QP_SQ.LOG2SIZE, .rw, true, .range 1 16⟩]
  | .STORAGE_QP_CQ => [⟨STORAGE_QP_CQ.BASE, .rw, true, .ruled⟩,
      ⟨STORAGE_QP_CQ.LOG2SIZE, .rw, true, .range 1 16⟩]
  | .STORAGE_QP_CTL => [⟨STORAGE_QP_CTL.RUN, .rw, false, .any⟩,
      ⟨STORAGE_QP_CTL.STOPPED, .ro, false, .any⟩]
  | .STORAGE_QP_STATUS => [⟨STORAGE_QP_STATUS.SQ_TAIL, .ro, false, .any⟩,
      ⟨STORAGE_QP_STATUS.CQ_HEAD, .ro, false, .any⟩,
      ⟨STORAGE_QP_STATUS.PHASE, .ro, false, .any⟩,
      ⟨STORAGE_QP_STATUS.INFLIGHT, .ro, false, .any⟩]
  | .DMA_CTL => [⟨DMA_CTL.GO, .rw1s, false, .any⟩,
      ⟨DMA_CTL.ACTION, .wo, false, .any⟩]
  | .DMA_STATUS => [⟨DMA_STATUS.ACTIVE, .ro, false, .any⟩,
      ⟨DMA_STATUS.SHEMPTY, .ro, false, .any⟩,
      ⟨DMA_STATUS.HALTED, .ro, false, .any⟩,
      ⟨DMA_STATUS.TRIES, .ro, false, .any⟩,
      ⟨DMA_STATUS.FALLOW, .ro, false, .any⟩]
  | .DMA_BYTES => [⟨DMA_BYTES.COUNT, .ro, false, .any⟩]
  | .DMA_DESCS => [⟨DMA_DESCS.COUNT, .ro, false, .any⟩]
  | .DMA_BUSERR => [⟨DMA_BUSERR.COUNT, .ro, false, .any⟩]
  | .DMA_ACTIVE => [⟨DMA_ACTIVE.QWORD, .ro, false, .any⟩]
  | .DMA_SHADOW => [⟨DMA_SHADOW.QWORD, .rw, true, .any⟩]
  | .BUFM_CFG => [⟨BUFM_CFG.BASE, .rw, true, .any⟩,
      ⟨BUFM_CFG.COUNT, .rw, true, .any⟩,
      ⟨BUFM_CFG.EN, .rw, false, .any⟩]
  | .BUFM_STATUS => [⟨BUFM_STATUS.FREE, .ro, false, .any⟩,
      ⟨BUFM_STATUS.IDLE, .ro, false, .any⟩]
  | .BUFM_ALLOC => [⟨BUFM_ALLOC.ADDR, .ro, false, .any⟩,
      ⟨BUFM_ALLOC.VALID, .ro, false, .any⟩]
  | .BUFM_FREE => [⟨BUFM_FREE.ADDR, .wo, false, .any⟩]
  | .BUFM_GIVE => [⟨BUFM_GIVE.ADDR, .wo, false, .any⟩,
      ⟨BUFM_GIVE.OWNER, .wo, false, .any⟩]
  | .BUFM_RECLAIM => [⟨BUFM_RECLAIM.OWNER, .wo, false, .any⟩]
  | .BUFM_EVENTS => [⟨BUFM_EVENTS.COUNT, .ro, false, .any⟩]
  | .BUFM_LAST_EVENT => [⟨BUFM_LAST_EVENT.CELL, .ro, false, .any⟩,
      ⟨BUFM_LAST_EVENT.KIND, .ro, false, .any⟩,
      ⟨BUFM_LAST_EVENT.MASTER, .ro, false, .any⟩]
  | .BUFM_RECLAIMED => [⟨BUFM_RECLAIMED.COUNT, .ro, false, .any⟩]
  | .NET_PORT_CTL => [⟨NET_PORT_CTL.RUN, .rw, false, .any⟩,
      ⟨NET_PORT_CTL.STOPPED, .ro, false, .any⟩,
      ⟨NET_PORT_CTL.MODE, .rw, true, .range 0 5⟩,
      ⟨NET_PORT_CTL.PARSE, .rw, true, .ruled⟩,
      ⟨NET_PORT_CTL.CUT, .rw, true, .any⟩,
      ⟨NET_PORT_CTL.DEF_PCP, .rw, true, .any⟩,
      ⟨NET_PORT_CTL.MAX_FRAME, .rw, true, .any⟩]
  | .NET_PORT_STATUS => [⟨NET_PORT_STATUS.STATE, .ro, false, .any⟩,
      ⟨NET_PORT_STATUS.DOWN_EV, .rw1c, false, .any⟩,
      ⟨NET_PORT_STATUS.UP_EV, .rw1c, false, .any⟩]
  | .NET_PORT_PFC => [⟨NET_PORT_PFC.PFC_EN, .rw, false, .any⟩,
      ⟨NET_PORT_PFC.QUANTA, .rw, false, .any⟩,
      ⟨NET_PORT_PFC.REFRESH, .rw, false, .any⟩]
  | .NET_PORT_PFC_STATUS => [⟨NET_PORT_PFC_STATUS.PAUSED, .ro, false, .any⟩,
      ⟨NET_PORT_PFC_STATUS.PAUSING, .ro, false, .any⟩]
  | .NET_PRI_THRESH => [⟨NET_PRI_THRESH.XOFF, .rw, true, .any⟩,
      ⟨NET_PRI_THRESH.XON, .rw, true, .any⟩,
      ⟨NET_PRI_THRESH.LIMIT, .rw, true, .any⟩]
  | .NET_RX_FRAMES => [⟨NET_RX_FRAMES.COUNT, .ro, false, .any⟩]
  | .NET_RX_BYTES => [⟨NET_RX_BYTES.COUNT, .ro, false, .any⟩]
  | .NET_RX_BAD => [⟨NET_RX_BAD.COUNT, .ro, false, .any⟩]
  | .NET_RX_RUNT => [⟨NET_RX_RUNT.COUNT, .ro, false, .any⟩]
  | .NET_RX_OVERSIZE => [⟨NET_RX_OVERSIZE.COUNT, .ro, false, .any⟩]
  | .NET_RX_OVERRUN => [⟨NET_RX_OVERRUN.COUNT, .ro, false, .any⟩]
  | .NET_TX_ABORT => [⟨NET_TX_ABORT.COUNT, .ro, false, .any⟩]
  | .NET_RX_MACCTL => [⟨NET_RX_MACCTL.COUNT, .ro, false, .any⟩]
  | .NET_PARSE_CFG => [⟨NET_PARSE_CFG.TRD_PORT, .rw, false, .any⟩,
      ⟨NET_PARSE_CFG.VXLAN_PORT, .rw, false, .any⟩]
  | .PARSE_CTL => [⟨PARSE_CTL.BUDGET, .rw, true, .any⟩,
      ⟨PARSE_CTL.EN, .rw, false, .any⟩]
  | .PARSE_STATUS => [⟨PARSE_STATUS.BANK, .ro, false, .any⟩,
      ⟨PARSE_STATUS.OLD_BUSY, .ro, false, .any⟩,
      ⟨PARSE_STATUS.STOPPED, .ro, false, .any⟩]
  | .PARSE_SWAP => [⟨PARSE_SWAP.GO, .wo, false, .any⟩]
  | .PARSE_CODE => [⟨PARSE_CODE.BASE, .rw, false, .ruled⟩]
  | .PARSE_TABLE => [⟨PARSE_TABLE.BASE, .rw, true, .ruled⟩,
      ⟨PARSE_TABLE.SIZE, .rw, true, .ruled⟩]
  | .PARSE_CELLS => [⟨PARSE_CELLS.CELLS, .rw, false, .any⟩]
  | .PARSE_FRAMES => [⟨PARSE_FRAMES.COUNT, .ro, false, .any⟩]
  | .PARSE_FAULTS => [⟨PARSE_FAULTS.COUNT, .ro, false, .any⟩]
  | .CLS_CTL => [⟨CLS_CTL.MISS, .rw, false, .any⟩,
      ⟨CLS_CTL.MISS_DQ, .rw, false, .any⟩]
  | .CLS_STATUS => [⟨CLS_STATUS.BANK, .ro, false, .any⟩,
      ⟨CLS_STATUS.OLD_BUSY, .ro, false, .any⟩]
  | .CLS_SWAP => [⟨CLS_SWAP.GO, .wo, false, .any⟩]
  | .CLS_MISSES => [⟨CLS_MISSES.COUNT, .ro, false, .any⟩]
  | .CLS_PARITY => [⟨CLS_PARITY.COUNT, .ro, false, .any⟩]
  | .DQ_BASE => [⟨DQ_BASE.BASE, .rw, true, .ruled⟩,
      ⟨DQ_BASE.LOG2SIZE, .rw, true, .range 1 16⟩]
  | .DQ_CTL => [⟨DQ_CTL.RUN, .rw, false, .any⟩,
      ⟨DQ_CTL.STOPPED, .ro, false, .any⟩,
      ⟨DQ_CTL.SLOTLOG, .rw, true, .range 0 6⟩,
      ⟨DQ_CTL.STRAND, .rw, true, .any⟩]
  | .DQ_HEAD => [⟨DQ_HEAD.INDEX, .rw, false, .any⟩]
  | .DQ_TAIL => [⟨DQ_TAIL.INDEX, .ro, false, .any⟩]
  | .SW_CTL => [⟨SW_CTL.MAC, .rw, false, .any⟩]
  | .SW_BRIDGE_CTL => [⟨SW_BRIDGE_CTL.AGE, .rw, false, .any⟩,
      ⟨SW_BRIDGE_CTL.LEARN_EN, .rw, false, .any⟩]
  | .SW_ROUTE_CTL => [⟨SW_ROUTE_CTL.HOLDOFF, .rw, false, .any⟩]
  | .SW_PUSHOUT => [⟨SW_PUSHOUT.COUNT, .ro, false, .any⟩]
  | .SW_WAITS => [⟨SW_WAITS.COUNT, .ro, false, .any⟩]
  | .SW_FLUSHED => [⟨SW_FLUSHED.COUNT, .ro, false, .any⟩]
  | .SW_MOVES => [⟨SW_MOVES.COUNT, .ro, false, .any⟩]
  | .SW_ROUTE_DROP => [⟨SW_ROUTE_DROP.COUNT, .ro, false, .any⟩]
  | .SW_REROUTE => [⟨SW_REROUTE.COUNT, .ro, false, .any⟩]
  | .SW_REROUTE_DROP => [⟨SW_REROUTE_DROP.COUNT, .ro, false, .any⟩]
  | .SW_LOCAL_DROP => [⟨SW_LOCAL_DROP.COUNT, .ro, false, .any⟩]
  | .SW_CLR => [⟨SW_CLR.COUNTERS, .wo, false, .any⟩]
  | .SW_OB_STATUS => [⟨SW_OB_STATUS.TOTAL, .ro, false, .any⟩,
      ⟨SW_OB_STATUS.FREE, .ro, false, .any⟩]
  | .SW_PUSH => [⟨SW_PUSH.EN, .rw, false, .any⟩,
      ⟨SW_PUSH.IDLE, .ro, false, .any⟩,
      ⟨SW_PUSH.SIZE, .rw, true, .ruled⟩,
      ⟨SW_PUSH.BASE, .rw, true, .ruled⟩]
  | .SW_PORT_CTL => [⟨SW_PORT_CTL.LIMIT, .rw, false, .any⟩,
      ⟨SW_PORT_CTL.LEARN, .rw, false, .any⟩,
      ⟨SW_PORT_CTL.FLOOD, .rw, false, .any⟩,
      ⟨SW_PORT_CTL.MESH, .rw, false, .any⟩,
      ⟨SW_PORT_CTL.FLUSH, .rw1s, false, .any⟩]
  | .SW_PORT_STATUS => [⟨SW_PORT_STATUS.CELLS, .ro, false, .any⟩,
      ⟨SW_PORT_STATUS.PUSHED, .ro, false, .any⟩,
      ⟨SW_PORT_STATUS.ROUTE_UP, .ro, false, .any⟩,
      ⟨SW_PORT_STATUS.PEER_SEEN, .ro, false, .any⟩]
  | .SW_PORT_PEER => [⟨SW_PORT_PEER.PEER_NODE, .ro, false, .any⟩]
  | .TABLES_CMD => [⟨TABLES_CMD.OP, .rw, false, .any⟩,
      ⟨TABLES_CMD.TABLE, .rw, false, .any⟩,
      ⟨TABLES_CMD.INDEX, .rw, false, .any⟩,
      ⟨TABLES_CMD.RESULT, .ro, false, .any⟩,
      ⟨TABLES_CMD.BUSY, .ro, false, .any⟩]
  | .TABLES_DATA => [⟨TABLES_DATA.QWORD, .rw, false, .any⟩]
  | .TABLES_PARITY => [⟨TABLES_PARITY.COUNT, .ro, false, .any⟩]
  | .TABLES_PLC => [⟨TABLES_PLC.EN, .rw, false, .any⟩,
      ⟨TABLES_PLC.IDLE, .ro, false, .any⟩,
      ⟨TABLES_PLC.BASE, .rw, true, .ruled⟩]
  | .SCHED_PORT_QMAP => [⟨SCHED_PORT_QMAP.Q_PRI0, .rw, false, .any⟩,
      ⟨SCHED_PORT_QMAP.Q_PRI1, .rw, false, .any⟩,
      ⟨SCHED_PORT_QMAP.Q_PRI2, .rw, false, .any⟩,
      ⟨SCHED_PORT_QMAP.Q_PRI3, .rw, false, .any⟩,
      ⟨SCHED_PORT_QMAP.Q_PRI4, .rw, false, .any⟩,
      ⟨SCHED_PORT_QMAP.Q_PRI5, .rw, false, .any⟩,
      ⟨SCHED_PORT_QMAP.Q_PRI6, .rw, false, .any⟩,
      ⟨SCHED_PORT_QMAP.Q_PRI7, .rw, false, .any⟩]
  | .SCHED_PORT_TEL => [⟨SCHED_PORT_TEL.PERIOD, .rw, false, .any⟩,
      ⟨SCHED_PORT_TEL.EN, .rw, false, .any⟩]
  | .SCHED_PORT_VT => [⟨SCHED_PORT_VT.V, .ro, false, .any⟩]
  | .SCHED_Q_CTL => [⟨SCHED_Q_CTL.WEIGHT, .rw, false, .ruled⟩,
      ⟨SCHED_Q_CTL.PRI, .rw, true, .any⟩]
  | .SCHED_QTEL_LAST => [⟨SCHED_QTEL_LAST.DEPTH, .ro, false, .any⟩,
      ⟨SCHED_QTEL_LAST.DELAY, .ro, false, .any⟩]
  | .SCHED_QTEL_MAX => [⟨SCHED_QTEL_MAX.DEPTH, .rc, false, .any⟩,
      ⟨SCHED_QTEL_MAX.DELAY, .rc, false, .any⟩]
  | .SCHED_POL_CFG => [⟨SCHED_POL_CFG.RATE, .rw, false, .any⟩,
      ⟨SCHED_POL_CFG.BURST, .rw, false, .any⟩]
  | .SCHED_POL_PASS => [⟨SCHED_POL_PASS.COUNT, .ro, false, .any⟩]
  | .SCHED_POL_DROP => [⟨SCHED_POL_DROP.COUNT, .ro, false, .any⟩]
  | .SCHED_RESV_CMD => [⟨SCHED_RESV_CMD.OP, .rw, false, .range 0 2⟩,
      ⟨SCHED_RESV_CMD.CLASS, .rw, false, .range 0 4⟩,
      ⟨SCHED_RESV_CMD.FUNC, .rw, false, .any⟩,
      ⟨SCHED_RESV_CMD.RATE, .rw, false, .any⟩,
      ⟨SCHED_RESV_CMD.SLOT, .rw, false, .any⟩,
      ⟨SCHED_RESV_CMD.RESULT, .ro, false, .any⟩,
      ⟨SCHED_RESV_CMD.BUSY, .ro, false, .any⟩]
  | .SCHED_RESV_STATUS => [⟨SCHED_RESV_STATUS.RESERVED, .ro, false, .any⟩,
      ⟨SCHED_RESV_STATUS.RESERVABLE, .ro, false, .any⟩]
  | .SCHED_RESV => [⟨SCHED_RESV.CLASS, .ro, false, .any⟩,
      ⟨SCHED_RESV.FUNC, .ro, false, .any⟩,
      ⟨SCHED_RESV.RATE, .ro, false, .any⟩,
      ⟨SCHED_RESV.VALID, .ro, false, .any⟩]
  | .TRD_CTL => [⟨TRD_CTL.EN, .rw, false, .any⟩,
      ⟨TRD_CTL.STOPPED, .ro, false, .any⟩,
      ⟨TRD_CTL.DATA_PCP, .rw, true, .any⟩,
      ⟨TRD_CTL.CTL_PCP, .rw, true, .any⟩,
      ⟨TRD_CTL.VID, .rw, true, .any⟩,
      ⟨TRD_CTL.MAXPAY, .rw, true, .any⟩,
      ⟨TRD_CTL.WINDOW, .rw, true, .any⟩]
  | .TRD_TIMER => [⟨TRD_TIMER.RTO, .rw, false, .any⟩,
      ⟨TRD_TIMER.RETRIES, .rw, false, .any⟩,
      ⟨TRD_TIMER.RNR_DELAY, .rw, false, .any⟩,
      ⟨TRD_TIMER.PET_AGE, .rw, false, .any⟩,
      ⟨TRD_TIMER.PET_HOLD, .rw, false, .any⟩]
  | .TRD_ADDR => [⟨TRD_ADDR.PREFIX4, .rw, true, .any⟩,
      ⟨TRD_ADDR.IPV6, .rw, true, .any⟩,
      ⟨TRD_ADDR.SPORT, .rw, true, .any⟩]
  | .TRD_PREFIX6 => [⟨TRD_PREFIX6.PREFIX, .rw, true, .any⟩]
  | .TRD_REACH => [⟨TRD_REACH.LOG2, .rw, true, .ruled⟩,
      ⟨TRD_REACH.VALID, .rw, true, .any⟩,
      ⟨TRD_REACH.BASE, .rw, true, .ruled⟩]
  | .TRD_TX_PKTS => [⟨TRD_TX_PKTS.COUNT, .ro, false, .any⟩]
  | .TRD_RX_PKTS => [⟨TRD_RX_PKTS.COUNT, .ro, false, .any⟩]
  | .TRD_RETX => [⟨TRD_RETX.COUNT, .ro, false, .any⟩]
  | .TRD_RX_BAD => [⟨TRD_RX_BAD.COUNT, .ro, false, .any⟩]
  | .TRD_DUP => [⟨TRD_DUP.COUNT, .ro, false, .any⟩]
  | .TRD_OOO => [⟨TRD_OOO.COUNT, .ro, false, .any⟩]
  | .TRD_STALE_ACK => [⟨TRD_STALE_ACK.COUNT, .ro, false, .any⟩]
  | .TRD_SWC_WAITS => [⟨TRD_SWC_WAITS.COUNT, .ro, false, .any⟩]
  | .TRD_PET_FULL => [⟨TRD_PET_FULL.COUNT, .ro, false, .any⟩]
  | .TRD_RNR => [⟨TRD_RNR.COUNT, .ro, false, .any⟩]
  | .TRD_ACCESS => [⟨TRD_ACCESS.COUNT, .ro, false, .any⟩]
  | .TRD_DROPPED => [⟨TRD_DROPPED.COUNT, .ro, false, .any⟩]
  | .TRD_CLR => [⟨TRD_CLR.COUNTERS, .wo, false, .any⟩]
  | .TRD_PLOT_STATUS => [⟨TRD_PLOT_STATUS.WAITING, .ro, false, .any⟩]
  | .TRD_RING_BASE => [⟨TRD_RING_BASE.BASE, .rw, true, .ruled⟩,
      ⟨TRD_RING_BASE.LOG2, .rw, true, .range 1 16⟩]
  | .TRD_RING_CTL => [⟨TRD_RING_CTL.RUN, .rw, false, .any⟩,
      ⟨TRD_RING_CTL.STOPPED, .ro, false, .any⟩,
      ⟨TRD_RING_CTL.SLOTLOG, .rw, true, .range 0 5⟩]
  | .TRD_RING_HEAD => [⟨TRD_RING_HEAD.INDEX, .rw, false, .any⟩]
  | .TRD_RING_TAIL => [⟨TRD_RING_TAIL.INDEX, .ro, false, .any⟩]
  | .FAULT_CTL => [⟨FAULT_CTL.NOTIFY, .rw, false, .any⟩,
      ⟨FAULT_CTL.ALERT, .rw, false, .any⟩,
      ⟨FAULT_CTL.RING_EN, .rw, false, .any⟩]
  | .FAULT_STATUS => [⟨FAULT_STATUS.FATAL, .ro, false, .any⟩,
      ⟨FAULT_STATUS.OVERFLOW, .rw1c, false, .any⟩,
      ⟨FAULT_STATUS.ALERT, .ro, false, .any⟩,
      ⟨FAULT_STATUS.RING_IDLE, .ro, false, .any⟩,
      ⟨FAULT_STATUS.INJ_AVAIL, .ro, false, .any⟩,
      ⟨FAULT_STATUS.WINDOWS, .ro, false, .any⟩]
  | .FAULT_RING_BASE => [⟨FAULT_RING_BASE.BASE, .rw, true, .ruled⟩]
  | .FAULT_RING_SEQ => [⟨FAULT_RING_SEQ.SEQ, .ro, false, .any⟩]
  | .FAULT_RING_ACK => [⟨FAULT_RING_ACK.SEQ, .rw, false, .any⟩]
  | .FAULT_RING_LOST => [⟨FAULT_RING_LOST.COUNT, .ro, false, .any⟩]
  | .FAULT_NOTICE_LOST => [⟨FAULT_NOTICE_LOST.COUNT, .ro, false, .any⟩]
  | .FAULT_COALESCED => [⟨FAULT_COALESCED.COUNT, .ro, false, .any⟩]
  | .FAULT_CLR => [⟨FAULT_CLR.CLEAR, .wo, false, .any⟩]
  | .FAULT_FORCE => [⟨FAULT_FORCE.GO, .wo, false, .any⟩,
      ⟨FAULT_FORCE.DETAIL, .wo, false, .any⟩]
  | .FAULT_FATAL => [⟨FAULT_FATAL.BYTES, .ro, false, .any⟩]
  | .FAULT_FATAL_CLR => [⟨FAULT_FATAL_CLR.CLEAR, .wo, false, .any⟩]
  | .FAULT_INJ_CTL => [⟨FAULT_INJ_CTL.CODE, .rw, false, .any⟩,
      ⟨FAULT_INJ_CTL.UNIT_KIND, .rw, false, .any⟩,
      ⟨FAULT_INJ_CTL.GO, .rw1s, false, .any⟩]
  | .FAULT_INJ_UNIT => [⟨FAULT_INJ_UNIT.UNIT, .rw, false, .any⟩]
  | .FAULT_INJ_ADDR => [⟨FAULT_INJ_ADDR.ADDR, .rw, false, .any⟩]
  | .BOOT_STATUS => [⟨BOOT_STATUS.PHASE, .ro, false, .any⟩,
      ⟨BOOT_STATUS.SOURCE, .ro, false, .any⟩,
      ⟨BOOT_STATUS.WAIT_MS, .ro, false, .any⟩,
      ⟨BOOT_STATUS.RUN_SLOT, .ro, false, .any⟩,
      ⟨BOOT_STATUS.PENDING, .ro, false, .any⟩,
      ⟨BOOT_STATUS.COUNTER, .ro, false, .any⟩]
  | .BOOT_CMD => [⟨BOOT_CMD.OP, .rw, false, .range 0 3⟩,
      ⟨BOOT_CMD.OFFSET, .rw, false, .any⟩,
      ⟨BOOT_CMD.LENGTH, .rw, false, .any⟩,
      ⟨BOOT_CMD.BUSY, .ro, false, .any⟩]
  | .BOOT_RESULT => [⟨BOOT_RESULT.CODE, .ro, false, .any⟩,
      ⟨BOOT_RESULT.A_CODE, .ro, false, .any⟩,
      ⟨BOOT_RESULT.B_CODE, .ro, false, .any⟩]
  | .BOOT_FLASH_CMD => [⟨BOOT_FLASH_CMD.OP, .rw, false, .range 0 8⟩,
      ⟨BOOT_FLASH_CMD.SLOT, .rw, false, .any⟩,
      ⟨BOOT_FLASH_CMD.RAISE, .rw, false, .any⟩,
      ⟨BOOT_FLASH_CMD.OFFSET, .rw, false, .any⟩,
      ⟨BOOT_FLASH_CMD.LENGTH, .rw, false, .any⟩,
      ⟨BOOT_FLASH_CMD.RESULT, .ro, false, .any⟩,
      ⟨BOOT_FLASH_CMD.BUSY, .ro, false, .any⟩]
  | .BOOT_FLASH_ADDR => [⟨BOOT_FLASH_ADDR.ADDR, .rw, false, .any⟩]
  | .BOOT_SLOT_STATE => [⟨BOOT_SLOT_STATE.SLOT0, .ro, false, .any⟩,
      ⟨BOOT_SLOT_STATE.SLOT1, .ro, false, .any⟩]
  | .BOOT_FUSE_CMD => [⟨BOOT_FUSE_CMD.OP, .rw, false, .any⟩,
      ⟨BOOT_FUSE_CMD.SLOT, .rw, false, .any⟩,
      ⟨BOOT_FUSE_CMD.RESULT, .ro, false, .any⟩,
      ⟨BOOT_FUSE_CMD.BUSY, .ro, false, .any⟩]
  | .BOOT_FUSE_STATUS => [⟨BOOT_FUSE_STATUS.PROGRAMMED, .ro, false, .any⟩,
      ⟨BOOT_FUSE_STATUS.REVOKED, .ro, false, .any⟩,
      ⟨BOOT_FUSE_STATUS.RUN_KEY, .ro, false, .any⟩,
      ⟨BOOT_FUSE_STATUS.COUNTER, .ro, false, .any⟩,
      ⟨BOOT_FUSE_STATUS.FACTORY, .ro, false, .any⟩]
  | .BOOT_KEY_DIG => [⟨BOOT_KEY_DIG.BYTES, .ro, false, .any⟩]
  | .BOOT_WAKE_DIG => [⟨BOOT_WAKE_DIG.BYTES, .ro, false, .any⟩]
  | .POWER_STATUS => [⟨POWER_STATUS.LAST_RESET, .ro, false, .any⟩,
      ⟨POWER_STATUS.WAKE_CAUSE, .ro, false, .any⟩]
  | .POWER_RESET => [⟨POWER_RESET.KIND, .wo, false, .any⟩,
      ⟨POWER_RESET.KEY, .wo, false, .any⟩]
  | .POWER_SLEEP_CTL => [⟨POWER_SLEEP_CTL.WAKE_EN, .rw, false, .any⟩]
  | .POWER_SLEEP => [⟨POWER_SLEEP.KIND, .wo, false, .any⟩,
      ⟨POWER_SLEEP.KEY, .wo, false, .any⟩]
  | .POWER_WAKE_TIME => [⟨POWER_WAKE_TIME.TIME, .rw, false, .any⟩]
  | .POWER_GATE => [⟨POWER_GATE.REQ, .rw, false, .any⟩,
      ⟨POWER_GATE.STATE, .ro, false, .any⟩,
      ⟨POWER_GATE.FORCED, .rw1c, false, .any⟩,
      ⟨POWER_GATE.FAILED, .ro, false, .any⟩]
  | .POWER_GPIO_CFG => [⟨POWER_GPIO_CFG.FUNC, .rw, false, .range 0 5⟩,
      ⟨POWER_GPIO_CFG.PULL, .rw, false, .range 0 2⟩,
      ⟨POWER_GPIO_CFG.OUT, .rw, false, .any⟩,
      ⟨POWER_GPIO_CFG.PARKED, .ro, false, .any⟩]
  | .POWER_GPIO_IN => [⟨POWER_GPIO_IN.LEVEL, .ro, false, .any⟩]

/-- The SNAP register groups of R89: the head, and how many consecutive registers the group has. A group of
one array (EKDIG, DMA_ACTIVE, TABLES_DATA, FAULT_FATAL, the digests) has its instance 0 as head. -/
def RegName.group : RegName → Option (RegName × Nat)
  | .TIME_NOW_SEC => some (.TIME_NOW_SEC, 2)
  | .TIME_NOW_NS => some (.TIME_NOW_SEC, 2)
  | .DEVICE_SPEC_RING_FETCH => some (.DEVICE_SPEC_RING_FETCH, 8)
  | .DEVICE_SPEC_RING_DISCARD => some (.DEVICE_SPEC_RING_FETCH, 8)
  | .DEVICE_SPEC_RING_HOSTERR => some (.DEVICE_SPEC_RING_FETCH, 8)
  | .DEVICE_SPEC_HEDGE_START => some (.DEVICE_SPEC_RING_FETCH, 8)
  | .DEVICE_SPEC_HEDGE_WON => some (.DEVICE_SPEC_RING_FETCH, 8)
  | .DEVICE_SPEC_LOSER => some (.DEVICE_SPEC_RING_FETCH, 8)
  | .DEVICE_SPEC_DECRYPT_EARLY => some (.DEVICE_SPEC_RING_FETCH, 8)
  | .DEVICE_SPEC_DECRYPT_DISCARD => some (.DEVICE_SPEC_RING_FETCH, 8)
  | .TENANT_STATE => some (.TENANT_STATE, 2)
  | .TENANT_ITEMS => some (.TENANT_STATE, 2)
  | .FOLD_CMDS => some (.FOLD_CMDS, 5)
  | .FOLD_BYTES => some (.FOLD_CMDS, 5)
  | .FOLD_MISMATCH => some (.FOLD_CMDS, 5)
  | .FOLD_EVICT => some (.FOLD_CMDS, 5)
  | .FOLD_RECON => some (.FOLD_CMDS, 5)
  | .DEVICE_VAULT_EKDIG => some (.DEVICE_VAULT_EKDIG, 4)
  | .DEVICE_VAULT_DERIVES => some (.DEVICE_VAULT_DERIVES, 4)
  | .DEVICE_VAULT_HITS => some (.DEVICE_VAULT_DERIVES, 4)
  | .DEVICE_VAULT_MISSES => some (.DEVICE_VAULT_DERIVES, 4)
  | .DEVICE_VAULT_PARITY => some (.DEVICE_VAULT_DERIVES, 4)
  | .CIPHER_CMDS => some (.CIPHER_CMDS, 5)
  | .CIPHER_BYTES => some (.CIPHER_CMDS, 5)
  | .CIPHER_G2_BYTES => some (.CIPHER_CMDS, 5)
  | .CIPHER_RELEASED => some (.CIPHER_CMDS, 5)
  | .CIPHER_DISCARDED => some (.CIPHER_CMDS, 5)
  | .DEVICE_GLEAN_RELEASED => some (.DEVICE_GLEAN_RELEASED, 4)
  | .DEVICE_GLEAN_MISMATCH => some (.DEVICE_GLEAN_RELEASED, 4)
  | .DEVICE_GLEAN_FETCHFAIL => some (.DEVICE_GLEAN_RELEASED, 4)
  | .DEVICE_GLEAN_UNRECOV => some (.DEVICE_GLEAN_RELEASED, 4)
  | .DEVICE_HARROW_ROWS => some (.DEVICE_HARROW_ROWS, 6)
  | .DEVICE_HARROW_FAILED => some (.DEVICE_HARROW_ROWS, 6)
  | .DEVICE_HARROW_REPAIRED => some (.DEVICE_HARROW_ROWS, 6)
  | .DEVICE_HARROW_FREED => some (.DEVICE_HARROW_ROWS, 6)
  | .DEVICE_HARROW_BYTES => some (.DEVICE_HARROW_ROWS, 6)
  | .DEVICE_HARROW_BREAKS => some (.DEVICE_HARROW_ROWS, 6)
  | .DMA_BYTES => some (.DMA_BYTES, 3)
  | .DMA_DESCS => some (.DMA_BYTES, 3)
  | .DMA_BUSERR => some (.DMA_BYTES, 3)
  | .DMA_ACTIVE => some (.DMA_ACTIVE, 8)
  | .NET_RX_FRAMES => some (.NET_RX_FRAMES, 8)
  | .NET_RX_BYTES => some (.NET_RX_FRAMES, 8)
  | .NET_RX_BAD => some (.NET_RX_FRAMES, 8)
  | .NET_RX_RUNT => some (.NET_RX_FRAMES, 8)
  | .NET_RX_OVERSIZE => some (.NET_RX_FRAMES, 8)
  | .NET_RX_OVERRUN => some (.NET_RX_FRAMES, 8)
  | .NET_TX_ABORT => some (.NET_RX_FRAMES, 8)
  | .NET_RX_MACCTL => some (.NET_RX_FRAMES, 8)
  | .PARSE_FRAMES => some (.PARSE_FRAMES, 2)
  | .PARSE_FAULTS => some (.PARSE_FRAMES, 2)
  | .SW_PUSHOUT => some (.SW_PUSHOUT, 8)
  | .SW_WAITS => some (.SW_PUSHOUT, 8)
  | .SW_FLUSHED => some (.SW_PUSHOUT, 8)
  | .SW_MOVES => some (.SW_PUSHOUT, 8)
  | .SW_ROUTE_DROP => some (.SW_PUSHOUT, 8)
  | .SW_REROUTE => some (.SW_PUSHOUT, 8)
  | .SW_REROUTE_DROP => some (.SW_PUSHOUT, 8)
  | .SW_LOCAL_DROP => some (.SW_PUSHOUT, 8)
  | .TABLES_DATA => some (.TABLES_DATA, 8)
  | .TRD_TX_PKTS => some (.TRD_TX_PKTS, 8)
  | .TRD_RX_PKTS => some (.TRD_TX_PKTS, 8)
  | .TRD_RETX => some (.TRD_TX_PKTS, 8)
  | .TRD_RX_BAD => some (.TRD_TX_PKTS, 8)
  | .TRD_DUP => some (.TRD_TX_PKTS, 8)
  | .TRD_OOO => some (.TRD_TX_PKTS, 8)
  | .TRD_STALE_ACK => some (.TRD_TX_PKTS, 8)
  | .TRD_SWC_WAITS => some (.TRD_TX_PKTS, 8)
  | .TRD_PET_FULL => some (.TRD_PET_FULL, 4)
  | .TRD_RNR => some (.TRD_PET_FULL, 4)
  | .TRD_ACCESS => some (.TRD_PET_FULL, 4)
  | .TRD_DROPPED => some (.TRD_PET_FULL, 4)
  | .FAULT_RING_SEQ => some (.FAULT_RING_SEQ, 5)
  | .FAULT_RING_ACK => some (.FAULT_RING_SEQ, 5)
  | .FAULT_RING_LOST => some (.FAULT_RING_SEQ, 5)
  | .FAULT_NOTICE_LOST => some (.FAULT_RING_SEQ, 5)
  | .FAULT_COALESCED => some (.FAULT_RING_SEQ, 5)
  | .FAULT_FATAL => some (.FAULT_FATAL, 8)
  | .BOOT_KEY_DIG => some (.BOOT_KEY_DIG, 4)
  | .BOOT_WAKE_DIG => some (.BOOT_WAKE_DIG, 4)
  | _ => none

/-- The key of instance `i` of a register: its control-space offset. -/
def RegName.key (r : RegName) (i : List Nat) : Nat :=
  r.base + ((r.dims.zip i).map fun p => p.1.2 * p.2).sum

/-- The reset word of instance `i` of a register. -/
def RegName.reset (r : RegName) (i : List Nat) : Word := BitVec.ofNat 64 (r.resetNat i)

/-- Reads the indices that a distance `d` from the first instance stands for, if it is one. -/
def splitIndex : List (Nat × Nat) → Nat → Option (List Nat)
  | [], d => if d = 0 then some [] else none
  | (n, st) :: t, d =>
    if d / st < n then (splitIndex t (d % st)).map (d / st :: ·) else none

/-- Gate IDs that R829 reserves: 8p + 6 and 8p + 7 of plot p. No register lies there. -/
def RegName.lacks (r : RegName) (i : List Nat) : Bool :=
  match r, i with
  | .POWER_GATE, [g] => g < 32 && 5 < g % 8
  | _, _ => false

/-- The register, and the instance of it, that lies at an 8-byte-aligned key. -/
def locate (key : Nat) : Option (RegName × List Nat) :=
  regNames.findSome? fun r =>
    if key < r.base then none
    else (splitIndex r.dims (key - r.base)).bind fun i => if r.lacks i then none else some (r, i)

end Sys2Proof.Machine
end

