-- ==== Sys2Proof/Machine/Ops.lean ====
section
/-!
DEFINITION. The named operations that every family's meanings are built from: sparse tables, registers and
their fields, memory and its regions, fault reports, queue endpoints, and what the device sends outside.
-/

namespace Sys2Proof.Machine

/-! ### Sparse tables -/

/-- The value listed at a key. -/
def tfind {α : Type} : Tbl α → Nat → Option α
  | [], _ => none
  | (k', v) :: t, k => if k = k' then some v else tfind t k

/-- Lists a value at a key. -/
def tput {α : Type} : Tbl α → Nat → α → Tbl α
  | [], k, v => [(k, v)]
  | (k', v') :: t, k, v =>
    if k = k' then (k, v) :: t
    else if k < k' then (k, v) :: (k', v') :: t
    else (k', v') :: tput t k v

/-- Unlists a key. -/
def tdel {α : Type} : Tbl α → Nat → Tbl α
  | [], _ => []
  | (k', v') :: t, k => if k = k' then tdel t k else (k', v') :: tdel t k

/-- The value at a key, where an unlisted key reads as `z`. -/
def tget {α : Type} (z : α) (t : Tbl α) (k : Nat) : α := (tfind t k).getD z

/-- Writes a value at a key and keeps the canonical form: the value `z` of an unlisted key is not listed. -/
def tset {α : Type} [DecidableEq α] (z : α) (t : Tbl α) (k : Nat) (v : α) : Tbl α :=
  if v = z then tdel t k else tput t k v

/-- Changes the value at a key. -/
def tmod {α : Type} [DecidableEq α] (z : α) (t : Tbl α) (k : Nat) (f : α → α) : Tbl α :=
  tset z t k (f (tget z t k))

/-! ### Bytes and words -/

/-- Little-endian value of a byte string. -/
def leNat : List Byte → Nat
  | [] => 0
  | b :: t => b.toNat + 256 * leNat t

/-- `n` bytes of a number, little-endian. -/
def leBytes : Nat → Nat → List Byte
  | 0, _ => []
  | n + 1, v => BitVec.ofNat 8 v :: leBytes n (v / 256)

/-- Big-endian value of a byte string. -/
def beNat (l : List Byte) : Nat := l.foldl (fun a b => a * 256 + b.toNat) 0

/-- `n` bytes of a number, big-endian. -/
def beBytes (n v : Nat) : List Byte := (leBytes n v).reverse

/-- Bytes `[off, off + n)` of a byte string, padded with 0 past its end. -/
def slice (l : List Byte) (off n : Nat) : List Byte :=
  let t := (l.drop off).take n
  t ++ List.replicate (n - t.length) 0

/-- The little-endian number in bytes `[off, off + n)` of a byte string. -/
def leAt (l : List Byte) (off n : Nat) : Nat := leNat (slice l off n)

/-- Bits `[lo, lo + n)` of a number. -/
def bits (v lo n : Nat) : Nat := v / 2 ^ lo % 2 ^ n

/-- Bit `i` of a number. -/
def bit (v i : Nat) : Bool := v.testBit i

/-- A Bool as a number. -/
def b2n (b : Bool) : Nat := if b then 1 else 0

/-- Bits `[lo, lo + n)` of `v` replaced by the low bits of `x`. -/
def setBits (v lo n x : Nat) : Nat := v - bits v lo n * 2 ^ lo + x % 2 ^ n * 2 ^ lo

/-- The 64 bytes of a message or a wide register, byte 0 first (R113). -/
def wideBytes (w : Wide) : List Byte := leBytes 64 w.toNat

/-- A wide value from its bytes, byte 0 first. -/
def bytesWide (l : List Byte) : Wide := BitVec.ofNat 512 (leNat l)

/-! ### Registers -/

/-- A field of a register word. -/
def Fld.get (f : Fld) (w : Word) : Nat := bits w.toNat f.lo f.width

/-- A register word with one field replaced. -/
def Fld.set (f : Fld) (w : Word) (v : Nat) : Word := BitVec.ofNat 64 (setBits w.toNat f.lo f.width v)

/-- The stored word of a register instance. -/
def Dev.reg (d : Dev) (r : RegName) (i : List Nat := []) : Word := (tfind d.regs (r.key i)).getD (r.reset i)

/-- Stores a register word; a reset value is not listed. -/
def Dev.setReg (d : Dev) (r : RegName) (v : Word) (i : List Nat := []) : Dev :=
  { d with regs := tset (r.reset i) d.regs (r.key i) v }

/-- A field of a stored register. -/
def Dev.fld (d : Dev) (f : Fld) (i : List Nat := []) : Nat := f.get (d.reg f.reg i)

/-- A one-bit field of a stored register. -/
def Dev.flag (d : Dev) (f : Fld) (i : List Nat := []) : Bool := d.fld f i ≠ 0

/-- Stores one field of a register. -/
def Dev.setFld (d : Dev) (f : Fld) (v : Nat) (i : List Nat := []) : Dev :=
  d.setReg f.reg (f.set (d.reg f.reg i) v) i

/-- Adds to a counter register, which wraps at 2^64. -/
def Dev.count (d : Dev) (r : RegName) (i : List Nat := []) (n : Nat := 1) : Dev :=
  d.setReg r (d.reg r i + BitVec.ofNat 64 n) i

/-- Sets a list of counter registers to 0 (the counter-clear registers of each block). -/
def Dev.zeroRegs (d : Dev) (rs : List RegName) (i : List Nat := []) : Dev :=
  rs.foldl (fun d r => d.setReg r 0 i) d

/-- Returns a list of registers to their reset values. -/
def Dev.resetRegs (d : Dev) (rs : List RegName) (i : List Nat := []) : Dev :=
  rs.foldl (fun d r => d.setReg r (r.reset i) i) d

/-! ### Regions (R72, R73, R865) -/

/-- The regions of R72, and the holes between them. -/
inductive Region where
  | hbm | furrow | sram | boot | control | host | storage | hole
  deriving DecidableEq, Repr

/-- The region of an address. -/
def regionOf (a : Nat) : Region :=
  if a < 0x4000000000 then .hbm
  else if 0x10000000000 ≤ a ∧ a < 0x10004000000 then .furrow
  else if 0x20000000000 ≤ a ∧ a < 0x20020000000 then
    if (a - 0x20000000000) % 0x8000000 < 0x6000000 then .sram else .hole
  else if 0x30000000000 ≤ a ∧ a < 0x30000800000 then .boot
  else if 0x40000000000 ≤ a ∧ a < 0x40040000000 then .control
  else if 0x80000000000 ≤ a ∧ a < 0x100000000000 then .host
  else if 0x100000000000 ≤ a ∧ a < 0x200000000000 then .storage
  else .hole

/-- The memory kind of R72. -/
def Region.isMemory : Region → Bool
  | .hbm | .furrow | .sram | .boot => true
  | .control | .host | .storage | .hole => false

/-- DEVICE_IDENT (R8): the part decides PART. -/
def Dev.identWord (d : Dev) : Word :=
  match d.part with
  | .t512 => d.reg .DEVICE_IDENT
  | .t256 => 0x00000002_03B00256

/-- DEVICE_STRIP_PLAN (R35): the T256's is fixed. -/
def Dev.planWord (d : Dev) : Word :=
  match d.part with
  | .t512 => d.reg .DEVICE_STRIP_PLAN
  | .t256 => 0x30200011

/-- The gate is of a plot, a furrow or a strip that the T256 lacks (R30, R831). -/
def absentGate (g : Nat) : Bool := (16 ≤ g && g < 32) || (0x28 ≤ g && g < 0x30) || [0x32, 0x33, 0x34, 0x36].contains g

/-- POWER_GATE.STATE of gate g (R829, R831, R835): 0 ON, 1 DRAINING, 2 FALLOW, 3 WAKING. -/
def Dev.gateState (d : Dev) (g : Nat) : Nat := if d.part = .t256 && absentGate g then 2 else d.fld POWER_GATE.STATE [g]

/-- A block of plot `p` accepts no new work: its own gate or the whole plot's is not ON (R829, R830). -/
def Dev.gatedBlock (d : Dev) (p b : Nat) : Bool := d.gateState (8 * p + b) ≠ 0 || d.gateState (8 * p + 5) ≠ 0

/-- A block of plot `p` reads FALLOW, by its own gate or the whole plot's. -/
def Dev.fallowBlock (d : Dev) (p b : Nat) : Bool := d.gateState (8 * p + b) = 2 || d.gateState (8 * p + 5) = 2

/-- A plot's memory is off: fallow, or waking and not yet ON (R831, R832). -/
def Dev.plotOff (d : Dev) (p : Nat) : Bool := 2 ≤ d.gateState (8 * p + 5)

/-- Strip `s` has left electrical idle (R32), is not gated (R830, R832), and has its reference clock (R850). -/
def Dev.stripOn (d : Dev) (s : Nat) : Bool := d.pw.strips && d.clk.refclk && d.gateState (0x30 + s) = 0

/-- A furrow's store is off, by its own gate or its plot's. -/
def Dev.furrowOff (d : Dev) (f : Nat) : Bool := 2 ≤ d.gateState (0x20 + f) || d.plotOff (f / 4)

/-- Plots of the part. -/
def Dev.plots (d : Dev) : Nat := if d.part = .t512 then 4 else 2

/-- An address of a furrow store or plot SRAM that the T256 lacks (R5). -/
def absentOnT256 (a : Nat) : Bool :=
  (0x10002000000 ≤ a && a < 0x10004000000) || (0x20010000000 ≤ a && a < 0x20020000000 && regionOf a = .sram)

/-- The part lacks the memory at an address (R5). -/
def Dev.absent (d : Dev) (a : Nat) : Bool := d.part = .t256 && absentOnT256 a

/-- The part lacks memory at one end of a range in one area. -/
def Dev.absentIn (d : Dev) (a n : Nat) : Bool := d.absent a || d.absent (a + n - min n 1)

/-- The offset in control space lies in a control page of a plot or tine that the T256 lacks (R4). -/
def Dev.absentPage (d : Dev) (off : Nat) : Bool :=
  d.part = .t256 && ((0x12000000 ≤ off && off < 0x14000000) || (0x24000000 ≤ off && off < 0x28000000))

/-- The region an access meets: furrow stores and plot SRAM that are fallow are holes (R831). Where the T256 has none,
R5 takes the place of R73, so they are no holes. -/
def Dev.region (d : Dev) (a : Nat) : Region :=
  match regionOf a with
  | .furrow => if d.furrowOff ((a - 0x10000000000) / 0x400000) && !d.absent a then .hole else .furrow
  | .sram => if d.plotOff ((a - 0x20000000000) / 0x8000000) && !d.absent a then .hole else .sram
  | r => r

/-- Which of R72's memory areas an address lies in. One plot's SRAM is parted from the next by a hole, and one
furrow store meets the next. -/
def areaOf (a : Nat) : Region × Nat :=
  match regionOf a with
  | .sram => (.sram, (a - 0x20000000000) / 0x8000000)
  | r => (r, 0)

/-- Every furrow store or plot that a range in one area touches is on. Ranges are at most a plot's SRAM, so the
first and last address tell, but for a furrow store between them. -/
def Dev.rangeOn (d : Dev) (a n : Nat) : Bool :=
  match regionOf a with
  | .furrow =>
    let f0 := (a - 0x10000000000) / 0x400000
    let f1 := (a + n - min n 1 - 0x10000000000) / 0x400000
    (List.range (f1 - f0 + 1)).all fun i => !d.furrowOff (f0 + i) || d.absent (0x10000000000 + 0x400000 * (f0 + i))
  | _ => d.region a ≠ .hole

/-- A whole range lies in one memory region: R865's test for an engine's range. An empty range lies where its
first address lies. -/
def Dev.inMemory (d : Dev) (a n : Nat) : Bool :=
  (regionOf a).isMemory && areaOf a = areaOf (a + n - min n 1) && d.rangeOn a n

/-- A whole range lies in one region of either kind. -/
def Dev.inRegion (d : Dev) (a n : Nat) : Bool :=
  regionOf a ≠ .hole && areaOf a = areaOf (a + n - min n 1) && d.rangeOn a n

/-- A whole range lies in HBM. -/
def inHbm (a n : Nat) : Bool := a + n ≤ 0x4000000000

/-! ### Memory -/

/-- A byte of memory; a byte that nothing has written reads 0 (assumption 1). -/
def Mem.byte (m : Mem) (a : Nat) : Byte := tget 0 m a

/-- Writes one byte and keeps the canonical form. -/
def Mem.write (m : Mem) (a : Nat) (b : Byte) : Mem := tset 0 m a b

/-- Performs a command's stores, the oldest first. -/
def Mem.commit (m : Mem) (log : List Host.Cell) : Mem := log.foldr (fun c m => Mem.write m c.1 c.2) m

/-- The canonical form of memory: rising addresses, no entry 0. -/
def Mem.wf : Mem → Bool
  | [] => true
  | [(_, b)] => b ≠ 0
  | (a, b) :: (a', b') :: t => b ≠ 0 && a < a' && Mem.wf ((a', b') :: t)

/-- The newest store to an address in a list of stores, newest first. -/
def logByte : List Host.Cell → Nat → Option Byte
  | [], _ => none
  | (a', b) :: t, a => if a = a' then some b else logByte t a

/-- What stands between the stored byte and the byte held, at an address whose contents became undefined: a free
value (R832, assumption 3). -/
def Dev.pad (d : Dev) (a : Nat) : Byte :=
  match d.pads.find? fun p => p.1 ≤ a && a < p.1 + p.2.1 with
  | some p => Config.freeByte p.2.2 a
  | none => 0

/-- A byte as the command in progress sees it: its own stores, then memory. A part without the memory at that
address reads 0 (R5). -/
def Dev.ld (d : Dev) (m : Mem) (a : Nat) : Byte :=
  if d.absent a then 0 else (logByte d.wlog a).getD (m.byte a) ^^^ d.pad a

/-- An area's contents become undefined. -/
def Dev.undefine (d : Dev) (a n : Nat) : Dev :=
  { d with pads := (a, n, d.free) :: d.pads.filter (fun p => p.1 ≠ a), free := d.free + 1 }

/-- `n` bytes from an address. -/
def Dev.ldBytes (d : Dev) (m : Mem) (a n : Nat) : List Byte := (List.range n).map fun i => d.ld m (a + i)

/-- Stores one byte; discarded where the part has no memory (R5). -/
def Dev.st (d : Dev) (a : Nat) (b : Byte) : Dev :=
  if d.absent a then d else { d with wlog := (a, b ^^^ d.pad a) :: d.wlog }

/-- Stores a byte string from an address. -/
def Dev.stBytes (d : Dev) (a : Nat) : List Byte → Dev
  | [] => d
  | b :: t => (d.st a b).stBytes (a + 1) t

/-- Some 64-byte line of a range is marked poisoned (R777). -/
def Dev.poisoned (d : Dev) (a n : Nat) : Bool :=
  d.flt.poisoned.any fun l => a < (l + 1) * 64 && l * 64 < a + max n 1

/-! ### Free values -/

/-- Draws a free 64-bit value. -/
def Dev.draw (d : Dev) : Word × Dev := (Config.freeWord d.free, { d with free := d.free + 1 })

/-! ### What the device sends -/

/-- Records something the device sends or drives. -/
def Dev.emit (d : Dev) (o : Out) : Dev := { d with out := d.out ++ [o] }

/-- TIME_MONO. -/
def Dev.now (d : Dev) : Nat := d.clk.mono

/-! ### Fault reports (R759 to R769) -/

/-- The class of a code of R761: 0 N, 1 C, 2 K, 3 F; `none` for a reserved code. -/
def faultClass (code : Nat) : Option Nat :=
  if 0x0001 ≤ code ∧ code ≤ 0x0004 then some 0
  else if 0x0101 ≤ code ∧ code ≤ 0x010B then some 1
  else if 0x0201 ≤ code ∧ code ≤ 0x0209 then some 2
  else if 0x0301 ≤ code ∧ code ≤ 0x0307 then some 2
  else if 0x0401 ≤ code ∧ code ≤ 0x0405 then some 2
  else if 0x0501 ≤ code ∧ code ≤ 0x0506 then some 2
  else if 0x0F01 ≤ code ∧ code ≤ 0x0F08 then some 3
  else none

/-- The key of the queue a report waits in: one queue for each unit that reports (assumption 9). -/
def Report.queueKey (r : Report) : Nat := r.kind * 2 ^ 32 + r.unit

/-- A unit that holds reports holds one more: the held report of the same code and unit counts it (R769). -/
def holdReport (h : List Report) (r : Report) : List Report :=
  if h.any fun x => x.code = r.code && x.unit = r.unit then
    h.map fun x => if x.code = r.code && x.unit = r.unit then { r with count := x.count + r.count } else x
  else h ++ [r]

/-- Places a report of class N, C or K in its unit's queue, or holds it there under R769 when the queue is full:
the held report of the same code and unit counts it, and reports of other codes wait behind. -/
def Dev.enqueue (d : Dev) (r : Report) : Dev :=
  let k := r.queueKey
  let q := tget [] d.flt.queues k
  let h := tget [] d.flt.held k
  if h = [] ∧ q.length < 1024 then { d with flt := { d.flt with queues := tset [] d.flt.queues k (q ++ [r]) } }
  else
    let folds := h.any fun x => x.code = r.code && x.unit = r.unit
    let regs := (if folds then d.count .FAULT_COALESCED else d).regs
    { d with regs := regs, flt := { d.flt with held := tset [] d.flt.held k (holdReport h r) } }

/-- Reports a fault or notice of class N, C or K, stamped with TIME_MONO (R763). -/
def Dev.report (d : Dev) (r : Report) : Dev := d.enqueue { r with time := d.now, injected := d.flt.injecting }

/-- A contained fault that names a master (R73, R84, R95, R98 and the others of R761 with UNIT_KIND 0). A master from
0x10000 up stands for host function `master - 0x10000`, which the record names in FUNC (R763). -/
def Dev.blame (d : Dev) (code master : Nat) (addr : Nat := 0) (detail : Nat := 0) : Dev :=
  if master < 0x10000 then
    d.report { code := code, kind := 0, unit := 0, master := master, addr := addr, detail := detail }
  else
    d.report { code := code, kind := 0, unit := 0, func := master - 0x10000, addr := addr, detail := detail }

/-! ### Owner tags (R624) -/

def tagStrand (k : Nat) : Nat := k
def tagDma (p c : Nat) : Nat := 0x1000 + 64 * p + c
def tagParse (p c : Nat) : Nat := 0x2000 + 64 * p + c
def tagFold (p u : Nat) : Nat := 0x3000 + 4 * p + u
def tagCipher (p : Nat) : Nat := 0x4000 + p
def tagRing : Nat := 0x5000
def tagMgmt : Nat := 0x6000
def tagTrd (p : Nat) : Nat := 0x7000 + p

/-! ### Queue endpoints (R148) -/

/-- Endpoint key: class in [15:12], instance in [11:0] (R147). -/
def epKey (cls inst : Nat) : Nat := cls * 4096 + inst

/-- The messages waiting at an endpoint, oldest first. -/
def Dev.queue (d : Dev) (ep : Nat) : List Msg := tget [] d.tine.queues ep

/-- Replaces an endpoint's messages. -/
def Dev.setQueue (d : Dev) (ep : Nat) (q : List Msg) : Dev :=
  { d with tine := { d.tine with queues := tset [] d.tine.queues ep q } }

/-- Adds a message at an endpoint, last. -/
def Dev.post (d : Dev) (ep : Nat) (x : Msg) : Dev := d.setQueue ep (d.queue ep ++ [x])

/-- A command endpoint whose block accepts no work, or a completion endpoint whose block is fallow (R152, R830);
a failed fold unit (R467) and a failed DMA channel (R620) are fallow too. -/
def Dev.epFallow (d : Dev) (cls inst : Nat) : Bool :=
  match cls with
  | 0x2 => d.gatedBlock (inst / 64) 2 || d.flag DMA_STATUS.FALLOW [inst / 64, inst % 64]
  | 0x3 => d.fallowBlock (inst / 64) 2 || d.flag DMA_STATUS.FALLOW [inst / 64, inst % 64]
  | 0x4 => d.gatedBlock (inst / 4) 0 || d.flag FOLD_STATUS.FAILED [inst / 4, inst % 4]
  | 0x5 => d.fallowBlock (inst / 4) 0 || d.flag FOLD_STATUS.FAILED [inst / 4, inst % 4]
  | 0x6 => d.gatedBlock inst 1
  | 0x7 => d.fallowBlock inst 1
  | 0xA => d.gatedBlock inst 4
  | 0xB => d.fallowBlock inst 4
  | _ => false

/-- Takes the oldest message of an endpoint. -/
def Dev.pop (d : Dev) (ep : Nat) : Dev := d.setQueue ep (d.queue ep).tail

end Sys2Proof.Machine
end

