-- ==== Sys2Proof/Machine/State.lean ====
section
/-!
DEFINITION. The whole state: memory, the units of `Machine/Device.lean`, and the commands that wait; the reasons a
step can stop; and the state after reset.
-/

namespace Sys2Proof.Machine

/-- The state of the block. -/
structure State where
  /-- The memory regions of R72. -/
  mem : Mem := []
  dev : Dev := {}
  /-- Commands that wait, first in, first out. -/
  pending : List Instr := []
  deriving DecidableEq, Repr

/-- Reasons a step stops with a fault. No command of this block stops: a fault of the device is a record of the
fault collector, and the device goes on, or enters its safe state. -/
inductive Fault where
  deriving DecidableEq, Repr

/-- Reasons a step is refused. -/
inductive Refusal where
  /-- Raised by an arm of `exec` whose command has no meaning yet; safe, since nothing can be proved of it. -/
  | notModelled (mnemonic : String)
  deriving DecidableEq, Repr

/-- The three outcomes of a command. -/
abbrev Res := Host.Outcome State Fault Refusal

/-- The machine right after power-on reset is released, at step 1 of R821: supplies are valid and the boot ROM has
started. Every register holds its reset value, memory lists nothing, and no command waits. -/
def State.reset : State := {}

/-- Core logic runs: supplies are valid, and the device is not in deep sleep (R820, R826, R827). -/
def Dev.awake (d : Dev) : Bool := d.pw.on && !d.pw.asleep

/-- Runs a command's effect on memory and the units, and performs its stores. The queue is not its concern. -/
def State.always (s : State) (f : Mem → Dev → Dev) : Res :=
  let d := f s.mem { s.dev with wlog := [] }
  .next { s with mem := s.mem.commit d.wlog, dev := { d with wlog := [] } }

/-- The same for what the retained logic does, which deep sleep leaves powered (R827). -/
def State.kept (s : State) (f : Mem → Dev → Dev) : Res :=
  if s.dev.pw.on then s.always f else .next s

/-- The same for what needs core logic but goes on in the fatal safe state (R773): the fault collector, the time unit,
host links and configuration requests, and the registers of these. -/
def State.manage (s : State) (f : Mem → Dev → Dev) : Res :=
  if s.dev.awake then s.always f else .next s

/-- Core logic runs, outside the fatal safe state (R772). -/
def Dev.live (d : Dev) : Bool := d.awake && !d.flt.safe

/-- The same for every other command: in power-on reset, in deep sleep and in the fatal safe state it does nothing. -/
def State.run (s : State) (f : Mem → Dev → Dev) : Res :=
  if s.dev.live then s.always f else .next s

end Sys2Proof.Machine
end

