-- ==== Sys2Proof/Machine/Operands.lean ====
section
/-!
DEFINITION. The operand forms the commands share: a write or a read of a register with its master, size and half,
and how a write's bits reach the register's fields (R12, R84 to R87, R94, R95, R98, R864, R866).
-/

namespace Sys2Proof.Machine

/-- A write of a register: who writes, how many bytes, which half when 4, and the value (low bits when 4). -/
structure Wr where
  master : Nat
  size : Nat
  half : Nat
  value : Word
  deriving DecidableEq, Repr

/-- The bits of the register that the write covers. -/
def Wr.mask (w : Wr) : Word :=
  if w.size = 8 then BitVec.allOnes 64 else if w.half = 0 then 0xFFFFFFFF else 0xFFFFFFFF00000000

/-- The written bits in their places. -/
def Wr.placed (w : Wr) : Word :=
  if w.size = 8 then w.value
  else if w.half = 0 then w.value &&& 0xFFFFFFFF else w.value <<< 32

/-- The word the register would hold if every covered bit were writable. -/
def Wr.over (w : Wr) (old : Word) : Word := (old &&& ~~~w.mask) ||| (w.placed &&& w.mask)

/-- The mask of a field's bits. -/
def Fld.mask (f : Fld) : Word := BitVec.ofNat 64 ((2 ^ f.width - 1) * 2 ^ f.lo)

/-- What one field does under a write: its new value, and whether it breaks R95 (0x0204) or R98 (0x0205). -/
structure FieldResult where
  word : Word
  bad204 : Bool := false
  bad205 : Bool := false
  deriving DecidableEq, Repr

/-- One field under a write. `cand` is the word with every covered bit applied, `stopped` the unit's stopped
indication, `ok` the field's own rule for the values it takes. -/
def writeField (w : Wr) (old cand : Word) (stopped : Bool) (ok : Fld → Word → Bool) (fd : FieldDesc)
    (acc : FieldResult) : FieldResult :=
  let f := fd.fld
  if f.mask &&& w.mask = 0 then acc
  else
    let put (v : Nat) : FieldResult := { acc with word := f.set acc.word v }
    match fd.acc with
    | .ro | .rc => acc
    | .wo => acc
    | .rw1c => put ((old &&& ~~~(w.placed &&& w.mask)) |> f.get)
    | .rw1s => put ((old ||| (w.placed &&& w.mask)) |> f.get)
    | .rw =>
      if f.get cand ≠ f.get old && fd.stopOnly && !stopped then { acc with bad205 := true }
      else
        let legal := match fd.legal with
          | .any => true
          | .range lo hi => lo ≤ f.get cand && f.get cand ≤ hi
          | .ruled => ok f cand
        if legal then put (f.get cand) else { acc with bad204 := true }

/-- A register with a WO field (R87). -/
def RegName.hasWo (r : RegName) : Bool := r.fields.any fun f => f.acc = .wo

/-- The write is one R84 and R87 perform. -/
def Wr.accepted (w : Wr) (r : RegName) : Bool := w.size = 8 || (w.size = 4 && !r.hasWo)

/-- A register's offset in its block of control space, or in its function's BAR, as a fault record names it (R763). -/
def RegName.off (r : RegName) (i : List Nat) : Nat := if 2 ^ 48 ≤ r.key i then r.key i % 2 ^ 26 else r.key i

/-- A register's address; a page that only a BAR maps has none. -/
def RegName.addr (r : RegName) (i : List Nat) : Nat := if 2 ^ 48 ≤ r.key i then 0 else 0x40000000000 + r.key i

/-- A write of a control-space register: sizes of R84 and R87, then each field under its access code, and at most
one record of 0x0205 and one of 0x0204 (R864), whose DETAIL is the register's offset. -/
def Dev.regWrite (d : Dev) (r : RegName) (i : List Nat) (w : Wr) (stopped : Bool := true)
    (ok : Fld → Word → Bool := fun _ _ => true) : Dev :=
  let off := r.off i
  if !w.accepted r then d.blame 0x0202 w.master (r.addr i) off
  else
    let old := d.reg r i
    let cand := w.over old
    let res := r.fields.foldl (fun a fd => writeField w old cand stopped ok fd a) { word := old }
    let d := d.setReg r res.word i
    let d := if res.bad205 then d.blame 0x0205 w.master (r.addr i) off else d
    if res.bad204 then d.blame 0x0204 w.master (r.addr i) off else d

/-- An access of control space that R84 performs. -/
def ctlSized (off size : Nat) : Bool := (size = 4 || size = 8) && off % size = 0

/-- A write of a register, of the size given, by a command of its own: a page of an absent plot or tine ignores it (R4),
once its size is one that R84 performs (assumption 41). -/
def Dev.pageWrite (d : Dev) (r : RegName) (i : List Nat) (size : Nat) (f : Dev → Dev) : Dev :=
  if d.absentPage (r.key i) && (size = 4 || size = 8) then d else f d

/-- A write discarded whole under R98: one record of 0x0205 (R864). -/
def Dev.refuse205 (d : Dev) (r : RegName) (i : List Nat) (w : Wr) : Dev :=
  d.blame 0x0205 w.master (r.addr i) (r.off i)

/-- A write refused by a rule that names the writer: one record of 0x0206. -/
def Dev.refuse206 (d : Dev) (r : RegName) (i : List Nat) (w : Wr) : Dev :=
  d.blame 0x0206 w.master (r.addr i) (r.off i)

/-- The counters that a `_CLR` register sets to 0 (R469, R514, R515, R550, R703, R758, R783). -/
def RegName.clears : RegName → List RegName
  | .CIPHER_CLR => [.CIPHER_CMDS, .CIPHER_BYTES, .CIPHER_G2_BYTES, .CIPHER_RELEASED, .CIPHER_DISCARDED]
  | .FAULT_CLR => [.FAULT_RING_LOST, .FAULT_NOTICE_LOST, .FAULT_COALESCED]
  | .FOLD_CLR => [.FOLD_CMDS, .FOLD_BYTES, .FOLD_MISMATCH, .FOLD_EVICT, .FOLD_RECON]
  | .DEVICE_GLEAN_CLR =>
    [.DEVICE_GLEAN_RELEASED, .DEVICE_GLEAN_MISMATCH, .DEVICE_GLEAN_FETCHFAIL, .DEVICE_GLEAN_UNRECOV]
  | .DEVICE_HARROW_CLR =>
    [.DEVICE_HARROW_ROWS, .DEVICE_HARROW_FAILED, .DEVICE_HARROW_REPAIRED, .DEVICE_HARROW_FREED,
      .DEVICE_HARROW_BYTES, .DEVICE_HARROW_BREAKS]
  | .SW_CLR =>
    [.SW_PUSHOUT, .SW_WAITS, .SW_FLUSHED, .SW_MOVES, .SW_ROUTE_DROP, .SW_REROUTE, .SW_REROUTE_DROP, .SW_LOCAL_DROP]
  | .TRD_CLR =>
    [.TRD_TX_PKTS, .TRD_RX_PKTS, .TRD_RETX, .TRD_RX_BAD, .TRD_DUP, .TRD_OOO, .TRD_STALE_ACK, .TRD_SWC_WAITS,
      .TRD_PET_FULL, .TRD_RNR, .TRD_ACCESS, .TRD_DROPPED]
  | .DEVICE_VAULT_CLR => [.DEVICE_VAULT_DERIVES, .DEVICE_VAULT_HITS, .DEVICE_VAULT_MISSES, .DEVICE_VAULT_PARITY]
  | _ => []

/-- A register whose only effect is to set counters to 0 when bit 0 is written 1 (the `_CLR` registers). -/
def Dev.clrWrite (d : Dev) (r : RegName) (i : List Nat) (w : Wr) : Dev :=
  if !w.accepted r then d.blame 0x0202 w.master (r.addr i) (r.off i)
  else if bit w.value.toNat 0 then d.zeroRegs r.clears i else d

end Sys2Proof.Machine
end

