-- ==== Sys2Proof/Machine/Time.lean ====
section
/-!
DEFINITION. The time unit: the 1 ns counter, time of day, references, holdover and 1PPS (R58 to R71, R850).
A command that stands for a timer's expiry first lets TIME_MONO reach the moment it is due (assumption 5).
-/

namespace Sys2Proof.Machine

/-- 10^-6 ns units in a second. -/
def todSecond : Int := 1000000000000000

/-- SLEW_PPM as it acts (R62). -/
def Dev.slewPpm (d : Dev) : Nat := min 100 (max 1 (d.fld TIME_CTL.SLEW_PPM))

/-- The reference source that acts: 1 PTP, 2 1PPS_IN, 0 none (R62). -/
def Dev.timeSrc (d : Dev) : Nat := if d.fld TIME_CTL.SRC = 3 then 0 else d.fld TIME_CTL.SRC

/-- What a slew moves the time of day by in `n` ns: at most SLEW_PPM of them, toward the offset that is left. -/
def slewPart (slew : Int) (ppm n : Nat) : Int :=
  if 0 ≤ slew then min slew (n * ppm : Nat) else max slew (-((n * ppm : Nat) : Int))

/-- Lets `n` ns of TIME_MONO pass: the time of day follows, with any slew (R70). -/
def Dev.elapse (d : Dev) (n : Nat) : Dev :=
  let p := slewPart d.clk.slew d.slewPpm n
  { d with clk := { d.clk with
      mono := d.clk.mono + n
      tod := d.clk.tod + (n : Int) * 1000000 + p
      slew := d.clk.slew - p } }

/-- TIME_RATE's correction, signed, in parts of 2^40 (R62). -/
def Dev.timeRate (d : Dev) : Int := (BitVec.ofNat 32 (d.fld TIME_RATE.RATE)).toInt

/-- One REFCLK cycle: 6.4 ns, corrected by TIME_RATE, into the fractional accumulator (R59). -/
def Dev.refclkTick (d : Dev) : Dev :=
  if d.clk.refclk then
    let q := 5 * 2 ^ 40
    let f := d.clk.frac + (32 * ((2 ^ 40 : Int) + d.timeRate)).toNat
    ({ d with clk := { d.clk with frac := f % q } }).elapse (f / q)
  else d

/-- Lets TIME_MONO reach a moment. It cannot while REFCLK is stopped (R850). -/
def Dev.reach (d : Dev) (due : Nat) : Option Dev :=
  if due ≤ d.now then some d else if d.clk.refclk then some (d.elapse (due - d.now)) else none

/-- Acts at a moment TIME_MONO reaches; without effect if it cannot. -/
def Dev.at (d : Dev) (due : Nat) (f : Dev → Dev) : Dev := ((d.reach due).map f).getD d

/-! ### Quality and holdover (R67 to R69) -/

/-- The error bounds of QUALITY 0x10 to 0x16, in ns. -/
def qualityBounds : List Nat := [1000, 10000, 100000, 1000000, 10000000, 100000000, 1000000000]

/-- The lowest code from 0x10 to 0x17 whose bound is at least an error of `e / scale` ns. -/
def qualityCode (e scale : Nat) : Nat := 0x10 + (qualityBounds.filter fun b => b * scale < e).length

/-- HOLD_PPB as it acts. -/
def Dev.holdPpb (d : Dev) : Nat := max 1 (d.fld TIME_CTL.HOLD_PPB)

/-- The holdover error bound in 10^-9 ns: BOUND_NS and HOLD_PPB for every second since the last reference. -/
def Dev.holdoverError (d : Dev) : Nat :=
  d.fld TIME_REF.BOUND_NS * 1000000000 + d.holdPpb * (d.now - d.clk.lastRef)

/-- BOUND_NS and the offset still to slew, in 10^-6 ns (R69). -/
def Dev.slewError (d : Dev) : Nat := d.fld TIME_REF.BOUND_NS * 1000000 + d.clk.slew.natAbs

/-- TIME_STATUS.QUALITY (R67 to R69). The codes for a time never set or never locked come first (assumption 10). A write of
TIME_CTL.SRC leaves `locked` as it is (DESIGN CHOICE, assumption 126). -/
def Dev.quality (d : Dev) : Nat :=
  if !d.clk.set then 0xFF
  else if !d.clk.everLocked then 0xFE
  else if d.clk.slew ≠ 0 then qualityCode d.slewError 1000000
  else if d.clk.locked then (if d.flag TIME_REF.TRACEABLE then 0 else 1)
  else qualityCode d.holdoverError 1000000000

/-- 1PPS_OUT's pulse width for a quality, in ms (R66). -/
def ppsWidth (q : Nat) : Nat := if q ≤ 1 then 1 else if q ≤ 0x13 then 2 else if q ≤ 0x17 then 3 else 4

/-- Seconds of the time of day, and nanoseconds within the second. -/
def Dev.todSec (d : Dev) : Int := d.clk.tod / todSecond
def Dev.todNs (d : Dev) : Nat := (d.clk.tod % todSecond / 1000000).toNat

/-- What the TIME registers read; `none` where the stored word is read. -/
def Dev.timeView (d : Dev) (r : RegName) : Option Word :=
  match r with
  | .TIME_MONO => some (BitVec.ofNat 64 d.now)
  | .TIME_NOW_SEC => some (BitVec.ofNat 64 (d.todSec % 2 ^ 48).toNat)
  | .TIME_NOW_NS => some (BitVec.ofNat 64 (d.todNs + d.quality * 2 ^ 32))
  | .TIME_STATUS =>
    some (TIME_STATUS.SLEWING.set (TIME_STATUS.QUALITY.set (d.reg .TIME_STATUS) d.quality) (b2n (d.clk.slew ≠ 0)))
  | _ => none

/-! ### References -/

/-- Declares the reference lost (R64, R65). -/
def Dev.refLost (d : Dev) : Dev :=
  ({ d with clk := { d.clk with locked := false } }).setFld TIME_STATUS.REF_LOST 1

/-- A heartbeat or an accepted 1PPS_IN edge. -/
def Dev.refSeen (d : Dev) : Dev :=
  { d with clk := { d.clk with locked := true, everLocked := true, lastRef := d.now } }

/-- Steps the time of day and sets STEP_PEND (R70, R71). -/
def Dev.timeStep (d : Dev) (ns : Int) : Dev :=
  let tod := d.clk.tod + ns * 1000000
  ({ d with clk := { d.clk with tod := tod, slew := 0, set := true, lastPps := tod / todSecond,
                                  steps := d.clk.steps + 1, stepOld := d.clk.tod, stepOff := ns } }).setFld
    TIME_STATUS.STEP_PEND 1

/-- A write of TIME_ADJ (R70): stepped when it is the first since cold boot or more than one second, else slewed. -/
def Dev.timeAdj (d : Dev) (ns : Int) : Dev :=
  if !d.clk.set || ns.natAbs > 1000000000 then d.timeStep ns
  else { d with clk := { d.clk with slew := ns * 1000000 } }

/-- A write of a TIME register that is stored, with TIME_RATE's clamp to +-100 ppm (R62). -/
def Dev.timeRateClamp (d : Dev) : Dev :=
  let r := max (-109951163) (min 109951163 d.timeRate)
  d.setFld TIME_RATE.RATE (r % 2 ^ 32).toNat

/-- TIME_ADJ_WRITE (R70, R71, R87). -/
def execTimeAdjWrite (master size : Nat) (value : Word) (s : State) : Res := s.manage fun _ d =>
  if size = 8 then d.timeAdj value.toInt
  else d.blame 0x0202 master (0x40000000000 + RegName.TIME_ADJ.key []) (RegName.TIME_ADJ.key [])

/-- SLEW_COMPLETE (R69, R70): TIME_MONO reaches the end of the slew. -/
def execSlewComplete (s : State) : Res := s.kept fun _ d =>
  let n := (d.clk.slew.natAbs + d.slewPpm - 1) / d.slewPpm
  d.at (d.now + n) id

/-- Records held while STEP_PEND was 1 go to their ledger homes (R71, R547). -/
def Dev.sendHeld (d : Dev) : Dev :=
  let held := d.sow.reqs.filter fun q => !q.sent
  let send (q : LedgerReq) : LedgerReq := { q with sent := true }
  held.foldl (fun d q => d.emit (.ledgerHand (send q))) { d with sow := { d.sow with reqs := d.sow.reqs.map send } }

/-- A write of TIME_STATUS. -/
def Dev.timeStatusWrite (d : Dev) (w : Wr) : Dev :=
  let d := d.regWrite .TIME_STATUS [] w
  if d.flag TIME_STATUS.STEP_PEND then d else d.sendHeld

/-- STEP_PEND_CLEAR (R71): a write of TIME_STATUS; seals that STEP_PEND held find it 0 when next they look. -/
def execStepPendClear (master size half : Nat) (value : Word) (s : State) : Res := s.manage fun _ d =>
  d.timeStatusWrite ⟨master, size, half, value⟩

/-- A write of TIME_REF (R64): with SRC at PTP, a heartbeat when LOCKED is then 1, and a lost reference when it is 0. -/
def Dev.timeRefWrite (d : Dev) (w : Wr) : Dev :=
  let d := d.regWrite .TIME_REF [] w
  if w.accepted .TIME_REF && d.timeSrc = 1 then
    if d.flag TIME_REF.LOCKED then d.refSeen else d.refLost
  else d

/-- TIME_REF_WRITE (R64). -/
def execTimeRefWrite (master size half : Nat) (value : Word) (s : State) : Res := s.manage fun _ d =>
  d.timeRefWrite ⟨master, size, half, value⟩

/-- REF_TIMEOUT (R64): no heartbeat within REF_TIMEOUT * 100 ms. A reference that is not locked, never seen or already
lost, is not declared lost again (DESIGN CHOICE, assumption 126). -/
def execRefTimeout (s : State) : Res := s.kept fun _ d =>
  if d.timeSrc = 1 && d.clk.locked then
    d.at (d.clk.lastRef + max 1 (d.fld TIME_CTL.REF_TIMEOUT) * 100000000) Dev.refLost
  else d

/-- The offset of a 1PPS_IN edge from the nearest second boundary, to be added to the time of day. -/
def ppsOffset (tod : Int) : Int :=
  let r := tod % todSecond
  if 2 * r < todSecond then -r else todSecond - r

/-- PPS_IN_EDGE (R65). While SRC is not 0b10 the edge does nothing, and while a slew runs the edge's offset replaces what is
left of it, as a write of TIME_ADJ would (R70) (DESIGN CHOICE, assumption 126). -/
def execPpsInEdge (s : State) : Res := s.kept fun _ d =>
  if d.timeSrc = 2 then
    let d := (d.setReg .TIME_PPS_IN (BitVec.ofNat 64 d.now)).refSeen
    { d with clk := { d.clk with slew := ppsOffset d.clk.tod } }
  else d

/-- PPS_LOST (R65): 1.5 s without an edge; of a locked reference only (DESIGN CHOICE, assumption 126). -/
def execPpsLost (s : State) : Res := s.kept fun _ d =>
  if d.timeSrc = 2 && d.clk.locked then d.at (d.clk.lastRef + 1500000000) Dev.refLost else d

/-- ns of TIME_MONO until the time of day has moved by `need` (10^-6 ns), with the slew that runs. -/
def nsUntil (need slew : Int) (ppm : Nat) : Nat :=
  let rate : Int := if 0 < slew then 1000000 + ppm else if slew < 0 then 1000000 - ppm else 1000000
  let n1 := (slew.natAbs + ppm - 1) / ppm
  if need ≤ (n1 : Int) * rate ∧ slew ≠ 0 then ((need + rate - 1) / rate).toNat
  else ((need - slew + 999999) / 1000000).toNat

/-- A 1PPS_OUT pulse, and its copies on the GPIO pins whose function is PPS_OUT (R66, R838). -/
def Dev.sendPps (d : Dev) (width : Nat) : Dev :=
  (List.range 32).foldl (fun d i =>
    if d.fld POWER_GPIO_CFG.FUNC [i] = 4 && !d.flag POWER_GPIO_CFG.PARKED [i] then d.emit (.gpioPps i width) else d)
    (d.emit (.pps width))

/-- PPS_OUT_PULSE (R66): the pulse of a second boundary not yet marked, or of the next one. -/
def execPpsOutPulse (s : State) : Res := s.kept fun _ d =>
  let pulse (d : Dev) : Dev :=
    let d := { d with clk := { d.clk with lastPps := d.todSec } }
    if d.flag TIME_CTL.PPS_OUT_EN then d.sendPps (ppsWidth d.quality) else d
  if d.clk.lastPps < d.todSec then pulse d
  else d.at (d.now + nsUntil ((d.todSec + 1) * todSecond - d.clk.tod) d.clk.slew d.slewPpm) pulse

/-- HOLDOVER_QUALITY_STEP (R68): TIME_MONO reaches the moment the bound passes the present code's. -/
def execHoldoverQualityStep (s : State) : Res := s.kept fun _ d =>
  if d.clk.set && d.clk.everLocked && !d.clk.locked && d.clk.slew = 0 then
    match qualityBounds[d.quality - 0x10]? with
    | some b => d.at (d.clk.lastRef + ((b - d.fld TIME_REF.BOUND_NS) * 1000000000) / d.holdPpb + 1) id
    | none => d
  else d

/-- SLEW_QUALITY_STEP (R69): TIME_MONO reaches the moment the offset left meets a better code's bound. -/
def execSlewQualityStep (s : State) : Res := s.kept fun _ d =>
  if d.clk.set && d.clk.everLocked && d.clk.slew ≠ 0 && 0x10 < d.quality then
    match qualityBounds[d.quality - 0x11]? with
    | some b =>
      if d.fld TIME_REF.BOUND_NS ≤ b then
        d.at (d.now + (d.slewError - b * 1000000 + d.slewPpm - 1) / d.slewPpm) id
      else d
    | none => d
  else d

/-- REFCLK_LOSS (R850): TIME_MONO stops advancing. -/
def Dev.refclkStop (d : Dev) : Dev := { d with clk := { d.clk with refclk := false } }

end Sys2Proof.Machine
end

