-- ==== Sys2Proof/Machine/Fault.lean ====
section
/-!
DEFINITION. The fault collector: records, the ring, coalescing windows, notices and the ALERT_N pin
(R759 to R771, R783).
-/

namespace Sys2Proof.Machine

/-- A fault record's 64 bytes (R763). -/
def recordBytes (seq cls : Nat) (rep noWin : Bool) (r : Report) : List Byte :=
  leBytes 8 seq ++ leBytes 8 r.time ++
  leBytes 1 (cls + 4 * b2n rep + 8 * b2n r.injected + 16 * b2n noWin) ++ leBytes 1 r.kind ++ leBytes 2 r.code ++
  leBytes 4 r.count ++ leBytes 4 r.unit ++ leBytes 2 r.master ++ leBytes 2 r.func ++ leBytes 16 r.object ++
  leBytes 8 r.addr ++ leBytes 4 r.node ++ leBytes 4 r.detail

/-- The lowest slot of 4,096, from `i` up, that a rising table does not list. -/
def firstFree : Nat → Tbl FaultSlot → Nat
  | i, [] => i
  | i, (k, _) :: t => if k = i then firstFree (i + 1) t else i

/-- The listed slot of lowest SEQ among those `p` admits. -/
def lowestSlot (p : FaultSlot → Bool) : Tbl FaultSlot → Option (Nat × FaultSlot)
  | [] => none
  | (k, s) :: t =>
    match lowestSlot p t with
    | some (k', s') => if p s && s.seq < s'.seq then some (k, s) else some (k', s')
    | none => if p s then some (k, s) else none

/-- How many unacknowledged records have a lower SEQ than `q`. -/
def unackedBelow (ack q : Nat) (slots : Tbl FaultSlot) : Nat :=
  (slots.filter fun e => ack < e.2.seq && e.2.seq < q).length

/-- The slot of R765 for a new record, and whether it overwrites an unacknowledged one. -/
def chooseSlot (ack : Nat) (slots : Tbl FaultSlot) : Nat × Bool :=
  let i := firstFree 0 slots
  if i < 4096 then (i, false)
  else
    match lowestSlot (fun s => s.seq ≤ ack) slots with
    | some (k, _) => (k, false)
    | none =>
      match lowestSlot (fun s => ack < s.seq && 64 ≤ unackedBelow ack s.seq slots) slots with
      | some (k, _) => (k, true)
      | none => (0, true)

/-- The ring holds an unacknowledged record of a class FAULT_CTL.ALERT selects, or OVERFLOW is 1 (R771). -/
def Dev.alertNow (d : Dev) : Bool :=
  d.flag FAULT_STATUS.OVERFLOW || d.flt.slots.any fun e =>
    (d.reg .FAULT_RING_ACK).toNat < e.2.seq && 1 ≤ e.2.cls && bit (d.fld FAULT_CTL.ALERT) (e.2.cls - 1)

/-- Drives ALERT_N and FAULT_STATUS.ALERT as R771 states; the pin is low while asserted. -/
def Dev.alertUpdate (d : Dev) : Dev :=
  let a := d.alertNow
  if a = d.flag FAULT_STATUS.ALERT then d
  else (d.setFld FAULT_STATUS.ALERT (b2n a)).emit (.pin "ALERT_N" 0 (!a))

/-- Offers a record as a notice on endpoint class 0xC, whose queue holds 256 messages (R770). -/
def Dev.notice (d : Dev) (bytes : List Byte) : Dev :=
  let ep := epKey 0xC 0
  if (d.queue ep).length < 256 then d.post ep { data := bytesWide bytes } else d.count .FAULT_NOTICE_LOST

/-- Writes a record of class C, K or F: SEQ, the ring slot, the notice, and the window it opens (R764 to R770). -/
def Dev.writeRecord (d : Dev) (cls : Nat) (rep : Bool) (r : Report) : Dev :=
  let seq := (d.reg .FAULT_RING_SEQ).toNat + 1
  let full := 256 ≤ d.flt.windows.length
  let bytes := recordBytes seq cls rep (cls ≠ 3 && full) r
  let d := d.setReg .FAULT_RING_SEQ (BitVec.ofNat 64 seq)
  let d :=
    if d.flag FAULT_CTL.RING_EN then
      let c := chooseSlot (d.reg .FAULT_RING_ACK).toNat d.flt.slots
      let d := if c.2 then (d.count .FAULT_RING_LOST).setFld FAULT_STATUS.OVERFLOW 1 else d
      let d := d.stBytes ((d.reg .FAULT_RING_BASE).toNat + 64 * c.1) bytes
      { d with flt := { d.flt with slots := tput d.flt.slots c.1 ⟨seq, cls⟩ } }
    else d.count .FAULT_RING_LOST
  let d := if bit (d.fld FAULT_CTL.NOTIFY) (cls - 1) then d.notice bytes else d
  let d :=
    if cls = 3 || full then d
    else { d with flt := { d.flt with windows := d.flt.windows ++
            [{ code := r.code, kind := r.kind, unit := r.unit, due := d.now + 1000000, last := r }] } }
  d.alertUpdate

/-- A report reaches the collector: a notice, a report counted in its source's open window, or a record (R768). -/
def Dev.collect (d : Dev) (r : Report) : Dev :=
  match faultClass r.code with
  | none => d
  | some 0 => d.notice (recordBytes 0 0 false false r)
  | some cls =>
    let same (w : Window) : Bool := w.code = r.code && w.kind = r.kind && w.unit = r.unit
    if cls ≠ 3 && d.flt.windows.any same then
      let ws := d.flt.windows.map fun w => if same w then { w with count := w.count + r.count, last := r } else w
      ({ d with flt := { d.flt with windows := ws } }).count .FAULT_COALESCED
    else d.writeRecord cls false r

/-- FAULT_REPORT (R764): the oldest report of a detecting unit's queue. -/
def execFaultReport (unit : Nat) (s : State) : Res := s.manage fun _ d =>
  match tget [] d.flt.queues unit with
  | [] => d
  | r :: t => ({ d with flt := { d.flt with queues := tset [] d.flt.queues unit t } }).collect r

/-- FAULT_QUEUE_DRAIN (R769): a held report enters the collector's queue once it has room. -/
def execFaultQueueDrain (unit : Nat) (s : State) : Res := s.manage fun _ d =>
  let q := tget [] d.flt.queues unit
  match tget [] d.flt.held unit with
  | [] => d
  | r :: t =>
    if q.length < 1024 then
      { d with flt := { d.flt with queues := tset [] d.flt.queues unit (q ++ [r])
                                   held := tset [] d.flt.held unit t } }
    else d

/-- COALESCE_WINDOW_CLOSE (R768): the oldest window closes at its due time. With a count, one REPEAT record carries it
and the last counted report's details, and opens a new window. -/
def execCoalesceWindowClose (s : State) : Res := s.manage fun _ d =>
  match d.flt.windows with
  | [] => d
  | w :: t => d.at w.due fun d =>
      let d := { d with flt := { d.flt with windows := t } }
      if w.count = 0 then d
      else d.writeRecord ((faultClass w.code).getD 2) true { w.last with count := w.count }

/-- A write of FAULT_RING_ACK: never back, never past SEQ (R766). -/
def Dev.ringAckWrite (d : Dev) (w : Wr) : Dev :=
  if !w.accepted .FAULT_RING_ACK then d.regWrite .FAULT_RING_ACK [] w
  else
    let old := (d.reg .FAULT_RING_ACK).toNat
    let new := min (w.over (d.reg .FAULT_RING_ACK)).toNat (d.reg .FAULT_RING_SEQ).toNat
    if new < old then d else (d.setReg .FAULT_RING_ACK (BitVec.ofNat 64 new)).alertUpdate

/-- FAULT_RING_ACK_WRITE (R766). -/
def execFaultRingAckWrite (master size half : Nat) (value : Word) (s : State) : Res := s.manage fun _ d =>
  d.ringAckWrite ⟨master, size, half, value⟩

/-- FAULT_CLR (R783): the three counters become 0. -/
def execFaultClr (master size : Nat) (value : Word) (s : State) : Res := s.manage fun _ d =>
  d.clrWrite .FAULT_CLR [] ⟨master, size, 0, value⟩

/-- The retained fatal record is cleared (R774). -/
def Dev.fatalClear (d : Dev) : Dev :=
  (List.range 8).foldl (fun d i => d.setReg .FAULT_FATAL 0 [i]) { d with flt := { d.flt with retained := false } }

/-- A write of FAULT_FATAL_CLR (R774). -/
def Dev.fatalClrWrite (d : Dev) (w : Wr) : Dev :=
  if w.size = 8 then (if bit w.value.toNat 0 then d.fatalClear else d) else d.clrWrite .FAULT_FATAL_CLR [] w

/-- FAULT_FATAL_CLR (R774). -/
def execFaultFatalClr (master size : Nat) (value : Word) (s : State) : Res := s.manage fun _ d =>
  d.fatalClrWrite ⟨master, size, 0, value⟩

/-- The factory fuse is intact and TEST_MODE is high (R780). -/
def Dev.injAvail (d : Dev) (factory : Bool) : Bool := d.flt.testMode && factory

/-- A write of FAULT_CTL: starting the ring makes every slot hold no record (R764), and ALERT_N follows (R771). -/
def Dev.faultCtlWrite (d : Dev) (w : Wr) : Dev :=
  let was := d.flag FAULT_CTL.RING_EN
  let d := d.regWrite .FAULT_CTL [] w
  let d := if !was && d.flag FAULT_CTL.RING_EN then { d with flt := { d.flt with slots := [] } } else d
  d.alertUpdate

/-- A write of FAULT_STATUS (OVERFLOW is RW1C), after which ALERT_N follows. -/
def Dev.faultStatusWrite (d : Dev) (w : Wr) : Dev := (d.regWrite .FAULT_STATUS [] w).alertUpdate

/-- What FAULT_STATUS reads. -/
def Dev.faultStatusView (d : Dev) (factory : Bool) : Word :=
  FAULT_STATUS.WINDOWS.set (FAULT_STATUS.INJ_AVAIL.set (FAULT_STATUS.RING_IDLE.set (FAULT_STATUS.FATAL.set
    (d.reg .FAULT_STATUS) (b2n d.flt.safe)) (b2n (!d.flag FAULT_CTL.RING_EN))) (b2n (d.injAvail factory)))
    d.flt.windows.length

end Sys2Proof.Machine
end

