-- ==== Sys2Proof/Machine/Crypto.lean ====
section
/-!
DEFINITION. The published functions the spec builds on (R9, R156 to R158): arithmetic in GF(2^8), SHA-256,
Keccak and SHA3-256, CRC-32C, AES and the modes and constructions over it.
-/

namespace Sys2Proof.Machine

/-! ### GF(2^8) with polynomial 0x11D (R156) -/

/-- Doubling in GF(2^8) under reducing polynomial 0x100 + `p`. -/
def xtimeBy (p : Byte) (a : Byte) : Byte := (a <<< 1) ^^^ (if a.msb then p else 0)

/-- Multiplication in GF(2^8) under 0x100 + `p`: `n` bits of `b`, from the lowest. -/
def gfMulBy (p : Byte) : Nat → Byte → Byte → Byte
  | 0, _, _ => 0
  | n + 1, a, b => (if b.getLsbD 0 then a else 0) ^^^ gfMulBy p n (xtimeBy p a) (b >>> 1)

/-- gfmul of R156. -/
def gfMul (a b : Byte) : Byte := gfMulBy 0x1D 8 a b

/-- Raising to the power 2^n - 1 by squaring, multiplied by `acc`. -/
def gfPowMul (mul : Byte → Byte → Byte) : Nat → Byte → Byte → Byte
  | 0, _, acc => acc
  | n + 1, a, acc => gfPowMul mul n (mul a a) (mul acc a)

/-- The multiplicative inverse, and 0 for 0: a^254, that is (a^2)^127. -/
def gfInv (a : Byte) : Byte := gfPowMul gfMul 7 (gfMul a a) 1

/-! ### SHA-256 (FIPS 180-4) -/

abbrev W32 := BitVec 32

/-- The largest `v` below `v0 + 2^b` with `v ^ e ≤ n`, from a `v0` that satisfies it: one bit a step. -/
def rootBits (e n : Nat) : Nat → Nat → Nat
  | 0, v => v
  | b + 1, v => rootBits e n b (if (v + 2 ^ b) ^ e ≤ n then v + 2 ^ b else v)

/-- The first 64 primes. -/
def shaPrimes : List Nat :=
  (List.range 312).filter fun p => 2 ≤ p && [2, 3, 5, 7, 11, 13, 17].all fun q => p = q || p % q ≠ 0

/-- FIPS 180-4's constants: 32 bits of the fractional part of a number's `e`th root. -/
def rootWord (e p : Nat) : W32 := BitVec.ofNat 32 (rootBits e (p * 2 ^ (32 * e)) 40 0)

/-- One constant a round, from cube roots; and the initial hash value, from square roots. -/
def shaK : List W32 := shaPrimes.map (rootWord 3)
def shaInit : List W32 := (shaPrimes.take 8).map (rootWord 2)

/-- Three copies of a word that FIPS 180-4 combines: two rotated, and a third given. -/
def mixTwo (x third : W32) (i j : Nat) : W32 := third ^^^ x.rotateRight j ^^^ x.rotateRight i

/-- One round on the eight working variables, given the sum of its constant and its schedule word. -/
def shaRound (kw : W32) : List W32 → List W32
  | [a, b, c, d, e, f, g, h] =>
    let fed := kw + mixTwo e (e.rotateRight 6) 11 25 + (g ^^^ (e &&& (f ^^^ g))) + h
    (fed + ((a &&& b) ||| (c &&& (a ||| b))) + mixTwo a (a.rotateRight 2) 13 22) :: a :: b :: c :: (fed + d) :: [e, f, g]
  | v => v

/-- The schedule word that enters a window of sixteen as its oldest leaves. -/
def shaNext (win : List W32) : W32 :=
  let w (i : Nat) := win.getD i 0
  mixTwo (w 14) (w 14 >>> 10) 17 19 + mixTwo (w 1) (w 1 >>> 3) 7 18 + w 9 + w 0

/-- The rounds for the constants that are left, with the window of schedule words that slides beside them. -/
def shaRounds : List W32 → List W32 → List W32 → List W32
  | [], _, v => v
  | k :: ks, win, v => shaRounds ks (win.tail ++ [shaNext win]) (shaRound (k + win.headD 0) v)

/-- Big-endian 32-bit words of a byte string. -/
def beWords : Nat → List Byte → List W32
  | 0, _ => []
  | n + 1, l => BitVec.ofNat 32 (beNat (l.take 4)) :: beWords n (l.drop 4)

/-- One SHA-256 compression of a 64-byte block. -/
def shaCompress (h : List W32) (block : List Byte) : List W32 :=
  let v := shaRounds shaK (beWords 16 block) h
  (List.range 8).map fun i => h.getD i 0 + v.getD i 0

/-- A chaining value as bytes: eight big-endian words. -/
def shaBytes (h : List W32) : List Byte := h.flatMap fun w => beBytes 4 w.toNat

/-- Compresses `n` blocks in turn. -/
def shaBlocks : Nat → List W32 → List Byte → List W32
  | 0, h, _ => h
  | n + 1, h, l => shaBlocks n (shaCompress h (l.take 64)) (l.drop 64)

/-- SHA-256 of a byte string. -/
def sha256 (l : List Byte) : List Byte :=
  let z := (119 - l.length % 64) % 64
  let p := l ++ [0x80] ++ List.replicate z 0 ++ beBytes 8 (l.length * 8)
  shaBytes (shaBlocks (p.length / 64) shaInit p)

/-- HMAC-SHA-256 (FIPS 198-1). -/
def hmac256 (key msg : List Byte) : List Byte :=
  let k0 := if 64 < key.length then sha256 key else key
  let k := k0 ++ List.replicate (64 - k0.length) 0
  sha256 ((k.map (· ^^^ 0x5C)) ++ sha256 ((k.map (· ^^^ 0x36)) ++ msg))

/-! ### Keccak-f[1600] and SHA3-256 (FIPS 202) -/

def keccakRC : List Word := [
  0x0000000000000001, 0x0000000000008082, 0x800000000000808A, 0x8000000080008000, 0x000000000000808B,
  0x0000000080000001, 0x8000000080008081, 0x8000000000008009, 0x000000000000008A, 0x0000000000000088,
  0x0000000080008009, 0x000000008000000A, 0x000000008000808B, 0x800000000000008B, 0x8000000000008089,
  0x8000000000008003, 0x8000000000008002, 0x8000000000000080, 0x000000000000800A, 0x800000008000000A,
  0x8000000080008081, 0x8000000000008080, 0x0000000080000001, 0x8000000080008008]

/-- Rotation offsets of rho, by lane x + 5 y. -/
def keccakRho : List Nat :=
  [0, 1, 62, 28, 27, 36, 44, 6, 55, 20, 3, 10, 43, 25, 39, 41, 45, 15, 21, 8, 18, 2, 61, 56, 14]

/-- One round on 25 lanes, lane x + 5 y at that index. -/
def keccakRound (a : List Word) (rc : Word) : List Word :=
  let g (l : List Word) (x y : Nat) : Word := l.getD (x % 5 + 5 * (y % 5)) 0
  let c := (List.range 5).map fun x => g a x 0 ^^^ g a x 1 ^^^ g a x 2 ^^^ g a x 3 ^^^ g a x 4
  let dl := (List.range 5).map fun x => c.getD ((x + 4) % 5) 0 ^^^ (c.getD ((x + 1) % 5) 0).rotateLeft 1
  let t := (List.range 25).map fun i => a.getD i 0 ^^^ dl.getD (i % 5) 0
  -- B[y, 2x + 3y] = rot (A[x, y]): lane (X, Y) of B comes from x = X + 3 Y, y = X.
  let b := (List.range 25).map fun i =>
    let x := i % 5 + 3 * (i / 5)
    let y := i % 5
    (g t x y).rotateLeft (keccakRho.getD (x % 5 + 5 * (y % 5)) 0)
  let r := (List.range 25).map fun i =>
    let x := i % 5
    let y := i / 5
    g b x y ^^^ (~~~(g b (x + 1) y) &&& g b (x + 2) y)
  match r with
  | l0 :: t => (l0 ^^^ rc) :: t
  | [] => []

/-- Little-endian 64-bit lanes of a byte string. -/
def leLanes : Nat → List Byte → List Word
  | 0, _ => []
  | n + 1, l => BitVec.ofNat 64 (leNat (l.take 8)) :: leLanes n (l.drop 8)

/-- Keccak-f[1600] on 25 lanes. -/
def keccakF (a : List Word) : List Word := keccakRC.foldl keccakRound a

/-- Keccak-f[1600] on a 200-byte state. -/
def keccakBytes (l : List Byte) : List Byte := (keccakF (leLanes 25 l)).flatMap fun w => leBytes 8 w.toNat

/-- Absorbs `n` blocks of `rate` bytes. -/
def keccakAbsorb (rate : Nat) : Nat → List Byte → List Byte → List Byte
  | 0, st, _ => st
  | n + 1, st, l =>
    let blk := l.take rate ++ List.replicate (200 - rate) 0
    keccakAbsorb rate n (keccakBytes (st.zipWith (· ^^^ ·) blk)) (l.drop rate)

/-- Squeezes `n` blocks of `rate` bytes. -/
def keccakSqueeze (rate : Nat) : Nat → List Byte → List Byte
  | 0, _ => []
  | n + 1, st => st.take rate ++ keccakSqueeze rate n (keccakBytes st)

/-- A sponge over Keccak-f[1600] with a rate in bytes, a domain suffix and an output length. -/
def sponge (rate : Nat) (suffix : Byte) (outLen : Nat) (l : List Byte) : List Byte :=
  let z := rate - 1 - l.length % rate
  let p := if z = 0 then l ++ [suffix ||| 0x80] else l ++ [suffix] ++ List.replicate (z - 1) 0 ++ [0x80]
  (keccakSqueeze rate ((outLen + rate - 1) / rate)
    (keccakAbsorb rate (p.length / rate) (List.replicate 200 0) p)).take outLen

def sha3_256 (l : List Byte) : List Byte := sponge 136 0x06 32 l
def sha3_512 (l : List Byte) : List Byte := sponge 72 0x06 64 l
def shake128 (n : Nat) (l : List Byte) : List Byte := sponge 168 0x1F n l
def shake256 (n : Nat) (l : List Byte) : List Byte := sponge 136 0x1F n l

/-! ### CRC-32C (R551) -/

/-- One bit step of the reflected CRC-32C. -/
def crcStep (c : W32) : W32 := (c >>> 1) ^^^ (if c.getLsbD 0 then 0x82F63B78 else 0)

/-- CRC-32C of a byte string: reflected, all ones before and after. -/
def crc32c (l : List Byte) : W32 :=
  ~~~(l.foldl (fun c b =>
    crcStep (crcStep (crcStep (crcStep (crcStep (crcStep (crcStep (crcStep (c ^^^ b.zeroExtend 32)))))))))
    0xFFFFFFFF)

/-! ### AES (FIPS 197) -/

/-- Multiplication in AES's field, polynomial 0x11B. -/
def aesMul (a b : Byte) : Byte := gfMulBy 0x1B 8 a b

/-- The S-box: inverse in AES's field, then the affine map. -/
def sbox (a : Byte) : Byte :=
  let b := gfPowMul aesMul 7 (aesMul a a) 1
  b ^^^ b.rotateLeft 1 ^^^ b.rotateLeft 2 ^^^ b.rotateLeft 3 ^^^ b.rotateLeft 4 ^^^ 0x63

/-- The inverse S-box. -/
def invSbox (a : Byte) : Byte :=
  let b := a.rotateLeft 1 ^^^ a.rotateLeft 3 ^^^ a.rotateLeft 6 ^^^ 0x05
  gfPowMul aesMul 7 (aesMul b b) 1

/-- The key schedule, newest word first: word `i` of a key of `nk` words, for `n` more words. -/
def aesExpand (nk : Nat) : Nat → Nat → Byte → List (List Byte) → List (List Byte)
  | 0, _, _, w => w
  | n + 1, i, rcon, w =>
    let t := w.headD []
    let t' :=
      if i % nk = 0 then
        match (t.rotateLeft 1).map sbox with
        | b0 :: r => (b0 ^^^ rcon) :: r
        | [] => []
      else if 6 < nk ∧ i % nk = 4 then t.map sbox else t
    let nw := (w.getD (nk - 1) []).zipWith (· ^^^ ·) t'
    aesExpand nk n (i + 1) (if i % nk = 0 then xtimeBy 0x1B rcon else rcon) (nw :: w)

/-- A byte string cut into pieces of `k` bytes. -/
def chunks (k : Nat) : Nat → List Byte → List (List Byte)
  | 0, _ => []
  | n + 1, l => l.take k :: chunks k n (l.drop k)

/-- The round keys of AES-128 or AES-256, each 16 bytes, first round first. -/
def aesRoundKeys (key : List Byte) : List (List Byte) :=
  let nk := key.length / 4
  let total := 4 * (nk + 7)
  let w := (aesExpand nk (total - nk) nk 1 (chunks 4 nk key).reverse).reverse
  chunks 16 (nk + 7) w.flatten

def xorBytes (a b : List Byte) : List Byte := a.zipWith (· ^^^ ·) b

/-- ShiftRows: byte r + 4 c comes from column c + r. -/
def shiftRows (s : List Byte) : List Byte :=
  (List.range 16).map fun i => s.getD (i % 4 + 4 * ((i / 4 + i % 4) % 4)) 0

def invShiftRows (s : List Byte) : List Byte :=
  (List.range 16).map fun i => s.getD (i % 4 + 4 * ((i / 4 + 4 - i % 4) % 4)) 0

/-- MixColumns with the circulant row (c0, c1, c2, c3). -/
def mixColumns (c0 c1 c2 c3 : Byte) (s : List Byte) : List Byte :=
  (List.range 16).map fun i =>
    let g (j : Nat) := s.getD (4 * (i / 4) + (i + j) % 4) 0
    aesMul c0 (g 0) ^^^ aesMul c1 (g 1) ^^^ aesMul c2 (g 2) ^^^ aesMul c3 (g 3)

def aesEncRounds : List (List Byte) → List Byte → List Byte
  | [], s => s
  | [k], s => xorBytes (shiftRows (s.map sbox)) k
  | k :: t, s => aesEncRounds t (xorBytes (mixColumns 2 3 1 1 (shiftRows (s.map sbox))) k)

/-- AES encryption of a 16-byte block under expanded round keys. -/
def aesEncWith (rk : List (List Byte)) (s : List Byte) : List Byte :=
  match rk with
  | k :: t => aesEncRounds t (xorBytes s k)
  | [] => s

/-- The inverse cipher's rounds, round keys last first. -/
def aesDecRounds : List (List Byte) → List Byte → List Byte
  | [], s => s
  | [k], s => xorBytes ((invShiftRows s).map invSbox) k
  | k :: t, s => aesDecRounds t (mixColumns 14 11 13 9 (xorBytes ((invShiftRows s).map invSbox) k))

def aesDecWith (rk : List (List Byte)) (s : List Byte) : List Byte :=
  match rk.reverse with
  | k :: t => aesDecRounds t (xorBytes s k)
  | [] => s

def aesEnc (key s : List Byte) : List Byte := aesEncWith (aesRoundKeys key) s
def aesDec (key s : List Byte) : List Byte := aesDecWith (aesRoundKeys key) s

/-! ### CMAC (SP 800-38B) and the counter-mode KDF (SP 800-108r1) -/

/-- Doubling of a 16-byte string, most significant bit first (CMAC subkeys). -/
def cmacDbl (l : List Byte) : List Byte :=
  let v := beNat l
  let w := v * 2 % 2 ^ 128
  beBytes 16 (if v < 2 ^ 127 then w else w ^^^ 0x87)

def cmacChain (rk : List (List Byte)) : List (List Byte) → List Byte → List Byte
  | [], x => x
  | b :: t, x => cmacChain rk t (aesEncWith rk (xorBytes x b))

/-- CMAC-AES of a byte string. -/
def cmacAes (key msg : List Byte) : List Byte :=
  let rk := aesRoundKeys key
  let k1 := cmacDbl (aesEncWith rk (List.replicate 16 0))
  let n := max 1 ((msg.length + 15) / 16)
  let full := msg.length ≠ 0 && msg.length % 16 = 0
  let body := chunks 16 (n - 1) msg
  let last := msg.drop (16 * (n - 1))
  let last := if full then xorBytes last k1
    else xorBytes (last ++ [0x80] ++ List.replicate (15 - last.length) 0) (cmacDbl k1)
  cmacChain rk (body ++ [last]) (List.replicate 16 0)

/-! ### XTS-AES-256 (IEEE 1619) -/

/-- Multiplication of a tweak by x: little-endian, polynomial 0x87. -/
def xtsDouble (t : List Byte) : List Byte :=
  let v := leNat t
  let w := v * 2 % 2 ^ 128
  leBytes 16 (if v < 2 ^ 127 then w else w ^^^ 0x87)

def xtsBlocks (f : List Byte → List Byte) : Nat → List Byte → List Byte → List Byte
  | 0, _, _ => []
  | n + 1, t, l => xorBytes (f (xorBytes (l.take 16) t)) t ++ xtsBlocks f n (xtsDouble t) (l.drop 16)

/-- XTS of a data unit whose length is a multiple of 16, with its 16-byte tweak value. -/
def xtsEnc (k1 k2 tweak unit : List Byte) : List Byte :=
  xtsBlocks (aesEncWith (aesRoundKeys k1)) (unit.length / 16) (aesEnc k2 tweak) unit

def xtsDec (k1 k2 tweak unit : List Byte) : List Byte :=
  xtsBlocks (aesDecWith (aesRoundKeys k1)) (unit.length / 16) (aesEnc k2 tweak) unit

/-! ### AES key wrap (SP 800-38F, KW) -/

/-- One step of the unwrapping: `t` counts down, `a` is the integrity block, `r` the semiblocks, last first. -/
def kwUnwrapSteps (rk : List (List Byte)) : Nat → List Byte → List (List Byte) → List Byte × List (List Byte)
  | 0, a, r => (a, r)
  | t + 1, a, r =>
    match r with
    | [] => (a, r)
    | last :: rest =>
      let b := aesDecWith rk (xorBytes a (beBytes 8 (t + 1)) ++ last)
      kwUnwrapSteps rk t (b.take 8) (rest ++ [b.drop 8])

/-- AES-KW unwrapping: the key data, if the integrity block is A6A6A6A6A6A6A6A6. -/
def kwUnwrap (key ct : List Byte) : Option (List Byte) :=
  let n := ct.length / 8 - 1
  let p := kwUnwrapSteps (aesRoundKeys key) (6 * n) (ct.take 8) (chunks 8 n (ct.drop 8)).reverse
  if p.1 = List.replicate 8 0xA6 then some p.2.reverse.flatten else none

/-- One step of the wrapping. -/
def kwWrapSteps (rk : List (List Byte)) : Nat → Nat → List Byte → List (List Byte) → List Byte × List (List Byte)
  | 0, _, a, r => (a, r)
  | n + 1, t, a, r =>
    match r with
    | [] => (a, r)
    | x :: rest =>
      let b := aesEncWith rk (a ++ x)
      kwWrapSteps rk n (t + 1) (xorBytes (b.take 8) (beBytes 8 t)) (rest ++ [b.drop 8])

/-- AES-KW wrapping. -/
def kwWrap (key pt : List Byte) : List Byte :=
  let n := pt.length / 8
  let p := kwWrapSteps (aesRoundKeys key) (6 * n) 1 (List.replicate 8 0xA6) (chunks 8 n pt)
  p.1 ++ p.2.flatten

end Sys2Proof.Machine
end

