-- ==== Sys2Proof/Machine/Sheaf.lean ====
section
/-!
DEFINITION. Sheaf arithmetic: the erasure code, reconstruction, digests and the tally tree (R389, R431 to R442).
A grain is a byte string; every grain of a sheaf has one length.
-/

namespace Sys2Proof.Machine

abbrev Grain := List Byte

/-- Bytes of a grain (R386). -/
def grainLen : Nat := 65536
def zeroGrain : Grain := List.replicate grainLen 0

/-- A sheaf's shape: K, M, G and HASH (R392). -/
structure Shape where
  k : Nat := 0
  m : Nat := 0
  g : Nat := 0
  hash : Nat := 0
  deriving DecidableEq, Repr

/-- A sheaf's positions (R389). -/
def Shape.w (s : Shape) : Nat := s.k + s.m + s.g

/-- A shape that R393 admits. -/
def Shape.ok (s : Shape) : Bool := 1 ≤ s.k && s.k ≤ 64 && s.m ≤ 16 && s.g ≤ 4 && s.w ≤ 84 && s.g ≤ s.k

/-! ### The code (R433 to R435) -/

/-- C(i, j) of R433. -/
def coeff (i j : Nat) : Byte := gfInv (BitVec.ofNat 8 (0x40 + (i ^^^ j)))

/-- Every byte of a grain times a coefficient. -/
def gfScale (c : Byte) (l : Grain) : Grain := if c = 1 then l else l.map (gfMul c)

/-- Data position `j` belongs to local group `h`. -/
def Shape.inGroup (s : Shape) (h j : Nat) : Bool := h * s.k / s.g ≤ j && j < (h + 1) * s.k / s.g

/-- The group a data position belongs to. -/
def Shape.groupOf (s : Shape) (j : Nat) : Option Nat := (List.range s.g).find? fun h => s.inGroup h j

/-- XOR of grains of `n` bytes. -/
def xorAll (n : Nat) (l : List Grain) : Grain := l.foldl xorBytes (List.replicate n 0)

/-- P_i over a sheaf's data grains (R433). -/
def parityRow (n i : Nat) (data : List Grain) : Grain := xorAll n (data.mapIdx fun j d => gfScale (coeff i j) d)

/-- L_h (R435). -/
def localRow (s : Shape) (n h : Nat) (data : List Grain) : Grain :=
  xorAll n ((data.mapIdx fun j d => if s.inGroup h j then [d] else []).flatten)

/-- The parity grains of a sheaf, positions k to w - 1, over its k data grains. -/
def parityGrains (s : Shape) (n : Nat) (data : List Grain) : List Grain :=
  ((List.range s.m).map fun i => parityRow n i data) ++ (List.range s.g).map fun h => localRow s n h data

/-- What one data grain at position `j` adds to each parity grain (R433, R435). -/
def foldIn (s : Shape) (j : Nat) (d : Grain) (acc : List Grain) : List Grain :=
  acc.mapIdx fun i a =>
    if i < s.m then xorBytes a (gfScale (coeff i j) d) else if s.inGroup (i - s.m) j then xorBytes a d else a

/-! ### Reconstruction (R438, R439) -/

/-- Solves `n` equations, each a row of coefficients and a right side, without exchanging rows: every leading minor of
a Cauchy matrix is invertible (R437). -/
def gfSolve : Nat → List (List Byte × Grain) → List Grain
  | 0, _ => []
  | _, [] => []
  | n + 1, (c, b) :: t =>
    let q := gfInv (c.headD 0)
    let cs := c.tail.map (gfMul q)
    let b' := gfScale q b
    let t' := t.map fun e =>
      let f := e.1.headD 0
      (e.1.tail.zipWith (fun x y => x ^^^ gfMul f y) cs, xorBytes e.2 (gfScale f b'))
    let xs := gfSolve n t'
    (cs.zip xs).foldl (fun a e => xorBytes a (gfScale e.1 e.2)) b' :: xs

/-- Phase 1: the data grains after each group was repaired once, in increasing h. `get` gives the available grains. -/
def localRepair (s : Shape) (n : Nat) (get : Nat → Option Grain) (data : List (Option Grain)) : List (Option Grain) :=
  (List.range s.g).foldl (fun data h =>
    let lost := (List.range s.k).filter fun j => s.inGroup h j && (data[j]?.join).isNone
    match lost, get (s.k + s.m + h) with
    | [j], some l =>
      let others := (data.mapIdx fun i d => if s.inGroup h i && i ≠ j then d.toList else []).flatten
      data.set j (some (xorBytes l (xorAll n others)))
    | _, _ => data) data

/-- The k lowest-numbered available positions among 0 to k + m - 1, of which the data positions are those that
`data` holds. -/
def survivors (s : Shape) (get : Nat → Option Grain) (data : List (Option Grain)) : List Nat :=
  ((List.range (s.k + s.m)).filter fun q =>
    if q < s.k then (data[q]?.join).isSome else (get q).isSome).take s.k

/-- Phase 2: every data grain, from exactly those k positions; `none` is UNSOLVABLE. -/
def rsSolve (s : Shape) (n : Nat) (get : Nat → Option Grain) (data : List (Option Grain)) : Option (List Grain) :=
  let lost := (List.range s.k).filter fun j => (data[j]?.join).isNone
  let sv := survivors s get data
  if lost = [] then some (data.map fun d => d.getD [])
  else if sv.length < s.k then none
  else
    let known := data.map fun d => d.getD (List.replicate n 0)
    let rows := (sv.filter (s.k ≤ ·)).map fun q =>
      (lost.map fun j => coeff (q - s.k) j, xorBytes ((get q).getD []) (parityRow n (q - s.k) known))
    let xs := lost.zip (gfSolve lost.length rows)
    some (data.mapIdx fun j d => d.getD (((xs.find? fun e => e.1 = j).map Prod.snd).getD []))

/-- The data positions that target `q` is computed from once local repair is done. -/
def Shape.needs (s : Shape) (q : Nat) : List Nat :=
  if q < s.k then [q]
  else if q < s.k + s.m then List.range s.k
  else (List.range s.k).filter fun j => s.inGroup (q - s.k - s.m) j

/-- R438: the value of every target of a reconstruction (and of other positions where they come out), in position
order, from the sheaf's available grains; `none` is UNSOLVABLE. An absent data position is available with value zero.
Phase 2 runs where phase 1 leaves a data position missing that a target needs: R522's order 1 and the example of
chapter 13, which rebuild a position from its group alone, would otherwise end UNSOLVABLE (DEDUCED, assumption 17). -/
def reconstruct (s : Shape) (n kpresent : Nat) (targets : List Nat) (get : Nat → Option Grain) : Option (List Grain) :=
  let data := (List.range s.k).map fun j => if kpresent ≤ j then some (List.replicate n 0) else get j
  let near := localRepair s n get data
  if targets.all fun q => (s.needs q).all fun j => (near[j]?.join).isSome then
    let all := near.map fun d => d.getD (List.replicate n 0)
    some (all ++ parityGrains s n all)
  else
    match rsSolve s n get near with
    | none => none
    | some all => some (all ++ parityGrains s n all)

/-! ### Digests and the tally (R440 to R442) -/

/-- H of R440. -/
def hashH (hash : Nat) (l : List Byte) : List Byte := if hash = 0 then sha256 l else sha3_256 l

/-- A leaf and an inner node. -/
def tallyLeaf (hash : Nat) (d : List Byte) : List Byte := hashH hash (0 :: d)
def tallyNode (hash : Nat) (a b : List Byte) : List Byte := hashH hash (1 :: (a ++ b))

/-- The next level of a tree. -/
def tallyPair (hash : Nat) : List (List Byte) → List (List Byte)
  | a :: b :: t => tallyNode hash a b :: tallyPair hash t
  | l => l

/-- The single node above a level; `fuel` bounds the levels. -/
def tallyUp (hash : Nat) : Nat → List (List Byte) → List Byte
  | _, [x] => x
  | 0, _ => []
  | n + 1, l => tallyUp hash n (tallyPair hash l)

/-- The tally of an object's grain digests. -/
def tallyOf (hash : Nat) (digests : List (List Byte)) : List Byte := tallyUp hash 33 (digests.map (tallyLeaf hash))

/-- The tally path of node `p` of a level. -/
def pathUp (hash : Nat) : Nat → Nat → List (List Byte) → List (List Byte)
  | 0, _, _ => []
  | n + 1, p, l =>
    if l.length ≤ 1 then []
    else
      let rest := pathUp hash n (p / 2) (tallyPair hash l)
      if p % 2 = 1 then l.getD (p - 1) [] :: rest
      else if p + 1 < l.length then l.getD (p + 1) [] :: rest else rest

/-- The tally path of grain `i`. -/
def tallyPath (hash i : Nat) (digests : List (List Byte)) : List (List Byte) :=
  pathUp hash 33 i (digests.map (tallyLeaf hash))

/-- Entries of the path of grain `i` among `n` (R442). -/
def pathLen : Nat → Nat → Nat → Nat
  | 0, _, _ => 0
  | f + 1, p, c =>
    if c ≤ 1 then 0
    else (if p % 2 = 1 || p + 1 < c then 1 else 0) + pathLen f (p / 2) ((c + 1) / 2)

/-- The node that R442's walk ends at, and the path entries it has not used. -/
def pathWalk (hash : Nat) : Nat → Nat → Nat → List Byte → List (List Byte) → List Byte × List (List Byte)
  | 0, _, _, node, path => (node, path)
  | f + 1, p, c, node, path =>
    if c ≤ 1 then (node, path)
    else if p % 2 = 1 then
      pathWalk hash f (p / 2) ((c + 1) / 2) (tallyNode hash (path.headD []) node) path.tail
    else if p + 1 < c then
      pathWalk hash f (p / 2) ((c + 1) / 2) (tallyNode hash node (path.headD [])) path.tail
    else pathWalk hash f (p / 2) ((c + 1) / 2) node path

/-- R442: digest `d` of grain `i` among `n` against a path and a tally. -/
def verifyPath (hash : Nat) (d : List Byte) (i n : Nat) (path : List (List Byte)) (tally : List Byte) : Bool :=
  let e := pathWalk hash 40 i n (tallyLeaf hash d) path
  path.length = pathLen 40 i n && e.1 = tally && e.2 = []

/-- A byte string in pieces of 32 bytes. -/
def digestList (n : Nat) (l : List Byte) : List (List Byte) := (List.range n).map fun i => slice l (32 * i) 32

end Sys2Proof.Machine
end

