-- ==== Sys2Proof/Machine/Pace.lean ====
section
/-!
DEFINITION. The pace governor: voltage requests, the sources of deadline work, AVSBus failures (R42 to R52).
-/

namespace Sys2Proof.Machine

/-- A written voltage code as it acts (R43). -/
def clampCode (c : Nat) : Nat := min 44 (max 4 c)

/-- VFLOOR as it acts: below 20 acts as 20 (R44). -/
def Dev.vfloor (d : Dev) : Nat := max 20 (clampCode (d.fld DEVICE_PACE_CTL.VFLOOR))

/-- The lower limit L of R45. -/
def Dev.paceLow (d : Dev) : Nat :=
  let vmin := clampCode (d.fld DEVICE_PACE_CTL.VMIN)
  if d.reg .DEVICE_PACE_DEADLINE ≠ 0 then max d.vfloor vmin else vmin

/-- The upper limit U of R45. -/
def Dev.paceHigh (d : Dev) : Nat := max (clampCode (d.fld DEVICE_PACE_CTL.VMAX)) d.paceLow

/-- HEADROOM as it acts (R44). -/
def Dev.headroom (d : Dev) : Nat := min 100 (max 1 (d.fld DEVICE_PACE_CTL.HEADROOM))

/-- Sends an AVSBus request and notes its code as VREQ. -/
def Dev.avsRequest (d : Dev) (code : Nat) : Dev :=
  let d := (d.setFld DEVICE_PACE_STATUS.VREQ code).emit (.avs code)
  { d with pace := { d.pace with lastAttempt := d.now, fails := 0 } }

/-- BELOW_FLOOR: 1 while VREP < 20 or TJ > 105 (R48). -/
def Dev.belowFloor (d : Dev) : Bool :=
  d.fld DEVICE_PACE_STATUS.VREP < 20 || 105 < d.fld DEVICE_PACE_STATUS.TJ

/-- Keeps BELOW_FLOOR as R48 states it. -/
def Dev.paceFloorFlag (d : Dev) : Dev := d.setFld DEVICE_PACE_STATUS.BELOW_FLOOR (b2n d.belowFloor)

/-- What the governor must request at once: U while PIN is 1 (R44), and L when it is above the present request (R46). -/
def Dev.paceDemand (d : Dev) : Nat :=
  if d.flag DEVICE_PACE_CTL.PIN then d.paceHigh else max d.paceLow (d.fld DEVICE_PACE_STATUS.VREQ)

/-- PACE_FLOOR_RAISE: the governor requests at once what it must. While a failure stands, its request stays the last
acknowledged voltage (R51), and the demand is met at the next acknowledgement (`execAvsReport`). -/
def Dev.paceFloorRaise (d : Dev) : Dev :=
  if d.pace.fails = 3 || d.paceDemand = d.fld DEVICE_PACE_STATUS.VREQ then d else d.avsRequest d.paceDemand

/-- A source of deadline work becomes set or clear (R47). One that becomes set while the regulator reports less than
VFLOOR waits for its report (R50), and L may rise (R46). -/
def Dev.deadline (d : Dev) (f : Fld) (on : Bool) : Dev :=
  let was := d.flag f
  let d := d.setFld f (b2n on)
  let d := if on && !was && d.fld DEVICE_PACE_STATUS.VREP < d.vfloor then
      { d with pace := { d.pace with waiting := true } } else d
  d.paceFloorRaise

/-- A single-fault recovery (R776): RECOVERY is 1 while it is in progress, which is within the command of its fault
(assumption 104), and the governor's lower limit rises with it. -/
def Dev.recovering (d : Dev) (f : Dev → Dev) : Dev :=
  (f (d.deadline DEVICE_PACE_DEADLINE.RECOVERY true)).deadline DEVICE_PACE_DEADLINE.RECOVERY false

/-- HOSTRST of R47: an FLR or a VF's reset is in progress, or a link trains after its PERST_N deasserted. A window lasts
until what its deadline bounds has happened (assumption 127). Resets that come from the link (R280) open none. -/
def Dev.hostRstSync (d : Dev) : Dev :=
  d.deadline DEVICE_PACE_DEADLINE.HOSTRST (d.host.fns.any (fun e => e.2.flrStep ≠ 0 && !e.2.sticky) ||
    d.host.trainFrom.any fun e => d.host.perstTrain.contains e.1)

/-- What a write of DEVICE_PACE_CTL does beyond its fields: the FORCE source, and a rise of L. -/
def Dev.paceCtlWritten (d : Dev) : Dev :=
  d.deadline DEVICE_PACE_DEADLINE.FORCE (d.flag DEVICE_PACE_CTL.FORCE)

/-- The request of R46 for a set of busy fractions, in percent. -/
def Dev.paceNext (d : Dev) (busy : List Nat) : Nat :=
  let req := d.fld DEVICE_PACE_STATUS.VREQ
  let req := if busy.any (d.headroom < ·) then req + 1
    else if busy.all (fun b => b + 15 < d.headroom) then req - 1 else req
  if d.flag DEVICE_PACE_CTL.PIN then d.paceHigh else min d.paceHigh (max d.paceLow req)

/-- PACE_INTERVAL (R46): each 100 µs, with the hottest sensor's reading and each block's busy percentage. While a
failure stands, the request stays the last acknowledged voltage (R51). -/
def execPaceInterval (tj : Nat) (busy : List Nat) (s : State) : Res := s.run fun _ d =>
  d.at (d.pace.lastInterval + 100000) fun d =>
    let d := { d with pace := { d.pace with lastInterval := d.now } }
    let d := (d.setFld DEVICE_PACE_STATUS.TJ (min tj 255)).paceFloorFlag
    if d.pace.fails = 3 then
      { (d.emit (.avs d.pace.acked)) with pace := { d.pace with lastAttempt := d.now } }
    else
      let n := d.paceNext busy
      if n = d.fld DEVICE_PACE_STATUS.VREQ then d else d.avsRequest n

/-- AVS_REPORT (R48, R50, R51): the regulator acknowledges and reports a voltage code. -/
def execAvsReport (code : Nat) (s : State) : Res := s.run fun _ d =>
  let d := (d.setFld DEVICE_PACE_STATUS.VREP (min code 255)).paceFloorFlag
  let waiting := d.pace.waiting && d.fld DEVICE_PACE_STATUS.VREP < d.vfloor
  let d := { d with pace := { d.pace with acked := d.fld DEVICE_PACE_STATUS.VREQ, fails := 0, waiting := waiting } }
  d.paceFloorRaise

/-- AVS_REQUEST_FAIL (R51): the present request goes unacknowledged. It is repeated 100 µs after the first and the
second failure; the third sets AVS_ERR, records 0x0103 against the regulator, and the last acknowledged voltage
becomes the request. -/
def execAvsRequestFail (s : State) : Res := s.run fun _ d =>
  if d.pace.fails < 2 then
    d.at (d.pace.lastAttempt + 100000) fun d =>
      { (d.emit (.avs (d.fld DEVICE_PACE_STATUS.VREQ))) with
        pace := { d.pace with fails := d.pace.fails + 1, lastAttempt := d.now } }
  else if d.pace.fails = 2 then
    let d := (d.setFld DEVICE_PACE_STATUS.AVS_ERR 1).setFld DEVICE_PACE_STATUS.VREQ d.pace.acked
    let d := { d with pace := { d.pace with fails := 3 } }
    d.report { code := 0x0103, kind := 12, unit := 21 }
  else d

/-- BELOW_FLOOR_FAULT (R52): once per 1 ms interval in which deadline work is pending and BELOW_FLOOR is 1. -/
def execBelowFloorFault (s : State) : Res := s.run fun _ d =>
  if d.reg .DEVICE_PACE_DEADLINE ≠ 0 && d.flag DEVICE_PACE_STATUS.BELOW_FLOOR then
    d.at (d.pace.lastBelow + 1000000) fun d =>
      ({ d with pace := { d.pace with lastBelow := d.now } }).report { code := 0x0102, kind := 12, unit := 21 }
  else d

end Sys2Proof.Machine
end

