-- ==== Sys2Proof/Machine/Host.lean ====
section
/-!
DEFINITION. The host face: functions and links, posted writes and interrupts, configuration writes, the buffer table,
the translation cache (R248 to R276, R283 to R295). Resets of functions are in `HostReset.lean`.
-/

namespace Sys2Proof.Machine

def fnInit : Fn := {}

/-- A function's state beyond its registers. -/
def Dev.fn (d : Dev) (f : Nat) : Fn := tget fnInit d.host.fns f

def Dev.setFn (d : Dev) (f : Nat) (v : Fn) : Dev := { d with host := { d.host with fns := tset fnInit d.host.fns f v } }

def Dev.modFn (d : Dev) (f : Nat) (g : Fn → Fn) : Dev := d.setFn f (g (d.fn f))

/-! ### Functions and links (R248 to R257) -/

/-- VF number `v` belongs to PF `p` by the plan (R255). -/
def Dev.vfOfPf (d : Dev) (p v : Nat) : Bool :=
  d.flag HOST_PF_PLAN.PRESENT [p] && d.fld HOST_PF_PLAN.FIRST_VF [p] ≤ v &&
    v < d.fld HOST_PF_PLAN.FIRST_VF [p] + d.fld HOST_PF_PLAN.TOTAL_VFS [p]

/-- The PF of a function: itself, or a VF's parent (R255). -/
def Dev.pfOf (d : Dev) (f : Nat) : Nat :=
  if f < 256 then f else ((List.range 256).find? fun p => d.vfOfPf p (f - 256)).getD 0

/-- A function's link. -/
def Dev.linkOf (d : Dev) (f : Nat) : Nat := d.fld HOST_PF_PLAN.LINK [d.pfOf f]

/-- The functions of VF numbers 1 to `n` of a PF. -/
def Dev.vfsOf (d : Dev) (p n : Nat) : List Nat :=
  (List.range (min n (d.fld HOST_PF_PLAN.TOTAL_VFS [p]))).map fun i => 256 + d.fld HOST_PF_PLAN.FIRST_VF [p] + i

/-- The PFs of a link. -/
def Dev.pfsOf (d : Dev) (l : Nat) : List Nat :=
  (List.range 256).filter fun p => d.flag HOST_PF_PLAN.PRESENT [p] && d.fld HOST_PF_PLAN.LINK [p] = l

/-- The functions that exist on a link. -/
def Dev.fnsOf (d : Dev) (l : Nat) : List Nat :=
  ((d.pfsOf l).flatMap fun p => p :: d.vfsOf p (d.fld HOST_FN_STATE.NUM_VFS [p])).filter fun f =>
    d.flag HOST_FN_STATE.ENABLED [f]

/-- A link carries requests: L0, L0p, recovery or L1 (HOST_LINK_STATUS.STATE). -/
def Dev.linkUp (d : Dev) (l : Nat) : Bool :=
  let s := d.fld HOST_LINK_STATUS.STATE [l]
  2 ≤ s && s ≤ 5

/-- The function answers configuration requests (R277 step 1, R282). -/
def Dev.cfgOk (d : Dev) (f : Nat) : Bool :=
  d.flag HOST_FN_STATE.ENABLED [f] && !d.flag HOST_FN_STATE.FLR_BUSY [f] && d.linkUp (d.linkOf f)

/-- The function answers memory requests to its BARs (R277 step 1, R287); in the safe state BAR writes are discarded
(R773). -/
def Dev.barUp (d : Dev) (f : Nat) : Bool :=
  d.cfgOk f && d.flag HOST_FN_STATE.MSE [f] && d.fld HOST_FN_STATE.DSTATE [f] = 0 && !d.flt.safe

/-- An image has been released (BOOT_STATUS.PHASE). -/
def Dev.released (d : Dev) : Bool := d.fld BOOT_STATUS.PHASE = 6

/-- The function's BARs answer with the layout of R261 or R262, which PF0's BAR0 has from release onward (R787). -/
def Dev.barOk (d : Dev) (f : Nat) : Bool := d.barUp f && (f ≠ 0 || d.released)

/-- The function may issue requests: it exists, is not silenced (R277, R287), and its link can carry them; the
safe state issues none (R772). Bus Master Enable is asked apart. -/
def Dev.fnLive (d : Dev) (f : Nat) : Bool :=
  d.flag HOST_FN_STATE.ENABLED [f] && !d.flag HOST_FN_STATE.SILENCED [f] &&
    d.fld HOST_FN_STATE.DSTATE [f] = 0 && !d.flt.safe

/-- The function may issue requests and its Bus Master Enable is 1 (R283, R284). -/
def Dev.fnMaster (d : Dev) (f : Nat) : Bool := d.fnLive f && d.flag HOST_FN_STATE.BME [f]

/-- PASID is enabled for a function: in its PF (R259, R265). -/
def Dev.pasidEn (d : Dev) (f : Nat) : Bool := (d.fn (d.pfOf f)).pasidEn

/-- An event bit of a link becomes 1, with its notice (R295). -/
def Dev.linkEvent (d : Dev) (f : Fld) (l : Nat) : Dev :=
  let d' := d.setFld f 1 [l]
  if d.flag f [l] then d' else d'.report { code := 0x0001, kind := 9, unit := l }

/-- An event bit of a function becomes 1, with its notice (R295). -/
def Dev.fnEvent (d : Dev) (fl : Fld) (f : Nat) : Dev :=
  let d' := d.setFld fl 1 [f]
  if d.flag fl [f] then d' else d'.report { code := 0x0002, kind := 10, unit := f, func := f }

/-! ### Wake pins (R291) -/

/-- WAKE_N[k] is asserted: some link that uses pin k has a wake pending. -/
def Dev.wakeAsserted (d : Dev) (k : Nat) : Bool :=
  (List.range 64).any fun l => d.fld HOST_LINK_PLAN.WAKE [l] = k && d.flag HOST_LINK_STATUS.WAKE_PEND [l]

/-- Sets or clears a link's wake pending, and drives its pin, low while asserted. -/
def Dev.setWake (d : Dev) (l : Nat) (on : Bool) : Dev :=
  let k := d.fld HOST_LINK_PLAN.WAKE [l]
  let was := d.wakeAsserted k
  let d := d.setFld HOST_LINK_STATUS.WAKE_PEND (b2n on) [l]
  if k < 4 && d.wakeAsserted k ≠ was then d.emit (.pin "WAKE_N" k was) else d

/-! ### Routing IDs and translations (R256, R268, R271) -/

/-- A function's routing ID (R256): its link's bus number and its ARI function number; a VF's lies First VF Offset and its
number less 1, at VF Stride 1, beyond its PF's. -/
def Dev.routingId (d : Dev) (f : Nat) : Nat :=
  let p := d.pfOf f
  let pf := tget 0 d.host.bus (d.linkOf f) * 256 + d.fld HOST_PF_PLAN.INDEX [p]
  if f < 256 then pf else pf + d.fld HOST_PF_PLAN.VF_OFFSET [p] + (f - 256 - d.fld HOST_PF_PLAN.FIRST_VF [p])

/-- The page of a host address: no translation is smaller than the STU. -/
def Dev.atcPage (d : Dev) (f addr : Nat) : Nat := addr / (4096 * 2 ^ (d.fn f).stu)

/-- A page's translation is one that the cache holds, or one that a Translation Request obtains; the oldest of 16,384
gives way. -/
def Dev.translatePage (d : Dev) (f : Nat) (pasid : Option Nat) (page : Nat) : Dev :=
  let e : AtcEntry := { func := f, pasid := pasid, page := page }
  if d.host.atc.contains e then d
  else { d with host := { d.host with atc := (e :: d.host.atc).take 16384 }
                out := d.out ++ [.translationRequest f (d.routingId f) pasid page] }

/-- A request of `n` bytes by a function with ATS Enable 1 uses translations (R271). -/
def Dev.translate (d : Dev) (f addr n : Nat) (pasid : Option Nat) : Dev :=
  if !(d.fn f).atsEn then d
  else
    let page := d.atcPage f addr
    (List.range (d.atcPage f (addr + n - min n 1) - page + 1)).foldl (fun d i => d.translatePage f pasid (page + i)) d

/-! ### Posted writes and interrupts (R193, R274 to R276, R285, R290) -/

/-- A write to a window or by the host-face requester joins those that the links have yet to transmit. -/
def Dev.postWrite (d : Dev) (w : Posted) : Dev := { d with posted := d.posted ++ [w] }

/-- The links transmit the writes issued so far, in order (R189). A completion that must follow them does this first
(R191, R193, R322). -/
def Dev.transmit (d : Dev) : Dev := d.posted.foldl (fun d w => d.emit (.linkWrite w)) { d with posted := [] }

/-- A function's read of host memory is sent (R268, R271). No read passes a write issued before it (R188, R189). -/
def Dev.sendHostRead (d : Dev) (f addr n : Nat) (pasid : Option Nat) : Dev :=
  (d.transmit.translate f addr n pasid).emit (.hostRead f addr n (d.routingId f) pasid (d.fn f).atsEn)

/-- A function's write to host memory, as the host-face requester issues it (R268, R271). -/
def Dev.postHost (d : Dev) (f master addr : Nat) (pasid : Option Nat) (data : List Byte) (apt : Option Nat := none) : Dev :=
  (d.translate f addr data.length pasid).postWrite
    { master := master, toHost := true, unit := f, addr := addr, pasid := pasid, rid := d.routingId f, apt := apt
      xlated := (d.fn f).atsEn, data := data }

/-- A vector's message, which the ring engine's owner tag sends. -/
def Dev.postMsix (d : Dev) (f : Nat) (v : Vec) : Dev := d.postHost f tagRing v.upAddr none (leBytes 4 v.upData)

def vecInit : Vec := {}

/-- Replaces a vector of a function. -/
def Dev.setVec (d : Dev) (f v : Nat) (x : Vec) : Dev :=
  d.modFn f fun n => { n with msix := tset vecInit n.msix v x }

def Dev.vec (d : Dev) (f v : Nat) : Vec := tget vecInit (d.fn f).msix v

/-- Vectors of a function: 2,048 for a PF, 64 for a VF (R259). -/
def vecCount (f : Nat) : Nat := if f < 256 then 2048 else 64

/-- PME_SIGNAL (R290): an event of a function in D3 with PME_En = 1. -/
def Dev.pmeSignal (d : Dev) (f : Nat) : Dev :=
  let d := d.modFn f fun n => { n with pmeStatus := true }
  let l := d.linkOf f
  let s := d.fld HOST_LINK_STATUS.STATE [l]
  if s = 2 || s = 3 || s = 5 then d.emit (.pmPme f) else d.setWake l true

/-- MSIX_SEND: an event of vector `v` of function `f` (R274, R275, R279, R285, R290). Where the message cannot be
sent, its pending bit is set. -/
def Dev.raiseVector (d : Dev) (f v : Nat) : Dev :=
  if !d.flag HOST_FN_STATE.ENABLED [f] || vecCount f ≤ v then d
  else
    let d := if d.fld HOST_FN_STATE.DSTATE [f] ≠ 0 && (d.fn f).pmeEn then d.pmeSignal f else d
    if d.flag HOST_FN_STATE.SILENCED [f] && d.flag HOST_FN_STATE.FLR_BUSY [f] then d
    else
      let x := d.vec f v
      let n := d.fn f
      if x.masked || !n.msixEn || n.msixMask || !d.fnMaster f then d.setVec f v { x with pending := true }
      else d.postMsix f x

/-- A FN_HOST_ERR bit becomes 1, which raises vector 0 (R265, R274). -/
def Dev.hostErr (d : Dev) (fl : Fld) (f : Nat) : Dev :=
  if d.flag fl [f] then d else (d.setFld fl 1 [f]).raiseVector f 0

/-- Something of the function was dropped or withheld while it may not issue requests: with Bus Master Enable 0 or in
D3hot it sets BME_DROP (R283, R284, R287); after a reset nothing is recorded (R277). -/
def Dev.bmeDrop (d : Dev) (f : Nat) : Dev :=
  if d.flag HOST_FN_STATE.ENABLED [f] && !d.flag HOST_FN_STATE.FLR_BUSY [f] && !d.flt.safe then
    d.hostErr FN_HOST_ERR.BME_DROP f else d

/-- A write of a function's master to host memory (R268, R277, R283, R284). -/
def Dev.hostWrite (d : Dev) (f master addr : Nat) (pasid : Option Nat) (data : List Byte) (apt : Option Nat := none) : Dev :=
  if !d.fnMaster f then d.bmeDrop f else d.postHost f master addr pasid data apt

/-- A host request fails: the FN_HOST_ERR bit, the address, and a contained fault that names the function (R273). -/
def Dev.hostFail (d : Dev) (fl : Fld) (f addr : Nat) : Dev :=
  ((d.setReg .FN_HOST_ERR_ADDR (BitVec.ofNat 64 addr) [f]).hostErr fl f).report
    { code := 0x0501, kind := 10, unit := f, func := f, addr := addr }

/-- The vector can send now. -/
def Dev.vecReady (d : Dev) (f v : Nat) : Bool :=
  !(d.vec f v).masked && (d.fn f).msixEn && !(d.fn f).msixMask && d.fnMaster f

/-- Sends the messages that are pending on vectors that can send (R275). -/
def Dev.flushVec (d : Dev) (f v : Nat) : Dev :=
  if (d.vec f v).pending && d.vecReady f v then
    (d.postMsix f (d.vec f v)).setVec f v { d.vec f v with pending := false }
  else d

/-- The function's mask clears (R275). -/
def Dev.flushVecs (d : Dev) (f : Nat) : Dev :=
  ((d.fn f).msix.map Prod.fst).foldl (fun d v => d.flushVec f v) d

/-- The mask bit of a vector is written: from 1 to 0 it takes up address and data and sends what is pending (R276). -/
def Dev.vecMask (d : Dev) (f v : Nat) (masked : Bool) : Dev :=
  let x := d.vec f v
  if masked then d.setVec f v { x with masked := true }
  else if x.masked then
    (d.setVec f v { x with masked := false, upAddr := x.addr, upData := x.data }).flushVec f v
  else d

/-- MSIX_UNMASK (R276): the host clears the mask bit of vector `v`. -/
def execMsixUnmask (f v : Nat) (s : State) : Res := s.run fun _ d =>
  if d.barOk f && v < vecCount f then d.vecMask f v false else d

/-- A host write of an MSI-X table entry's bytes: `part` 0 the address's low half, 1 its high half, 2 the data,
3 the vector control word. -/
def Dev.msixTableWrite (d : Dev) (f v part value : Nat) : Dev :=
  let x := d.vec f v
  match part with
  | 0 => d.setVec f v { x with addr := setBits x.addr 0 32 value }
  | 1 => d.setVec f v { x with addr := setBits x.addr 32 32 value }
  | 2 => d.setVec f v { x with data := value % 2 ^ 32 }
  | _ => d.vecMask f v (bit value 0)

/-- What one 4-byte word of an MSI-X table entry reads. -/
def Vec.word (x : Vec) (part : Nat) : Nat :=
  match part with
  | 0 => bits x.addr 0 32
  | 1 => bits x.addr 32 32
  | 2 => x.data
  | _ => b2n x.masked

/-- 64 pending bits of the PBA from vector `64 * i`. -/
def Dev.pbaWord (d : Dev) (f i : Nat) : Word :=
  BitVec.ofNat 64 ((List.range 64).foldl (fun a j => a + b2n (d.vec f (64 * i + j)).pending * 2 ^ j) 0)

/-! ### Function registers (R263 to R267) -/

/-- BUF_SLOTS of a function (FN_STATUS, TENANT_TABLES). -/
def Dev.bufSlots (d : Dev) (f : Nat) : Nat := min 1048576 (d.fld TENANT_TABLES.BUF_SLOTS [f])

def bufInit : Buf := {}
def Dev.buf (d : Dev) (f i : Nat) : Buf := tget bufInit (d.fn f).bufs i

/-- FN_BUF_ATTR of an entry (R266). -/
def Buf.attr (b : Buf) : Word :=
  BitVec.ofNat 64 (b.pasid + b2n b.pasidEn * 2 ^ 20 + b2n b.read * 2 ^ 21 + b2n b.write * 2 ^ 22 +
    b2n b.valid * 2 ^ 23 + b.gen * 2 ^ 24)

/-- The entry a commit writes. -/
def bufOf (base len : Nat) (a : Word) : Buf :=
  { base := base, len := len, pasid := bits a.toNat 0 20, pasidEn := bit a.toNat 20, read := bit a.toNat 21,
    write := bit a.toNat 22, valid := bit a.toNat 23, gen := bits a.toNat 24 8 }

/-- What FN_IDENT reads (R265). -/
def Dev.fnIdentView (d : Dev) (f : Nat) : Word :=
  BitVec.ofNat 64 (f + d.linkOf f * 2 ^ 16 + d.pfOf f * 2 ^ 24 + b2n (decide (256 ≤ f)) * 2 ^ 32)

/-- What FN_STATUS reads (R265). -/
def Dev.fnStatusView (d : Dev) (f : Nat) : Word :=
  BitVec.ofNat 64 (d.fld TENANT_STATE.GEN [f] + d.fld HOST_FN_STATE.SILENCED [f] * 2 ^ 16 +
    b2n (d.fn f).atsEn * 2 ^ 17 + b2n (d.pasidEn f) * 2 ^ 18 + d.bufSlots f * 2 ^ 32)

/-- A host request to a BAR that is not performed: BAR_HOLE (R263). -/
def Dev.barHole (d : Dev) (f : Nat) : Dev := d.hostErr FN_HOST_ERR.BAR_HOLE f

/-- A write of FN_BUF_SLOT loads the window (R266). -/
def Dev.bufSlotWrite (d : Dev) (f : Nat) (w : Wr) : Dev :=
  if !w.accepted .FN_BUF_SLOT then (d.regWrite .FN_BUF_SLOT [f] w).barHole f
  else
    let d := d.regWrite .FN_BUF_SLOT [f] w
    let i := d.fld FN_BUF_SLOT.SLOT [f]
    let b := if i < d.bufSlots f then d.buf f i else bufInit
    ((d.setReg .FN_BUF_BASE (BitVec.ofNat 64 b.base) [f]).setReg .FN_BUF_LEN (BitVec.ofNat 64 b.len) [f]).setReg
      .FN_BUF_ATTR b.attr [f]

/-- A write of FN_BUF_ATTR commits the entry, or is refused (R266, R267). -/
def Dev.bufCommit (d : Dev) (f : Nat) (w : Wr) : Dev :=
  if !w.accepted .FN_BUF_ATTR then (d.regWrite .FN_BUF_ATTR [f] w).barHole f
  else
    let d := d.regWrite .FN_BUF_ATTR [f] w
    let i := d.fld FN_BUF_SLOT.SLOT [f]
    let b := bufOf (d.reg .FN_BUF_BASE [f]).toNat (d.fld FN_BUF_LEN.LENGTH [f]) (d.reg .FN_BUF_ATTR [f])
    if d.bufSlots f ≤ i || (b.pasidEn && !d.pasidEn f) || 2 ^ 64 ≤ b.base + b.len then
      d.hostErr FN_HOST_ERR.BUF_REJECT f
    else d.modFn f fun n => { n with bufs := tset bufInit n.bufs i b }

/-- BUF_SLOT_WRITE (R266): the function's host writes FN_BUF_SLOT. -/
def execBufSlotWrite (f size half : Nat) (value : Word) (s : State) : Res := s.run fun _ d =>
  if d.barOk f then d.bufSlotWrite f ⟨0x10000 + f, size, half, value⟩ else d

/-- BUF_ATTR_COMMIT (R266, R267): the function's host writes FN_BUF_ATTR. -/
def execBufAttrCommit (f size half : Nat) (value : Word) (s : State) : Res := s.run fun _ d =>
  if d.barOk f then d.bufCommit f ⟨0x10000 + f, size, half, value⟩ else d

/-- BAR_HOLE_ACCESS (R263). -/
def execBarHoleAccess (f : Nat) (s : State) : Res := s.run fun _ d => if d.barUp f then d.barHole f else d

/-! ### Configuration writes (R257, R259, R260, R271, R275, R283, R285) -/

/-- A function's completion timeout, in ns (R260). -/
def cplTimeoutNs (v : Nat) : Nat :=
  match v with
  | 1 => 100000
  | 5 => 55000000
  | 6 => 210000000
  | 9 => 900000000
  | 10 => 3500000000
  | 13 => 13000000000
  | 14 => 64000000000
  | _ => 10000000

/-- A write of a PF's Advanced Error Reporting registers (R259, R281): 9 the uncorrectable errors' status and 12 the
correctable errors' status, whose bits clear where 1 is written, 10 and 11 the uncorrectable errors' mask and severity, 13
the correctable errors' mask. -/
def Fn.aerWrite (n : Fn) (field value : Nat) : Fn :=
  let v := value % 2 ^ 32
  match field with
  | 9 => { n with aerStatus := n.aerStatus - Nat.land n.aerStatus v }
  | 10 => { n with aerMask := v }
  | 11 => { n with aerSeverity := v }
  | 12 => { n with aerCorStatus := n.aerCorStatus - Nat.land n.aerCorStatus v }
  | 13 => { n with aerCorMask := v }
  | _ => n

/-- HOST_CONFIG_WRITE: a configuration field with behaviour of its own. `field` 0 is Memory Space Enable, 1 ATS Enable,
2 PASID Enable (of a PF), 3 the Completion Timeout Value, 4 PME_En (of a PF), 5 PME_Status, cleared by writing 1,
6 MSI-X Enable, 7 the MSI-X Function Mask, 8 the ATS Smallest Translation Unit, 9 to 13 a PF's AER registers, 14 the bus
number that the request gives the link. -/
def execHostConfigWrite (f field value : Nat) (s : State) : Res := s.manage fun _ d =>
  if !d.cfgOk f then d
  else
    match field with
    | 0 => d.setFld HOST_FN_STATE.MSE value [f]
    | 1 => (d.modFn f fun n => { n with atsEn := bit value 0 })
    | 2 => if f < 256 then d.modFn f fun n => { n with pasidEn := bit value 0 } else d
    | 3 => d.modFn f fun n => { n with cplTo := value % 16 }
    | 4 => if f < 256 then d.modFn f fun n => { n with pmeEn := bit value 0 } else d
    | 5 => if bit value 0 then d.modFn f fun n => { n with pmeStatus := false } else d
    | 6 => (d.modFn f fun n => { n with msixEn := bit value 0 }).flushVecs f
    | 7 => (d.modFn f fun n => { n with msixMask := bit value 0 }).flushVecs f
    | 8 => d.modFn f fun n => { n with stu := value % 32 }
    | 14 => { d with host := { d.host with bus := tset 0 d.host.bus (d.linkOf f) (value % 256) } }
    | k => if f < 256 then d.modFn f fun n => n.aerWrite k value else d

/-- NUMVFS_WRITE (R257): ignored while VF Enable is 1. -/
def execNumvfsWrite (p n : Nat) (s : State) : Res := s.manage fun _ d =>
  if d.cfgOk p && p < 256 && !(d.fn p).vfEnable && (d.fn p).numVfs ≠ n % 65536 then
    (d.modFn p fun x => { x with numVfs := n % 65536 }).fnEvent HOST_FN_STATE.VF_EV p
  else d

/-- VF_ENABLE_SET (R257): VFs 1 to NumVFs come into being, each as reset leaves it. -/
def execVfEnableSet (p : Nat) (s : State) : Res := s.manage fun _ d =>
  if d.cfgOk p && p < 256 && !(d.fn p).vfEnable then
    let n := (d.fn p).numVfs
    let d := d.modFn p fun x => { x with vfEnable := true }
    let d := d.setFld HOST_FN_STATE.NUM_VFS (min n (d.fld HOST_PF_PLAN.TOTAL_VFS [p])) [p]
    let d := (d.vfsOf p n).foldl (fun d f => d.setFld HOST_FN_STATE.ENABLED 1 [f]) d
    d.fnEvent HOST_FN_STATE.VF_EV p
  else d

/-- D0_RETURN (R288): No_Soft_Reset keeps every setting. -/
def execD0Return (f : Nat) (s : State) : Res := s.manage fun _ d =>
  if d.cfgOk f && d.fld HOST_FN_STATE.DSTATE [f] ≠ 0 then
    ((d.setFld HOST_FN_STATE.DSTATE 0 [f]).setFld HOST_FN_STATE.SILENCED 0 [f]).fnEvent HOST_FN_STATE.DSTATE_EV f
  else d

/-! ### Invalidations (R272) -/

/-- A translation lies in an invalidated range. -/
def Inval.hits (v : Inval) (f : Nat) (pasid : Option Nat) (page : Nat) : Bool :=
  v.func = f && v.pasid = pasid && v.lo ≤ page && page < v.hi

/-- A request of `n` bytes uses some invalidated translation. -/
def Dev.invalMeets (d : Dev) (v : Inval) (f : Nat) (pasid : Option Nat) (addr n : Nat) : Bool :=
  v.func = f && v.pasid = pasid && v.lo ≤ d.atcPage f (addr + n - min n 1) && d.atcPage f addr < v.hi

/-- The tags of the invalidations that a request has met, after one more. -/
def Dev.noteInval (d : Dev) (v : Inval) (xlated : Bool) (f : Nat) (pasid : Option Nat) (addr n : Nat) (old : List Nat) :
    List Nat :=
  if xlated && d.invalMeets v f pasid addr n then v.itag :: old else old

/-- The invalidation is noted on every request that uses one of its translations: reads and ring fetches that have not
completed, and writes not yet transmitted. Later requests obtain new translations. -/
def Dev.markInval (d : Dev) (v : Inval) : Dev :=
  let fetch (g : Nat) (x : Fetch) : Fetch :=
    { x with old := d.noteInval v x.xlated (d.fld RINGS_SQ_BIND.FUNC [g]) none x.addr (64 * x.count) x.old }
  { d with
    host := { d.host with reads := d.host.reads.map fun r =>
      { r with old := d.noteInval v r.xlated r.func r.pasid r.addr r.len r.old } }
    posted := d.posted.map fun w =>
      { w with old := if w.toHost then d.noteInval v w.xlated w.unit w.pasid w.addr w.data.length w.old else w.old }
    ring := { d.ring with sqs := d.ring.sqs.map fun (e : Nat × Sq) => (e.1, { e.2 with fetch := e.2.fetch.map (fetch e.1) }) } }

/-- ATS_INVALIDATE (R272): the matching translations are no longer used. -/
def execAtsInvalidate (f : Nat) (pasid : Option Nat) (lo hi itag : Nat) (s : State) : Res := s.run fun _ d =>
  if d.cfgOk f then
    let v : Inval := { func := f, pasid := pasid, lo := lo, hi := hi, itag := itag }
    let d := d.markInval v
    { d with host := { d.host with atc := d.host.atc.filter fun e => !v.hits e.func e.pasid e.page
                                   invals := d.host.invals ++ [v] } }
  else d

/-- Requests issued under the invalidated translations are still outstanding. -/
def Dev.invalBusy (d : Dev) (v : Inval) : Bool :=
  (d.host.reads.any fun r => r.func = v.func && r.old.contains v.itag) ||
  (d.posted.any fun w => w.toHost && w.unit = v.func && w.old.contains v.itag) ||
  (d.ring.sqs.any fun e => d.fld RINGS_SQ_BIND.FUNC [e.1] = v.func &&
    e.2.fetch.any fun x => x.stalled = [] && x.old.contains v.itag)

/-- ATS_INVALIDATE_DONE (R272): the oldest invalidation whose requests have drained is answered. -/
def execAtsInvalidateDone (s : State) : Res := s.run fun _ d =>
  match d.host.invals with
  | [] => d
  | v :: t => if d.invalBusy v then d
    else ({ d with host := { d.host with invals := t } }).emit (.invalidateDone v.func v.itag)

/-! ### Apertures (R80, R268 to R270) -/

/-- The aperture of a host window address. -/
def aptOf (a : Nat) : Nat := (a - 0x80000000000) / 0x8000000

/-- The host address an aperture access reaches (R268). -/
def Dev.aptAddr (d : Dev) (a : Nat) : Nat :=
  (d.fld HOST_APT_BASE.IOVA [aptOf a]) * 2 ^ 27 + (a - 0x80000000000) % 0x8000000

def Dev.aptFunc (d : Dev) (a : Nat) : Nat := d.fld HOST_APT_CTL.FUNC [aptOf a]

/-- The PASID prefix of an aperture's requests. -/
def Dev.aptPasid (d : Dev) (a : Nat) : Option Nat :=
  if d.flag HOST_APT_CTL.PASID_EN [aptOf a] then some (d.fld HOST_APT_CTL.PASID [aptOf a]) else none

/-- The aperture is bound (R80). -/
def Dev.aptBound (d : Dev) (a : Nat) : Bool := d.flag HOST_APT_CTL.VALID [aptOf a]

/-- A write through an aperture: discarded with a fault if unbound (R80) or WRITE is 0 (R270), else posted (R268). -/
def Dev.aptWrite (d : Dev) (master a : Nat) (data : List Byte) : Dev :=
  if !d.aptBound a then d.blame 0x0201 master a
  else if !d.flag HOST_APT_CTL.WRITE [aptOf a] then
    d.report { code := 0x0208, kind := 10, unit := d.aptFunc a, master := master, func := d.aptFunc a, addr := a }
  else
    let f := d.aptFunc a
    d.hostWrite f master (d.aptAddr a) (d.aptPasid a) data (some (aptOf a))

/-- A read through a bound aperture is issued: its function, address and due time (R260). -/
def Dev.aptRead (d : Dev) (a n : Nat) (who : ReadFor) : Dev :=
  let f := d.aptFunc a
  let d := d.sendHostRead f (d.aptAddr a) n (d.aptPasid a)
  { d with host := { d.host with reads := d.host.reads ++
      [{ func := f, addr := d.aptAddr a, len := n, pasid := d.aptPasid a, apt := some (aptOf a), xlated := (d.fn f).atsEn
         due := d.now + cplTimeoutNs (d.fn f).cplTo, requester := who }] } }

/-- A read through a bound aperture whose data the requester waits for where it stands. -/
def Dev.aptAsk (d : Dev) (a n : Nat) : Dev := d.sendHostRead (d.aptFunc a) (d.aptAddr a) n (d.aptPasid a)

/-- Forgets a requester's outstanding reads. -/
def Dev.dropReads (d : Dev) (who : ReadFor) : Dev :=
  { d with host := { d.host with reads := d.host.reads.filter fun r => r.requester ≠ who } }

/-- Clears VALID of every aperture bound to a function (R277); each then reads IDLE. -/
def Dev.clearApts (d : Dev) (f : Nat) : Dev :=
  let held := d.regs.filter fun e =>
    (RegName.HOST_APT_CTL.key [0] ≤ e.1 && e.1 ≤ RegName.HOST_APT_CTL.key [65535] && (e.1 % 16 = 8) &&
      HOST_APT_CTL.FUNC.get e.2 = f && HOST_APT_CTL.VALID.get e.2 = 1)
  held.foldl (fun d e =>
    let a := (e.1 - RegName.HOST_APT_CTL.key [0]) / 16
    (d.setFld HOST_APT_CTL.VALID 0 [a]).setFld HOST_APT_CTL.IDLE 1 [a]) d

end Sys2Proof.Machine
end

