-- ==== Sys2Proof/Machine/Flags.lean ====
section
/-!
DEFINITION. The tests and counts the instructions compute. Luasol has no flags register: a comparison's result is a
general register (R133), so what a processor keeps in flags is here a number, 0 or 1.
-/

namespace Sys2Proof.Machine

/-- A truth value as a register holds it. -/
def wordBool (b : Bool) : Word := if b then 1 else 0

/-- Signed and unsigned less-than (SLT, SLTU and the branches). -/
def ltSigned (a b : Word) : Bool := a.toInt < b.toInt
def ltUnsigned (a b : Word) : Bool := a.toNat < b.toNat

/-- Leading zeros of the low `n` bits. -/
def clzAux (a : Word) : Nat → Nat
  | 0 => 0
  | n + 1 => if a.getLsbD n then 0 else clzAux a n + 1

/-- Leading zeros, 0 to 64 (CLZ). -/
def clz (a : Word) : Nat := clzAux a 64

/-- Trailing zeros from bit `64 - n` up. -/
def ctzAux (a : Word) : Nat → Nat
  | 0 => 0
  | n + 1 => if a.getLsbD (63 - n) then 0 else ctzAux a n + 1

/-- Trailing zeros, 0 to 64 (CTZ). -/
def ctz (a : Word) : Nat := ctzAux a 64

/-- 1 bits among the low `n`. -/
def popAux (a : Word) : Nat → Nat
  | 0 => 0
  | n + 1 => b2n (a.getLsbD n) + popAux a n

/-- Number of 1 bits (POPC). -/
def popCount (a : Word) : Nat := popAux a 64

/-- Bytes in reverse order (BSWAP). -/
def bswap (a : Word) : Word := BitVec.ofNat 64 (leNat (leBytes 8 a.toNat).reverse)

/-- Unsigned quotient, all ones for a zero divisor (DIVU), and remainder, the dividend for a zero divisor (REMU). -/
def divU (a b : Word) : Word := if b = 0 then BitVec.allOnes 64 else a / b
def remU (a b : Word) : Word := if b = 0 then a else a % b

/-- High 64 bits of the unsigned product (MULHU). -/
def mulHU (a b : Word) : Word := BitVec.ofNat 64 (a.toNat * b.toNat / 2 ^ 64)

/-- Unsigned minimum and maximum. -/
def minU (a b : Word) : Word := if a.toNat ≤ b.toNat then a else b
def maxU (a b : Word) : Word := if a.toNat ≤ b.toNat then b else a

end Sys2Proof.Machine
end

