-- ==== Sys2Proof/Machine/Tine.lean ====
section
/-!
DEFINITION. Strands: their registers, when a strand may execute its next instruction, the order of its exception
causes (R161), delivery (R162, R163), and retirement. Every Luasol instruction of the families that follow is one
body run by `Dev.issue`.
-/

namespace Sys2Proof.Machine

/-! ### Registers of a strand -/

/-- g[n]; g0 reads 0 (R112). -/
def Regs.rd (r : Regs) (n : Nat) : Word := if n = 0 then 0 else tget 0 r.g n

/-- g[n] := v; a write of g0 is discarded (R112). -/
def Regs.wr (r : Regs) (n : Nat) (v : Word) : Regs := if n = 0 then r else { r with g := tset 0 r.g n v }

/-- w[n] and a write of it. -/
def Regs.rdW (r : Regs) (n : Nat) : Wide := tget 0 r.w n
def Regs.wrW (r : Regs) (n : Nat) (v : Wide) : Regs := { r with w := tset 0 r.w n v }

/-- A program counter: 48 bits, bits [1:0] zero (R114). -/
def pcOf (v : Nat) : Nat := v % 2 ^ 48 / 4 * 4

/-- Sign extension of a field to 64 bits (R131). -/
def sx16 (v : BitVec 16) : Word := v.signExtend 64
def sx21 (v : BitVec 21) : Word := v.signExtend 64

/-- A branch or jump target: the instruction's address and an offset of instructions, summed in 64 bits (R131, R143,
R144). -/
def targetOf (pc : Nat) (off : Word) : Nat := (BitVec.ofNat 64 pc + off * 4).toNat

def strandInit : Strand := {}

/-- Strand k of the device (R17). -/
def Dev.strand (d : Dev) (k : Nat) : Strand := tget strandInit d.tine.strands k

def Dev.setStrand (d : Dev) (k : Nat) (v : Strand) : Dev :=
  { d with tine := { d.tine with strands := tset strandInit d.tine.strands k v } }

/-- Changes strand k. -/
def Dev.modStrand (d : Dev) (k : Nat) (f : Strand → Strand) : Dev := d.setStrand k (f (d.strand k))

def tineInit : Tine := {}

def Dev.tineOf (d : Dev) (t : Nat) : Tine := tget tineInit d.tine.tines t

def Dev.setTine (d : Dev) (t : Nat) (v : Tine) : Dev := { d with tine := { d.tine with tines := tset tineInit d.tine.tines t v } }
def Dev.modTine (d : Dev) (t : Nat) (f : Tine → Tine) : Dev := d.setTine t (f (d.tineOf t))

/-- The part has tine t (R1), and so strand k of it (R17). -/
def Dev.hasTine (d : Dev) (t : Nat) : Bool := t < (if d.part = .t512 then 128 else 64)
def Dev.hasStrand (d : Dev) (k : Nat) : Bool := d.hasTine (k / 4)

/-- Unconfirmed work of a strand is discarded (R198, R212): it stands after its oldest unresolved branch, which resolves. SQUASH
counts the instructions beyond it, with one that waits for its data (R214). -/
def Strand.discard (s : Strand) : Strand :=
  match s.spec with
  | [] => s
  | c :: _ =>
    { s with regs := c.saved, wait := none, spec := [], mispred := if c.mispredicted then s.mispred + 1 else s.mispred
             squash := s.squash + BitVec.ofNat 64 (c.beyond - 1 + b2n s.wait.isSome) }

/-- RUN becomes 0 (R171): a load or an atomic already issued completes; any other wait ends with PC at its instruction. -/
def Strand.halt (s : Strand) : Strand :=
  let s := s.discard
  let issued := match s.wait with
    | some (.load _ _ _ _) => true
    | _ => false
  { s with run := false, wait := if issued then s.wait else none }

/-! ### Instruction words (R128): what EVAL holds after ILLEGAL or PRIV -/

def wordRR (op : Nat) (d a b : BitVec 5) (fn : BitVec 11) : BitVec 32 := BitVec.ofNat 6 op ++ d ++ a ++ b ++ fn
def wordRI (op : Nat) (d a : BitVec 5) (imm : BitVec 16) : BitVec 32 := BitVec.ofNat 6 op ++ d ++ a ++ imm
def wordRW (op : Nat) (d : BitVec 5) (hw : BitVec 2) (k : BitVec 1) (z : BitVec 2) (imm : BitVec 16) : BitVec 32 :=
  BitVec.ofNat 6 op ++ d ++ hw ++ k ++ z ++ imm
def wordJ (op : Nat) (d : BitVec 5) (off : BitVec 21) : BitVec 32 := BitVec.ofNat 6 op ++ d ++ off
def wordH (op : Nat) (d a : BitVec 5) (h sz : BitVec 3) (sx : BitVec 1) (off : BitVec 9) : BitVec 32 :=
  BitVec.ofNat 6 op ++ d ++ a ++ h ++ sz ++ sx ++ off
def wordQ (op : Nat) (d a : BitVec 5) (port fn : BitVec 8) : BitVec 32 := BitVec.ofNat 6 op ++ d ++ a ++ port ++ fn

/-! ### Exceptions (R159 to R163) -/

/-- The causes of R159. -/
inductive Exc where
  | illegal | priv | align | address | handle | budget | range | queue | fallow | wcall | brk | memfault
  | stale | ticket | lost
  deriving DecidableEq, Repr

/-- Their codes. -/
def Exc.code : Exc → Nat
  | .illegal => 0x01 | .priv => 0x02 | .align => 0x03 | .address => 0x04 | .handle => 0x05
  | .budget => 0x06 | .range => 0x07 | .queue => 0x08 | .fallow => 0x09 | .wcall => 0x0A
  | .brk => 0x0B | .memfault => 0x0C | .stale => 0x0D | .ticket => 0x0E | .lost => 0x0F

/-- The strand after an exception taken while INEX is 0 (R162). -/
def Regs.deliver (r : Regs) (c : Exc) (eval : Word) : Regs :=
  { r with epc := BitVec.ofNat 64 r.pc, ecause := BitVec.ofNat 64 c.code, eval := eval, ectx := r.drill,
           drill := false, inex := true, pc := pcOf (r.evec.toNat + 64 * c.code) }

/-- Strand k raises an exception: delivered under R162 while INEX is 0, and otherwise a double exception that stops
the strand (R163). A step ends with it (R169). -/
def Dev.raise (d : Dev) (k : Nat) (c : Exc) (eval : Word) : Dev :=
  let s := d.strand k
  let s := { s with cause := c.code, causePc := s.regs.pc, wait := none, refetch := false }
  if s.regs.inex then
    (d.setStrand k { s with double := true, run := false, stopped := true }).report
      { code := 0x0301, kind := 1, unit := k, master := tagStrand k }
  else
    d.setStrand k { s with regs := s.regs.deliver c eval, run := s.run && !s.step, stopped := s.step }

/-- WORKID fields (R116): GEN, FUNC and TENANT. -/
def widGen (w : Word) : Nat := bits w.toNat 0 16
def widFunc (w : Word) : Nat := bits w.toNat 16 13
def widTenant (w : Word) : Bool := bit w.toNat 29
def widMake (f gen : Nat) : Word := BitVec.ofNat 64 (gen % 65536 + f * 65536 + 2 ^ 29)

/-- Function f exists (R257, HOST_FN_STATE.ENABLED). -/
def Dev.fnExists (d : Dev) (f : Nat) : Bool := d.flag HOST_FN_STATE.ENABLED [f]

/-- The present generation of function f (TENANT_STATE.GEN). -/
def Dev.gen (d : Dev) (f : Nat) : Nat := d.fld TENANT_STATE.GEN [f]

/-- Work with this WORKID is stale (R358). -/
def Dev.stale (d : Dev) (w : Word) : Bool :=
  widTenant w && (widGen w ≠ d.gen (widFunc w) || !d.fnExists (widFunc w))

/-- The work of a strand's registers is stale: by its WORKID, or because that is void (R364). -/
def Dev.staleIn (d : Dev) (r : Regs) : Bool := r.wvoid || d.stale r.workid

/-- An address lies in the drill code in effect (R124). -/
def Regs.inCode (r : Regs) (a : Nat) : Bool := r.dcode.toNat ≤ a && a < r.dcode.toNat + r.dlen.toNat

/-- The causes an instruction meets before it is fetched, in the order of R161: STALE, BUDGET, RANGE, fetch ADDRESS, fetch
MEMFAULT. -/
def Dev.fetchCause (d : Dev) (r : Regs) : Option (Exc × Word) :=
  let pc := BitVec.ofNat 64 r.pc
  if r.drill && d.staleIn r then some (.stale, r.workid)
  else if r.drill && r.dbudget = 0 then some (.budget, 0)
  else if r.drill && !r.inCode r.pc then some (.range, pc)
  else if !(d.region r.pc).isMemory || d.absent r.pc then some (.address, pc)
  else if d.poisoned r.pc 4 then some (.memfault, pc)
  else none

/-- Those it meets once fetched: ILLEGAL, then PRIV. -/
def wordCause (r : Regs) (word : BitVec 32) (drillOk illegal : Bool) : Option (Exc × Word) :=
  if illegal then some (.illegal, word.zeroExtend 64)
  else if r.drill && !drillOk then some (.priv, word.zeroExtend 64)
  else none

/-- What an instruction's body does. -/
inductive IRes where
  /-- It retires: the device after it, and the strand's registers with the next PC. -/
  | done (d : Dev) (r : Regs)
  /-- It raises an exception and has no effect. -/
  | exc (c : Exc) (eval : Word)
  /-- The strand waits; PC stays at the instruction. -/
  | wait (w : Wait)
  /-- It retires, and then has an effect that may reach the strand itself: a write of control space. -/
  | after (d : Dev) (r : Regs) (post : Dev → Dev)
  /-- It cannot execute yet (R110, R203). -/
  | hold

/-- Strand k retires an instruction and its registers become `r` (R123, R166, R169). -/
def Dev.retire (d : Dev) (k : Nat) (r : Regs) : Dev :=
  let s := d.strand k
  let budget := if s.regs.drill then r.dbudget - 1 else r.dbudget
  d.setStrand k { s with
    regs := { r with retired := s.regs.retired + 1, dbudget := budget }
    wait := none
    refetch := false
    run := s.run && !s.step
    stopped := s.stopped || s.step
    spec := s.spec.map fun c => { c with beyond := c.beyond + 1 } }

/-- Ends an instruction's body: retires, waits, holds, or raises. An exception beyond an unresolved branch is held
until the branch resolves (R197). -/
def Dev.finish (d : Dev) (k : Nat) (res : IRes) : Dev :=
  match res with
  | .done d' r => d'.retire k r
  | .exc c ev => if (d.strand k).spec = [] then d.raise k c ev else d
  | .wait w => d.modStrand k fun s => { s with wait := some w }
  | .after d' r post => post (d'.retire k r)
  | .hold => d

/-- Strand k may execute an instruction: it runs, waits for nothing, and its context has not been lost. -/
def Dev.canIssue (d : Dev) (k : Nat) : Bool :=
  let s := d.strand k
  d.hasStrand k && s.run && s.wait = none && !s.lost && !d.flt.safe

/-- The little-endian word in memory at an address. -/
def Dev.ldWord (d : Dev) (m : Mem) (a : Nat) : BitVec 32 := BitVec.ofNat 32 (leNat (d.ldBytes m a 4))

/-! ### Fetching (R108) and words no table lists (R130) -/

/-- The tine in one of whose contexts strand `k` stands, and that context, 4 being the spare one (R100, R179). -/
def Dev.homeOf (d : Dev) (k : Nat) : Nat × Nat :=
  match d.tine.tines.find? fun e => e.2.spare = some k with
  | some e => (e.1, 4)
  | none => (k / 4, k % 4)

/-- What the tine of strand `k` has cached for its PC; after IFLUSH the strand's next fetch asks no cache (R145). -/
def Dev.cached (d : Dev) (k : Nat) : Option (BitVec 32) :=
  let s := d.strand k
  if s.refetch then none
  else ((d.tineOf (d.homeOf k).1).icache.find? fun e => e.1 = s.regs.pc).map Prod.snd

/-- The instruction word that strand `k` fetches at its PC. -/
def Dev.fetched (d : Dev) (m : Mem) (k : Nat) : BitVec 32 := (d.cached k).getD (d.ldWord m (d.strand k).regs.pc)

/-- The functions that OP 0x00, 0x20, 0x32 and 0x3C list. -/
def listedFns (op : Nat) : List Nat :=
  match op with
  | 0x00 => [0x00, 0x01, 0x02, 0x03, 0x04, 0x05, 0x08, 0x09, 0x0A, 0x0B, 0x10, 0x11, 0x12, 0x13, 0x18, 0x19, 0x1A, 0x1B,
      0x20, 0x21, 0x22, 0x23]
  | 0x20 => [0, 1, 2, 3, 4, 5, 6, 8]
  | 0x32 => [1, 2, 3, 4, 5, 6]
  | _ => [0x00, 0x01, 0x02, 0x03, 0x04, 0x05, 0x06, 0x07, 0x08, 0x10, 0x11, 0x12, 0x13]

/-- A table of the instruction set lists the word's OP, and its FN where that selects the instruction (R130). -/
def listed (w : BitVec 32) : Bool :=
  let op := w.toNat / 2 ^ 26
  if op = 0x00 || op = 0x20 || op = 0x32 || op = 0x3C then (listedFns op).contains (w.toNat % 2 ^ 11)
  else op ≤ 0x0B || (0x10 ≤ op && op ≤ 0x21 && op ≠ 0x17) || (0x28 ≤ op && op ≤ 0x34) || (0x38 ≤ op && op ≤ 0x3B)

/-! ### Issue slots (R102 to R107, YIELD of R145) -/

/-- The issue class of a word (R106): 0 integer, 1 memory, 2 queue, 3 wide, 4 control. -/
def issueClass (w : BitVec 32) : Nat :=
  let op := w.toNat / 2 ^ 26
  if op < 0x10 then 0 else if op ≤ 0x21 then 1 else if op ≤ 0x34 then 4 else if op ≤ 0x3B then 2 else 3

/-- The second word may pair with the first (R106). -/
def mayPair (first second : BitVec 32) : Bool :=
  let a := issueClass first
  a ≠ 4 && (a ≠ issueClass second || a = 0)

/-- Registers that a word reads and those it writes: general register n as n, wide register n as 32 + n; g0 is neither. -/
def insnRegs (w : BitVec 32) : List Nat × List Nat :=
  let d := w.toNat / 2 ^ 21 % 32
  let a := w.toNat / 2 ^ 16 % 32
  let b := w.toNat / 2 ^ 11 % 32
  let fn := w.toNat % 2 ^ 11
  let op := w.toNat / 2 ^ 26
  let wide (n : Nat) : Nat := 32 + n % 8
  let r : List Nat × List Nat :=
    if op = 0x00 then ([a, b], [d])
    else if op ≤ 0x09 then ([a], [d])
    else if op ≤ 0x0B then (if op = 0x0A && w.toNat / 2 ^ 18 % 2 = 1 then ([d], [d]) else ([], [d]))
    else if op ≤ 0x16 then ([a], [d])
    else if op ≤ 0x1B then ([a, d], [])
    else if op = 0x1C then ([a], [wide d])
    else if op = 0x1D then ([a, wide d], [])
    else if op = 0x1E then ([a], [if w.toNat / 2 ^ 10 % 8 = 4 then wide d else d])
    else if op = 0x1F then ([a, if w.toNat / 2 ^ 10 % 8 = 4 then wide d else d], [])
    else if op = 0x20 then ([a, b, d], [d])
    else if op ≤ 0x27 then ([], [])
    else if op ≤ 0x2D then ([d, a], [])
    else if op = 0x2E then ([], [d])
    else if op = 0x2F then ([a], [d])
    else if op = 0x30 then ([], [d])
    else if op ≤ 0x32 then ([a], [])
    else if op ≤ 0x34 then ([], [])
    else if op = 0x38 then ([if fn % 2 = 1 then wide a else a], [d])
    else if op = 0x39 then ([], [if fn % 2 = 1 then wide d else d, a])
    else if op = 0x3A then ([], [d])
    else if op = 0x3B then ([a, b], [d])
    else
      match fn with
      | 0x00 => ([wide d, wide a], [wide d])
      | 0x01 => ([wide a], [wide d])
      | 0x02 => ([], [wide d])
      | 0x03 => ([wide d, wide a, b], [wide d])
      | 0x04 => ([wide a, b], [wide d])
      | 0x05 => ([wide a, b], [d])
      | 0x06 => ([wide d, a, b], [wide d])
      | 0x07 => ([a], [d])
      | 0x08 => ([a, b], [d])
      | 0x10 => ([], [wide d])
      | 0x11 => ([wide d, wide a], [wide d])
      | 0x12 => ([wide d, wide (d + 1), wide (d + 2), wide (d + 3)], [wide d, wide (d + 1), wide (d + 2), wide (d + 3)])
      | _ => ([wide a, wide b], [d])
  (r.1.filter (· ≠ 0), r.2.filter (· ≠ 0))

/-- The ready contexts of tine `t` with their strands, in context order: those whose strand runs and waits for nothing
(R103). -/
def Dev.readyCtxs (d : Dev) (t : Nat) : List (Nat × Nat) :=
  let own := ((List.range 4).map fun c => (c, 4 * t + c)).filter fun e => d.homeOf e.2 = (t, e.1)
  (own ++ (d.tineOf t).spare.toList.map fun k => (4, k)).filter fun e =>
    let s := d.strand e.2
    s.run && s.wait = none && !s.lost

/-- Those among them of the highest SPRI (R104, R107), in round-robin order from context `c` on. -/
def Dev.contenders (d : Dev) (l : List (Nat × Nat)) (c : Nat) : List (Nat × Nat) :=
  let top := (l.map fun e => (d.strand e.2).regs.spri).foldl max 0
  let l := l.filter fun e => (d.strand e.2).regs.spri = top
  (l.filter fun e => c < e.1) ++ l.filter fun e => e.1 ≤ c

/-- The strand that takes the first slot of tine `t`'s next step (R104). One that has yielded is passed over while another is
ready. -/
def Dev.firstSlot (d : Dev) (t : Nat) : Option Nat :=
  let x := d.tineOf t
  let l := d.readyCtxs t
  let rest := l.filter fun e => x.yielded ≠ some e.2
  ((d.contenders (if rest = [] then l else rest) x.turn).head?).map Prod.snd

/-- The strand that may take the second slot of its present step, if that is open (R105): the same strand, where its next
instruction may pair and reads nothing that the first writes; otherwise the next ready context whose instruction may pair. -/
def Dev.secondSlot (d : Dev) (m : Mem) (t : Nat) : Option Nat :=
  let x := d.tineOf t
  match x.first with
  | none => none
  | some w =>
    let l := d.contenders ((d.readyCtxs t).filter fun e => x.skipped ≠ some e.2) x.turn
    let same (e : Nat × Nat) : Bool := e.1 = x.turn && mayPair w (d.fetched m e.2) &&
      !(insnRegs (d.fetched m e.2)).1.any fun r => (insnRegs w).2.contains r
    let other (e : Nat × Nat) : Bool := e.1 ≠ x.turn && mayPair w (d.fetched m e.2)
    ((l.find? same <|> l.find? other)).map Prod.snd

/-- Strand `k` may issue its next instruction now: the second slot of the present step is its own, or the first of the next
(assumption 139). -/
def Dev.takesSlot (d : Dev) (m : Mem) (k : Nat) : Bool :=
  let t := (d.homeOf k).1
  d.secondSlot m t = some k || d.firstSlot t = some k

/-- Its tine once strand `k` has issued: the slot is taken, and the word it fetched stands in the cache. -/
def Dev.issued (d : Dev) (m : Mem) (k : Nat) : Tine :=
  let (t, c) := d.homeOf k
  let x := d.tineOf t
  let w := d.fetched m k
  let x := match d.cached k with
    | some _ => x
    | none => { x with icache := (((d.strand k).regs.pc, w) :: x.icache.filter fun e => e.1 ≠ (d.strand k).regs.pc).take 8192 }
  if d.secondSlot m t = some k then { x with first := none }
  else
    { x with turn := c, first := if issueClass w = 4 then none else some w
             skipped := if x.yielded = some k then none else x.yielded
             yielded := if x.yielded = some k then some k else none }

/-- The device once strand `k` has taken its slot. -/
def Dev.slotted (d : Dev) (m : Mem) (k : Nat) : Dev := d.setTine (d.homeOf k).1 (d.issued m k)

/-- What an instruction's body does, in a device whose tine `t` has become `x`. -/
def IRes.inTine (t : Nat) (x : Tine) : IRes → IRes
  | .done d r => .done (d.setTine t x) r
  | .after d r post => .after (d.setTine t x) r post
  | .exc c ev => .exc c ev
  | .wait w => .wait w
  | .hold => .hold

/-- Strand `k` issues an instruction that does `res`. One that cannot execute before an earlier branch resolves takes no slot. -/
def Dev.execute (d : Dev) (m : Mem) (k : Nat) (res : IRes) : Dev :=
  match res with
  | .hold => d
  | .exc c ev => if (d.strand k).spec = [] then (d.slotted m k).raise k c ev else d
  | res => (d.slotted m k).finish k (res.inTine (d.homeOf k).1 (d.issued m k))

/-- Strand `k` executes its next instruction, if that is the one `word` encodes. `resolved` marks the instructions of R110,
which wait until every earlier branch has resolved. Where the strand fetches another word the command has no effect, but that
a word no table lists is ILLEGAL whatever instruction the command names (R130, assumption 8). -/
def Dev.issue (d : Dev) (m : Mem) (k : Nat) (word : BitVec 32) (drillOk illegal resolved : Bool)
    (body : Regs → IRes) : Dev :=
  let s := d.strand k
  let w := d.fetched m k
  if !d.canIssue k || !d.takesSlot m k then d
  else
    match d.fetchCause s.regs with
    | some (c, ev) => d.execute m k (.exc c ev)
    | none =>
      if w ≠ word then (if listed w then d else d.execute m k (.exc .illegal (w.zeroExtend 64)))
      else
        match wordCause s.regs word drillOk illegal with
        | some (c, ev) => d.execute m k (.exc c ev)
        | none => if resolved && s.spec ≠ [] then d else d.execute m k (body s.regs)

/-- The registers with PC at the next instruction. -/
def Regs.next (r : Regs) : Regs := { r with pc := pcOf (r.pc + 4) }

/-- A control transfer: RANGE for a target outside the drill code (R124), else the registers at the target. -/
def Regs.jump (d : Dev) (r : Regs) (t : Nat) (r' : Regs) : IRes :=
  if r.drill && !r.inCode t then .exc .range (BitVec.ofNat 64 t) else .done d { r' with pc := pcOf t }

end Sys2Proof.Machine
end

