-- ==== Sys2Proof/Machine/TineAlu.lean ====
section
/-!
DEFINITION. The integer and immediate instructions (R133, R134) and the wide instructions (R156 to R158).
Every one is legal in both contexts and none waits.
-/

namespace Sys2Proof.Machine

/-- An integer instruction of OP 0x00 (R133): g[D] := f g[A] g[B]; `unary` marks those whose B must be zero. -/
def Dev.rr (x : Dev) (m : Mem) (k fn : Nat) (unary : Bool) (d a b : BitVec 5) (f : Word → Word → Word) : Dev :=
  x.issue m k (wordRR 0x00 d a b (BitVec.ofNat 11 fn)) true (unary && b ≠ 0) false fun r =>
    .done x (r.next.wr d.toNat (f (r.rd a.toNat) (r.rd b.toNat)))

/-- An immediate instruction (R134): g[D] := f g[A] IMM16; `shift` marks those whose IMM16[15:6] must be zero. -/
def Dev.ri (x : Dev) (m : Mem) (k op : Nat) (shift : Bool) (d a : BitVec 5) (imm : BitVec 16)
    (f : Word → BitVec 16 → Word) : Dev :=
  x.issue m k (wordRI op d a imm) true (shift && 64 ≤ imm.toNat) false fun r =>
    .done x (r.next.wr d.toNat (f (r.rd a.toNat) imm))

/-- Shift and rotate counts are g[B][5:0] (R133). -/
def shiftCount (b : Word) : Nat := b.toNat % 64

/-- ADD (R133). -/
def tineAdd (m : Mem) (k : Nat) (d a b : BitVec 5) (x : Dev) : Dev :=
  x.rr m k 0x0 false d a b (fun p q => p + q)
def execAdd (k : Nat) (d a b : BitVec 5) (s : State) : Res := s.run fun m x => tineAdd m k d a b x

/-- SUB (R133). -/
def tineSub (m : Mem) (k : Nat) (d a b : BitVec 5) (x : Dev) : Dev :=
  x.rr m k 0x1 false d a b (fun p q => p - q)
def execSub (k : Nat) (d a b : BitVec 5) (s : State) : Res := s.run fun m x => tineSub m k d a b x

/-- AND (R133). -/
def tineAnd (m : Mem) (k : Nat) (d a b : BitVec 5) (x : Dev) : Dev :=
  x.rr m k 0x2 false d a b (fun p q => p &&& q)
def execAnd (k : Nat) (d a b : BitVec 5) (s : State) : Res := s.run fun m x => tineAnd m k d a b x

/-- OR (R133). -/
def tineOr (m : Mem) (k : Nat) (d a b : BitVec 5) (x : Dev) : Dev :=
  x.rr m k 0x3 false d a b (fun p q => p ||| q)
def execOr (k : Nat) (d a b : BitVec 5) (s : State) : Res := s.run fun m x => tineOr m k d a b x

/-- XOR (R133). -/
def tineXor (m : Mem) (k : Nat) (d a b : BitVec 5) (x : Dev) : Dev :=
  x.rr m k 0x4 false d a b (fun p q => p ^^^ q)
def execXor (k : Nat) (d a b : BitVec 5) (s : State) : Res := s.run fun m x => tineXor m k d a b x

/-- ANDN (R133). -/
def tineAndn (m : Mem) (k : Nat) (d a b : BitVec 5) (x : Dev) : Dev :=
  x.rr m k 0x5 false d a b (fun p q => p &&& ~~~q)
def execAndn (k : Nat) (d a b : BitVec 5) (s : State) : Res := s.run fun m x => tineAndn m k d a b x

/-- SHL (R133). -/
def tineShl (m : Mem) (k : Nat) (d a b : BitVec 5) (x : Dev) : Dev :=
  x.rr m k 0x8 false d a b (fun p q => p <<< shiftCount q)
def execShl (k : Nat) (d a b : BitVec 5) (s : State) : Res := s.run fun m x => tineShl m k d a b x

/-- SHR (R133). -/
def tineShr (m : Mem) (k : Nat) (d a b : BitVec 5) (x : Dev) : Dev :=
  x.rr m k 0x9 false d a b (fun p q => p >>> shiftCount q)
def execShr (k : Nat) (d a b : BitVec 5) (s : State) : Res := s.run fun m x => tineShr m k d a b x

/-- SAR (R133). -/
def tineSar (m : Mem) (k : Nat) (d a b : BitVec 5) (x : Dev) : Dev :=
  x.rr m k 0xa false d a b (fun p q => p.sshiftRight (shiftCount q))
def execSar (k : Nat) (d a b : BitVec 5) (s : State) : Res := s.run fun m x => tineSar m k d a b x

/-- ROR (R133). -/
def tineRor (m : Mem) (k : Nat) (d a b : BitVec 5) (x : Dev) : Dev :=
  x.rr m k 0xb false d a b (fun p q => p.rotateRight (shiftCount q))
def execRor (k : Nat) (d a b : BitVec 5) (s : State) : Res := s.run fun m x => tineRor m k d a b x

/-- MUL (R133). -/
def tineMul (m : Mem) (k : Nat) (d a b : BitVec 5) (x : Dev) : Dev :=
  x.rr m k 0x10 false d a b (fun p q => p * q)
def execMul (k : Nat) (d a b : BitVec 5) (s : State) : Res := s.run fun m x => tineMul m k d a b x

/-- MULHU (R133). -/
def tineMulhu (m : Mem) (k : Nat) (d a b : BitVec 5) (x : Dev) : Dev :=
  x.rr m k 0x11 false d a b (mulHU)
def execMulhu (k : Nat) (d a b : BitVec 5) (s : State) : Res := s.run fun m x => tineMulhu m k d a b x

/-- DIVU (R133). -/
def tineDivu (m : Mem) (k : Nat) (d a b : BitVec 5) (x : Dev) : Dev :=
  x.rr m k 0x12 false d a b (divU)
def execDivu (k : Nat) (d a b : BitVec 5) (s : State) : Res := s.run fun m x => tineDivu m k d a b x

/-- REMU (R133). -/
def tineRemu (m : Mem) (k : Nat) (d a b : BitVec 5) (x : Dev) : Dev :=
  x.rr m k 0x13 false d a b (remU)
def execRemu (k : Nat) (d a b : BitVec 5) (s : State) : Res := s.run fun m x => tineRemu m k d a b x

/-- SLT (R133). -/
def tineSlt (m : Mem) (k : Nat) (d a b : BitVec 5) (x : Dev) : Dev :=
  x.rr m k 0x18 false d a b (fun p q => wordBool (ltSigned p q))
def execSlt (k : Nat) (d a b : BitVec 5) (s : State) : Res := s.run fun m x => tineSlt m k d a b x

/-- SLTU (R133). -/
def tineSltu (m : Mem) (k : Nat) (d a b : BitVec 5) (x : Dev) : Dev :=
  x.rr m k 0x19 false d a b (fun p q => wordBool (ltUnsigned p q))
def execSltu (k : Nat) (d a b : BitVec 5) (s : State) : Res := s.run fun m x => tineSltu m k d a b x

/-- MINU (R133). -/
def tineMinu (m : Mem) (k : Nat) (d a b : BitVec 5) (x : Dev) : Dev :=
  x.rr m k 0x1a false d a b (minU)
def execMinu (k : Nat) (d a b : BitVec 5) (s : State) : Res := s.run fun m x => tineMinu m k d a b x

/-- MAXU (R133). -/
def tineMaxu (m : Mem) (k : Nat) (d a b : BitVec 5) (x : Dev) : Dev :=
  x.rr m k 0x1b false d a b (maxU)
def execMaxu (k : Nat) (d a b : BitVec 5) (s : State) : Res := s.run fun m x => tineMaxu m k d a b x

/-- CLZ (R133). -/
def tineClz (m : Mem) (k : Nat) (d a b : BitVec 5) (x : Dev) : Dev :=
  x.rr m k 0x20 true d a b (fun p _ => BitVec.ofNat 64 (clz p))
def execClz (k : Nat) (d a b : BitVec 5) (s : State) : Res := s.run fun m x => tineClz m k d a b x

/-- CTZ (R133). -/
def tineCtz (m : Mem) (k : Nat) (d a b : BitVec 5) (x : Dev) : Dev :=
  x.rr m k 0x21 true d a b (fun p _ => BitVec.ofNat 64 (ctz p))
def execCtz (k : Nat) (d a b : BitVec 5) (s : State) : Res := s.run fun m x => tineCtz m k d a b x

/-- POPC (R133). -/
def tinePopc (m : Mem) (k : Nat) (d a b : BitVec 5) (x : Dev) : Dev :=
  x.rr m k 0x22 true d a b (fun p _ => BitVec.ofNat 64 (popCount p))
def execPopc (k : Nat) (d a b : BitVec 5) (s : State) : Res := s.run fun m x => tinePopc m k d a b x

/-- BSWAP (R133). -/
def tineBswap (m : Mem) (k : Nat) (d a b : BitVec 5) (x : Dev) : Dev :=
  x.rr m k 0x23 true d a b (fun p _ => bswap p)
def execBswap (k : Nat) (d a b : BitVec 5) (s : State) : Res := s.run fun m x => tineBswap m k d a b x

/-- ADDI (R134). -/
def tineAddi (m : Mem) (k : Nat) (d a : BitVec 5) (imm : BitVec 16) (x : Dev) : Dev :=
  x.ri m k 0x1 false d a imm (fun p i => p + sx16 i)
def execAddi (k : Nat) (d a : BitVec 5) (imm : BitVec 16) (s : State) : Res := s.run fun m x => tineAddi m k d a imm x

/-- ANDI (R134). -/
def tineAndi (m : Mem) (k : Nat) (d a : BitVec 5) (imm : BitVec 16) (x : Dev) : Dev :=
  x.ri m k 0x2 false d a imm (fun p i => p &&& i.zeroExtend 64)
def execAndi (k : Nat) (d a : BitVec 5) (imm : BitVec 16) (s : State) : Res := s.run fun m x => tineAndi m k d a imm x

/-- ORI (R134). -/
def tineOri (m : Mem) (k : Nat) (d a : BitVec 5) (imm : BitVec 16) (x : Dev) : Dev :=
  x.ri m k 0x3 false d a imm (fun p i => p ||| i.zeroExtend 64)
def execOri (k : Nat) (d a : BitVec 5) (imm : BitVec 16) (s : State) : Res := s.run fun m x => tineOri m k d a imm x

/-- XORI (R134). -/
def tineXori (m : Mem) (k : Nat) (d a : BitVec 5) (imm : BitVec 16) (x : Dev) : Dev :=
  x.ri m k 0x4 false d a imm (fun p i => p ^^^ i.zeroExtend 64)
def execXori (k : Nat) (d a : BitVec 5) (imm : BitVec 16) (s : State) : Res := s.run fun m x => tineXori m k d a imm x

/-- SHLI (R134). -/
def tineShli (m : Mem) (k : Nat) (d a : BitVec 5) (imm : BitVec 16) (x : Dev) : Dev :=
  x.ri m k 0x5 true d a imm (fun p i => p <<< (i.toNat % 64))
def execShli (k : Nat) (d a : BitVec 5) (imm : BitVec 16) (s : State) : Res := s.run fun m x => tineShli m k d a imm x

/-- SHRI (R134). -/
def tineShri (m : Mem) (k : Nat) (d a : BitVec 5) (imm : BitVec 16) (x : Dev) : Dev :=
  x.ri m k 0x6 true d a imm (fun p i => p >>> (i.toNat % 64))
def execShri (k : Nat) (d a : BitVec 5) (imm : BitVec 16) (s : State) : Res := s.run fun m x => tineShri m k d a imm x

/-- SARI (R134). -/
def tineSari (m : Mem) (k : Nat) (d a : BitVec 5) (imm : BitVec 16) (x : Dev) : Dev :=
  x.ri m k 0x7 true d a imm (fun p i => p.sshiftRight (i.toNat % 64))
def execSari (k : Nat) (d a : BitVec 5) (imm : BitVec 16) (s : State) : Res := s.run fun m x => tineSari m k d a imm x

/-- SLTI (R134). -/
def tineSlti (m : Mem) (k : Nat) (d a : BitVec 5) (imm : BitVec 16) (x : Dev) : Dev :=
  x.ri m k 0x8 false d a imm (fun p i => wordBool (ltSigned p (sx16 i)))
def execSlti (k : Nat) (d a : BitVec 5) (imm : BitVec 16) (s : State) : Res := s.run fun m x => tineSlti m k d a imm x

/-- SLTIU (R134). -/
def tineSltiu (m : Mem) (k : Nat) (d a : BitVec 5) (imm : BitVec 16) (x : Dev) : Dev :=
  x.ri m k 0x9 false d a imm (fun p i => wordBool (ltUnsigned p (sx16 i)))
def execSltiu (k : Nat) (d a : BitVec 5) (imm : BitVec 16) (s : State) : Res := s.run fun m x => tineSltiu m k d a imm x

/-- The result of MOVW (R134): IMM16 at halfword HW, over 0 or over the old value when K is 1. -/
def movw (old : Word) (hw : BitVec 2) (keep : BitVec 1) (imm : BitVec 16) : Word :=
  let base : Nat := if keep = 1 then old.toNat else 0
  BitVec.ofNat 64 (setBits base (16 * hw.toNat) 16 imm.toNat)

/-- MOVW (R134). -/
def tineMovw (m : Mem) (k : Nat) (d : BitVec 5) (hw : BitVec 2) (keep : BitVec 1) (z : BitVec 2) (imm : BitVec 16)
    (x : Dev) : Dev :=
  x.issue m k (wordRW 0x0A d hw keep z imm) true (z ≠ 0) false fun r =>
    .done x (r.next.wr d.toNat (movw (r.rd d.toNat) hw keep imm))
def execMovw (k : Nat) (d : BitVec 5) (hw : BitVec 2) (keep : BitVec 1) (z : BitVec 2) (imm : BitVec 16)
    (s : State) : Res := s.run fun m x => tineMovw m k d hw keep z imm x

/-- ADDPC (R134): g[D] := PC + OFF21 * 4. -/
def tineAddpc (m : Mem) (k : Nat) (d : BitVec 5) (off : BitVec 21) (x : Dev) : Dev :=
  x.issue m k (wordJ 0x0B d off) true false false fun r =>
    .done x (r.next.wr d.toNat (BitVec.ofNat 64 r.pc + sx21 off * 4))
def execAddpc (k : Nat) (d : BitVec 5) (off : BitVec 21) (s : State) : Res := s.run fun m x => tineAddpc m k d off x

/-! ### Wide instructions (R156 to R158) -/

/-- A field that names a wide register and holds 8 or more is illegal (R129). -/
def badWide (f : BitVec 5) : Bool := 8 ≤ f.toNat

/-- A wide instruction of OP 0x3C. -/
def Dev.wide (x : Dev) (m : Mem) (k fn : Nat) (d a b : BitVec 5) (illegal : Bool) (f : Regs → Regs) : Dev :=
  x.issue m k (wordRR 0x3C d a b (BitVec.ofNat 11 fn)) true illegal false fun r => .done x (f r.next)

/-- A byte-wise operation on a wide register. -/
def mapBytes (f : Byte → Byte) (w : Wide) : Wide := bytesWide ((wideBytes w).map f)

/-- Lane q of a wide register (R113). -/
def lane (w : Wide) (q : Nat) : Word := (w >>> (64 * q)).truncate 64

/-- A wide register with lane q replaced. -/
def setLane (w : Wide) (q : Nat) (v : Word) : Wide :=
  BitVec.ofNat 512 (setBits w.toNat (64 * q) 64 v.toNat)

/-- One SHA-256 compression on wide registers (R157): chaining value in bytes 0-31, bytes 32-63 of the result 0. -/
def hs256 (cv block : Wide) : Wide := bytesWide (shaBytes (shaCompress (beWords 8 (wideBytes cv)) (wideBytes block)))

/-- Keccak-f[1600] over w[D] to w[D + 3] (R158). -/
def keccakWide (r : Regs) (d : Nat) : Regs :=
  let last := wideBytes (r.rdW (d + 3))
  let st := wideBytes (r.rdW d) ++ wideBytes (r.rdW (d + 1)) ++ wideBytes (r.rdW (d + 2)) ++ last.take 8
  let t := keccakBytes st
  (((r.wrW d (bytesWide (slice t 0 64))).wrW (d + 1) (bytesWide (slice t 64 64))).wrW (d + 2)
    (bytesWide (slice t 128 64))).wrW (d + 3) (bytesWide (slice t 192 8 ++ last.drop 8))

/-- WXOR (R156): w[D] := w[D] XOR w[A]. -/
def tineWxor (m : Mem) (k : Nat) (d a b : BitVec 5) (x : Dev) : Dev :=
  x.wide m k 0x0 d a b (badWide d || badWide a || b ≠ 0) fun r => r.wrW d.toNat (r.rdW d.toNat ^^^ r.rdW a.toNat)
def execWxor (k : Nat) (d a b : BitVec 5) (s : State) : Res := s.run fun m x => tineWxor m k d a b x

/-- WMOV (R156): w[D] := w[A]. -/
def tineWmov (m : Mem) (k : Nat) (d a b : BitVec 5) (x : Dev) : Dev :=
  x.wide m k 0x1 d a b (badWide d || badWide a || b ≠ 0) fun r => r.wrW d.toNat (r.rdW a.toNat)
def execWmov (k : Nat) (d a b : BitVec 5) (s : State) : Res := s.run fun m x => tineWmov m k d a b x

/-- WZERO (R156): w[D] := 0. -/
def tineWzero (m : Mem) (k : Nat) (d a b : BitVec 5) (x : Dev) : Dev :=
  x.wide m k 0x2 d a b (badWide d || a ≠ 0 || b ≠ 0) fun r => r.wrW d.toNat 0
def execWzero (k : Nat) (d a b : BitVec 5) (s : State) : Res := s.run fun m x => tineWzero m k d a b x

/-- GFMAC (R156): each byte of w[D] XORed with gfmul of w[A]'s byte and g[B][7:0]. -/
def tineGfmac (m : Mem) (k : Nat) (d a b : BitVec 5) (x : Dev) : Dev :=
  x.wide m k 0x3 d a b (badWide d || badWide a) fun r => r.wrW d.toNat (r.rdW d.toNat ^^^ mapBytes (gfMul · ((r.rd b.toNat).truncate 8)) (r.rdW a.toNat))
def execGfmac (k : Nat) (d a b : BitVec 5) (s : State) : Res := s.run fun m x => tineGfmac m k d a b x

/-- GFMUL (R156): each byte of w[D] := gfmul of w[A]'s byte and g[B][7:0]. -/
def tineGfmul (m : Mem) (k : Nat) (d a b : BitVec 5) (x : Dev) : Dev :=
  x.wide m k 0x4 d a b (badWide d || badWide a) fun r => r.wrW d.toNat (mapBytes (gfMul · ((r.rd b.toNat).truncate 8)) (r.rdW a.toNat))
def execGfmul (k : Nat) (d a b : BitVec 5) (s : State) : Res := s.run fun m x => tineGfmul m k d a b x

/-- WGET (R156): g[D] := lane g[B][2:0] of w[A]. -/
def tineWget (m : Mem) (k : Nat) (d a b : BitVec 5) (x : Dev) : Dev :=
  x.wide m k 0x5 d a b (badWide a) fun r => r.wr d.toNat (lane (r.rdW a.toNat) ((r.rd b.toNat).toNat % 8))
def execWget (k : Nat) (d a b : BitVec 5) (s : State) : Res := s.run fun m x => tineWget m k d a b x

/-- WPUT (R156): lane g[B][2:0] of w[D] := g[A]. -/
def tineWput (m : Mem) (k : Nat) (d a b : BitVec 5) (x : Dev) : Dev :=
  x.wide m k 0x6 d a b (badWide d) fun r => r.wrW d.toNat (setLane (r.rdW d.toNat) ((r.rd b.toNat).toNat % 8) (r.rd a.toNat))
def execWput (k : Nat) (d a b : BitVec 5) (s : State) : Res := s.run fun m x => tineWput m k d a b x

/-- GFINV (R156): g[D] := inverse of g[A][7:0]. -/
def tineGfinv (m : Mem) (k : Nat) (d a b : BitVec 5) (x : Dev) : Dev :=
  x.wide m k 0x7 d a b (b ≠ 0) fun r => r.wr d.toNat ((gfInv ((r.rd a.toNat).truncate 8)).zeroExtend 64)
def execGfinv (k : Nat) (d a b : BitVec 5) (s : State) : Res := s.run fun m x => tineGfinv m k d a b x

/-- GFMULS (R156): g[D] := gfmul of g[A][7:0] and g[B][7:0]. -/
def tineGfmuls (m : Mem) (k : Nat) (d a b : BitVec 5) (x : Dev) : Dev :=
  x.wide m k 0x8 d a b (false) fun r => r.wr d.toNat ((gfMul ((r.rd a.toNat).truncate 8) ((r.rd b.toNat).truncate 8)).zeroExtend 64)
def execGfmuls (k : Nat) (d a b : BitVec 5) (s : State) : Res := s.run fun m x => tineGfmuls m k d a b x

/-- HS256I (R156): the SHA-256 initial hash value. -/
def tineHs256i (m : Mem) (k : Nat) (d a b : BitVec 5) (x : Dev) : Dev :=
  x.wide m k 0x10 d a b (badWide d || a ≠ 0 || b ≠ 0) fun r => r.wrW d.toNat (bytesWide (shaBytes shaInit))
def execHs256i (k : Nat) (d a b : BitVec 5) (s : State) : Res := s.run fun m x => tineHs256i m k d a b x

/-- HS256 (R156): one SHA-256 compression. -/
def tineHs256 (m : Mem) (k : Nat) (d a b : BitVec 5) (x : Dev) : Dev :=
  x.wide m k 0x11 d a b (badWide d || badWide a || b ≠ 0) fun r => r.wrW d.toNat (hs256 (r.rdW d.toNat) (r.rdW a.toNat))
def execHs256 (k : Nat) (d a b : BitVec 5) (s : State) : Res := s.run fun m x => tineHs256 m k d a b x

/-- KECCAK (R156): Keccak-f[1600]. -/
def tineKeccak (m : Mem) (k : Nat) (d a b : BitVec 5) (x : Dev) : Dev :=
  x.wide m k 0x12 d a b ((d ≠ 0 && d ≠ 4) || a ≠ 0 || b ≠ 0) fun r => keccakWide r d.toNat
def execKeccak (k : Nat) (d a b : BitVec 5) (s : State) : Res := s.run fun m x => tineKeccak m k d a b x

/-- WCMP (R156): g[D] := 1 if bytes 0-31 of w[A] and w[B] are equal. -/
def tineWcmp (m : Mem) (k : Nat) (d a b : BitVec 5) (x : Dev) : Dev :=
  x.wide m k 0x13 d a b (badWide a || badWide b) fun r => r.wr d.toNat (wordBool ((r.rdW a.toNat).truncate 256 == (r.rdW b.toNat).truncate 256))
def execWcmp (k : Nat) (d a b : BitVec 5) (s : State) : Res := s.run fun m x => tineWcmp m k d a b x

end Sys2Proof.Machine
end

