-- ==== Sys2Proof/Machine/TineFlow.lean ====
section
/-!
DEFINITION. Fences, branches, jumps, state registers and the system instructions (R109, R116 to R127, R142 to R146,
R185, R186, R202), and the resolution of predicted branches.
-/

namespace Sys2Proof.Machine

/-! ### FENCE (R142, R185, R186) -/

/-- What a FENCE still waits for. A strand's loads and its stores to memory are performed as they retire, so only
its writes to side-effect regions can be outstanding, and only a fence with SE and FN[1] waits for those (R186,
R189), whatever its later set: R190 has the message of a later QPUT follow them too (assumption 140). -/
def Dev.fenceHolds (x : Dev) (k fn : Nat) : Bool :=
  !(bit fn 4 && bit fn 1) || x.posted.all fun p => p.master ≠ tagStrand k

/-- FENCE (R142). -/
def tineFence (m : Mem) (k : Nat) (d a b : BitVec 5) (fn : BitVec 11) (x : Dev) : Dev :=
  x.issue m k (wordRR 0x21 d a b fn) true (d ≠ 0 || a ≠ 0 || b ≠ 0 || 32 ≤ fn.toNat) true fun r =>
    if x.fenceHolds k fn.toNat then .done x r.next else .wait (.fence fn.toNat)
def execFence (k : Nat) (d a b : BitVec 5) (fn : BitVec 11) (s : State) : Res := s.run fun m x => tineFence m k d a b fn x

/-- FENCE_RELEASE (R185): a waiting fence whose condition holds. -/
def execFenceRelease (k : Nat) (s : State) : Res := s.run fun _ x =>
  match (x.strand k).wait with
  | some (.fence fn) => if x.fenceHolds k fn then x.retire k (x.strand k).regs.next else x
  | _ => x

/-! ### Branches (R143, R109, R202) -/

/-- A branch. With no prediction it resolves at once. With one, the strand goes on where the prediction says, and the
registers it would have on the branch's own outcome are kept until the branch resolves. A branch whose outcome
leaves the drill code is not predicted: it raises RANGE. -/
def Dev.branch (x : Dev) (m : Mem) (k op : Nat) (a b : BitVec 5) (off : BitVec 16) (predict : Option Bool)
    (cond : Word → Word → Bool) : Dev :=
  let word := wordRI op a b off
  x.issue m k word true false false fun r =>
    let taken := cond (r.rd a.toNat) (r.rd b.toNat)
    let dest (t : Bool) : Nat := if t then targetOf r.pc (sx16 off) else r.pc + 4
    if taken && r.drill && !r.inCode (dest true) then .exc .range (BitVec.ofNat 64 (dest true))
    else
      match predict with
      | none => .done x { r with pc := pcOf (dest taken) }
      | some p =>
        let budget := if r.drill then r.dbudget - 1 else r.dbudget
        let c : Ckpt := { saved := { r with pc := pcOf (dest taken), retired := r.retired + 1, dbudget := budget }, at' := r.pc,
                          mispredicted := p ≠ taken }
        let x := x.modStrand k fun s => { s with spec := s.spec ++ [c] }
        .done x { r with pc := pcOf (dest p) }

/-- BEQ (R143). -/
def tineBeq (m : Mem) (k : Nat) (a b : BitVec 5) (off : BitVec 16) (predict : Option Bool) (x : Dev) : Dev :=
  x.branch m k 0x28 a b off predict (fun p q => p == q)
def execBeq (k : Nat) (a b : BitVec 5) (off : BitVec 16) (predict : Option Bool) (s : State) : Res :=
  s.run fun m x => tineBeq m k a b off predict x

/-- BNE (R143). -/
def tineBne (m : Mem) (k : Nat) (a b : BitVec 5) (off : BitVec 16) (predict : Option Bool) (x : Dev) : Dev :=
  x.branch m k 0x29 a b off predict (fun p q => p != q)
def execBne (k : Nat) (a b : BitVec 5) (off : BitVec 16) (predict : Option Bool) (s : State) : Res :=
  s.run fun m x => tineBne m k a b off predict x

/-- BLT (R143). -/
def tineBlt (m : Mem) (k : Nat) (a b : BitVec 5) (off : BitVec 16) (predict : Option Bool) (x : Dev) : Dev :=
  x.branch m k 0x2a a b off predict (ltSigned)
def execBlt (k : Nat) (a b : BitVec 5) (off : BitVec 16) (predict : Option Bool) (s : State) : Res :=
  s.run fun m x => tineBlt m k a b off predict x

/-- BGE (R143). -/
def tineBge (m : Mem) (k : Nat) (a b : BitVec 5) (off : BitVec 16) (predict : Option Bool) (x : Dev) : Dev :=
  x.branch m k 0x2b a b off predict (fun p q => !ltSigned p q)
def execBge (k : Nat) (a b : BitVec 5) (off : BitVec 16) (predict : Option Bool) (s : State) : Res :=
  s.run fun m x => tineBge m k a b off predict x

/-- BLTU (R143). -/
def tineBltu (m : Mem) (k : Nat) (a b : BitVec 5) (off : BitVec 16) (predict : Option Bool) (x : Dev) : Dev :=
  x.branch m k 0x2c a b off predict (ltUnsigned)
def execBltu (k : Nat) (a b : BitVec 5) (off : BitVec 16) (predict : Option Bool) (s : State) : Res :=
  s.run fun m x => tineBltu m k a b off predict x

/-- BGEU (R143). -/
def tineBgeu (m : Mem) (k : Nat) (a b : BitVec 5) (off : BitVec 16) (predict : Option Bool) (x : Dev) : Dev :=
  x.branch m k 0x2d a b off predict (fun p q => !ltUnsigned p q)
def execBgeu (k : Nat) (a b : BitVec 5) (off : BitVec 16) (predict : Option Bool) (s : State) : Res :=
  s.run fun m x => tineBgeu m k a b off predict x

/-- BRANCH_RESOLVE (R202, R214): strand k's oldest unresolved branch resolves. As predicted, the stores held beyond
it are performed; otherwise everything beyond it is discarded, and MISPRED and SQUASH count it. -/
def Dev.branchResolve (x : Dev) (k : Nat) : Dev :=
  let s := x.strand k
  match s.spec with
  | [] => x
  | c :: t =>
    if c.mispredicted then x.setStrand k s.discard
    else
      let x := { x with wlog := c.stores ++ x.wlog }
      x.setStrand k { s with spec := t }

def execBranchResolve (k : Nat) (s : State) : Res := s.run fun _ x => x.branchResolve k

/-! ### Jumps (R144) -/

/-- JAL (R144). -/
def tineJal (m : Mem) (k : Nat) (d : BitVec 5) (off : BitVec 21) (x : Dev) : Dev :=
  x.issue m k (wordJ 0x2E d off) true false false fun r =>
    Regs.jump x r (targetOf r.pc (sx21 off)) (r.wr d.toNat (BitVec.ofNat 64 (pcOf (r.pc + 4))))
def execJal (k : Nat) (d : BitVec 5) (off : BitVec 21) (s : State) : Res := s.run fun m x => tineJal m k d off x

/-- JALR (R144): RANGE comes before ALIGN (R161), and neither writes anything. -/
def tineJalr (m : Mem) (k : Nat) (d a : BitVec 5) (imm : BitVec 16) (x : Dev) : Dev :=
  x.issue m k (wordRI 0x2F d a imm) true false false fun r =>
    let t := r.rd a.toNat + sx16 imm
    if r.drill && !r.inCode t.toNat then .exc .range t
    else if t.toNat % 4 ≠ 0 then .exc .align t
    else .done x { (r.wr d.toNat (BitVec.ofNat 64 (pcOf (r.pc + 4)))) with pc := pcOf t.toNat }
def execJalr (k : Nat) (d a : BitVec 5) (imm : BitVec 16) (s : State) : Res := s.run fun m x => tineJalr m k d a imm x

/-! ### State registers (R116, R117) -/

/-- The access a state register gives in a context: none listed, readable, or readable and writable. -/
inductive SAcc where
  | absent | ro | rw
  deriving DecidableEq, Repr

/-- Access in firmware context. -/
def stateAccF (n : Nat) : SAcc :=
  if n = 0x000 ∨ n = 0x010 ∨ n = 0x011 ∨ n = 0x014 then .ro
  else if (0x001 ≤ n ∧ n ≤ 0x006) ∨ n = 0x008 ∨ n = 0x009 ∨ n = 0x012 ∨ n = 0x013 ∨ (0x020 ≤ n ∧ n ≤ 0x02F) ∨
      (0x100 ≤ n ∧ n ≤ 0x1FF) then .rw
  else .absent

/-- Readable in drill context: SID, SCTX, DBUDGET, TMONO and HLIM. -/
def stateDrillRead (n : Nat) : Bool :=
  n = 0x000 || n = 0x001 || n = 0x013 || n = 0x014 || (0x028 ≤ n && n ≤ 0x02F)

/-- The value of a state register of strand k. -/
def stateRead (x : Dev) (k n : Nat) (r : Regs) : Word :=
  if n = 0x000 then BitVec.ofNat 64 k
  else if n = 0x001 then BitVec.ofNat 64 (b2n r.drill + 2 * b2n r.inex)
  else if n = 0x002 then r.evec
  else if n = 0x003 then r.epc
  else if n = 0x004 then r.ecause
  else if n = 0x005 then r.eval
  else if n = 0x006 then wordBool r.ectx
  else if n = 0x008 then BitVec.ofNat 64 r.spri
  else if n = 0x009 then r.workid
  else if n = 0x010 then r.dcode
  else if n = 0x011 then r.dlen
  else if n = 0x012 then r.dret
  else if n = 0x013 then r.dbudget
  else if n = 0x014 then BitVec.ofNat 64 x.now
  else if n < 0x028 then tget 0 r.hbase (n - 0x020)
  else if n < 0x030 then tget 0 r.hlim (n - 0x028)
  else tget 0 r.qmap (n - 0x100)

/-- Writes the RW fields of a state register (R117). -/
def stateWrite (n : Nat) (v : Word) (r : Regs) : Regs :=
  if n = 0x001 then { r with inex := v.getLsbD 1 }
  else if n = 0x002 then { r with evec := v &&& 0x0000FFFFFFFFF000 }
  else if n = 0x003 then { r with epc := v }
  else if n = 0x004 then { r with ecause := v &&& 0xFF }
  else if n = 0x005 then { r with eval := v }
  else if n = 0x006 then { r with ectx := v.getLsbD 0 }
  else if n = 0x008 then { r with spri := v.toNat % 4 }
  else if n = 0x009 then { r with workid := v &&& 0x3FFFFFFF, wvoid := false }
  else if n = 0x012 then { r with dret := v }
  else if n = 0x013 then { r with dbudget := v }
  else if 0x020 ≤ n ∧ n < 0x028 then { r with hbase := tset 0 r.hbase (n - 0x020) (v &&& 0x0000FFFFFFFFFFFF) }
  else if 0x028 ≤ n ∧ n < 0x030 then { r with hlim := tset 0 r.hlim (n - 0x028) (v &&& 0xC000FFFFFFFFFFFF) }
  else if 0x100 ≤ n ∧ n ≤ 0x1FF then { r with qmap := tset 0 r.qmap (n - 0x100) (v &&& 0xC00000000000FFFF) }
  else r

/-- MFS (R145): ILLEGAL for a number that R116 lacks, PRIV for one that drill code may not read. -/
def tineMfs (m : Mem) (k : Nat) (d a b : BitVec 5) (fn : BitVec 11) (x : Dev) : Dev :=
  x.issue m k (wordRR 0x30 d a b fn) (stateDrillRead fn.toNat) (b ≠ 0 || stateAccF fn.toNat = .absent)
    false fun r => .done x (r.next.wr d.toNat (stateRead x k fn.toNat r))
def execMfs (k : Nat) (d a b : BitVec 5) (fn : BitVec 11) (s : State) : Res := s.run fun m x => tineMfs m k d a b fn x

/-- MTS (R117, R125, R145): ILLEGAL for a number that R116 lacks, and in firmware context for a register that is read-only
there. -/
def tineMts (m : Mem) (k : Nat) (d a b : BitVec 5) (fn : BitVec 11) (x : Dev) : Dev :=
  x.issue m k (wordRR 0x31 d a b fn) false
    (d ≠ 0 || b ≠ 0 || stateAccF fn.toNat = .absent || (!(x.strand k).regs.drill && stateAccF fn.toNat = .ro)) true fun r =>
    .done x (stateWrite fn.toNat (r.rd a.toNat) r.next)
def execMts (k : Nat) (d a b : BitVec 5) (fn : BitVec 11) (s : State) : Res := s.run fun m x => tineMts m k d a b fn x

/-! ### System and service instructions (R145, R120, R121, R126) -/

/-- An OP 0x32 instruction. -/
def Dev.sys (x : Dev) (m : Mem) (k fn : Nat) (d a b : BitVec 5) (drillOk illegal : Bool) (body : Regs → IRes) : Dev :=
  x.issue m k (wordRR 0x32 d a b (BitVec.ofNat 11 fn)) drillOk illegal true body

/-- ERET (R145, R146). -/
def tineEret (m : Mem) (k : Nat) (d a b : BitVec 5) (x : Dev) : Dev :=
  x.sys m k 0x001 d a b false (d ≠ 0 || a ≠ 0 || b ≠ 0) fun r =>
    .done x { r with pc := pcOf r.epc.toNat, drill := r.ectx, inex := false }
def execEret (k : Nat) (d a b : BitVec 5) (s : State) : Res := s.run fun m x => tineEret m k d a b x

/-- The registers a drill starts with (R120): g1 to g4 pass, g5 to g31 and the wide registers are 0. -/
def Regs.enterDrill (r : Regs) (t : Ticket) : Regs :=
  { r with dcode := t.dcode, dlen := t.dlen, workid := t.workid, wvoid := false, g := r.g.filter (fun e => e.1 < 5), w := [],
           drill := true, pc := pcOf t.dcode.toNat }

/-- A tine discards the cached instructions at addresses that `p` admits. -/
def Dev.uncache (x : Dev) (k : Nat) (p : Nat → Bool) : Dev :=
  x.modTine (x.homeOf k).1 fun t => { t with icache := t.icache.filter fun e => !p e.1 }

/-- DENTER (R120, R121, R241): TICKET unless g[A] is an unused ticket issued to this strand. -/
def tineDenter (m : Mem) (k : Nat) (d a b : BitVec 5) (x : Dev) : Dev :=
  x.sys m k 0x002 d a b false (d ≠ 0 || b ≠ 0) fun r =>
    let v := r.rd a.toNat
    match tfind x.tine.tickets v.toNat with
    | some t =>
      if t.strand = k && !t.used then
        .after { x with tine := { x.tine with tickets := tput x.tine.tickets v.toNat { t with used := true } } }
          (r.enterDrill t) fun x => x.uncache k fun a => t.dcode.toNat ≤ a && a < t.dcode.toNat + 1024
      else .exc .ticket v
    | none => .exc .ticket v
def execDenter (k : Nat) (d a b : BitVec 5) (s : State) : Res := s.run fun m x => tineDenter m k d a b x

/-- DEXIT (R126): ILLEGAL in firmware context. -/
def tineDexit (m : Mem) (k : Nat) (d a b : BitVec 5) (x : Dev) : Dev :=
  x.sys m k 0x003 d a b true (d ≠ 0 || a ≠ 0 || b ≠ 0 || !(x.strand k).regs.drill) fun r =>
    .done x { r with drill := false, pc := pcOf r.dret.toNat }
def execDexit (k : Nat) (d a b : BitVec 5) (s : State) : Res := s.run fun m x => tineDexit m k d a b x

/-- HALT (R145): the strand stops at the next instruction with RUN cleared. -/
def tineHalt (m : Mem) (k : Nat) (d a b : BitVec 5) (x : Dev) : Dev :=
  x.sys m k 0x004 d a b false (d ≠ 0 || a ≠ 0 || b ≠ 0) fun r =>
    .after x r.next fun x => x.modStrand k fun s => { s with run := false, stopped := true }
def execHalt (k : Nat) (d a b : BitVec 5) (s : State) : Res := s.run fun m x => tineHalt m k d a b x

/-- YIELD (R145): the strand is passed over in the next step in which another context is ready. -/
def tineYield (m : Mem) (k : Nat) (d a b : BitVec 5) (x : Dev) : Dev :=
  x.sys m k 0x005 d a b true (d ≠ 0 || a ≠ 0 || b ≠ 0) fun r =>
    .after x r.next fun x => x.modTine (x.homeOf k).1 fun t => { t with yielded := some k }
def execYield (k : Nat) (d a b : BitVec 5) (s : State) : Res := s.run fun m x => tineYield m k d a b x

/-- IFLUSH (R108, R145): the tine's cached instructions are discarded, and the next fetch of this strand reads memory. -/
def tineIflush (m : Mem) (k : Nat) (d a b : BitVec 5) (x : Dev) : Dev :=
  x.sys m k 0x006 d a b false (d ≠ 0 || a ≠ 0 || b ≠ 0) fun r =>
    .after x r.next fun x => (x.uncache k fun _ => true).modStrand k fun s => { s with refetch := true }
def execIflush (k : Nat) (d a b : BitVec 5) (s : State) : Res := s.run fun m x => tineIflush m k d a b x

/-- WCALL and BRK (format S): both zero fields must be zero. -/
def Dev.service (x : Dev) (m : Mem) (k op : Nat) (z1 z2 : BitVec 5) (imm : BitVec 16) (c : Exc) : Dev :=
  x.issue m k (wordRI op z1 z2 imm) true (z1 ≠ 0 || z2 ≠ 0) true fun _ => .exc c (imm.zeroExtend 64)

/-- WCALL (R145). -/
def tineWcall (m : Mem) (k : Nat) (z1 z2 : BitVec 5) (imm : BitVec 16) (x : Dev) : Dev :=
  x.service m k 0x33 z1 z2 imm .wcall
def execWcall (k : Nat) (z1 z2 : BitVec 5) (imm : BitVec 16) (s : State) : Res :=
  s.run fun m x => tineWcall m k z1 z2 imm x

/-- BRK (R145). -/
def tineBrk (m : Mem) (k : Nat) (z1 z2 : BitVec 5) (imm : BitVec 16) (x : Dev) : Dev :=
  x.service m k 0x34 z1 z2 imm .brk
def execBrk (k : Nat) (z1 z2 : BitVec 5) (imm : BitVec 16) (s : State) : Res :=
  s.run fun m x => tineBrk m k z1 z2 imm x

/-- STALE_EXCEPTION (R127): a drill strand whose generation has become stale, at its next instruction boundary. -/
def execStaleException (k : Nat) (s : State) : Res := s.run fun _ x =>
  let r := (x.strand k).regs
  if x.canIssue k && (x.strand k).spec = [] && r.drill && x.staleIn r then x.raise k .stale r.workid else x

end Sys2Proof.Machine
end

