-- ==== Sys2Proof/Machine/Access.lean ====
section
/-!
DEFINITION. Accesses to memory regions, the handle checks of R140, and drill code run from its first instruction to its
end, as a RUN entry runs it (R238, R239).
-/

namespace Sys2Proof.Machine

/-- An access to a range of memory that the part lacks is recorded (R5); its bytes read 0 and its writes are discarded
(`Dev.ld`, `Dev.st`). -/
def Dev.noteAbsent (d : Dev) (master a n : Nat) : Dev := if d.absentIn a n then d.blame 0x0201 master a else d

/-- A master reads `n` bytes of a memory region (R5). -/
def Dev.rdMem (d : Dev) (m : Mem) (master a n : Nat) : List Byte × Dev := (d.ldBytes m a n, d.noteAbsent master a n)

/-- A master writes bytes to a memory region (R5). -/
def Dev.wrMem (d : Dev) (master a : Nat) (b : List Byte) : Dev := (d.noteAbsent master a b.length).stBytes a b

/-- The size a format H instruction selects; 0 for a reserved SZ (R139). -/
def handleSize (sz : BitVec 3) : Nat := if sz.toNat ≤ 3 then 2 ^ sz.toNat else if sz = 4 then 64 else 0

/-- HLD and HST are illegal with a reserved SZ, or with SZ 4 and SX set or a wide register of 8 or more (R139). -/
def handleIllegal (d : BitVec 5) (sz : BitVec 3) (sx : BitVec 1) : Bool :=
  handleSize sz = 0 || (sz = 4 && (sx ≠ 0 || 8 ≤ d.toNat))

/-- EVAL of a handle access that meets bad data: the address, as for the matching absolute load, but in drill context the
offset (R140, R159). -/
def handleEval (r : Regs) (a : BitVec 5) (sz : BitVec 3) (off : BitVec 9) (addr : Nat) : Word :=
  BitVec.ofNat 64 (if r.drill then (r.rd a.toNat).toNat + off.toNat * handleSize sz else addr)

/-- The checks of R140, in order: the address, or HANDLE or ALIGN with the offset. -/
def Dev.handleAddr (x : Dev) (r : Regs) (a : BitVec 5) (h sz : BitVec 3) (off : BitVec 9) (store : Bool) :
    Except (Exc × Word) Nat :=
  let size := handleSize sz
  let o := (r.rd a.toNat).toNat + off.toNat * size
  let ev := BitVec.ofNat 64 o
  let lim := tget 0 r.hlim h.toNat
  let addr := (tget 0 r.hbase h.toNat).toNat + o
  if !lim.getLsbD 63 || 2 ^ 64 ≤ o || lim.toNat % 2 ^ 48 < o + size then .error (.handle, ev)
  else if store && !lim.getLsbD 62 then .error (.handle, ev)
  else if !(x.region addr).isMemory then .error (.handle, ev)
  else if addr % size ≠ 0 then .error (.align, ev)
  else .ok addr

/-- Sign or zero extension of a loaded value of `n` bytes. -/
def extendLoad (n : Nat) (signed : Bool) (v : Nat) : Word :=
  if signed && n < 8 && v.testBit (8 * n - 1) then BitVec.ofNat 64 (v + 2 ^ 64 - 2 ^ (8 * n)) else BitVec.ofNat 64 v

/-- The registers after a load of `n` bytes into g[d], or w[d] for 64 bytes. -/
def Regs.loaded (r : Regs) (d : BitVec 5) (n : Nat) (signed : Bool) (b : List Byte) : Regs :=
  if n = 64 then r.wrW d.toNat (bytesWide b) else r.wr d.toNat (extendLoad n signed (leNat b))

/-- The bytes a store of `n` bytes writes. -/
def Regs.storeBytes (r : Regs) (d : BitVec 5) (n : Nat) : List Byte :=
  if n = 64 then wideBytes (r.rdW d.toNat) else leBytes n (r.rd d.toNat).toNat

/-! ### Drill code -/

/-- HLD in a RUN's drill code, whose slots name staged copies in memory: the load's data comes at once. -/
def drillHld (m : Mem) (k : Nat) (w : BitVec 32) (d a : BitVec 5) (h sz : BitVec 3) (sx : BitVec 1) (off : BitVec 9)
    (x : Dev) : Dev :=
  x.issue m k w true (handleIllegal d sz sx) false fun r =>
    match x.handleAddr r a h sz off false with
    | .error (c, ev) => .exc c ev
    | .ok addr =>
      if x.poisoned addr (handleSize sz) then .exc .memfault (handleEval r a sz off addr)
      else
        let (b, x) := x.rdMem m (tagStrand k) addr (handleSize sz)
        .done x (r.next.loaded d (handleSize sz) (sx = 1) b)

/-- HST in a RUN's drill code. -/
def drillHst (m : Mem) (k : Nat) (w : BitVec 32) (d a : BitVec 5) (h sz : BitVec 3) (sx : BitVec 1) (off : BitVec 9)
    (x : Dev) : Dev :=
  x.issue m k w true (handleIllegal d sz sx) false fun r =>
    match x.handleAddr r a h sz off true with
    | .error (c, ev) => .exc c ev
    | .ok addr => .done (x.wrMem (tagStrand k) addr (r.storeBytes d (handleSize sz))) r.next

/-- OP 0x00 (R133). -/
def drillRR (m : Mem) (k : Nat) (d a b : BitVec 5) (fn : Nat) : Option (Dev → Dev) :=
  match fn with
  | 0x00 => some (tineAdd m k d a b) | 0x01 => some (tineSub m k d a b) | 0x02 => some (tineAnd m k d a b)
  | 0x03 => some (tineOr m k d a b) | 0x04 => some (tineXor m k d a b) | 0x05 => some (tineAndn m k d a b)
  | 0x08 => some (tineShl m k d a b) | 0x09 => some (tineShr m k d a b) | 0x0A => some (tineSar m k d a b)
  | 0x0B => some (tineRor m k d a b) | 0x10 => some (tineMul m k d a b) | 0x11 => some (tineMulhu m k d a b)
  | 0x12 => some (tineDivu m k d a b) | 0x13 => some (tineRemu m k d a b) | 0x18 => some (tineSlt m k d a b)
  | 0x19 => some (tineSltu m k d a b) | 0x1A => some (tineMinu m k d a b) | 0x1B => some (tineMaxu m k d a b)
  | 0x20 => some (tineClz m k d a b) | 0x21 => some (tineCtz m k d a b) | 0x22 => some (tinePopc m k d a b)
  | 0x23 => some (tineBswap m k d a b) | _ => none

/-- OP 0x3C (R156 to R158). -/
def drillWide (m : Mem) (k : Nat) (d a b : BitVec 5) (fn : Nat) : Option (Dev → Dev) :=
  match fn with
  | 0x00 => some (tineWxor m k d a b) | 0x01 => some (tineWmov m k d a b) | 0x02 => some (tineWzero m k d a b)
  | 0x03 => some (tineGfmac m k d a b) | 0x04 => some (tineGfmul m k d a b) | 0x05 => some (tineWget m k d a b)
  | 0x06 => some (tineWput m k d a b) | 0x07 => some (tineGfinv m k d a b) | 0x08 => some (tineGfmuls m k d a b)
  | 0x10 => some (tineHs256i m k d a b) | 0x11 => some (tineHs256 m k d a b) | 0x12 => some (tineKeccak m k d a b)
  | 0x13 => some (tineWcmp m k d a b) | _ => none

/-- OP 0x32 (R145). -/
def drillSys (m : Mem) (k : Nat) (d a b : BitVec 5) (fn : Nat) : Option (Dev → Dev) :=
  match fn with
  | 1 => some (tineEret m k d a b) | 2 => some (tineDenter m k d a b) | 3 => some (tineDexit m k d a b)
  | 4 => some (tineHalt m k d a b) | 5 => some (tineYield m k d a b) | 6 => some (tineIflush m k d a b)
  | _ => none

/-- An instruction with no encoding of its own: it raises ILLEGAL. One that drill context bars raises PRIV, unless a
zero field or a reserved field makes it illegal. -/
def drillBarred (m : Mem) (k : Nat) (w : BitVec 32) (illegal : Bool) (x : Dev) : Dev :=
  x.issue m k w false illegal false fun r => .done x r.next

/-- The instructions of R128 by OP: what one word of drill code does. -/
def drillInsn (m : Mem) (k : Nat) (w : BitVec 32) : Dev → Dev :=
  let d := w.extractLsb' 21 5
  let a := w.extractLsb' 16 5
  let b := w.extractLsb' 11 5
  let fn := w.extractLsb' 0 11
  let imm := w.extractLsb' 0 16
  let j := w.extractLsb' 0 21
  let h := w.extractLsb' 13 3
  let sz := w.extractLsb' 10 3
  let sx := w.extractLsb' 9 1
  let off := w.extractLsb' 0 9
  let qfn := (w.extractLsb' 0 8).toNat
  let bad := drillBarred m k w true
  let barred (illegal : Bool) := drillBarred m k w illegal
  match (w.extractLsb' 26 6).toNat with
  | 0x00 => (drillRR m k d a b fn.toNat).getD bad
  | 0x01 => tineAddi m k d a imm
  | 0x02 => tineAndi m k d a imm
  | 0x03 => tineOri m k d a imm
  | 0x04 => tineXori m k d a imm
  | 0x05 => tineShli m k d a imm
  | 0x06 => tineShri m k d a imm
  | 0x07 => tineSari m k d a imm
  | 0x08 => tineSlti m k d a imm
  | 0x09 => tineSltiu m k d a imm
  | 0x0A => tineMovw m k d (w.extractLsb' 19 2) (w.extractLsb' 18 1) (w.extractLsb' 16 2) imm
  | 0x0B => tineAddpc m k d j
  | 0x10 => barred false
  | 0x11 => barred false
  | 0x12 => barred false
  | 0x13 => barred false
  | 0x14 => barred false
  | 0x15 => barred false
  | 0x16 => barred false
  | 0x18 => barred false
  | 0x19 => barred false
  | 0x1A => barred false
  | 0x1B => barred false
  | 0x1C => barred (decide (8 ≤ d.toNat))
  | 0x1D => barred (decide (8 ≤ d.toNat))
  | 0x1E => drillHld m k w d a h sz sx off
  | 0x1F => drillHst m k w d a h sz sx off
  | 0x20 => barred (decide (8 < fn.toNat || fn.toNat = 7))
  | 0x21 => tineFence m k d a b fn
  | 0x28 => tineBeq m k d a imm none
  | 0x29 => tineBne m k d a imm none
  | 0x2A => tineBlt m k d a imm none
  | 0x2B => tineBge m k d a imm none
  | 0x2C => tineBltu m k d a imm none
  | 0x2D => tineBgeu m k d a imm none
  | 0x2E => tineJal m k d j
  | 0x2F => tineJalr m k d a imm
  | 0x30 => tineMfs m k d a b fn
  | 0x31 => tineMts m k d a b fn
  | 0x32 => (drillSys m k d a b fn.toNat).getD bad
  | 0x33 => tineWcall m k d a imm
  | 0x34 => tineBrk m k d a imm
  | 0x38 => barred (decide (4 ≤ qfn || (qfn % 2 = 1 && 8 ≤ a.toNat) || (qfn / 2 % 2 = 0 && d ≠ 0)))
  | 0x39 => barred (decide (4 ≤ qfn || (qfn % 2 = 1 && 8 ≤ d.toNat) || (qfn / 2 % 2 = 0 && a ≠ 0)))
  | 0x3A => barred (decide (qfn ≠ 0 || a ≠ 0))
  | 0x3B => barred (decide (512 ≤ fn.toNat || bits fn.toNat 3 5 ≠ 0 ||
      (bit fn.toNat 8 && (fn.toNat % 8 ≠ 0 || b ≠ 0)) || (!bit fn.toNat 8 && !bit fn.toNat 2 && b ≠ 0)))
  | 0x3C => (drillWide m k d a b fn.toNat).getD bad
  | _ => bad

/-- The device with strand `k` alone to run, from registers `r`: drill code of a RUN, and a parse cell, run to their end within
one command, and nothing of this copy's strands but what that command takes from it remains. -/
def Dev.alone (x : Dev) (k : Nat) (r : Regs) : Dev :=
  Dev.setStrand { x with tine := { x.tine with strands := [], tines := [] } } k { regs := r, run := true, stopped := false }

/-- Runs a strand's drill code until it leaves drill context or `fuel` instructions have issued. -/
def drillRun (m : Mem) (k : Nat) : Nat → Dev → Dev
  | 0, x => x
  | n + 1, x =>
    if (x.strand k).regs.drill then drillRun m k n (drillInsn m k (x.ldWord m (x.strand k).regs.pc) x) else x

/-- A device with nothing but strand 0 in drill context at a 4-byte drill, which is the instruction `w`: where the checker tries
it. -/
def drillProbe (w : BitVec 32) : Dev :=
  let r : Regs := { drill := true, dbudget := 1, dlen := 4 }
  (Dev.setStrand {} 0 { regs := r, run := true, stopped := false }).setTine 0 { icache := [(0, w)] }

/-- The instruction word would raise ILLEGAL or PRIV in drill context (rule 0x08 of R243). -/
def insnBarred (w : BitVec 32) : Bool :=
  let c := ((drillInsn [] 0 w (drillProbe w)).strand 0).cause
  c = 1 || c = 2

/-- A predicted or computed target in the checker's sense: the offset in instructions of a branch or of JAL (rule 0x09). -/
def insnTarget (w : BitVec 32) : Option Int :=
  let op := (w.extractLsb' 26 6).toNat
  if 0x28 ≤ op ∧ op ≤ 0x2D then some (w.extractLsb' 0 16).toInt
  else if op = 0x2E then some (w.extractLsb' 0 21).toInt
  else none

/-- DEXIT or JAL: what the last instruction of the code must be (rule 0x09). -/
def insnEnds (w : BitVec 32) : Bool := (w.extractLsb' 26 6).toNat = 0x2E || w = 0xC8000003

/-- HLD or HST that names handle slot 4 to 7 (rule 0x0A). -/
def insnSlot (w : BitVec 32) : Bool :=
  let op := (w.extractLsb' 26 6).toNat
  (op = 0x1E || op = 0x1F) && 4 ≤ (w.extractLsb' 13 3).toNat

end Sys2Proof.Machine
end

