-- ==== Sys2Proof/Machine/Engine.lean ====
section
/-!
DEFINITION. What the engines share: the ranges they read and write, the commands they take from their queues, and the
completions they answer with (R148, R191, R359, R865).
-/

namespace Sys2Proof.Machine

/-- A storage target is present (R81). -/
def Dev.targetPresent (d : Dev) (t : Nat) : Bool := d.flag STORAGE_TGT_STATUS.PRESENT [t]

/-- The target and the offset of a storage window address. -/
def stgTarget (a : Nat) : Nat := (a - 0x100000000000) / 0x100000000
def stgOff (a : Nat) : Nat := (a - 0x100000000000) % 0x100000000

/-- The completion timeout of a read of a target, in ns (R598). -/
def Dev.cplTo (d : Dev) (t : Nat) : Nat := max 1 (d.fld STORAGE_PORT_CTL.CPL_TO [d.fld STORAGE_TGT_BIND.PORT [t]]) * 1000000

/-- A write to the storage window: posted toward the target's BAR, or discarded with a fault (R81, R189). -/
def Dev.stgWrite (d : Dev) (master a : Nat) (b : List Byte) : Dev :=
  let t := stgTarget a
  if !d.targetPresent t then d.blame 0x0201 master a
  else if d.flt.safe then d
  else
    let dest := (d.reg .STORAGE_TGT_BAR [t]).toNat + stgOff a
    d.postWrite { master := master, toHost := false, unit := t, addr := dest, data := b }

/-- A range from `a` up to `e` cut at multiples of `step`: first address and length of each piece, in order. The first
argument bounds how many there are. -/
def cuts (step : Nat) : Nat → Nat → Nat → List (Nat × Nat)
  | 0, _, _ => []
  | k + 1, a, e =>
    let b := min e ((a / step + 1) * step)
    if e ≤ a then [] else (a, b - a) :: cuts step k b e

/-- The pieces of a range of `n` bytes. An aperture is 128 MiB and a target's slot 4 GiB of its window (R80, R81). -/
def cutRange (step a n : Nat) : List (Nat × Nat) := cuts step (n / step + 2) a (a + n)

def aptSpan : Nat := 0x8000000
def slotSpan : Nat := 0x100000000

/-- An engine's read through one aperture: what the link brings, or 0 from an unbound aperture (R80) and for a function that
may issue no request (R284). -/
def Dev.engApt (d : Dev) (master a n : Nat) (ext : List Byte) : List Byte × Dev :=
  let zero := List.replicate n (0 : Byte)
  if !d.aptBound a then (zero, d.blame 0x0201 master a)
  else if !d.fnMaster (d.aptFunc a) then (zero, d.bmeDrop (d.aptFunc a))
  else (slice ext 0 n, d.aptAsk a n)

/-- An engine's read through one target's slot (R81). -/
def Dev.engSlot (d : Dev) (master a n : Nat) (ext : List Byte) : List Byte × Dev :=
  let t := stgTarget a
  if d.targetPresent t then (slice ext 0 n, d.transmit.emit (.storageRead t ((d.reg .STORAGE_TGT_BAR [t]).toNat + stgOff a) n))
  else (List.replicate n 0, d.blame 0x0201 master a)

/-- The pieces of an engine's read, in increasing address, each of its aperture or slot; `ext` is what the links bring of the
whole range from `a`. -/
def Dev.engParts (d : Dev) (read : Dev → Nat → Nat → List Byte → List Byte × Dev) (a : Nat) (ext : List Byte)
    (ps : List (Nat × Nat)) : List Byte × Dev :=
  ps.foldl (fun r p =>
    let x := read r.2 p.1 p.2 (ext.drop (p.1 - a))
    (r.1 ++ x.1, x.2)) ([], d)

/-- An engine reads `n` bytes. From a window the bytes are what the link brings; control space takes no access of more
than 8 bytes (R84), and no engine reads less (assumption 39). -/
def Dev.engRead (d : Dev) (m : Mem) (master a n : Nat) (ext : List Byte) : List Byte × Dev :=
  let zero := List.replicate n (0 : Byte)
  match d.region a with
  | .hole => (zero, d.blame 0x0201 master a)
  | .control => (zero, d.blame 0x0202 master a (a - 0x40000000000))
  | .host => d.engParts (fun d => d.engApt master) a ext (cutRange aptSpan a n)
  | .storage => d.engParts (fun d => d.engSlot master) a ext (cutRange slotSpan a n)
  | _ => d.rdMem m master a n

/-- An engine writes bytes, to a window in pieces of its apertures or slots. An access of control space that R84 performs is
`Dev.engPut`'s. -/
def Dev.engWrite (d : Dev) (master a : Nat) (b : List Byte) : Dev :=
  let part (p : Nat × Nat) : List Byte := slice b (p.1 - a) p.2
  match d.region a with
  | .hole => d.blame 0x0201 master a
  | .control => d.blame 0x0202 master a (a - 0x40000000000)
  | .host => (cutRange aptSpan a b.length).foldl (fun d p => d.aptWrite master p.1 (part p)) d
  | .storage => (cutRange slotSpan a b.length).foldl (fun d p => d.stgWrite master p.1 (part p)) d
  | _ => d.wrMem master a b

/-- An engine writes bytes to any address of R72 (R75): `ctl` is what a write of control space by a master does (a
register's offset, and 4 or 8 bytes). -/
def Dev.engPut (d : Dev) (ctl : Dev → Nat → Nat → List Byte → Dev) (master a : Nat) (b : List Byte) : Dev :=
  if d.region a = .control && ctlSized (a - 0x40000000000) b.length then ctl d master (a - 0x40000000000) b
  else d.engWrite master a b

/-- A stale item is ended (R359). -/
def Dev.discardStale (d : Dev) : Dev := d.count .TENANT_STALE_DISCARDS

/-- A message's 64 bytes. -/
def Msg.bytes (x : Msg) : List Byte := wideBytes x.data

/-- Answers a command with an 8-byte completion: OP, RESULT, CTAG, INFO (R490, R500, R618), after its writes (R191). -/
def Dev.answer8 (d : Dev) (cls inst : Nat) (x : Msg) (op result ctag info : Nat) : Dev :=
  let v := op + result * 2 ^ 8 + ctag * 2 ^ 16 + info % 2 ^ 32 * 2 ^ 32
  d.transmit.post (epKey cls inst) { workid := x.workid, sender := x.sender, data := BitVec.ofNat 512 v }

/-- Some byte of a message in the ranges given (first byte, length) is not 0. -/
def anyNonzero (b : List Byte) (rs : List (Nat × Nat)) : Bool := rs.any fun r => leAt b r.1 r.2 ≠ 0

/-- What an engine makes of the command at the front of its queue: nothing of this operation, a stale item, a command
with an operation code it does not know, or this command. A command with an unknown code is taken by whichever
operation looks at it first (assumption 14). -/
inductive Taken where
  | none
  | stale
  | unknown (x : Msg)
  | cmd (x : Msg)
  deriving DecidableEq, Repr

def Dev.takeCmd (d : Dev) (ep : Nat) (known : List Nat) (op : Nat) : Taken :=
  match d.queue ep with
  | [] => .none
  | x :: _ =>
    let o := leAt x.bytes 0 1
    if d.stale x.workid then .stale
    else if !known.contains o then .unknown x
    else if o = op then .cmd x else .none

end Sys2Proof.Machine
end

