-- ==== Sys2Proof/Machine/MlKem.lean ====
section
/-!
DEFINITION. ML-KEM-1024 of FIPS 203, which the key vault uses for enrolment (R481 to R484): polynomials of 256
coefficients modulo 3,329, as lists.
-/

namespace Sys2Proof.Machine

def kyQ : Nat := 3329

/-- The 7-bit reversal of an index. -/
def bitRev7 (i : Nat) : Nat := (List.range 7).foldl (fun a j => a + i / 2 ^ j % 2 * 2 ^ (6 - j)) 0

/-- Powers of 17 modulo q. -/
def kyPow : Nat → Nat
  | 0 => 1
  | n + 1 => 17 * kyPow n % kyQ

abbrev Poly := List Nat

def polyAdd (a b : Poly) : Poly := a.zipWith (fun x y => (x + y) % kyQ) b
def polySub (a b : Poly) : Poly := a.zipWith (fun x y => (x + kyQ - y % kyQ) % kyQ) b

/-- The NTT, `n` layers from block `i`. -/
def nttLayers : Nat → Nat → Poly → Poly
  | 0, _, f => f
  | n + 1, i, f =>
    let lo := f.take (f.length / 2)
    let t := (f.drop (f.length / 2)).map fun x => kyPow (bitRev7 i) * x % kyQ
    nttLayers n (2 * i) (polyAdd lo t) ++ nttLayers n (2 * i + 1) (polySub lo t)

def ntt (f : Poly) : Poly := nttLayers 7 1 f

/-- The inverse NTT but for its last factor. -/
def invNttLayers : Nat → Nat → Poly → Poly
  | 0, _, f => f
  | n + 1, i, f =>
    let a := invNttLayers n (2 * i + 1) (f.take (f.length / 2))
    let b := invNttLayers n (2 * i) (f.drop (f.length / 2))
    polyAdd a b ++ (polySub b a).map fun x => kyPow (bitRev7 i) * x % kyQ

def invNtt (f : Poly) : Poly := (invNttLayers 7 1 f).map fun x => 3303 * x % kyQ

/-- Products of pairs of coefficients, from pair `i`. -/
def mulPairs : Nat → Poly → Poly → Poly
  | i, a0 :: a1 :: a, b0 :: b1 :: b =>
    (a0 * b0 + a1 * b1 * kyPow (2 * bitRev7 i + 1)) % kyQ :: (a0 * b1 + a1 * b0) % kyQ :: mulPairs (i + 1) a b
  | _, _, _ => []

def mulNtt (a b : Poly) : Poly := mulPairs 0 a b

/-- The inner product of two vectors of polynomials in the NTT domain. -/
def dotNtt (a b : List Poly) : Poly := (a.zipWith mulNtt b).foldl polyAdd (List.replicate 256 0)

/-- Candidates of SampleNTT. -/
def sampleCandidates : List Byte → List Nat
  | b0 :: b1 :: b2 :: t =>
    (b0.toNat + 256 * (b1.toNat % 16)) :: (b1.toNat / 16 + 16 * b2.toNat) :: sampleCandidates t
  | _ => []

def sampleNtt (seed : List Byte) : Poly :=
  ((sampleCandidates (shake128 1344 seed)).filter fun x => x < kyQ).take 256

/-- SamplePolyCBD with eta 2 from 128 bytes. -/
def sampleCbd (l : List Byte) : Poly :=
  let v := leNat l
  (List.range 256).map fun i =>
    (bits v (4 * i) 1 + bits v (4 * i + 1) 1 + kyQ - bits v (4 * i + 2) 1 - bits v (4 * i + 3) 1) % kyQ

def kyPrf (s : List Byte) (n : Nat) : Poly := sampleCbd (shake256 128 (s ++ [BitVec.ofNat 8 n]))

def byteEncode (d : Nat) (f : Poly) : List Byte :=
  leBytes (32 * d) (f.foldr (fun x a => x % 2 ^ d + a * 2 ^ d) 0)

def byteDecode (d : Nat) (l : List Byte) : Poly :=
  let v := leNat l
  (List.range 256).map fun i => bits v (d * i) d

def compress (d x : Nat) : Nat := (x * 2 ^ (d + 1) + kyQ) / (2 * kyQ) % 2 ^ d
def decompress (d y : Nat) : Nat := (kyQ * y * 2 + 2 ^ d) / 2 ^ (d + 1)

/-- Entry (i, j) of the matrix of a seed. -/
def kyMatrix (rho : List Byte) (i j : Nat) : Poly := sampleNtt (rho ++ [BitVec.ofNat 8 j, BitVec.ofNat 8 i])

/-- `n` byte strings of length `k` from a byte string. -/
def splitBytes (k n : Nat) (l : List Byte) : List (List Byte) := (List.range n).map fun i => slice l (k * i) k

/-- The encapsulation key and the decapsulation key of the seeds d and z. -/
def mlKemKeyGen (d z : List Byte) : List Byte × List Byte :=
  let g := sha3_512 (d ++ [4])
  let rho := g.take 32
  let sigma := g.drop 32
  let s := (List.range 4).map fun i => ntt (kyPrf sigma i)
  let e := (List.range 4).map fun i => ntt (kyPrf sigma (4 + i))
  let t := (List.range 4).map fun i =>
    polyAdd (dotNtt ((List.range 4).map fun j => kyMatrix rho i j) s) ((e[i]?).getD [])
  let ek := t.flatMap (byteEncode 12) ++ rho
  (ek, s.flatMap (byteEncode 12) ++ ek ++ sha3_256 ek ++ z)

/-- K-PKE.Encrypt. -/
def kPkeEncrypt (ek m r : List Byte) : List Byte :=
  let t := (splitBytes 384 4 ek).map fun b => (byteDecode 12 b).map fun x => x % kyQ
  let rho := ek.drop 1536
  let y := (List.range 4).map fun i => ntt (kyPrf r i)
  let u := (List.range 4).map fun i =>
    polyAdd (invNtt (dotNtt ((List.range 4).map fun j => kyMatrix rho j i) y)) (kyPrf r (4 + i))
  let mu := (byteDecode 1 m).map (decompress 1)
  let v := polyAdd (polyAdd (invNtt (dotNtt t y)) (kyPrf r 8)) mu
  u.flatMap (fun p => byteEncode 11 (p.map (compress 11))) ++ byteEncode 5 (v.map (compress 5))

/-- K-PKE.Decrypt. -/
def kPkeDecrypt (dk c : List Byte) : List Byte :=
  let u := (splitBytes 352 4 c).map fun b => (byteDecode 11 b).map (decompress 11)
  let v := (byteDecode 5 (slice c 1408 160)).map (decompress 5)
  let s := (splitBytes 384 4 dk).map (byteDecode 12)
  byteEncode 1 ((polySub v (invNtt (dotNtt s (u.map ntt)))).map (compress 1))

/-- ML-KEM.Decaps: the shared secret. -/
def mlKemDecaps (dk c : List Byte) : List Byte :=
  let ek := slice dk 1536 1568
  let m := kPkeDecrypt (dk.take 1536) c
  let g := sha3_512 (m ++ slice dk 3104 32)
  if kPkeEncrypt ek m (g.drop 32) = c then g.take 32 else shake256 32 (slice dk 3136 32 ++ c)

end Sys2Proof.Machine
end

