-- ==== Sys2Proof/Machine/Vault.lean ====
section
/-!
DEFINITION. The key vault: derivation, the key cache, the estate root and the vault's requests (R470 to R495).
-/

namespace Sys2Proof.Machine

/-! ### Derivation (R472 to R474) -/

/-- Label bytes, output bytes, and whether the context holds the tenant, the object and the epoch. -/
structure Label where
  name : List Byte
  len : Nat
  tenant : Bool := false
  object : Bool := false
  epoch : Bool := false
  gen2 : Bool := false
  deriving DecidableEq, Repr

/-- The labels of R474. -/
def labelOf (code : Nat) : Option Label :=
  match code with
  | 0x01 => some { name := [0x54, 0x47, 0x4F, 0x33], len := 64, tenant := true, object := true, epoch := true }
  | 0x02 => some { name := [0x54, 0x47, 0x53, 0x33], len := 32, tenant := true, object := true, epoch := true }
  | 0x03 => some { name := [0x54, 0x47, 0x4C, 0x33], len := 96, tenant := true }
  | 0x04 => some { name := [0x54, 0x47, 0x52, 0x33], len := 32, tenant := true, epoch := true }
  | 0x05 => some { name := [0x54, 0x47, 0x43, 0x33], len := 16 }
  | 0x11 => some { name := [0x54, 0x47, 0x4F, 0x32], len := 64, tenant := true, object := true, gen2 := true }
  | _ => none

/-- The context of R473, with the fields a label makes zero; 22 bytes. -/
def keyContext (l : Label) (tenant object epoch : Nat) : List Byte :=
  beBytes 4 (if l.tenant then tenant else 0) ++ beBytes 16 (if l.object then object else 0) ++
    beBytes 2 (if l.epoch then epoch else 0)

/-- The KDF of R472 from a root. -/
def kdf (root : List Byte) (code tenant object epoch : Nat) : List Byte :=
  match labelOf code with
  | none => []
  | some l =>
    let ctx := if l.gen2 then (keyContext l tenant object epoch).take 20 else keyContext l tenant object epoch
    let tail := l.name ++ [0] ++ ctx ++ beBytes 4 (8 * l.len)
    (List.range (l.len / 16)).flatMap fun i => cmacAes root (beBytes 4 (i + 1) ++ tail)

/-- The check value of a root: bytes 0 to 7 of its TGC3 output, as DEVICE_VAULT_CHECK reads them. -/
def rootCheck (root : List Byte) : Nat := leAt (kdf root 0x05 0 0 0) 0 8

/-! ### The key cache (R492) -/

/-- The 23-byte tag. -/
def keyTag (code tenant object epoch : Nat) : List Byte :=
  match labelOf code with
  | none => []
  | some l => leBytes 1 code ++ keyContext l tenant object epoch

/-- The vault may derive: a root is installed for the estate of DEVICE_PLACE (R471). -/
def Dev.rootOk (d : Dev) : Bool := d.vault.root.isSome && d.vault.estate = d.fld DEVICE_PLACE.ESTATE

/-- Looks a key up, deriving it on a miss: the output and whether it hit. -/
def Dev.deriveKey (d : Dev) (code tenant object epoch : Nat) : (List Byte × Bool) × Dev :=
  let tag := keyTag code tenant object epoch
  let t := beNat tag
  let set := (crc32c tag).toNat % 8192
  let ways := tget [] d.vault.cache set
  let put (d : Dev) (w : List (Nat × List Byte)) : Dev :=
    { d with vault := { d.vault with cache := tset [] d.vault.cache set w } }
  match ways.find? fun e => e.1 = t with
  | some e => ((e.2, true), (put d (e :: ways.filter fun x => x.1 ≠ t)).count .DEVICE_VAULT_HITS)
  | none =>
    let out := kdf (d.vault.root.getD []) code tenant object epoch
    ((out, false), ((put d ((t, out) :: ways.take 7)).count .DEVICE_VAULT_MISSES).count .DEVICE_VAULT_DERIVES)

/-- The MAC key of a label's output (R489). -/
def macKey (code : Nat) (out : List Byte) : List Byte := if code = 0x03 then slice out 64 32 else slice out 0 32

/-! ### Cipher state the vault writes (R486, R496) -/

def cipherInit : CipherSt := {}
def Dev.ciph (d : Dev) (p : Nat) : CipherSt := tget cipherInit d.cipher p
def Dev.setCiph (d : Dev) (p : Nat) (c : CipherSt) : Dev := { d with cipher := tset cipherInit d.cipher p c }
def Dev.setSlot (d : Dev) (p slot : Nat) (k : KeySlot) : Dev :=
  let c := d.ciph p
  d.setCiph p { c with slots := tset .empty c.slots slot k }
def Dev.slot (d : Dev) (p slot : Nat) : KeySlot := tget .empty (d.ciph p).slots slot

/-- Every key slot of every plot, and the key cache, become empty (R486, R487). -/
def Dev.emptyKeys (d : Dev) : Dev :=
  let d := [0, 1, 2, 3].foldl (fun d p => d.setCiph p { d.ciph p with slots := [] }) d
  { d with vault := { d.vault with cache := [] } }

/-! ### Requests (R488 to R491) -/

/-- The vault's operation codes (R489). -/
def vaultOps : List Nat := [0x01, 0x02, 0x03, 0x10, 0x11, 0x12, 0x13, 0x20]

/-- The bytes of a request that an operation does not use. -/
def vaultUnused (op : Nat) : List (Nat × Nat) :=
  [(29, 3), (44, 4), (56, 8)] ++
  match op with
  | 0x01 => [(32, 8), (40, 4), (48, 8)]
  | 0x02 => [(26, 3)]
  | 0x03 => [(26, 3)]
  | 0x10 => [(1, 1), (4, 25), (40, 4), (48, 8)]
  | 0x11 => [(1, 1), (4, 25)]
  | 0x12 => [(1, 1), (4, 25), (48, 8)]
  | 0x13 => [(1, 1), (4, 25), (32, 8), (40, 4), (48, 8)]
  | _ => [(1, 1), (8, 21), (32, 8), (40, 4), (48, 8)]

/-- The memory ranges a request reads and writes: address and length, and whether it writes it. -/
def vaultRanges (op : Nat) (b : List Byte) : List (Nat × Nat × Bool) :=
  let a := leAt b 32 8
  let n := leAt b 40 4
  let a2 := leAt b 48 8
  match op with
  | 0x02 => [(a, n, false), (a2, 32, true)]
  | 0x03 => [(a, n, false), (a2, 32, false)]
  | 0x10 => [(a, 1568, true)]
  | 0x11 => [(a, n, false), (a2, 96, true)]
  | 0x12 => [(a, 96, false)]
  | _ => []

/-- The request's form (R489, R491): BAD_CMD, BAD_LABEL or BAD_ADDR, asked in this order (assumption 15). -/
def Dev.vaultForm (d : Dev) (op : Nat) (b : List Byte) : Nat :=
  let label := leAt b 1 1
  let n := leAt b 40 4
  let mac := op = 0x02 || op = 0x03
  if anyNonzero b (vaultUnused op) then 3
  else if op = 0x01 && (2047 < leAt b 26 2 || 3 < leAt b 28 1) then 3
  else if mac && (n = 0 || 65536 < n) then 3
  else if op = 0x12 && n ≠ 96 then 3
  else if op = 0x01 && !([0x01, 0x03, 0x11].contains label) then 2
  else if mac && !([0x02, 0x03, 0x04].contains label) then 2
  else if (vaultRanges op b).any fun r => !d.inMemory r.1 r.2.1 then 4
  else 0

/-- Answers a request on its strand's completion endpoint. -/
def Dev.vaultAnswer (d : Dev) (x : Msg) (op result info : Nat) : Dev :=
  d.answer8 0x9 x.sender x op result (leAt x.bytes 2 2) info

/-- The key vault's owner tag does not exist: its reads name no master (R624). -/
def vaultTag : Nat := 0xFFFF

/-- Takes the request at the front if it is of operation `op`, tests it, and runs `body`, which answers with RESULT,
INFO and the device after. A result other than OK changes nothing (R491). -/
def Dev.vaultRun (d : Dev) (op : Nat) (body : Dev → List Byte → Nat × Nat × Dev) : Dev :=
  match d.takeCmd (epKey 0x8 0) vaultOps op with
  | .none => d
  | .stale => (d.pop (epKey 0x8 0)).discardStale
  | .unknown x => (d.pop (epKey 0x8 0)).vaultAnswer x (leAt x.bytes 0 1) 3 0
  | .cmd x =>
    let b := x.bytes
    let d := d.pop (epKey 0x8 0)
    let bad := (vaultRanges op b).find? fun r => !r.2.2 && d.poisoned r.1 r.2.1
    let form := d.vaultForm op b
    if d.flt.safe then d
    else if form ≠ 0 then d.vaultAnswer x op form 0
    else
      match bad with
      | some r => (d.report { code := 0x0306, kind := 12, unit := 19, addr := r.1, detail := 9 }).vaultAnswer x op 9 0
      | none =>
        let (result, info, d') := body d b
        (if result = 0 then d' else d).vaultAnswer x op result info

/-- DERIVE (R489): the label's XTS key goes into a slot of a plot. -/
def execDerive (s : State) : Res := s.run fun _ d => d.vaultRun 0x01 fun d b =>
  let p := leAt b 28 1
  let label := leAt b 1 1
  if !d.rootOk then (1, 0, d)
  else if d.gatedBlock p 1 then (10, 0, d)
  else
    let ((out, hit), d) := d.deriveKey label (leAt b 4 4) (leAt b 8 16) (leAt b 24 2)
    let k := out.take 64
    (0, b2n hit, d.setSlot p (leAt b 26 2) (if label = 0x11 then .xts2 k else .xts3 k))

/-- The MAC a request asks for. -/
def Dev.vaultMac (d : Dev) (m : Mem) (b : List Byte) : List Byte × Dev :=
  let label := leAt b 1 1
  let ((out, _), d) := d.deriveKey label (leAt b 4 4) (leAt b 8 16) (leAt b 24 2)
  let (msg, d) := d.rdMem m vaultTag (leAt b 32 8) (leAt b 40 4)
  (hmac256 (macKey label out) msg, d)

/-- MAC (R489). -/
def execMac (s : State) : Res := s.run fun m d => d.vaultRun 0x02 fun d b =>
  if !d.rootOk then (1, 0, d)
  else
    let (mac, d) := d.vaultMac m b
    (0, 0, d.wrMem vaultTag (leAt b 48 8) mac)

/-- MAC_CHECK (R489). -/
def execMacCheck (s : State) : Res := s.run fun m d => d.vaultRun 0x03 fun d b =>
  if !d.rootOk then (1, 0, d)
  else
    let (mac, d) := d.vaultMac m b
    let (want, d) := d.rdMem m vaultTag (leAt b 48 8) 32
    (0, b2n (decide (mac = want)), d)

/-- The device's enrolment key pair (R470, R481). -/
def enrolKeys : List Byte × List Byte := mlKemKeyGen (leBytes 32 Config.enrolD.toNat) (leBytes 32 Config.enrolZ.toNat)

def deviceKeyBytes : List Byte := leBytes 32 Config.deviceKey.toNat

/-- What DEVICE_VAULT_EKDIG word `n` reads (R481, R514). -/
def ekDigest (n : Nat) : Word := BitVec.ofNat 64 (leAt (sha256 enrolKeys.1) (8 * n) 8)

/-- EXPORT_EK (R481, R489). -/
def execExportEk (s : State) : Res := s.run fun _ d => d.vaultRun 0x10 fun d b =>
  (0, 0, d.wrMem vaultTag (leAt b 32 8) enrolKeys.1)

/-- Installs a root, or finds the same one installed (R486): RESULT, whether it was installed, and the device. -/
def Dev.installRoot (d : Dev) (root : List Byte) (estate : Nat) (provisioned : Bool) : Nat × Bool × Dev :=
  match d.vault.root with
  | some old => if rootCheck old = rootCheck root && d.vault.estate = estate then (0, false, d) else (7, false, d)
  | none =>
    let d := { d with vault := { d.vault with root := some root, estate := estate } }
    let d := ((d.setFld DEVICE_VAULT_STATUS.ROOT 1).setFld DEVICE_VAULT_STATUS.ESTATE estate).setFld
      DEVICE_VAULT_STATUS.PROVISIONED (b2n provisioned)
    (0, true, d.setReg .DEVICE_VAULT_CHECK (BitVec.ofNat 64 (rootCheck root)))

/-- The flash record of R485. -/
def flashRecord (root : List Byte) (estate : Nat) : List Byte :=
  [0x54, 0x47, 0x46, 0x33] ++ leBytes 2 1 ++ leBytes 2 estate ++ (kdf root 0x05 0 0 0).take 8 ++
    kwWrap deviceKeyBytes root ++ leBytes 8 Config.deviceSerial.toNat ++ List.replicate 32 0

/-- PROVISION (R483, R484, R486). -/
def execProvision (s : State) : Res := s.run fun m d => d.vaultRun 0x11 fun d b =>
  if d.flag DEVICE_PLACE.LOCK then (8, 0, d)
  else
    let (x, d) := d.rdMem m vaultTag (leAt b 32 8) (leAt b 40 4)
    if leAt b 40 4 ≠ 1624 || x.take 4 ≠ [0x54, 0x47, 0x4B, 0x33] || leAt x 4 2 ≠ 1 then (5, 0, d)
    else
      match kwUnwrap (mlKemDecaps enrolKeys.2 (slice x 16 1568)) (slice x 1584 40) with
      | none => (5, 0, d)
      | some root =>
        if rootCheck root ≠ leAt x 8 8 then (5, 0, d)
        else
          let (r, fresh, d) := d.installRoot root (leAt x 6 2) true
          (r, 0, if fresh then (d.count .DEVICE_VAULT_DERIVES).wrMem vaultTag (leAt b 48 8) (flashRecord root (leAt x 6 2))
            else d)

/-- LOAD_ROOT (R485, R486). -/
def execLoadRoot (s : State) : Res := s.run fun m d => d.vaultRun 0x12 fun d b =>
  if d.flag DEVICE_PLACE.LOCK then (8, 0, d)
  else
    let (x, d) := d.rdMem m vaultTag (leAt b 32 8) 96
    match kwUnwrap deviceKeyBytes (slice x 16 40) with
    | none => (6, 0, d)
    | some root =>
      if rootCheck root ≠ leAt x 8 8 then (6, 0, d)
      else
        let (r, fresh, d) := d.installRoot root (leAt x 6 2) false
        (r, 0, if fresh then d.count .DEVICE_VAULT_DERIVES else d)

/-- The root leaves the vault (R486). -/
def Dev.clearRoot (d : Dev) : Dev :=
  let d := { d with vault := { d.vault with root := none, estate := 0 } }
  let d := ((d.setFld DEVICE_VAULT_STATUS.ROOT 0).setFld DEVICE_VAULT_STATUS.ESTATE 0).setFld
    DEVICE_VAULT_STATUS.PROVISIONED 0
  (d.setReg .DEVICE_VAULT_CHECK 0).emptyKeys

/-- CLEAR_ROOT (R486). -/
def execClearRoot (s : State) : Res := s.run fun _ d => d.vaultRun 0x13 fun d _ =>
  if d.flag DEVICE_PLACE.LOCK then (8, 0, d) else (0, 0, d.clearRoot)

/-- The tenant in a cache tag: bytes 1 to 4 of 23. -/
def tagTenant (t : Nat) : Nat := bits t (8 * 18) 32

/-- FLUSH (R489): the tenant's cache entries, or every entry. -/
def execFlush (s : State) : Res := s.run fun _ d => d.vaultRun 0x20 fun d b =>
  let t := leAt b 4 4
  let goes (e : Nat × List Byte) : Bool := t = 0xFFFFFFFF || tagTenant e.1 = t
  let n := (d.vault.cache.map fun s => (s.2.filter goes).length).foldl (· + ·) 0
  let cache := (d.vault.cache.map fun s => (s.1, s.2.filter fun e => !goes e)).filter fun s => s.2 ≠ []
  (0, n, { d with vault := { d.vault with cache := cache } })

/-- VAULT_CLR (R514): a write of DEVICE_VAULT_CLR. -/
def execVaultClr (master size : Nat) (value : Word) (s : State) : Res := s.run fun _ d =>
  d.clrWrite .DEVICE_VAULT_CLR [] ⟨master, size, 0, value⟩

end Sys2Proof.Machine
end

