-- ==== Sys2Proof/Machine/Cipher.lean ====
section
/-!
DEFINITION. The cipher schedulers: key slots, cipher commands, chaining to the fold units, and the release buffer
(R476 to R480, R496 to R515).
-/

namespace Sys2Proof.Machine

/-! ### Units and tweaks (R476 to R479) -/

/-- Bytes `[o, o + n)` of data in data units of `size` bytes, each with the tweak number of its place. -/
def xtsUnits (f : List Byte → List Byte → List Byte) (size : Nat) : Nat → Nat → List Byte → List Byte
  | 0, _, _ => []
  | n + 1, tweak, l => f (leBytes 16 tweak) (slice l 0 size) ++ xtsUnits f size n (tweak + 1) (l.drop size)

/-- Generation-3 encryption and decryption of units from tweak number `t`, under 64 bytes of key. -/
def gen3Enc (key : List Byte) (t : Nat) (l : List Byte) : List Byte :=
  xtsUnits (fun tw u => xtsEnc (key.take 32) (slice key 32 32) tw u) 4096 (l.length / 4096) t l
def gen3Dec (key : List Byte) (t : Nat) (l : List Byte) : List Byte :=
  xtsUnits (fun tw u => xtsDec (key.take 32) (slice key 32 32) tw u) 4096 (l.length / 4096) t l

/-- Generation-2 data units of 512 bytes (R479). -/
def gen2Enc (key : List Byte) (t : Nat) (l : List Byte) : List Byte :=
  xtsUnits (fun tw u => xtsEnc (key.take 32) (slice key 32 32) tw u) 512 (l.length / 512) t l
def gen2Dec (key : List Byte) (t : Nat) (l : List Byte) : List Byte :=
  xtsUnits (fun tw u => xtsDec (key.take 32) (slice key 32 32) tw u) 512 (l.length / 512) t l

/-- A whole grain under an object's key (R477), and a generation-2 grain (R479, R584). -/
def grainEnc (key : List Byte) (g : Nat) (l : List Byte) : List Byte := gen3Enc key (16 * g) l
def grainDec (key : List Byte) (g : Nat) (l : List Byte) : List Byte := gen3Dec key (16 * g) l
def oldGrainDec (key : List Byte) (g : Nat) (l : List Byte) : List Byte := gen2Dec key (128 * g) l

/-! ### Commands (R497, R501) -/

def cipherOps : List Nat := [0x01, 0x02, 0x03, 0x04, 0x05, 0x06, 0x07, 0x08, 0x09]

/-- The fields of a cipher command. -/
structure CiphCmd where
  op : Nat
  flags : Nat
  slot : Nat
  src : Nat
  dst : Nat
  len : Nat
  grain : Nat
  start : Nat
  relOff : Nat
  relLen : Nat
  deriving DecidableEq, Repr

def ciphCmd (b : List Byte) : CiphCmd :=
  { op := leAt b 0 1, flags := leAt b 1 1, slot := leAt b 4 2, src := leAt b 8 8, dst := leAt b 16 8,
    len := leAt b 24 4, grain := leAt b 28 4, start := leAt b 32 8, relOff := leAt b 40 4, relLen := leAt b 44 4 }

def CiphCmd.chain (c : CiphCmd) : Bool := bit c.flags 0
def CiphCmd.hold (c : CiphCmd) : Bool := bit c.flags 1

/-- The bytes of a command that an operation's row does not name. -/
def ciphUnused (op : Nat) : List (Nat × Nat) :=
  [(6, 2), (48, 16)] ++
  match op with
  | 0x01 => [(40, 8)]
  | 0x02 => []
  | 0x03 => [(28, 20)]
  | 0x04 => [(28, 20)]
  | 0x05 => [(28, 4), (40, 8)]
  | 0x06 => [(28, 4)]
  | 0x07 => [(16, 32)]
  | 0x08 => [(8, 40)]
  | _ => [(4, 28), (40, 8)]

/-- The flags an operation takes. -/
def ciphFlags (op : Nat) : Nat :=
  match op with
  | 0x01 => 1
  | 0x02 => 3
  | 0x06 => 2
  | _ => 0

/-- LENGTH, START, REL_OFF and REL_LEN are in their ranges. -/
def CiphCmd.inRange (c : CiphCmd) : Bool :=
  let rel := if c.hold then c.relOff + c.relLen ≤ c.len else c.relOff = 0 && c.relLen = 0
  match c.op with
  | 0x01 => c.len % 4096 = 0 && c.start < 16 && c.start + c.len / 4096 ≤ 16
  | 0x02 => c.len % 4096 = 0 && c.start < 16 && c.start + c.len / 4096 ≤ 16 && rel &&
      (!c.hold || (c.len = 65536 && c.start = 0))
  | 0x03 => c.len % 16 = 0 && 16 ≤ c.len && c.len ≤ 65536
  | 0x04 => c.len % 16 = 0 && 16 ≤ c.len && c.len ≤ 65536
  | 0x05 => c.len % 512 = 0 && 512 ≤ c.len && c.len ≤ 65536
  | 0x06 => c.len % 512 = 0 && 512 ≤ c.len && c.len ≤ 65536 && rel
  | 0x09 => c.start < 1024
  | _ => c.len = 0

/-- Bytes read from SRC and written to DST. -/
def CiphCmd.srcLen (c : CiphCmd) : Nat := if c.op = 0x07 then 32 else if 8 ≤ c.op then 0 else c.len
def CiphCmd.dstLen (c : CiphCmd) : Nat := if 7 ≤ c.op then 0 else if c.hold then c.relLen else c.len

/-- SRC and DST are aligned, lie in regions of R72, and do not overlap against R498. -/
def Dev.ciphAddrOk (d : Dev) (c : CiphCmd) : Bool :=
  if 8 ≤ c.op then true
  else
    c.src % 16 = 0 && d.inRegion c.src c.srcLen &&
      (c.op = 7 || (c.dst % 16 = 0 && d.inRegion c.dst c.dstLen &&
        (c.src = c.dst || c.src + c.srcLen ≤ c.dst || c.dst + c.dstLen ≤ c.src)))

/-- The slot holds a key of a kind the operation takes: the key, K1 alone for the AES operations. -/
def slotKey (op : Nat) (k : KeySlot) : Option (List Byte) :=
  match k with
  | .xts3 k => if op ≤ 2 then some k else if op ≤ 4 then some (k.take 32) else none
  | .plain k => if op = 3 || op = 4 then some k else none
  | .xts2 k => if op = 5 || op = 6 then some k else none
  | .empty => none

/-- The release entry an ID names (R505). -/
def relPlot (id : Nat) : Nat := bits id 8 2
def relEntry (id : Nat) : Nat := bits id 0 7
def Dev.release? (d : Dev) (id : Nat) : Option Release :=
  if 1024 ≤ id || bit id 7 then none else tfind (d.ciph (relPlot id)).releases (relEntry id)

/-- RESULT of a command's tests, in this order: BAD_CMD, BAD_ADDR, FALLOW of a failed compatibility core, BAD_KEY,
MEMFAULT (assumption 15). -/
def Dev.ciphTest (d : Dev) (p : Nat) (b : List Byte) : Nat :=
  let c := ciphCmd b
  if anyNonzero b (ciphUnused c.op) || c.flags &&& ciphFlags c.op ≠ c.flags || !c.inRange || 2047 < c.slot then 2
  else if c.op = 9 && (d.release? c.start).isNone then 2
  else if !d.ciphAddrOk c then 3
  else if (c.op = 5 || c.op = 6) && (d.ciph p).g2Down then 5
  else if c.op ≤ 6 && (slotKey c.op (d.slot p c.slot)).isNone then 1
  else if c.op ≤ 7 && d.poisoned c.src c.srcLen then 4
  else 0

/-- Answers a command (R500) and counts it. -/
def Dev.ciphAnswer (d : Dev) (p : Nat) (x : Msg) (result info : Nat) : Dev :=
  let b := x.bytes
  (d.count .CIPHER_CMDS [p]).answer8 0x7 p x (leAt b 0 1) result (leAt b 2 2) info

/-- Changes the first chain entry that `p` admits. -/
def modFirst {α : Type} (p : α → Bool) (f : α → α) : List α → List α
  | [] => []
  | x :: t => if p x then f x :: t else x :: modFirst p f t

/-- Marks the chain entry of a chained command that ended badly (R504). -/
def Dev.chainFail (d : Dev) (p : Nat) (b : List Byte) (result : Nat) : Dev :=
  let c := ciphCmd b
  if c.op ≠ 1 || !c.chain then d
  else
    let s := d.ciph p
    let mine (e : ChainEnt) : Bool := e.failed = none && e.dst = c.dst && e.len = c.len
    d.setCiph p { s with chain := modFirst mine (fun e => { e with failed := some (if result = 5 then 5 else 2) }) s.chain }

/-- Takes the command at the front of plot `p`'s queue if it is of operation `op`, tests it, and runs `body`. -/
def Dev.ciphRun (d : Dev) (p op : Nat) (body : Dev → Msg → CiphCmd → Dev) : Dev :=
  let ep := epKey 0x6 p
  let s := d.ciph p
  if s.job.isSome || s.waitRelease || d.flt.safe || (op ≤ 4 && s.coresDown.length = 16) then d
  else
    match d.takeCmd ep cipherOps op with
    | .none => d
    | .stale => ((d.chainFail p (((d.queue ep).headD {}).bytes) 2).pop ep).discardStale
    | .unknown x => (d.pop ep).ciphAnswer p x 2 0
    | .cmd x =>
      let r := d.ciphTest p x.bytes
      if r = 0 then body d x (ciphCmd x.bytes)
      else
        let d := if r = 4 then
            d.report { code := 0x0306, kind := 5, unit := p * 256 + 64, addr := (ciphCmd x.bytes).src, detail := 4 }
          else d
        ((d.pop ep).chainFail p x.bytes r).ciphAnswer p x r 0

/-- The key a command uses. -/
def Dev.ciphKey (d : Dev) (p : Nat) (c : CiphCmd) : List Byte := (slotKey c.op (d.slot p c.slot)).getD []

/-- A command that transforms its source into its destination, and ends. -/
def Dev.ciphMove (d : Dev) (m : Mem) (p : Nat) (x : Msg) (c : CiphCmd) (ext : List Byte) (f : List Byte → List Byte) : Dev :=
  let d := d.pop (epKey 0x6 p)
  let (b, d) := d.engRead m (tagCipher p) c.src c.len ext
  let d := d.engWrite (tagCipher p) c.dst (f b)
  let d := d.count (if c.op = 5 || c.op = 6 then .CIPHER_G2_BYTES else .CIPHER_BYTES) [p] c.len
  d.ciphAnswer p x 0 0

/-- XTS_ENC (R476, R477, R497, R502): one with CHAIN goes on unit by unit in CHAIN_UNIT_WRITTEN. -/
def execXtsEnc (p : Nat) (ext : List Byte) (s : State) : Res := s.run fun m d => d.ciphRun p 0x01 fun d x c =>
  let key := d.ciphKey p c
  if c.chain && c.len ≠ 0 then
    let d := d.pop (epKey 0x6 p)
    let st := d.ciph p
    let mine (e : ChainEnt) : Bool := !e.started && e.dst = c.dst && e.len = c.len
    d.setCiph p { st with job := some { msg := x, key := key }
                          chain := modFirst mine (fun e => { e with started := true }) st.chain }
  else d.ciphMove m p x c ext (gen3Enc key (16 * c.grain + c.start))

/-- CHAIN_UNIT_WRITTEN (R502): the next unit of the chained encryption is performed and marked written; after the last
one the command ends. A stale command ends here, its chain entry failed (R359). -/
def execChainUnitWritten (p : Nat) (ext : List Byte) (s : State) : Res := s.run fun m d =>
  let st := d.ciph p
  match st.job with
  | none => d
  | some j =>
    let c := ciphCmd j.msg.bytes
    let u := j.done
    if d.stale j.msg.workid then ((d.setCiph p { st with job := none }).chainFail p j.msg.bytes 2).discardStale
    else
    let (b, d) := d.engRead m (tagCipher p) (c.src + 4096 * u) 4096 ext
    let d := d.engWrite (tagCipher p) (c.dst + 4096 * u) (gen3Enc j.key (16 * c.grain + c.start + u) b)
    let mine (e : ChainEnt) : Bool := e.started && e.failed = none && e.dst = c.dst && e.len = c.len && e.written = u
    let chain := modFirst mine (fun e => { e with written := u + 1 }) st.chain
    let d := d.count .CIPHER_BYTES [p] 4096
    if (u + 1) * 4096 < c.len then d.setCiph p { st with job := some { j with done := u + 1 }, chain := chain }
    else (d.setCiph p { st with job := none, chain := chain }).ciphAnswer p j.msg 0 0

/-- A free release entry of a plot: the lowest (assumption 11). -/
def freeRelease (c : CipherSt) : Option Nat := (List.range 128).find? fun e => (tfind c.releases e).isNone

/-- A decryption with HOLD takes a release entry (R505), or waits for one. -/
def Dev.ciphHold (d : Dev) (m : Mem) (p : Nat) (x : Msg) (c : CiphCmd) (ext : List Byte) (f : List Byte → List Byte) : Dev :=
  let st := d.ciph p
  match freeRelease st with
  | none => d.setCiph p { st with waitRelease := true }
  | some e =>
    let d := d.pop (epKey 0x6 p)
    let (b, d) := d.engRead m (tagCipher p) c.src c.len ext
    let r : Release := { workid := x.workid, ctag := leAt x.bytes 2 2, plain := f b, dst := c.dst, off := c.relOff, len := c.relLen }
    let d := d.setCiph p { st with releases := tput st.releases e r, waitRelease := false }
    let d := (d.count (if c.op = 6 then .CIPHER_G2_BYTES else .CIPHER_BYTES) [p] c.len).count .DEVICE_SPEC_DECRYPT_EARLY
    d.ciphAnswer p x 0 (p * 256 + e)

/-- A decryption of either generation. -/
def Dev.ciphDecrypt (d : Dev) (m : Mem) (p : Nat) (x : Msg) (c : CiphCmd) (ext : List Byte) : Dev :=
  let key := d.ciphKey p c
  let f := if c.op = 6 then gen2Dec key c.start else gen3Dec key (16 * c.grain + c.start)
  if c.hold then d.ciphHold m p x c ext f else d.ciphMove m p x c ext f

/-- XTS_DEC (R497, R505). -/
def execXtsDec (p : Nat) (ext : List Byte) (s : State) : Res := s.run fun m d => d.ciphRun p 0x02 fun d x c =>
  d.ciphDecrypt m p x c ext

/-- G2_DEC (R479, R497, R505). -/
def execG2Dec (p : Nat) (ext : List Byte) (s : State) : Res := s.run fun m d => d.ciphRun p 0x06 fun d x c =>
  d.ciphDecrypt m p x c ext

/-- G2_ENC (R479, R497). -/
def execG2Enc (p : Nat) (ext : List Byte) (s : State) : Res := s.run fun m d => d.ciphRun p 0x05 fun d x c =>
  d.ciphMove m p x c ext (gen2Enc (d.ciphKey p c) c.start)

/-- Each 16-byte block by itself (R497). -/
def blockwise (f : List Byte → List Byte) (l : List Byte) : List Byte := (chunks 16 (l.length / 16) l).flatMap f

/-- AES_ENC (R497). -/
def execAesEnc (p : Nat) (ext : List Byte) (s : State) : Res := s.run fun m d => d.ciphRun p 0x03 fun d x c =>
  d.ciphMove m p x c ext (blockwise (aesEncWith (aesRoundKeys (d.ciphKey p c))))

/-- AES_DEC (R497). -/
def execAesDec (p : Nat) (ext : List Byte) (s : State) : Res := s.run fun m d => d.ciphRun p 0x04 fun d x c =>
  d.ciphMove m p x c ext (blockwise (aesDecWith (aesRoundKeys (d.ciphKey p c))))

/-- LOAD_PLAIN (R496, R497). -/
def execLoadPlain (p : Nat) (ext : List Byte) (s : State) : Res := s.run fun m d => d.ciphRun p 0x07 fun d x c =>
  let d := d.pop (epKey 0x6 p)
  let (b, d) := d.engRead m (tagCipher p) c.src 32 ext
  (d.setSlot p c.slot (.plain b)).ciphAnswer p x 0 0

/-- SLOT_CLEAR (R497). -/
def execSlotClear (p : Nat) (s : State) : Res := s.run fun _ d => d.ciphRun p 0x08 fun d x c =>
  ((d.pop (epKey 0x6 p)).setSlot p c.slot .empty).ciphAnswer p x 0 0

/-! ### The release buffer (R500, R505 to R509) -/

/-- Frees a release entry, with its further completion: OP 0x80 or 0x81. A stale item sends none (R359). -/
def Dev.releaseEnd (d : Dev) (id : Nat) (r : Release) (released : Bool) : Dev :=
  let p := relPlot id
  let c := d.ciph p
  let d := d.setCiph p { c with releases := tdel c.releases (relEntry id) }
  let d := d.count (if released then .CIPHER_RELEASED else .CIPHER_DISCARDED) [p]
  if d.stale r.workid then d.discardStale
  else d.answer8 0x7 p { workid := r.workid } (if released then 0x80 else 0x81) 0 r.ctag id

/-- RELEASE_ENTRY_RELEASE: the plaintext is written out (R506), unless its item is stale (R212). `ctl` is as `Dev.engPut`
has it. -/
def Dev.releaseEntry (d : Dev) (ctl : Dev → Nat → Nat → List Byte → Dev) (id : Nat) : Dev :=
  match d.release? id with
  | none => d
  | some r =>
    if d.stale r.workid then d.releaseEnd id r false
    else (d.engPut ctl (tagCipher (relPlot id)) r.dst (slice r.plain r.off r.len)).releaseEnd id r true

/-- A release entry is discarded (R507); `failed` after a verification that failed. -/
def Dev.discardEntry (d : Dev) (id : Nat) (failed : Bool) : Dev :=
  match d.release? id with
  | none => d
  | some r =>
    let d := if failed then d.count .DEVICE_SPEC_DECRYPT_DISCARD else d
    d.releaseEnd id r false

/-- DISCARD (R507). -/
def execDiscard (p : Nat) (s : State) : Res := s.run fun _ d => d.ciphRun p 0x09 fun d x c =>
  ((d.pop (epKey 0x6 p)).discardEntry c.start false).ciphAnswer p x 0 0

/-- A command that waits for a release entry takes one that is free (R505). -/
def Dev.releaseFreed (d : Dev) (m : Mem) (p : Nat) (ext : List Byte) : Dev :=
  let st := d.ciph p
  match d.queue (epKey 0x6 p) with
  | [] => d
  | x :: _ =>
    if !st.waitRelease || (freeRelease st).isNone then d
    else
      let d := d.setCiph p { st with waitRelease := false }
      if d.stale x.workid then (d.pop (epKey 0x6 p)).discardStale else d.ciphDecrypt m p x (ciphCmd x.bytes) ext

/-! ### Gating, failure and registers (R511 to R515) -/

/-- Pipelined core 0 to 15 of a plot, or 16, the compatibility core, fails. -/
def Dev.cipherCoreFail (d : Dev) (p core : Nat) : Dev :=
  let c := d.ciph p
  if d.plots ≤ p then d
  else if core < 16 then
    if c.coresDown.contains core then d
    else d.recovering fun d =>
      (d.setCiph p { c with coresDown := core :: c.coresDown }).report { code := 0x010B, kind := 5, unit := p * 256 + 64 + core }
  else if core = 16 && !c.g2Down then
    (d.setCiph p { c with g2Down := true }).report { code := 0x0305, kind := 5, unit := p * 256 + 64 + 16 }
  else d

/-- CIPHER_CORE_FAIL (R512). -/
def execCipherCoreFail (p core : Nat) (s : State) : Res := s.run fun _ d => d.cipherCoreFail p core

/-- What a gated cipher block does with the commands it holds at the cutoff of R511: each ends FALLOW, release entries
are discarded, chain entries fail and key slots clear. -/
def Dev.cipherCutoff (d : Dev) (p : Nat) : Dev :=
  let ep := epKey 0x6 p
  let st := d.ciph p
  let held := (st.job.map EncJob.msg).toList ++ d.queue ep
  let d := (d.setQueue ep []).setCiph p { st with job := none, waitRelease := false }
  let d := held.foldl (fun d x => if d.stale x.workid then d.discardStale else d.ciphAnswer p x 5 0) d
  let d := st.releases.foldl (fun d e => d.discardEntry (p * 256 + e.1) false) d
  let st := d.ciph p
  d.setCiph p { st with slots := [], chain := st.chain.map fun e => { e with failed := some (e.failed.getD 5) } }

/-- CIPHER_CLR (R515). -/
def execCipherClr (master p size : Nat) (value : Word) (s : State) : Res := s.run fun _ d =>
  d.pageWrite .CIPHER_CLR [p] size fun d => d.clrWrite .CIPHER_CLR [p] ⟨master, size, 0, value⟩

/-- CIPHER_STATUS (R515). -/
def Dev.cipherStatusView (d : Dev) (p : Nat) : Word :=
  let c := d.ciph p
  let q := (d.queue (epKey 0x6 p)).length
  BitVec.ofNat 64 (min q 64 + b2n c.job.isSome * 2 ^ 7 + (16 - c.coresDown.length) * 2 ^ 8 + b2n (!c.g2Down) * 2 ^ 13 +
    b2n (d.fallowBlock p 1) * 2 ^ 14 + c.releases.length * 2 ^ 15 + c.chain.length * 2 ^ 23 + c.slots.length * 2 ^ 30)

end Sys2Proof.Machine
end

