-- ==== Sys2Proof/Machine/TineQueue.lean ====
section
/-!
DEFINITION. Queue ports and waits of strands (R147 to R155): which endpoint a port reaches, when it has space or a
message, what a put does there, and what a strand that waits does once its condition holds.
-/

namespace Sys2Proof.Machine

/-! ### Ports (R147, R148) -/

/-- What a bound port reaches. -/
structure Port where
  cls : Nat
  inst : Nat
  put : Bool
  deriving DecidableEq, Repr

/-- Instances an endpoint class has. -/
def epCount (cls : Nat) : Nat :=
  match cls with
  | 0x0 => 512 | 0x1 => 64 | 0x2 => 256 | 0x3 => 256 | 0x4 => 16 | 0x5 => 16 | 0x6 => 4 | 0x7 => 4 | 0x8 => 1
  | 0x9 => 512 | 0xA => 4 | 0xB => 4 | 0xC => 1 | _ => 0

/-- A strand puts to this class, and gets from it (R148). Strands put completion messages to the dispatch endpoint
they take work from. -/
def epPuts (cls : Nat) : Bool := [0x0, 0x1, 0x2, 0x4, 0x6, 0x8, 0xA].contains cls
def epGets (cls : Nat) : Bool := [0x0, 0x1, 0x3, 0x5, 0x7, 0x9, 0xB, 0xC].contains cls

/-- The class carries 64-byte messages. -/
def epWide (cls : Nat) : Bool := !([0x0, 0x3, 0x7, 0x9].contains cls)

/-- What port `p` of strand `k` is bound to; `none` where a queue instruction raises QUEUE whatever its size (R150). -/
def portOf (k : Nat) (r : Regs) (p : Nat) : Option Port :=
  let q := (tget 0 r.qmap p).toNat
  let cls := bits q 12 4
  let inst := bits q 0 12
  let put := bit q 62
  if !bit q 63 || epCount cls ≤ inst then none
  else if put then (if epPuts cls then some ⟨cls, inst, true⟩ else none)
  else if !epGets cls || (cls = 0 && inst ≠ k) then none
  else some ⟨cls, inst, false⟩

/-- Depth of the queue behind a put endpoint; the TRD's commands wait in the plot's wait list. -/
def epDepth (cls : Nat) : Nat :=
  match cls with
  | 0x0 => 16 | 0x4 => 16 | 0x6 => 64 | 0x8 => 64 | 0xA => 64 | _ => 1

/-- The endpoint a put reaches: completion messages go to the ring engine's one queue. -/
def putKey (cls inst : Nat) : Nat := if cls = 1 then epKey 0x10 0 else epKey cls inst

/-- Free places behind a put endpoint (R609 for DMA). -/
def Dev.epFree (d : Dev) (cls inst : Nat) : Nat :=
  match cls with
  | 0x1 => 1
  | 0x2 => d.fld DMA_STATUS.SHEMPTY [inst / 64, inst % 64]
  | 0xA => 64 - (d.queue (epKey 0xE inst)).length - (d.queue (epKey 0xA inst)).length
  | _ => epDepth cls - (d.queue (epKey cls inst)).length

/-- The endpoint takes this message now. A chained encryption also needs a chain entry (R502). -/
def Dev.accepts (d : Dev) (cls inst : Nat) (x : Msg) : Bool :=
  d.epFree cls inst ≠ 0 &&
    !(cls = 6 && bits x.data.toNat 0 8 = 1 && bit x.data.toNat 8 && 64 ≤ (d.ciph inst).chain.length)

/-- A put port is ready, or a get port (R153). -/
def Dev.portReady (d : Dev) (q : Port) : Bool :=
  if q.put then !d.epFallow q.cls q.inst && d.epFree q.cls q.inst ≠ 0 else d.queue (epKey q.cls q.inst) ≠ []

/-- Loads a DMA channel's shadow set whole and sets GO (R609, R610). -/
def Dev.dmaLoad (d : Dev) (p c : Nat) (x : Msg) : Dev :=
  let d := (List.range 8).foldl (fun d i => d.setReg .DMA_SHADOW (BitVec.ofNat 64 (bits x.data.toNat (64 * i) 64)) [p, c, i]) d
  let d := (d.setFld DMA_STATUS.SHEMPTY 0 [p, c]).setFld DMA_CTL.GO 1 [p, c]
  { d with dma := tmod {} d.dma (64 * p + c) fun ch => { ch with shadowWid := x.workid } }

/-- A message arrives at an endpoint (R151, R502, R609). -/
def Dev.deliver (d : Dev) (cls inst : Nat) (x : Msg) : Dev :=
  if cls = 2 then d.dmaLoad (inst / 64) (inst % 64) x
  else
    let d := d.post (putKey cls inst) x
    if cls = 6 && bits x.data.toNat 0 8 = 1 && bit x.data.toNat 8 then
      let c := d.ciph inst
      let e : ChainEnt := { dst := bits x.data.toNat 128 64, len := bits x.data.toNat 192 32 }
      d.setCiph inst { c with chain := c.chain ++ [e] }
    else d

/-! ### The instructions (R149, R150, R152) -/

/-- The message QPUT sends: g[A], or w[A] if WIDE, with the strand's WORKID (R118). -/
def putMsg (k : Nat) (r : Regs) (a : BitVec 5) (wide : Bool) : Msg :=
  { workid := r.workid, sender := tagStrand k,
    data := if wide then r.rdW a.toNat else (r.rd a.toNat).zeroExtend 512 }

/-- What QPUT does where its port stands now. A stale message is discarded as it leaves the strand (R359, R360). -/
def tryPut (x : Dev) (k : Nat) (r : Regs) (d a : BitVec 5) (port fn : BitVec 8) : IRes :=
  let wide := fn.toNat % 2 = 1
  let ev := BitVec.ofNat 64 port.toNat
  let msg := putMsg k r a wide
  let ok (r : Regs) (v : Word) : Regs := if bit fn.toNat 1 then r.next.wr d.toNat v else r.next
  match portOf k r port.toNat with
  | none => .exc .queue ev
  | some q =>
    if !q.put || wide ≠ epWide q.cls then .exc .queue ev
    else if x.epFallow q.cls q.inst then .exc .fallow ev
    else if x.staleIn r then .done x.discardStale (ok r 1)
    else if x.accepts q.cls q.inst msg then .done (x.deliver q.cls q.inst msg) (ok r 1)
    else if bit fn.toNat 1 then .done x (ok r 0)
    else .wait (.qput d a port fn)

/-- What QGET does where its port stands now. With TRY and D and A the same register, its flag is written last (assumption
141). -/
def tryGet (x : Dev) (k : Nat) (r : Regs) (d a : BitVec 5) (port fn : BitVec 8) : IRes :=
  let wide := fn.toNat % 2 = 1
  let ev := BitVec.ofNat 64 port.toNat
  let ok (r : Regs) (v : Word) : Regs := if bit fn.toNat 1 then r.wr a.toNat v else r
  match portOf k r port.toNat with
  | none => .exc .queue ev
  | some q =>
    if q.put || wide ≠ epWide q.cls then .exc .queue ev
    else
      match x.queue (epKey q.cls q.inst) with
      | msg :: _ =>
        let r1 := if wide then r.next.wrW d.toNat msg.data else r.next.wr d.toNat (msg.data.truncate 64)
        .done (x.pop (epKey q.cls q.inst)) (ok r1 1)
      | [] =>
        if bit fn.toNat 1 then .done x (ok r.next 0)
        else if x.epFallow q.cls q.inst then .exc .fallow ev
        else .wait (.qget d a port fn)

/-- QPUT (R149). -/
def tineQput (m : Mem) (k : Nat) (d a : BitVec 5) (port fn : BitVec 8) (x : Dev) : Dev :=
  let bad := 4 ≤ fn.toNat || (bit fn.toNat 0 && 8 ≤ a.toNat) || (!bit fn.toNat 1 && d ≠ 0)
  x.issue m k (wordQ 0x38 d a port fn) false bad true fun r => tryPut x k r d a port fn
def execQput (k : Nat) (d a : BitVec 5) (port fn : BitVec 8) (s : State) : Res :=
  s.run fun m x => tineQput m k d a port fn x

/-- QGET (R149). -/
def tineQget (m : Mem) (k : Nat) (d a : BitVec 5) (port fn : BitVec 8) (x : Dev) : Dev :=
  let bad := 4 ≤ fn.toNat || (bit fn.toNat 0 && 8 ≤ d.toNat) || (!bit fn.toNat 1 && a ≠ 0)
  x.issue m k (wordQ 0x39 d a port fn) false bad true fun r => tryGet x k r d a port fn
def execQget (k : Nat) (d a : BitVec 5) (port fn : BitVec 8) (s : State) : Res :=
  s.run fun m x => tineQget m k d a port fn x

/-- QLEN (R149, R150): it has no WIDE, so the size of an endpoint's messages does not bear on it (assumption 137). The ring
engine takes completion messages without a stated limit, so the free places of that put port are a free value (assumption
3). -/
def tineQlen (m : Mem) (k : Nat) (d a : BitVec 5) (port fn : BitVec 8) (x : Dev) : Dev :=
  x.issue m k (wordQ 0x3A d a port fn) false (fn ≠ 0 || a ≠ 0) true fun r =>
    match portOf k r port.toNat with
    | none => .exc .queue (BitVec.ofNat 64 port.toNat)
    | some q =>
      if q.put && q.cls = 1 then
        let (v, x) := x.draw
        .done x (r.next.wr d.toNat v)
      else
        let n := if q.put then x.epFree q.cls q.inst else (x.queue (epKey q.cls q.inst)).length
        .done x (r.next.wr d.toNat (BitVec.ofNat 64 n))
def execQlen (k : Nat) (d a : BitVec 5) (port fn : BitVec 8) (s : State) : Res :=
  s.run fun m x => tineQlen m k d a port fn x

/-! ### WAIT (R153, R154) -/

/-- The ports of a group from after the one last returned, wrapping. -/
def waitOrder (group last : Nat) : List Nat :=
  let i := if last / 64 = group then last % 64 + 1 else 0
  (List.range 64).map fun j => 64 * group + (i + j) % 64

/-- Some port of the group that WAIT names is ready: the first after the port last returned. -/
def Dev.waitPort (x : Dev) (k : Nat) (r : Regs) (mask : Word) (group last : Nat) : Option Nat :=
  (waitOrder group last).find? fun p =>
    mask.getLsbD (p % 64) && ((portOf k r p).map x.portReady).getD false

/-- A port that WAIT names lies before a fallow block (R152). -/
def Dev.waitFallow (x : Dev) (k : Nat) (r : Regs) (mask : Word) (group : Nat) : Option Nat :=
  (waitOrder group 255).find? fun p =>
    mask.getLsbD (p % 64) && ((portOf k r p).map fun q => x.epFallow q.cls q.inst).getD false

/-- WAIT's port, its deadline, or neither. -/
inductive Woken where
  | port (p : Nat)
  | value (v : Word)
  | fallow (p : Nat)
  | asleep
  deriving DecidableEq, Repr

/-- How WAIT stands (R152 to R154). -/
def Dev.woken (x : Dev) (k : Nat) (r : Regs) (a b : BitVec 5) (fn : Nat) (last : Nat) : Woken :=
  let mask := r.rd a.toNat
  let now := BitVec.ofNat 64 x.now
  if bit fn 8 then (if mask.toNat ≤ x.now then .value now else .asleep)
  else
    match x.waitPort k r mask (fn % 4) last with
    | some p => .port p
    | none =>
      if bit fn 2 && (r.rd b.toNat).toNat ≤ x.now then .value 0x100
      else if mask = 0 && !bit fn 2 then .value 0x100
      else
        match x.waitFallow k r mask (fn % 4) with
        | some p => .fallow p
        | none => .asleep

/-- What WAIT does where things stand now. -/
def tryWait (x : Dev) (k : Nat) (r : Regs) (d a b : BitVec 5) (fn : BitVec 11) : IRes :=
  match x.woken k r a b fn.toNat (x.strand k).lastPort with
  | .port p => .done (x.modStrand k fun s => { s with lastPort := p }) (r.next.wr d.toNat (BitVec.ofNat 64 p))
  | .value v => .done x (r.next.wr d.toNat v)
  | .fallow p => .exc .fallow (BitVec.ofNat 64 p)
  | .asleep => .wait (.wait d a b fn)

/-- FN of WAIT: GROUP in [1:0], DL in [2], TIME in [8]; B names a register only with DL. -/
def waitIllegal (b : BitVec 5) (fn : Nat) : Bool :=
  512 ≤ fn || bits fn 3 5 ≠ 0 || (bit fn 8 && (fn % 8 ≠ 0 || b ≠ 0)) || (!bit fn 8 && !bit fn 2 && b ≠ 0)

/-- WAIT (R153). -/
def tineWait (m : Mem) (k : Nat) (d a b : BitVec 5) (fn : BitVec 11) (x : Dev) : Dev :=
  x.issue m k (wordRR 0x3B d a b fn) false (waitIllegal b fn.toNat) true fun r => tryWait x k r d a b fn
def execWait (k : Nat) (d a b : BitVec 5) (fn : BitVec 11) (s : State) : Res :=
  s.run fun m x => tineWait m k d a b fn x

/-! ### Waiting strands -/

/-- What the instruction a strand waits in would do now; `none` where it waits in no queue instruction. -/
def Dev.rewait (x : Dev) (k : Nat) : Option IRes :=
  let s := x.strand k
  match s.wait with
  | some (.qput d a port fn) => some (tryPut x k s.regs d a port fn)
  | some (.qget d a port fn) => some (tryGet x k s.regs d a port fn)
  | some (.wait d a b fn) => some (tryWait x k s.regs d a b fn)
  | _ => none

/-- QUEUE_WAIT_RESUME (R155): the condition of a waiting QPUT, QGET or WAIT holds, and it completes. -/
def execQueueWaitResume (k : Nat) (s : State) : Res := s.run fun _ x =>
  match x.rewait k with
  | some (.done y r) => y.finish k (.done y r)
  | some (.exc c ev) => x.raise k c ev
  | _ => x

/-- WAIT_DEADLINE (R153): TIME_MONO reaches a waiting strand's deadline or time. -/
def execWaitDeadline (k : Nat) (s : State) : Res := s.run fun _ x =>
  let st := x.strand k
  match st.wait with
  | some (.wait d a b fn) =>
    if bit fn.toNat 8 || bit fn.toNat 2 then
      let due := (st.regs.rd (if bit fn.toNat 8 then a.toNat else b.toNat)).toNat
      x.at due fun x => x.finish k (tryWait x k st.regs d a b fn)
    else x
  | _ => x

/-- QUEUE_FALLOW (R152): every strand that waits before a block that has become fallow raises FALLOW. -/
def Dev.queueFallow (x : Dev) : Dev :=
  x.tine.strands.foldl (fun x e =>
    match x.rewait e.1 with
    | some (.exc .fallow ev) => x.raise e.1 .fallow ev
    | _ => x) x

end Sys2Proof.Machine
end

