-- ==== Sys2Proof/Machine/Fold.lean ====
section
/-!
DEFINITION. The fold units: their commands, sheaf contexts and accumulators, tally state blocks, verification,
reconstruction, gating and failure (R443 to R469, R503, R504).
-/

namespace Sys2Proof.Machine

/-! ### Units -/

def Dev.foldU (d : Dev) (p u : Nat) : FoldU := tget {} d.fold (4 * p + u)
def Dev.setFoldU (d : Dev) (p u : Nat) (v : FoldU) : Dev := { d with fold := tset {} d.fold (4 * p + u) v }

/-- The unit as HOLDER and LOCK name it. -/
def foldName (p u : Nat) : Nat := 1 + 4 * p + u

/-- HOLDER or LOCK names a failed unit. -/
def Dev.foldNameFailed (d : Dev) (n : Nat) : Bool :=
  1 ≤ n && n ≤ 16 && d.flag FOLD_STATUS.FAILED [(n - 1) / 4, (n - 1) % 4]

def foldOps : List Nat := [0x01, 0x02, 0x03, 0x04, 0x05, 0x06, 0x07, 0x08]

/-- The result codes of R447. -/
def frOk : Nat := 0
def frMismatch : Nat := 1
def frDuplicate : Nat := 2
def frScxBusy : Nat := 3
def frClosed : Nat := 4
def frOrder : Nat := 5
def frEmpty : Nat := 6
def frUnsolvable : Nat := 7
def frBadCmd : Nat := 8
def frBadAddr : Nat := 9
def frMemfault : Nat := 10
def frFallow : Nat := 11

/-- `n` free bytes, eight to a draw. -/
def Dev.drawBytes (d : Dev) (n : Nat) : List Byte × Dev :=
  ((List.range n).map fun i => BitVec.ofNat 8 ((Config.freeWord (d.free + i / 8)).toNat / 2 ^ (8 * (i % 8))),
   { d with free := d.free + (n + 7) / 8 })

/-- Ends a command: its 64-byte completion (R446). -/
def Dev.foldAnswer (d : Dev) (p u : Nat) (x : Msg) (result r1 r2 : Nat) (digest : List Byte) : Dev :=
  let b := x.bytes
  let v := leBytes 1 (leAt b 0 1) ++ leBytes 1 result ++ slice b 2 2 ++ leBytes 4 0 ++ leBytes 8 r1 ++ leBytes 8 r2 ++ digest
  (d.count .FOLD_CMDS [p, u]).post (epKey 0x5 (4 * p + u)) { workid := x.workid, sender := x.sender, data := bytesWide v }

/-! ### Chaining (R445, R503, R504) -/

def ChainEnt.holds (e : ChainEnt) (a : Nat) : Bool := e.dst ≤ a && a < e.dst + e.len

/-- What a chained read of the 4 KiB at `a` meets, SRC naming the entry: it can be read, waits, or ends with a result. -/
inductive ChainSt where
  | ready | waits | failed (r : Nat)
  deriving DecidableEq, Repr

def Dev.chainUnit (d : Dev) (p src a : Nat) : ChainSt :=
  match (d.ciph p).chain.find? (·.holds src) with
  | none => .ready
  | some e =>
    let i := (a + 4095 - e.dst) / 4096
    if e.len / 4096 ≤ i || i < e.written then .ready
    else
      match e.failed with
      | some r => .failed (if r = 5 then frFallow else frBadCmd)
      | none => .waits

/-- Removes the first entry that `f` admits. -/
def dropFirst {α : Type} (f : α → Bool) : List α → List α
  | [] => []
  | x :: t => if f x then t else x :: dropFirst f t

/-- Frees the chain entry of a chained command. -/
def Dev.chainFree (d : Dev) (p : Nat) (x : Msg) (src : Nat) : Dev :=
  if bit (leAt x.bytes 1 1) 0 then
    let c := d.ciph p
    d.setCiph p { c with chain := dropFirst (·.holds src) c.chain }
  else d

/-! ### Sheaf contexts (R450 to R455) -/

/-- The shape and parity buffers an SCX holds. -/
def scxShape (b : List Byte) : Shape := { k := leAt b 0 1, m := leAt b 1 1, g := leAt b 2 1, hash := leAt b 3 1 }
def scxBufs (b : List Byte) : List Nat := (List.range (leAt b 1 1 + leAt b 2 1)).map fun i => leAt b (16 + 8 * i) 8

/-- Writes STATE and HOLDER. -/
def Dev.scxMark (d : Dev) (p u scx state holder : Nat) : Dev :=
  d.engWrite (tagFold p u) (scx + 4) (leBytes 1 state ++ leBytes 1 holder)
def Dev.scxDone (d : Dev) (p u scx done : Nat) : Dev := d.engWrite (tagFold p u) (scx + 8) (leBytes 8 done)

/-- Parks an accumulator (R455). -/
def Dev.foldPark (d : Dev) (p u : Nat) (a : FoldAcc) : Dev :=
  let d := (a.pbuf.zip a.grains).foldl (fun d e => d.engWrite (tagFold p u) e.1 e.2) d
  let d := (d.scxMark p u a.scx 2 0).count .FOLD_EVICT [p, u]
  let f := d.foldU p u
  d.setFoldU p u { f with accs := f.accs.filter fun x => x.slot ≠ a.slot }

/-- Makes room for one more SCX: the least recently used accumulator is parked when all four are in use. -/
def Dev.foldRoom (d : Dev) (p u : Nat) : Dev :=
  match (d.foldU p u).accs.reverse with
  | a :: _ => if (d.foldU p u).accs.length < 4 then d else d.foldPark p u a
  | [] => d

/-- Puts an accumulator first, as the most recently used. -/
def Dev.putAcc (d : Dev) (p u : Nat) (a : FoldAcc) : Dev :=
  let f := d.foldU p u
  d.setFoldU p u { f with accs := a :: f.accs.filter fun x => x.slot ≠ a.slot }

def Dev.acc? (d : Dev) (p u scx : Nat) : Option FoldAcc := (d.foldU p u).accs.find? fun a => a.scx = scx

/-- Takes the lowest free accumulator for an SCX: STATE becomes HELD. -/
def Dev.foldClaim (d : Dev) (p u scx : Nat) (b : List Byte) (done : Nat) (grains : List Grain) : Dev :=
  let d := d.foldRoom p u
  let used := (d.foldU p u).accs.map FoldAcc.slot
  let slot := ((List.range 4).find? fun i => !used.contains i).getD 0
  let s := scxShape b
  let a : FoldAcc := { slot := slot, scx := scx, k := s.k, m := s.m, g := s.g, hash := s.hash % 2, pbuf := scxBufs b,
                       done := done, grains := grains }
  (d.putAcc p u a).scxMark p u scx 1 (foldName p u)

def FoldAcc.shape (a : FoldAcc) : Shape := { k := a.k, m := a.m, g := a.g, hash := a.hash }

/-- Drops an accumulator. -/
def Dev.dropAcc (d : Dev) (p u scx : Nat) : Dev :=
  let f := d.foldU p u
  d.setFoldU p u { f with accs := f.accs.filter fun a => a.scx ≠ scx }

/-- A 64-byte-aligned block of memory. -/
def Dev.blockOk (d : Dev) (a n : Nat) : Bool := a % 64 = 0 && d.inMemory a n

/-- What INIT (`op` 1), FOLD (2) or CLOSE (3) meets at an SCX whose 256 bytes are `b` (R450, R451, R455): a result, 0
where it may go on. -/
def Dev.scxTest (d : Dev) (p u op scx : Nat) (b : List Byte) : Nat :=
  let s := scxShape b
  let state := leAt b 4 1
  let holder := leAt b 5 1
  let claimable := if !s.ok || 1 < s.hash then frBadCmd
    else if !(scxBufs b).all (d.blockOk · grainLen) then frBadAddr else frOk
  if state = 0 then (if op = 1 then claimable else frBadCmd)
  else if state = 1 then
    if holder = foldName p u then (if (d.acc? p u scx).isSome then frOk else if op = 1 then claimable else frBadCmd)
    else if d.foldNameFailed holder then (if op = 1 then claimable else frScxBusy)
    else if holder = 0 || 16 < holder then frBadCmd
    else frScxBusy
  else if state = 2 then
    if claimable ≠ frOk then claimable
    else if op ≠ 1 && (scxBufs b).any (d.poisoned · grainLen) then frMemfault else frOk
  else if state = 3 then (if op = 1 then claimable else frClosed)
  else frBadCmd

/-! ### Operand tests (R444, R447) -/

/-- Where the fields of an operation lie in its command; every other byte is reserved. -/
def foldUnused (op : Nat) : List (Nat × Nat) :=
  (4, 4) ::
  match op with
  | 0x01 => [(16, 48)]
  | 0x02 => [(25, 39)]
  | 0x03 => [(24, 40)]
  | 0x04 => [(21, 43)]
  | 0x05 => [(32, 32)]
  | 0x06 => [(16, 48)]
  | 0x07 => [(36, 4), (49, 3), (56, 8)]
  | _ => [(16, 48)]

/-- Reserved bytes, flags and values of a command. -/
def foldBadCmd (b : List Byte) : Bool :=
  let op := leAt b 0 1
  let flags := leAt b 1 1
  let chainOk := op = 2 || op = 7 || (op = 4 && leAt b 16 4 = 65536)
  anyNonzero b (foldUnused op) || 2 ≤ flags || (flags = 1 && !chainOk) ||
    (match op with
     | 0x04 => 16777216 < leAt b 16 4 || 2 ≤ leAt b 20 1
     | 0x05 => leAt b 28 4 = 0 || 65536 < leAt b 28 4
     | 0x07 =>
       let n := leAt b 40 8
       2 ≤ leAt b 48 1 || 2 ^ 32 < n || (if n = 0 then leAt b 32 4 ≠ 0 || leAt b 24 8 ≠ 0 else n ≤ leAt b 32 4)
     | _ => false)

/-- The blocks a command names, with their lengths: SCX, TSB or RCX and SRC and the others. -/
def foldBlocks (b : List Byte) : List (Nat × Nat) :=
  let a := leAt b 8 8
  match leAt b 0 1 with
  | 0x01 => [(a, 256)]
  | 0x02 => [(a, 256), (leAt b 16 8, grainLen)]
  | 0x03 => [(a, 256), (leAt b 16 8, 0)]
  | 0x04 => [(a, leAt b 16 4)]
  | 0x05 => [(a, 1152), (leAt b 16 8, 32 * leAt b 28 4)]
  | 0x06 => [(a, 1152)]
  | 0x07 =>
    let n := leAt b 40 8
    if n = 0 then [(a, grainLen), (leAt b 16 8, 32)]
    else [(a, grainLen), (leAt b 16 8, 32 * pathLen 40 (leAt b 32 4) n), (leAt b 24 8, 32)]
  | _ => [(a, 896)]

/-- Bytes a command reads before it acts, in which uncorrectable data ends it (SRC is tested as it is read). -/
def foldReads (b : List Byte) : List (Nat × Nat) :=
  match leAt b 0 1 with
  | 0x02 => [(leAt b 8 8, 256)]
  | 0x03 => [(leAt b 8 8, 256)]
  | 0x04 => []
  | 0x07 => (foldBlocks b).tail
  | _ => foldBlocks b

/-- BAD_CMD, BAD_ADDR and MEMFAULT of a command's own operands, in this order (assumption 15). -/
def Dev.foldTest (d : Dev) (b : List Byte) : Nat :=
  if foldBadCmd b then frBadCmd
  else if !(foldBlocks b).all (fun e => d.blockOk e.1 e.2) then frBadAddr
  else if (foldReads b).any (fun e => d.poisoned e.1 e.2) then frMemfault
  else frOk

/-- Ends a command with a result that undoes it (R448). What R446 gives for R1 and DIGEST is not stated where the
command never came to know it; it is then free (assumption 3). `r1` is the value where it is known. -/
def Dev.foldFail (d : Dev) (p u : Nat) (x : Msg) (result : Nat) (r1 : Option Nat) : Dev :=
  let b := x.bytes
  let op := leAt b 0 1
  let d := if result = frMemfault then
      let bad := (foldBlocks b).find? fun e => d.poisoned e.1 e.2
      d.report { code := 0x0306, kind := 5, unit := p * 256 + u, detail := frMemfault, addr := ((bad.map Prod.fst).getD (leAt b 8 8)) }
    else d
  let d := if op = 7 then d.discardEntry (leAt b 52 4) false else d
  let d := d.chainFree p x (leAt b (if op = 2 then 16 else 8) 8)
  let known := if op = 7 || op = 8 then some 0 else if op = 4 then some (leAt b 16 4) else r1
  let (v, d) := match known with
    | some v => (v, d)
    | none => let (w, d) := d.draw; (w.toNat, d)
  if op = 2 || op = 4 || op = 6 || op = 7 then
    let (g, d) := d.drawBytes 32
    d.foldAnswer p u x result v 0 g
  else d.foldAnswer p u x result v 0 (List.replicate 32 0)

/-- Ends a stale command: undone, with no completion (R449). -/
def Dev.foldStale (d : Dev) (p : Nat) (x : Msg) : Dev :=
  let b := x.bytes
  let op := leAt b 0 1
  let d := if op = 7 then d.discardEntry (leAt b 52 4) false else d
  (d.chainFree p x (leAt b (if op = 2 then 16 else 8) 8)).discardStale

/-- Blocks of memory that a unit reads are noted where the part lacks them (R5). -/
def Dev.noteReads (d : Dev) (master : Nat) (blocks : List (Nat × Nat)) : Dev :=
  blocks.foldl (fun d e => d.noteAbsent master e.1 e.2) d

/-- Takes the command at the front of the unit's queue if it is of operation `op`, tests its operands and runs `body`
with the command removed. -/
def Dev.foldRun (d : Dev) (p u op : Nat) (body : Dev → Msg → List Byte → Dev) : Dev :=
  let ep := epKey 0x4 (4 * p + u)
  if (d.foldU p u).job.isSome || d.flag FOLD_STATUS.FAILED [p, u] || d.flt.safe || 4 ≤ p || 4 ≤ u then d
  else
    match d.takeCmd ep foldOps op with
    | .none => d
    | .stale => (d.pop ep).foldStale p ((d.queue ep).headD {})
    | .unknown x => (d.pop ep).foldFail p u x frBadCmd none
    | .cmd x =>
      let d := d.pop ep
      let r := d.foldTest x.bytes
      if r = frOk then body (d.noteReads (tagFold p u) (foldReads x.bytes)) x x.bytes else d.foldFail p u x r none

/-- A unit reads memory. -/
def Dev.foldRead (d : Dev) (m : Mem) (p u a n : Nat) : List Byte × Dev := d.engRead m (tagFold p u) a n []

/-! ### INIT and CLOSE (R451, R453) -/

/-- INIT (R451). -/
def execInit (p u : Nat) (s : State) : Res := s.run fun m d => d.foldRun p u 1 fun d x c =>
  let scx := leAt c 8 8
  let b := d.ldBytes m scx 256
  let r := d.scxTest p u 1 scx b
  if r ≠ frOk then d.foldFail p u x r (some (leAt b 8 8))
  else
    let zeros (n : Nat) : List Grain := List.replicate n zeroGrain
    let d :=
      match d.acc? p u scx with
      | some a =>
        if leAt b 4 1 = 1 && leAt b 5 1 = foldName p u then
          d.putAcc p u { a with done := 0, grains := zeros (a.m + a.g) }
        else (d.dropAcc p u scx).foldClaim p u scx b 0 (zeros (leAt b 1 1 + leAt b 2 1))
      | none => d.foldClaim p u scx b 0 (zeros (leAt b 1 1 + leAt b 2 1))
    (d.scxDone p u scx 0).foldAnswer p u x frOk 0 0 (List.replicate 32 0)

/-- The accumulator a FOLD or CLOSE works on: the one the unit holds, or a parked one it claims and loads. -/
def Dev.foldLoad (d : Dev) (m : Mem) (p u scx : Nat) (b : List Byte) : Dev :=
  if leAt b 4 1 = 2 then
    (d.dropAcc p u scx).foldClaim p u scx b (leAt b 8 8) ((scxBufs b).map fun a => d.ldBytes m a grainLen)
  else d

/-- CLOSE (R453). -/
def execClose (p u : Nat) (s : State) : Res := s.run fun m d => d.foldRun p u 3 fun d x c =>
  let scx := leAt c 8 8
  let pdig := leAt c 16 8
  let b := d.ldBytes m scx 256
  let r := d.scxTest p u 3 scx b
  if r ≠ frOk then d.foldFail p u x r (some (leAt b 8 8))
  else
    let n := match d.acc? p u scx with
      | some a => a.m + a.g
      | none => leAt b 1 1 + leAt b 2 1
    if !d.inMemory pdig (32 * n) then d.foldFail p u x frBadAddr (some (leAt b 8 8))
    else
      let d := d.foldLoad m p u scx b
      match d.acc? p u scx with
      | none => d
      | some a =>
        let d := (a.pbuf.zip a.grains).foldl (fun d e => d.engWrite (tagFold p u) e.1 e.2) d
        let d := d.engWrite (tagFold p u) pdig (a.grains.flatMap (hashH a.hash))
        let d := ((d.dropAcc p u scx).scxMark p u scx 3 0).count .FOLD_BYTES [p, u] (grainLen * a.grains.length)
        (d.scxDone p u scx a.done).foldAnswer p u x frOk a.done 0 (List.replicate 32 0)

/-! ### FOLD, HASH and VERIFY (R444, R445, R452, R460, R461) -/

/-- FOLD with its grain read. -/
def Dev.foldGrain (d : Dev) (p u : Nat) (x : Msg) (data : List Byte) : Dev :=
  let c := x.bytes
  let scx := leAt c 8 8
  let pos := leAt c 24 1
  match d.acc? p u scx with
  | none => d
  | some a =>
    let done := a.done ||| 2 ^ pos
    let d := d.putAcc p u { a with done := done, grains := foldIn a.shape pos data a.grains }
    let d := ((d.scxMark p u scx 1 (foldName p u)).scxDone p u scx done).count .FOLD_BYTES [p, u] grainLen
    d.foldAnswer p u x frOk done 0 (hashH a.hash data)

/-- HASH with its bytes read. -/
def Dev.foldHash (d : Dev) (p u : Nat) (x : Msg) (data : List Byte) : Dev :=
  let c := x.bytes
  (d.count .FOLD_BYTES [p, u] data.length).foldAnswer p u x frOk (leAt c 16 4) 0 (hashH (leAt c 20 1) data)

/-- What a write of control space by a master does (R75): its offset and its bytes. The registers' own rules stand in
`CtlWrite.lean`, after every unit's, and a unit that may write there is given them. -/
abbrev CtlPut := Dev → Nat → Nat → List Byte → Dev

/-- VERIFY with its grain read: releases or discards the release entry it names (R461). -/
def Dev.foldVerify (d : Dev) (ctl : CtlPut) (m : Mem) (p u : Nat) (x : Msg) (data : List Byte) : Dev :=
  let c := x.bytes
  let hash := leAt c 48 1
  let n := leAt c 40 8
  let i := leAt c 32 4
  let dig := hashH hash data
  let check := leAt c 16 8
  let ok := if n = 0 then dig = d.ldBytes m check 32
    else
      let len := pathLen 40 i n
      verifyPath hash dig i n (digestList len (d.ldBytes m check (32 * len))) (d.ldBytes m (leAt c 24 8) 32)
  let d := d.count .FOLD_BYTES [p, u] grainLen
  if ok then (d.releaseEntry ctl (leAt c 52 4)).foldAnswer p u x frOk 1 0 dig
  else ((d.count .FOLD_MISMATCH [p, u]).discardEntry (leAt c 52 4) true).foldAnswer p u x frMismatch 0 0 dig

/-- The operation of a chained command, with its source read. -/
def Dev.foldFinish (d : Dev) (ctl : CtlPut) (m : Mem) (p u : Nat) (x : Msg) (data : List Byte) : Dev :=
  match leAt x.bytes 0 1 with
  | 0x02 => d.foldGrain p u x data
  | 0x04 => d.foldHash p u x data
  | _ => d.foldVerify ctl m p u x data

/-- Undoes the claim of a FOLD that ends early: its SCX is parked again, as it was (R448). -/
def Dev.foldUnclaim (d : Dev) (p u : Nat) (j : FoldJob) : Dev :=
  let scx := leAt j.msg.bytes 8 8
  if j.claimed then (d.dropAcc p u scx).scxMark p u scx 2 0 else d

/-- DONE of the accumulator that a FOLD works on. -/
def Dev.foldR1 (d : Dev) (p u : Nat) (x : Msg) : Option Nat :=
  if leAt x.bytes 0 1 = 2 then (d.acc? p u (leAt x.bytes 8 8)).map FoldAcc.done else none

/-- Reads the units of a chained source that are ready: at most `n` more. The command ends once it has them all, or
once it meets an entry marked failed or uncorrectable data; otherwise it waits. -/
def Dev.foldAbsorb (ctl : CtlPut) (m : Mem) (p u src : Nat) : Nat → FoldJob → Dev → Dev
  | 0, j, d =>
    (d.chainFree p j.msg src).foldFinish ctl m p u j.msg j.read
  | n + 1, j, d =>
    let a := src + j.read.length
    let endWith (r : Nat) : Dev :=
      let r1 := d.foldR1 p u j.msg
      (d.foldUnclaim p u j).foldFail p u j.msg r r1
    match d.chainUnit p src a with
    | .waits => let f := d.foldU p u; d.setFoldU p u { f with job := some j }
    | .failed r => endWith r
    | .ready =>
      if d.poisoned a 4096 then endWith frMemfault
      else
        let (b, d) := d.foldRead m p u a 4096
        Dev.foldAbsorb ctl m p u src n { j with read := j.read ++ b } d

/-- Reads a command's source and finishes it: with CHAIN as its units are marked written (R445), else at once. -/
def Dev.foldSource (d : Dev) (ctl : CtlPut) (m : Mem) (p u : Nat) (x : Msg) (claimed : Bool) (src len : Nat) : Dev :=
  if bit (leAt x.bytes 1 1) 0 then Dev.foldAbsorb ctl m p u src 16 { msg := x, claimed := claimed } d
  else if d.poisoned src len then
    let r1 := d.foldR1 p u x
    (d.foldUnclaim p u { msg := x, claimed := claimed }).foldFail p u x frMemfault r1
  else
    let (b, d) := d.foldRead m p u src len
    d.foldFinish ctl m p u x b

/-! ### Tally state blocks (R456 to R459) -/

/-- A unit may take the TSB's lock: it is free, its own, or a failed unit's. -/
def Dev.tsbFree (d : Dev) (p u lock : Nat) : Bool := lock = 0 || lock = foldName p u || d.foldNameFailed lock

/-- The pending node of height `h`. -/
def tsbSlot (b : List Byte) (h : Nat) : List Byte := slice b (64 + 32 * h) 32

/-- One leaf of R457: the slot that takes the node. -/
def tsbCarry (hash : Nat) (b : List Byte) (count : Nat) : Nat → Nat → List Byte → Nat × List Byte
  | 0, h, node => (h, node)
  | f + 1, h, node =>
    if bit count h then tsbCarry hash b count f (h + 1) (tallyNode hash (tsbSlot b h) node) else (h, node)

/-- A byte string with part of it replaced. -/
def putBytes (l : List Byte) (off : Nat) (v : List Byte) : List Byte := l.take off ++ v ++ l.drop (off + v.length)

/-- The TSB after leaves are appended. -/
def tsbAppend (b : List Byte) (digests : List (List Byte)) : List Byte :=
  digests.foldl (fun b d =>
    let hash := leAt b 8 1 % 2
    let count := leAt b 0 8
    let e := tsbCarry hash b count 33 0 (tallyLeaf hash d)
    putBytes (putBytes b (64 + 32 * e.1) e.2) 0 (leBytes 8 (count + 1))) b

/-- R458: the tally of a TSB. -/
def tsbTally (b : List Byte) : List Byte :=
  let hash := leAt b 8 1 % 2
  ((List.range 33).foldl (fun acc h =>
    if bit (leAt b 0 8) h then
      match acc with
      | none => some (tsbSlot b h)
      | some a => some (tallyNode hash (tsbSlot b h) a)
    else acc) none).getD []

/-- TALLY_APPEND or TALLY_FINAL with the lock taken; it is free again when the command ends. -/
def Dev.tallyRun (d : Dev) (m : Mem) (p u : Nat) (x : Msg) : Dev :=
  let c := x.bytes
  let tsb := leAt c 8 8
  let b := d.ldBytes m tsb 1152
  let count := leAt b 0 8
  let freed (d : Dev) : Dev := d.engWrite (tagFold p u) (tsb + 9) [0]
  if 2 ≤ leAt b 8 1 || 2 ^ 32 < count then (freed d).foldFail p u x frBadCmd (some count)
  else if leAt c 0 1 = 5 then
    let num := leAt c 28 4
    if leAt c 24 4 ≠ count || 2 ^ 32 < count + num then (freed d).foldFail p u x frOrder (some count)
    else
      let b' := tsbAppend b (digestList num (d.ldBytes m (leAt c 16 8) (32 * num)))
      let d := (d.engWrite (tagFold p u) (tsb + 64) (slice b' 64 1056)).engWrite (tagFold p u) tsb (slice b' 0 8)
      (freed d).foldAnswer p u x frOk (count + num) 0 (List.replicate 32 0)
  else if count = 0 then (freed d).foldFail p u x frEmpty (some 0)
  else (freed d).foldAnswer p u x frOk count 0 (tsbTally b)

/-- A tally command takes the lock, or waits for it. -/
def Dev.tallyStart (d : Dev) (m : Mem) (p u : Nat) (x : Msg) : Dev :=
  if d.tsbFree p u (d.ld m (leAt x.bytes 8 8 + 9)).toNat then d.tallyRun m p u x
  else
    let f := d.foldU p u
    d.setFoldU p u { f with job := some { msg := x, lock := true } }

/-- TALLY_APPEND (R457). -/
def execTallyAppend (p u : Nat) (s : State) : Res := s.run fun m d => d.foldRun p u 5 fun d x _ => d.tallyStart m p u x

/-- TALLY_FINAL (R458). -/
def execTallyFinal (p u : Nat) (s : State) : Res := s.run fun m d => d.foldRun p u 6 fun d x _ => d.tallyStart m p u x

/-- TSB_LOCK_FREE (R457): a unit that waits for a lock takes it once it is free. -/
def execTsbLockFree (p u : Nat) (s : State) : Res := s.run fun m d =>
  let f := d.foldU p u
  match f.job with
  | none => d
  | some j =>
    if !j.lock then d
    else if d.stale j.msg.workid then (d.setFoldU p u { f with job := none }).foldStale p j.msg
    else (d.setFoldU p u { f with job := none }).tallyStart m p u j.msg

/-! ### RECON (R462, R463) -/

/-- The fields of an RCX. -/
structure Rcx where
  shape : Shape
  kpresent : Nat
  avail : Nat
  target : Nat
  tally : Nat
  count : Nat
  first : Nat
  addr : Nat → Nat
  check : Nat → Nat

def rcxOf (b : List Byte) : Rcx :=
  { shape := scxShape b, kpresent := leAt b 4 1, avail := leAt b 8 16, target := leAt b 24 16, tally := leAt b 40 8,
    count := leAt b 48 8, first := leAt b 56 4, addr := fun q => leAt b (64 + 8 * q) 8,
    check := fun t => leAt b (736 + 8 * t) 8 }

/-- Targets in increasing position. -/
def Rcx.targets (r : Rcx) : List Nat := (List.range 84).filter fun q => bit r.target q

/-- BAD_CMD of R463. -/
def Rcx.bad (r : Rcx) : Bool :=
  let s := r.shape
  !s.ok || 1 < s.hash || r.kpresent = 0 || s.k < r.kpresent || r.avail &&& r.target ≠ 0 || 2 ^ 32 < r.count ||
    ((List.range 128).any fun q => (bit r.avail q || bit r.target q) && (s.w ≤ q || (r.kpresent ≤ q && q < s.k))) ||
    r.targets.length = 0 || 16 < r.targets.length ||
    r.targets.any (fun q => q < s.k && r.count ≤ r.first + q)

/-- Bytes of the check of the t-th target. -/
def Rcx.checkLen (r : Rcx) (q : Nat) : Nat := if q < r.shape.k then 32 * pathLen 40 (r.first + q) r.count else 32

/-- The positions whose grains a reconstruction reads: those R438's phases use. -/
def Rcx.used (r : Rcx) : List Nat :=
  let s := r.shape
  let get (q : Nat) : Option Grain := if bit r.avail q then some [0] else none
  let data := (List.range s.k).map fun j => if r.kpresent ≤ j then some [0] else get j
  let near := localRepair s 1 get data
  let groups := (List.range s.g).filter fun h =>
    r.targets.contains (s.k + s.m + h) || (List.range s.k).any fun j => s.inGroup h j && (data[j]?.join).isNone && (near[j]?.join).isSome
  let sv := survivors s get near
  let solve := r.targets.any fun q => (s.needs q).any fun j => (near[j]?.join).isNone
  let all := solve || r.targets.any fun q => s.k ≤ q && q < s.k + s.m
  (List.range s.w).filter fun q => bit r.avail q &&
    ((all && sv.contains q) || groups.any fun h => q = s.k + s.m + h || (q < s.k && s.inGroup h q))

/-- A rebuilt target verifies against its check (R463). -/
def Dev.reconVerifies (d : Dev) (m : Mem) (r : Rcx) (t q : Nat) (g : Grain) : Bool :=
  let dig := hashH r.shape.hash g
  let c := d.ldBytes m (r.check t) (r.checkLen q)
  if q < r.shape.k then
    verifyPath r.shape.hash dig (r.first + q) r.count (digestList (c.length / 32) c) (d.ldBytes m r.tally 32)
  else dig = c

/-- RECON (R463). -/
def execRecon (p u : Nat) (s : State) : Res := s.run fun m d => d.foldRun p u 8 fun d x c =>
  let r := rcxOf (d.ldBytes m (leAt c 8 8) 896)
  if r.bad then d.foldFail p u x frBadCmd none
  else
    let ts := r.targets
    let grains := (List.range 84).filter fun q => bit r.avail q || bit r.target q
    let blocks := (grains.map fun q => (r.addr q, grainLen)) ++ (ts.mapIdx fun t q => (r.check t, r.checkLen q)) ++
      (if ts.any (· < r.shape.k) then [(r.tally, 32)] else [])
    let reads := (r.used.map fun q => (r.addr q, grainLen)) ++ blocks.drop grains.length
    if !blocks.all (fun e => d.blockOk e.1 e.2) then d.foldFail p u x frBadAddr none
    else if reads.any (fun e => d.poisoned e.1 e.2) then d.foldFail p u x frMemfault none
    else
      let d := d.noteReads (tagFold p u) reads
      match reconstruct r.shape grainLen r.kpresent ts
          (fun q => if bit r.avail q then some (d.ldBytes m (r.addr q) grainLen) else none) with
      | none => d.foldFail p u x frUnsolvable none
      | some all =>
        let good := (ts.mapIdx fun t q => if d.reconVerifies m r t q (all.getD q []) then [q] else []).flatten
        let mask := (good.map (2 ^ ·)).sum
        let d := good.foldl (fun d q => d.engWrite (tagFold p u) (r.addr q) (all.getD q [])) d
        let d := (d.count .FOLD_RECON [p, u] good.length).count .FOLD_MISMATCH [p, u] (ts.length - good.length)
        let d := d.count .FOLD_BYTES [p, u] (grainLen * ts.length)
        d.foldAnswer p u x (if good.length = ts.length then frOk else frMismatch) (mask % 2 ^ 64) (mask / 2 ^ 64)
          (List.replicate 32 0)

/-! ### Gating, failure and registers (R466 to R469) -/

/-- What a unit of a gated fold block does at the cutoff of R466: every command it holds ends FALLOW, and every
accumulator is parked. -/
def Dev.foldUnitCutoff (d : Dev) (p u : Nat) : Dev :=
  if d.flag FOLD_STATUS.FAILED [p, u] then d
  else
    let f := d.foldU p u
    let ep := epKey 0x4 (4 * p + u)
    let q := d.queue ep
    let d := (d.setFoldU p u { f with job := none }).setQueue ep []
    let finish (d : Dev) (x : Msg) (r1 : Option Nat) : Dev :=
      if d.stale x.workid then d.foldStale p x else d.foldFail p u x frFallow r1
    let d := match f.job with
      | some j => let r1 := d.foldR1 p u j.msg; finish (d.foldUnclaim p u j) j.msg r1
      | none => d
    let d := q.foldl (fun d x => finish d x none) d
    (d.foldU p u).accs.foldl (fun d a => d.foldPark p u a) d

def Dev.foldCutoff (d : Dev) (p : Nat) : Dev := (List.range 4).foldl (fun d u => d.foldUnitCutoff p u) d

/-- The fault collector declares a unit failed. Its commands end with no completion and its accumulators are lost;
FOLD_SLOT still names what it held. -/
def Dev.foldUnitFail (d : Dev) (p u : Nat) : Dev :=
  if d.plots ≤ p || 4 ≤ u || d.flag FOLD_STATUS.FAILED [p, u] then d
  else
    let f := d.foldU p u
    let ep := epKey 0x4 (4 * p + u)
    let lost := (f.job.map FoldJob.msg).toList ++ d.queue ep
    let d := (d.setQueue ep []).setFoldU p u { accs := f.accs.map fun a => { a with grains := [] } }
    let d := lost.foldl (fun d x =>
      let b := x.bytes
      let d := if leAt b 0 1 = 7 then d.discardEntry (leAt b 52 4) false else d
      d.chainFree p x (leAt b (if leAt b 0 1 = 2 then 16 else 8) 8)) d
    let d := d.setFld FOLD_STATUS.FAILED 1 [p, u]
    (d.report { code := 0x0305, kind := 5, unit := p * 256 + u }).queueFallow

/-- FOLD_UNIT_FAIL (R467). -/
def execFoldUnitFail (p u : Nat) (s : State) : Res := s.run fun _ d => d.foldUnitFail p u

/-- FOLD_CLR (R469). -/
def execFoldClr (master p u size : Nat) (value : Word) (s : State) : Res := s.run fun _ d =>
  d.pageWrite .FOLD_CLR [p, u] size fun d => d.clrWrite .FOLD_CLR [p, u] ⟨master, size, 0, value⟩

/-- FOLD_STATUS (R469). -/
def Dev.foldStatusView (d : Dev) (p u : Nat) : Word :=
  let f := d.foldU p u
  let q := (d.queue (epKey 0x4 (4 * p + u))).length
  BitVec.ofNat 64 (min q 16 + b2n f.job.isSome * 2 ^ 5 + f.accs.length * 2 ^ 6 +
    b2n (d.flag FOLD_STATUS.FAILED [p, u]) * 2 ^ 9 + b2n (d.fallowBlock p 0) * 2 ^ 10)

/-- FOLD_SLOT (R469). -/
def Dev.foldSlotView (d : Dev) (p u i : Nat) : Word :=
  match (d.foldU p u).accs.find? fun a => a.slot = i with
  | some a => BitVec.ofNat 64 (a.scx % 2 ^ 48 + 2 ^ 63)
  | none => 0

end Sys2Proof.Machine
end

