-- ==== Sys2Proof/Machine/Checker.lean ====
section
/-!
DEFINITION. Submission entries and the checker of drills: entry fields, handles, the rules 0x01 to 0x12 and the detail
of a rejection (R224 to R246, R868).
-/

namespace Sys2Proof.Machine

/-! ### Entry fields (R224, R233) -/

/-- A submission entry's 64 bytes. -/
abbrev Entry := List Byte

def Entry.opcode (e : Entry) : Nat := leAt e 0 1
def Entry.flags (e : Entry) : Nat := leAt e 1 1
def Entry.isFirst (e : Entry) : Bool := bit (leAt e 1 1) 0
def Entry.isLast (e : Entry) : Bool := bit (leAt e 1 1) 1
def Entry.tag (e : Entry) : Nat := leAt e 2 2
def Entry.cond (e : Entry) : Nat := leAt e 4 1 % 8
def Entry.ref (e : Entry) : Nat := leAt e 5 1 % 64
def Entry.pstatus (e : Entry) : Nat := leAt e 6 2
def Entry.own (e : Entry) : Bool := bit (leAt e 63 1) 7
def Entry.isCode (e : Entry) : Bool := leAt e 0 1 = 0x02

/-- The opcodes of R232. -/
def opcodes : List Nat :=
  [0x01, 0x02, 0x03, 0x10, 0x11, 0x12, 0x13, 0x20, 0x21, 0x30, 0x31, 0x32, 0x40, 0x41]

/-- The entry bytes an opcode's operands fill: first byte and length (R233). -/
def operandBytes (op : Nat) : List (Nat × Nat) :=
  match op with
  | 0x02 => [(8, 49)]
  | 0x03 => [(8, 44)]
  | 0x10 => [(8, 5), (16, 8)]
  | 0x11 => [(8, 28)]
  | 0x12 => [(8, 16)]
  | 0x13 => [(8, 4)]
  | 0x20 => [(8, 40)]
  | 0x21 => [(8, 20)]
  | 0x30 => [(8, 16)]
  | 0x31 => [(8, 20)]
  | 0x32 => [(8, 16)]
  | 0x40 => [(8, 1)]
  | 0x41 => [(8, 2)]
  | _ => []

/-- The reserved bits of one byte of an entry (R224, R233); PRED, PREF and PSTATUS of a CODE entry fall under rule
0x0B. -/
def reservedBits (e : Entry) (i : Nat) : Nat :=
  if i = 1 then 0xFC
  else if i = 4 then (if e.isCode then 0 else 0xF8)
  else if i = 5 then (if e.isCode then 0 else 0xC0)
  else if i = 63 then 0x7F
  else if i = 12 && e.opcode = 0x10 then 0xF0
  else if i < 8 then 0
  else if (operandBytes e.opcode).any fun o => o.1 ≤ i && i < o.1 + o.2 then 0 else 0xFF

/-! ### Handles (R225 to R228) -/

/-- A handle an operand holds: its byte offset, whether it names a buffer (else a session), and whether it may be
null. -/
structure HandleUse where
  off : Nat
  buffer : Bool
  nullOk : Bool := false
  /-- The right the operation needs (R233). -/
  read : Bool := false
  write : Bool := false
  deriving DecidableEq, Repr

def handleUses (op : Nat) : List HandleUse :=
  match op with
  | 0x03 => [8, 12, 16, 20].map fun o => { off := o, buffer := true, nullOk := true }
  | 0x10 => [{ off := 8, buffer := false }]
  | 0x11 => [{ off := 8, buffer := false }, { off := 12, buffer := true, read := true }]
  | 0x12 => [{ off := 8, buffer := false }, { off := 12, buffer := true, nullOk := true, write := true }]
  | 0x13 => [{ off := 8, buffer := false }]
  | 0x20 => [{ off := 24, buffer := true, write := true }]
  | 0x21 => [{ off := 24, buffer := true, write := true }]
  | 0x30 => [{ off := 20, buffer := true, write := true }]
  | 0x31 => [{ off := 24, buffer := true, write := true }]
  | _ => []

def handleKind (h : Nat) : Nat := bits h 28 4
def handleSlot (h : Nat) : Nat := bits h 8 20
def handleGen (h : Nat) : Nat := bits h 0 8

/-- Session slots of a function (TENANT_TABLES). -/
def Dev.sessions (d : Dev) (f : Nat) : Nat := min 1048576 (d.fld TENANT_TABLES.SESSIONS [f])

/-- The extent of an operation in its buffer: offset and length (R244); `none` for RUN. -/
def Entry.extent (e : Entry) : Option (Nat × Nat) :=
  match e.opcode with
  | 0x11 => some (leAt e 16 8, leAt e 32 4)
  | 0x12 => some (0, 256)
  | 0x20 => some (leAt e 40 8, leAt e 28 4)
  | 0x21 => some (0, 256)
  | 0x30 => some (0, leAt e 16 4 * 256)
  | 0x31 => some (0, 4096)
  | _ => none

/-- A buffer handle's entry is valid, of its generation, and has the right and the room: the test of the checker and,
at execution, of firmware (R228). -/
def Dev.bufferOk (d : Dev) (f : Nat) (u : HandleUse) (e : Entry) : Bool :=
  let h := leAt e u.off 4
  let b := d.buf f (handleSlot h)
  (u.nullOk && h = 0) ||
    (handleKind h = 1 && handleSlot h < d.bufSlots f && b.valid && b.gen = handleGen h && (!u.read || b.read) &&
      (!u.write || b.write) &&
      match e.extent with
      | none => true
      | some (o, n) => o + n ≤ b.len)

/-- Every buffer handle of an entry resolves (R228): else the entry completes HANDLE_INVALID. -/
def Dev.handlesOk (d : Dev) (f : Nat) (e : Entry) : Bool :=
  (handleUses e.opcode).all fun u => !u.buffer || d.bufferOk f u e

/-! ### Drill code (R238) -/

/-- The leading CODE entries of a drill. -/
def drillCodes (es : List Entry) : List Entry := es.takeWhile Entry.isCode

/-- The instructions of the drill's code, of at most 16 CODE entries, with the entry and the word each stands in. -/
def drillInsns (es : List Entry) : List (BitVec 32 × Nat × Nat) :=
  (((drillCodes es).take 16).zipIdx).flatMap fun p =>
    (List.range (min 12 (leAt p.1 56 1))).map fun w => (BitVec.ofNat 32 (leAt p.1 (8 + 4 * w) 4), p.2, w)

/-! ### The rules (R243, R868) -/

/-- A rule an entry breaks: its code, the instruction within the code (0xFF for none) and FIELD. -/
structure Broken where
  code : Nat
  insn : Nat := 0xFF
  field : Nat := 0xFF
  deriving DecidableEq, Repr

def when (b : Bool) (x : Broken) : List Broken := if b then [x] else []

/-- Rules 0x01 and 0x02. -/
def checkForm (e : Entry) : List Broken :=
  when (!opcodes.contains e.opcode) ⟨0x01, 0xFF, 0⟩ ++
  (((List.range 64).find? fun i => leAt e i 1 &&& reservedBits e i ≠ 0).map fun i => (⟨0x02, 0xFF, i⟩ : Broken)).toList

/-- Rules 0x06 and 0x07 for entry `i` of a drill. -/
def checkCode (es : List Entry) (i : Nat) (e : Entry) : List Broken :=
  let nc := (drillCodes es).length
  when (nc = es.length) ⟨0x06, 0xFF, 0xFF⟩ ++
  when (e.isCode && (nc ≤ i || 16 ≤ i)) ⟨0x06, 0xFF, 0⟩ ++
  when (e.opcode = 0x03 && nc = 0) ⟨0x06, 0xFF, 0⟩ ++
  if !e.isCode then []
  else
    let n := leAt e 56 1
    if n = 0 || 12 < n then [⟨0x07, 0xFF, 56⟩]
    else (((List.range 12).find? fun w => n ≤ w && leAt e (8 + 4 * w) 4 ≠ 0).map fun w =>
      (⟨0x07, 0xFF, 8 + 4 * w⟩ : Broken)).toList

/-- Rules 0x08 to 0x0A for entry `i`. -/
def checkInsns (es : List Entry) (i : Nat) : List Broken :=
  let code := drillInsns es
  (code.zipIdx.filter fun p => p.1.2.1 = i).flatMap fun p =>
    let w := p.1.1
    let field := 8 + 4 * p.1.2.2
    let out : Bool := match insnTarget w with
      | none => false
      | some o => (p.2 : Int) + o < 0 || (code.length : Int) ≤ p.2 + o
    when (insnBarred w) ⟨0x08, p.2, field⟩ ++
    when (out || (p.2 + 1 = code.length && !insnEnds w)) ⟨0x09, p.2, field⟩ ++
    when (insnSlot w) ⟨0x0A, p.2, field⟩

/-- Rule 0x0B for entry `i`. -/
def checkPred (es : List Entry) (i : Nat) (e : Entry) : List Broken :=
  if e.isCode then
    when (leAt e 4 1 ≠ 0) ⟨0x0B, 0xFF, 4⟩ ++ when (leAt e 5 1 ≠ 0) ⟨0x0B, 0xFF, 5⟩ ++ when (e.pstatus ≠ 0) ⟨0x0B, 0xFF, 6⟩
  else
    let c := e.cond
    let earlierWork := e.ref < i && ((es[e.ref]?).map fun x => !x.isCode).getD false
    when (6 ≤ c) ⟨0x0B, 0xFF, 4⟩ ++
    when ((c ≤ 1 && e.ref ≠ 0) || (2 ≤ c && c ≤ 5 && !earlierWork)) ⟨0x0B, 0xFF, 5⟩ ++
    when (c ≠ 5 && e.pstatus ≠ 0) ⟨0x0B, 0xFF, 6⟩

/-- Rules 0x0C, 0x0D, 0x0E and 0x10 for one handle. -/
def Dev.checkHandle (d : Dev) (f : Nat) (e : Entry) (u : HandleUse) : List Broken :=
  let h := leAt e u.off 4
  if u.nullOk && h = 0 then []
  else if handleKind h ≠ (if u.buffer then 1 else 2) then [⟨0x0C, 0xFF, u.off⟩]
  else
    let b := d.buf f (handleSlot h)
    let slots := if u.buffer then d.bufSlots f else d.sessions f
    when (slots ≤ handleSlot h || (u.buffer && !b.valid)) ⟨0x0D, 0xFF, u.off⟩ ++
    when (handleGen h ≠ (if u.buffer then b.gen else 0)) ⟨0x0E, 0xFF, u.off⟩ ++
    when (u.buffer && ((u.read && !b.read) || (u.write && !b.write))) ⟨0x10, 0xFF, u.off⟩

/-- The first byte of the operation's length field, or of its buffer handle (R868). -/
def extentField (op : Nat) : Nat :=
  match op with
  | 0x11 => 32
  | 0x12 => 16
  | 0x20 => 28
  | 0x30 => 16
  | _ => 24

/-- Rule 0x0F: the offset and the length are those of the buffer extent (R244). -/
def Dev.checkExtent (d : Dev) (f : Nat) (e : Entry) : List Broken :=
  let op := e.opcode
  let u := (handleUses op).find? HandleUse.buffer
  let wide : Bool := match e.extent, u with
    | some (o, n), some u =>
      let h := leAt e u.off 4
      !(u.nullOk && h = 0) && handleKind h = 1 && (d.buf f (handleSlot h)).len < o + n
    | _, _ => false
  let excess := match op with
    | 0x11 => decide (2 ^ 64 ≤ leAt e 16 8 + leAt e 32 4)
    | 0x20 => decide (2 ^ 64 ≤ leAt e 40 8 + leAt e 28 4)
    | _ => false
  let zero := (op = 0x11 && leAt e 32 4 = 0) || (op = 0x20 && leAt e 28 4 = 0)
  let count := op = 0x30 && (leAt e 16 4 = 0 || 65536 < leAt e 16 4)
  when (wide || excess || zero || count) ⟨0x0F, 0xFF, extentField op⟩

/-- An object ID's estate field (About the T512 and this manual, R24). -/
def idEstate (id : Nat) : Nat := bits id 112 16

/-- A function's sessions may take profile `n` (R351, R395). -/
def Dev.profileOn (d : Dev) (f n : Nat) : Bool :=
  bit (d.fld TENANT_POLICY.PROFILES [f]) n && d.flag DEVICE_PROFILE.EN [n]

/-- Rule 0x11. -/
def Dev.checkValue (d : Dev) (f : Nat) (e : Entry) : List Broken :=
  match e.opcode with
  | 0x10 => when (!d.profileOn f (leAt e 12 1 % 16)) ⟨0x11, 0xFF, 12⟩
  | 0x03 => when (leAt e 48 4 = 0 || d.fld TENANT_POLICY.BUDGET_MAX [f] < leAt e 48 4) ⟨0x11, 0xFF, 48⟩
  | 0x40 => when (leAt e 8 1 ≠ 1 && leAt e 8 1 ≠ 2) ⟨0x11, 0xFF, 8⟩
  | 0x20 => when (idEstate (leAt e 8 16) ≠ d.fld DEVICE_PLACE.ESTATE) ⟨0x11, 0xFF, 8⟩
  | 0x21 => when (idEstate (leAt e 8 16) ≠ d.fld DEVICE_PLACE.ESTATE) ⟨0x11, 0xFF, 8⟩
  | 0x31 => when (idEstate (leAt e 8 16) ≠ d.fld DEVICE_PLACE.ESTATE) ⟨0x11, 0xFF, 8⟩
  | 0x32 => when (idEstate (leAt e 8 16) ≠ d.fld DEVICE_PLACE.ESTATE) ⟨0x11, 0xFF, 8⟩
  | _ => []

/-- Every rule that entry `i` of a drill of function `f` breaks. `formed` is the code, if any, by which R221 ended
the drill. -/
def Dev.checkEntry (d : Dev) (f : Nat) (es : List Entry) (formed : Option Nat) (i : Nat) (e : Entry) : List Broken :=
  checkForm e ++
  (formed.map fun c => (⟨c, 0xFF, if c = 0x03 then 1 else 0xFF⟩ : Broken)).toList ++
  checkCode es i e ++ checkInsns es i ++ checkPred es i e ++
  (handleUses e.opcode).flatMap (fun u => d.checkHandle f e u) ++ d.checkExtent f e ++ d.checkValue f e ++
  when (e.opcode = 0x41 && 1 < es.length) ⟨0x12, 0xFF, 0⟩

/-- The order of R246 and R868 among the rules one entry breaks: lowest code, then lowest instruction, then lowest
offset. -/
def Broken.before (a b : Broken) : Bool :=
  a.code < b.code || (a.code = b.code && (a.insn < b.insn || (a.insn = b.insn && a.field ≤ b.field)))

/-- The rule of an entry that a rejection reports. -/
def firstBroken : List Broken → Option Broken
  | [] => none
  | x :: t =>
    match firstBroken t with
    | none => some x
    | some y => if x.before y then some x else some y

/-- The detail of R245. -/
def Broken.detail (b : Broken) (entry : Nat) : Nat := b.code + entry * 2 ^ 8 + b.insn * 2 ^ 16 + b.field * 2 ^ 24

/-- The checker: the detail of a rejection, or `none` where it accepts (R243 to R246). -/
def Dev.checkDrill (d : Dev) (f : Nat) (es : List Entry) (formed : Option Nat) : Option Nat :=
  es.zipIdx.findSome? fun p => (firstBroken (d.checkEntry f es formed p.2 p.1)).map fun b => b.detail p.2

/-! ### Predication (R229 to R231) -/

/-- The status values of R346. -/
def stSuccess : Nat := 0x0000
def stSkipped : Nat := 0x0001
def stMalformed : Nat := 0x0010
def stAborted : Nat := 0x0011
def stHandleInvalid : Nat := 0x0020
def stDrillFault : Nat := 0x0021
def stPlaceUnset : Nat := 0x0022
def stKeyUnavailable : Nat := 0x0023
def stNoSession : Nat := 0x0030
def stSessionBusy : Nat := 0x0031
def stSessionExpired : Nat := 0x0032
def stLengthMismatch : Nat := 0x0033
def stNoObject : Nat := 0x0040
def stUnrecoverable : Nat := 0x0041
def stNoCapacity : Nat := 0x0042
def stHostAbort : Nat := 0x0050
def stHostTimeout : Nat := 0x0051
def stBmeCleared : Nat := 0x0052
def stBlockFallow : Nat := 0x0060
def stOverCommit : Nat := 0x0061

/-- A status that is a failure (R230, R346). -/
def failed (st : Nat) : Bool := 0x0010 ≤ st

/-- The entry's condition holds, given the statuses of earlier entries (R229). -/
def condHolds (done : Tbl Nat) (nCode i : Nat) (e : Entry) : Bool :=
  let st := tfind done e.ref
  match e.cond with
  | 0 => (List.range i).all fun j => j < nCode || tfind done j = some stSuccess
  | 1 => true
  | 2 => st = some stSuccess
  | 3 => (st.map failed).getD false
  | 4 => (st.map fun s => s = stSuccess || failed s).getD false
  | 5 => st = some e.pstatus
  | _ => false

/-- A later work entry claims the failure of entry `i` (R231). -/
def claimed (es : List Entry) (i : Nat) : Bool :=
  es.zipIdx.any fun p => i < p.2 && !p.1.isCode && p.1.ref = i && 3 ≤ p.1.cond && p.1.cond ≤ 5

end Sys2Proof.Machine
end

