-- ==== Sys2Proof/Machine/Rings.lean ====
section
/-!
DEFINITION. Command rings: fetching and confirming entries, drills and their records, arbitration and dispatch,
completion messages and entries, failures, restarts and aborts (R205 to R207, R296 to R345).
-/

namespace Sys2Proof.Machine

def sqInit : Sq := {}
def cqInit : Cq := {}
def drillInit : Drill := {}

def Dev.sq (d : Dev) (g : Nat) : Sq := tget sqInit d.ring.sqs g
def Dev.setSq (d : Dev) (g : Nat) (v : Sq) : Dev := { d with ring := { d.ring with sqs := tset sqInit d.ring.sqs g v } }
def Dev.modSq (d : Dev) (g : Nat) (h : Sq → Sq) : Dev := d.setSq g (h (d.sq g))
def Dev.cq (d : Dev) (g : Nat) : Cq := tget cqInit d.ring.cqs g
def Dev.setCq (d : Dev) (g : Nat) (v : Cq) : Dev := { d with ring := { d.ring with cqs := tset cqInit d.ring.cqs g v } }
def Dev.modCq (d : Dev) (g : Nat) (h : Cq → Cq) : Dev := d.setCq g (h (d.cq g))

/-- The drill in record `r`. -/
def Dev.drill? (d : Dev) (r : Nat) : Option Drill := tfind d.ring.drills r
def Dev.drill (d : Dev) (r : Nat) : Drill := (d.drill? r).getD drillInit
def Dev.putDrill (d : Dev) (r : Nat) (v : Drill) : Dev := { d with ring := { d.ring with drills := tput d.ring.drills r v } }
def Dev.modDrill (d : Dev) (r : Nat) (h : Drill → Drill) : Dev :=
  match d.drill? r with
  | some v => d.putDrill r (h v)
  | none => d

/-! ### Settings (R296 to R303, R343 to R345) -/

/-- A submission ring's function; bound rings only. -/
def Dev.sqBound (d : Dev) (g : Nat) : Bool := d.flag RINGS_SQ_BIND.VALID [g]
def Dev.sqFunc (d : Dev) (g : Nat) : Nat := d.fld RINGS_SQ_BIND.FUNC [g]
def Dev.sqLocal (d : Dev) (g : Nat) : Nat := d.fld RINGS_SQ_BIND.LOCAL [g]
def Dev.sqSize (d : Dev) (g : Nat) : Nat := 2 ^ d.fld RINGS_SQ_CTL.LOG2SIZE [g]
def Dev.sqBase (d : Dev) (g : Nat) : Nat := (d.reg .RINGS_SQ_BASE [g]).toNat
def Dev.sqMode (d : Dev) (g : Nat) : Nat := d.fld RINGS_SQ_CTL.MODE [g]
def Dev.cqSize (d : Dev) (g : Nat) : Nat := 2 ^ d.fld RINGS_CQ_CTL.LOG2SIZE [g]
def Dev.cqBase (d : Dev) (g : Nat) : Nat := (d.reg .RINGS_CQ_BASE [g]).toNat
def Dev.cqFunc (d : Dev) (g : Nat) : Nat := d.fld RINGS_CQ_BIND.FUNC [g]

/-- SQ_MAX and CQ_MAX in effect (R349, R351). -/
def Dev.sqMax (d : Dev) (f : Nat) : Nat := min (if f < 256 then 65536 else 64) (d.fld TENANT_LIMITS.SQ_MAX [f])
def Dev.cqMax (d : Dev) (f : Nat) : Nat := min (if f < 256 then 65536 else 64) (d.fld TENANT_LIMITS.CQ_MAX [f])

/-- The lowest ring of a kind that a BIND register binds to a function's local number (R345). -/
def Dev.bound? (d : Dev) (r : RegName) (f n : Nat) : Option Nat :=
  let lo := r.key [0]
  (d.regs.find? fun e => lo ≤ e.1 && e.1 ≤ r.key [65535] && bit e.2.toNat 63 && bits e.2.toNat 0 13 = f &&
    bits e.2.toNat 16 16 = n).map fun e => (e.1 - lo) / 8

def Dev.findSq (d : Dev) (f n : Nat) : Option Nat := d.bound? .RINGS_SQ_BIND f n
def Dev.findCq (d : Dev) (f n : Nat) : Option Nat := d.bound? .RINGS_CQ_BIND f n

/-- The global numbers of the submission rings bound to functions that `p` admits. -/
def Dev.sqsWhere (d : Dev) (p : Nat → Bool) : List Nat :=
  let lo := RegName.RINGS_SQ_BIND.key [0]
  (d.regs.filter fun e => lo ≤ e.1 && e.1 ≤ RegName.RINGS_SQ_BIND.key [65535] && bit e.2.toNat 63 &&
    p ((e.1 - lo) / 8)).map fun e => (e.1 - lo) / 8

/-- A submission ring's completion ring. -/
def Dev.sqCq (d : Dev) (g : Nat) : Option Nat := d.findCq (d.sqFunc g) (d.fld RINGS_SQ_CTL.CQ [g])

/-- FULL (R308). -/
def Dev.cqFull (d : Dev) (g : Nat) : Bool := ((d.cq g).tail + 1) % d.cqSize g = (d.cq g).head % d.cqSize g

/-- A contained fault that names the function (R300, R334). -/
def Dev.ringFault (d : Dev) (f : Nat) : Dev := d.report { code := 0x0207, kind := 10, unit := f, func := f }

/-- Entries that a doorbell has named and the engine has not confirmed. -/
def Dev.sqNamed (d : Dev) (g : Nat) : Nat :=
  let q := d.sq g
  let n := d.sqSize g
  if q.overtook then 0 else (q.tail % n + n - q.head % n) % n

/-! ### Records (R241, R315, R321) -/

def Dev.drillBase (d : Dev) : Nat := d.fld RINGS_DRILL_BASE.BASE * 2 ^ 27
def Dev.codeBase (d : Dev) : Nat := d.fld RINGS_CODE_BASE.BASE * 2 ^ 22
def Dev.drillAddr (d : Dev) (r : Nat) : Nat := d.drillBase + r * 8192

/-- The lowest number that a rising table does not list. -/
def lowestFree {α : Type} : Nat → Tbl α → Nat
  | i, [] => i
  | i, (k, _) :: t => if k = i then lowestFree (i + 1) t else i

/-- The lowest drill record that is free (the choice among free records is the model's, assumption 11). -/
def Dev.freeRecord (d : Dev) : Option Nat :=
  let r := lowestFree 0 d.ring.drills
  if r < 16384 then some r else none

/-- The lowest code record that is free. -/
def Dev.freeCode (d : Dev) : Option Nat := (List.range 4096).find? fun c => !d.ring.codes.contains c

/-- Entries of a drill that are CODE (R222). -/
def Drill.nCode (x : Drill) : Nat := (drillCodes x.entries).length
def Drill.count (x : Drill) : Nat := x.entries.length
def Drill.entry (x : Drill) (i : Nat) : Entry := (x.entries[i]?).getD []
def Drill.workid (x : Drill) : Word := widMake x.func x.gen

/-- The code record a drill takes at acceptance, and its code in memory (R241). -/
def Dev.takeCode (d : Dev) (r : Nat) : Dev :=
  let x := d.drill r
  if x.nCode = 0 || x.code.isSome then d
  else
    match d.freeCode with
    | none => d
    | some c =>
      let bytes := (drillInsns x.entries).flatMap fun p => leBytes 4 p.1.toNat
      let d := (d.putDrill r { x with code := some c }).stBytes (d.codeBase + 1024 * c) bytes
      { d with ring := { d.ring with codes := c :: d.ring.codes } }

/-- Tickets of a code record become void. -/
def Dev.voidTickets (d : Dev) (c : Nat) : Dev :=
  { d with tine := { d.tine with tickets := d.tine.tickets.filter fun t => bits t.1 16 12 ≠ c } }

/-- Frees a code record; the drill that has waited longest for one takes it at its dispatch. -/
def Dev.freeCodeOf (d : Dev) (x : Drill) : Dev :=
  match x.code with
  | none => d
  | some c =>
    let d := d.voidTickets c
    { d with ring := { d.ring with codes := d.ring.codes.filter fun n => n ≠ c } }

/-! ### Completions on their way (R245, R325, R328), and the idle time of the sessions they name (R402) -/

/-- A completion entry for a drill's entry joins those that wait. -/
def Dev.pushCpl (d : Dev) (c : HeldCpl) : Dev := { d with ring := { d.ring with cpls := d.ring.cpls ++ [c] } }

/-- The key of slot `slot` of function `f`. -/
def sessKey (f slot : Nat) : Nat := f * 2 ^ 20 + slot
def sessFunc (key : Nat) : Nat := key / 2 ^ 20

def Dev.sess? (d : Dev) (key : Nat) : Option SowSess := tfind d.sow.sess key
def Dev.setSow (d : Dev) (s : SowSt) : Dev := { d with sow := s }
def Dev.putSess (d : Dev) (key : Nat) (s : SowSess) : Dev := { d with sow := { d.sow with sess := tput d.sow.sess key s } }
def Dev.delSess (d : Dev) (key : Nat) : Dev := { d with sow := { d.sow with sess := tdel d.sow.sess key } }
def Dev.modSess (d : Dev) (key : Nat) (f : SowSess → SowSess) : Dev :=
  match d.sess? key with
  | some s => d.putSess key (f s)
  | none => d

/-- A SOW_WRITE, SOW_SEAL or SOW_DROP naming the session completes: its idle time starts again. -/
def Dev.touchSess (d : Dev) (key : Nat) : Dev := d.modSess key fun s => { s with idle := 0, idleFrom := d.now }

/-- The session that an entry of function `f` names begins its idle time again as the entry completes (R402). -/
def Dev.touchEntry (d : Dev) (f : Nat) (e : Entry) : Dev :=
  if [0x11, 0x12, 0x13].contains e.opcode then d.touchSess (sessKey f (handleSlot (leAt e 8 4))) else d

/-- The completion entry of entry `i` of the drill in record `r`. -/
def Dev.cplOf (d : Dev) (r i : Nat) (o : Outcome16) (drop : Bool) : HeldCpl :=
  let x := d.drill r
  { func := x.func, cq := d.fld RINGS_SQ_CTL.CQ [x.sq], sq := x.sq, tag := (x.entry i).tag,
    index := (x.index0 + i) % d.sqSize x.sq, out := o, last := i + 1 = x.count, record := some r, entry := i, drop := drop }

/-- A drill is rejected: every entry completes MALFORMED with one detail (R245), at once or, in a HALTED ring, once it
restarts (R314). -/
def Dev.reject (d : Dev) (g index0 : Nat) (es : List Entry) (record : Option Nat) (detail : Nat) : Dev :=
  let f := d.sqFunc g
  let cs : List HeldCpl := es.zipIdx.map fun p =>
    { func := f, cq := d.fld RINGS_SQ_CTL.CQ [g], sq := g, tag := p.1.tag, index := (index0 + p.2) % d.sqSize g,
      out := { status := stMalformed, detail := detail }, last := p.2 + 1 = es.length, record := record, entry := p.2 }
  let d := match record with
    | some r => d.modDrill r fun x => { x with phase := .rejected }
    | none => d
  if (d.sq g).state = 4 then d.modSq g fun q => { q with rejects := q.rejects ++ cs }
  else es.foldl (fun d e => d.touchEntry f e) (cs.foldl Dev.pushCpl d)

/-- A drill is accepted (R241, R303, R321): its record and code are written, its CODE entries leave OUTSTANDING, and it
waits for dispatch; a lone ABORT waits to take effect ahead of every dispatch (R337). -/
def Dev.accept (d : Dev) (g r : Nat) : Dev :=
  let x := d.drill r
  let nc := x.nCode
  let abort := (x.entry 0).opcode = 0x41
  let d := d.putDrill r { x with phase := if abort then .abortReady else .accepted, start := nc, next := nc, written := nc }
  let a := d.drillAddr r
  let d := (d.stBytes a x.entries.flatten).stBytes (a + 4608) (List.replicate 128 0xFF)
  let d := d.takeCode r
  d.modSq g fun q =>
    { q with outstanding := q.outstanding - nc, ready := if abort then q.ready else q.ready ++ [r] }

/-- A drill has formed (R220, R221): the checker accepts or rejects it. -/
def Dev.formed (d : Dev) (g r : Nat) (code : Option Nat) : Dev :=
  let x := d.drill r
  let d := d.modSq g fun q => { q with openDrill := none }
  match d.checkDrill x.func x.entries code with
  | some detail => d.reject g x.index0 x.entries (some r) detail
  | none => d.accept g r

/-! ### Confirmation (R207, R219, R221, R311, R312, R315) -/

/-- An entry with FIRST set can be confirmed: a drill record is free for it. -/
def Dev.canConfirm (d : Dev) (e : Entry) : Bool := !e.isFirst || d.freeRecord.isSome

/-- The function is being frozen, or is frozen (R371). -/
def Dev.freezing (d : Dev) (f : Nat) : Bool := d.flag TENANT_CTL.FREEZE [f]

/-- Ring `g` confirms no entry for its function's sake: it is being frozen, and no drill is open (R371). -/
def Dev.confirmBarred (d : Dev) (g : Nat) : Bool := d.freezing (d.sqFunc g) && (d.sq g).openDrill = none

/-- The confirmed entry joins its drill. -/
def Dev.assemble (d : Dev) (g i : Nat) (e : Entry) : Dev :=
  let f := d.sqFunc g
  let opened (d : Dev) : Dev :=
    match d.freeRecord with
    | none => d
    | some r =>
      let d := d.putDrill r { func := f, gen := d.gen f, sq := g, index0 := i, entries := [e], gapFrom := d.now }
      let d := d.modSq g fun q => { q with openDrill := some r }
      if e.isLast then d.formed g r none else d
  match (d.sq g).openDrill with
  | none => if e.isFirst then opened d
    else match d.checkDrill f [e] (some 0x03) with
      | some detail => d.reject g i [e] none detail
      | none => d
  | some r =>
    if e.isFirst then opened (d.formed g r (some 0x04))
    else
      let d := d.modDrill r fun x => { x with entries := x.entries ++ [e], gapFrom := d.now }
      if e.isLast then d.formed g r none
      else if (d.drill r).count = 64 then d.formed g r (some 0x05)
      else d

/-- ENTRY_CONFIRM: the OWN mark is cleared in host memory, HEAD passes the entry, and it joins its drill. -/
def Dev.confirm (d : Dev) (g : Nat) (e : Entry) : Dev :=
  let f := d.sqFunc g
  let q := d.sq g
  let i := q.head
  let live := d.fnMaster f
  let own := d.sqBase g + 64 * i + 63
  let d := d.hostWrite f tagRing own none [0]
  let d := d.modSq g fun q =>
    { q with head := (i + 1) % d.sqSize g, overtook := q.overtook || i = q.tail, outstanding := q.outstanding + 1
             ownDropped := if live then q.ownDropped else q.ownDropped ++ [own] }
  d.assemble g i e

/-! ### Fetching (R205 to R207, R310, R314, R371) -/

/-- The ring may issue a fetch read. -/
def Dev.canFetch (d : Dev) (g : Nat) : Bool :=
  let q := d.sq g
  let f := d.sqFunc g
  d.sqBound g && (q.state = 1 || q.state = 3) && d.fnMaster f && !d.flag HOST_FN_STATE.FLR_BUSY [f] &&
    (d.fn f).sowWaits = 0 && !d.confirmBarred g

/-- Issues a fetch read from HEAD (R310). -/
def Dev.fetch (d : Dev) (g : Nat) : Dev :=
  let q := d.sq g
  let named := d.sqNamed g
  let n := min (max (2 ^ d.fld RINGS_SQ_CTL.PREFETCH [g]) named) (d.sqSize g - q.head)
  let named := min named n
  let f := d.sqFunc g
  let addr := d.sqBase g + 64 * q.head
  let x : Fetch := { count := n, named := named, addr := addr, due := d.now + cplTimeoutNs (d.fn f).cplTo, xlated := (d.fn f).atsEn }
  let d := d.modSq g fun q => { q with fetch := some x, asked := false, owed := false }
  (d.count .DEVICE_SPEC_RING_FETCH [] (n - named)).sendHostRead f addr (64 * n) none

/-- Issues a read when a doorbell has named an unconfirmed entry, or one is owed, and none is in flight. -/
def Dev.kickFetch (d : Dev) (g : Nat) : Dev :=
  if d.sqNamed g = 0 && !(d.sq g).owed then d
  else if (d.sq g).fetch.isSome || !d.canFetch g then d.modSq g fun q => { q with asked := true }
  else d.fetch g

/-- A ring that could not fetch for its function's sake may fetch now (R371, R428). -/
def Dev.kickAsked (d : Dev) (f : Nat) : Dev :=
  (d.sqsWhere fun g => d.sqFunc g = f && (d.sq g).asked).foldl Dev.kickFetch d

/-- The read's entries were all confirmed: the next read, or the next doorbell (R310). -/
def Dev.fetchEnd (d : Dev) (g : Nat) (x : Fetch) : Dev :=
  let d := d.modSq g fun q => { q with fetch := none }
  if x.whole && (x.named < x.count || d.sqNamed g ≠ 0) then
    if d.canFetch g then d.fetch g else d.modSq g fun q => { q with asked := true, owed := true }
  else if (d.sq g).asked then d.kickFetch g
  else d

/-- Confirms submitted entries until one must wait for a drill record, or the function's freezing bars the rest. A FIRST
entry that arrives at an open drill ends it (R221), and freezing then bars that entry itself (assumption 136). -/
def Dev.confirmAll (d : Dev) (g : Nat) : List Entry → Dev × List Entry
  | [] => (d, [])
  | e :: t =>
    if d.confirmBarred g then (d, e :: t)
    else
      match d.freezing (d.sqFunc g) && e.isFirst, (d.sq g).openDrill with
      | true, some r => (d.formed g r (some 0x04), e :: t)
      | _, _ => if d.canConfirm e then (d.confirm g e).confirmAll g t else (d, e :: t)

/-- What becomes of a read once its entries have been confirmed as far as they can be: all of them, and it ends; the rest
are barred, and are read again when the function thaws (R371); or the rest wait for a drill record (R315). -/
def Dev.fetchRest (d : Dev) (g : Nat) (x : Fetch) (rest : List Entry) : Dev :=
  if rest = [] then d.fetchEnd g x
  else if d.confirmBarred g then d.modSq g fun q => { q with fetch := none, asked := true, owed := true }
  else
    let d := d.modSq g fun q => { q with fetch := some { x with stalled := rest } }
    { d with ring := { d.ring with waiters := d.ring.waiters ++ [g] } }

/-- The rings whose FIRST entries wait go on, in the order they began to wait. `fuel` bounds the rings asked. -/
def Dev.resumeWaiters (d : Dev) : Nat → Dev
  | 0 => d
  | n + 1 =>
    match d.ring.waiters with
    | [] => d
    | g :: t =>
      if d.freeRecord = none && !d.confirmBarred g then d
      else
        let d := { d with ring := { d.ring with waiters := t } }
        match (d.sq g).fetch with
        | none => d.resumeWaiters n
        | some x =>
          let d := match (d.sq g).openDrill with
            | some r => d.modDrill r fun y => { y with gapFrom := d.now }
            | none => d
          let (d, rest) := d.confirmAll g x.stalled
          (d.fetchRest g x rest).resumeWaiters n

/-- A dispatched drill executes on plot `p`: its strand lies there, or work of its WORKID does. -/
def Dev.drillOn (d : Dev) (x : Drill) (p : Nat) : Bool :=
  x.strand / 128 = p ||
  d.tine.strands.any (fun e => e.1 / 128 = p && e.2.regs.workid = x.workid) ||
  d.dma.any (fun e => e.1 / 64 = p && e.2.wid = x.workid && d.flag DMA_STATUS.ACTIVE [p, e.1 % 64]) ||
  d.cipher.any (fun c => c.1 = p && c.2.job.any fun j => j.msg.workid = x.workid) ||
  d.fold.any (fun u => u.1 / 4 = p && u.2.job.any fun j => j.msg.workid = x.workid)

/-- A drill waits for dispatch, or executes on one of those plots (R342). -/
def Dev.conflicts (d : Dev) (x : Drill) (plots : List Nat) : Bool :=
  x.phase = .accepted || (x.phase = .dispatched && plots.any (d.drillOn x))

/-- Self-tests that the drill in record `r` has kept from running note when it ceases to (R342). -/
def Dev.noteQuiet (d : Dev) (r : Nat) : Dev :=
  { d with ring := { d.ring with tests := d.ring.tests.map fun t =>
      if t.drill ≠ r && d.conflicts (d.drill r) t.plots then { t with quietFrom := d.now } else t } }

/-- Frees a drill record, with its code record; waiting rings go on (R315). -/
def Dev.freeDrill (d : Dev) (r : Nat) : Dev :=
  let d := (d.noteQuiet r).freeCodeOf (d.drill r)
  let d := { d with ring := { d.ring with drills := tdel d.ring.drills r } }
  d.resumeWaiters d.ring.waiters.length

/-- 64-byte entries of a read. -/
def chunk64 : Nat → List Byte → List Entry
  | 0, _ => []
  | n + 1, l => slice l 0 64 :: chunk64 n (l.drop 64)

/-- A doorbell within the ring's size takes TAIL to `i` (R300, R310). -/
def Dev.sqBell (d : Dev) (g i : Nat) : Dev :=
  let size := d.sqSize g
  let q := d.sq g
  let span := (q.head + size - q.tail % size) % size
  (d.setSq g { q with tail := i, overtook := q.overtook && (i + size - q.tail % size) % size ≤ span }).kickFetch g

/-- SQ_DOORBELL (R300, R310): a host writes the tail doorbell of its submission ring `n`. -/
def execSqDoorbell (f n : Nat) (value : Word) (s : State) : Res := s.run fun _ d =>
  if !d.barOk f then d
  else if d.sqMax f ≤ n then d.barHole f
  else
    match d.findSq f n with
    | none => d
    | some g =>
      let i := value.toNat % 65536
      if d.sqSize g ≤ i then d.ringFault f else d.sqBell g i

/-- RING_FETCH_RETURN (R205, R207, R215, R311, R312): ring `g`'s read returns. -/
def execRingFetchReturn (g : Nat) (data : List Byte) (s : State) : Res := s.run fun _ d =>
  match (d.sq g).fetch with
  | none => d
  | some x =>
    let f := d.sqFunc g
    if x.stalled ≠ [] then d
    else if !d.fnMaster f then (d.bmeDrop f).modSq g fun q => { q with fetch := none }
    else
      let es := chunk64 x.count data
      let own := es.takeWhile Entry.own
      let clear := (es.zipIdx.filter fun p => x.named ≤ p.2 && !p.1.own).length
      let d := d.count .DEVICE_SPEC_RING_DISCARD [] clear
      let (d, rest) := d.confirmAll g own
      d.fetchRest g { x with whole := own.length = x.count } rest

/-- The FN_HOST_ERR bit for how a request failed: 0 a completion timeout, 1 an abort or Unsupported Request, 2 a
poisoned completion, 3 a refused translation (R273). -/
def hostErrFld (err : Nat) : Fld :=
  match err with
  | 0 => FN_HOST_ERR.CPL_TIMEOUT
  | 1 => FN_HOST_ERR.CPL_ABORT
  | 2 => FN_HOST_ERR.POISONED
  | _ => FN_HOST_ERR.XLATE

/-- Ring `g`'s read fails: one that a doorbell named is a failed request, and a speculative one is counted (R206). -/
def Dev.fetchFail (d : Dev) (g err : Nat) (x : Fetch) : Dev :=
  let d := d.modSq g fun q => { q with fetch := none }
  let d := if x.named = 0 then d.count .DEVICE_SPEC_RING_HOSTERR else d.hostFail (hostErrFld err) (d.sqFunc g) x.addr
  if (d.sq g).asked then d.kickFetch g else d

/-- RING_FETCH_FAIL (R206): ring `g`'s read fails at the host; a completion timeout is due when R260 says. -/
def execRingFetchFail (g err : Nat) (s : State) : Res := s.run fun _ d =>
  match (d.sq g).fetch with
  | none => d
  | some x =>
    if x.stalled ≠ [] then d
    else if err = 0 then d.at x.due fun d => d.fetchFail g err x
    else d.fetchFail g err x

/-- The drill gap of R304, in ns. -/
def gapNs (code : Nat) : Nat :=
  let m := 10 ^ (code / 3)
  (match code % 3 with
    | 0 => 10000
    | 1 => 20000
    | _ => 50000) * m

/-- DRILL_GAP_EXPIRE (R221, R315): the gap passes after the open drill's latest entry. -/
def execDrillGapExpire (g : Nat) (s : State) : Res := s.run fun _ d =>
  match (d.sq g).openDrill with
  | none => d
  | some r =>
    if d.ring.waiters.contains g then d
    else d.at ((d.drill r).gapFrom + gapNs (d.fld RINGS_SQ_CTL.GAP [g])) fun d => d.formed g r (some 0x04)

/-! ### Arbitration and dispatch (R316 to R321, R242) -/

/-- Some ABORT of a function has been accepted and has not taken effect. -/
def Dev.abortWaits (d : Dev) (f : Nat) : Bool :=
  d.ring.drills.any fun e => e.2.phase = .abortReady && e.2.func = f

/-- The drill's code record is there, or can be had. -/
def Dev.codeOk (d : Dev) (x : Drill) : Bool := x.nCode = 0 || x.code.isSome || d.freeCode.isSome

/-- A submission ring is eligible (R316). A drill to be dispatched again has its place already, and goes while the
ring is STOPPING too (R334). -/
def Dev.eligible (d : Dev) (g : Nat) : Bool :=
  let q := d.sq g
  match q.ready with
  | [] => false
  | r :: _ =>
    let x := d.drill r
    (q.state = 1 || (x.won && q.state = 2)) && (x.won || q.dispatched < 16) && d.codeOk x && !d.abortWaits (d.sqFunc g) &&
      match d.sqCq g with
      | none => false
      | some c => (d.cq c).running && !d.cqFull c

/-- The tickets of a dispatch (R242): one for each RUN from START on, issued to strand `k`. -/
def Dev.issueTickets (d : Dev) (r k : Nat) : Dev :=
  let x := d.drill r
  match x.code with
  | none => d.stBytes (d.drillAddr r + 4096) (List.replicate 512 0)
  | some c =>
    let d := d.voidTickets c
    let dlen := 4 * (drillInsns x.entries).length
    let d := d.stBytes (d.drillAddr r + 4096) (List.replicate 512 0)
    (List.range x.count).foldl (fun d i =>
      if i < x.start || (x.entry i).opcode ≠ 0x03 then d
      else
        let v := k % 512 + c * 2 ^ 16 + i * 2 ^ 28 + d.ring.serial * 2 ^ 34
        let t : Ticket := { strand := k, dcode := BitVec.ofNat 64 (d.codeBase + 1024 * c),
                            dlen := BitVec.ofNat 64 dlen, workid := x.workid }
        let d := d.stBytes (d.drillAddr r + 4096 + 8 * i) (leBytes 8 v)
        { d with tine := { d.tine with tickets := tput d.tine.tickets v t }
                 ring := { d.ring with serial := (d.ring.serial + 1) % 2 ^ 30 } }) d

/-- The dispatch message of R320. -/
def Dev.dispatchMsg (d : Dev) (r : Nat) : Msg :=
  let x := d.drill r
  { workid := x.workid, sender := tagRing,
    data := bytesWide (leBytes 8 (d.drillAddr r) ++ leBytes 8 x.workid.toNat ++ leBytes 2 x.sq ++ leBytes 2 (d.sqLocal x.sq) ++
      leBytes 2 x.index0 ++ leBytes 1 x.count ++ leBytes 1 x.start ++ leBytes 1 (d.sqMode x.sq) ++
      leBytes 1 (b2n x.resumed + 2 * b2n x.retry) ++ leBytes 2 (x.code.getD 0xFFFF) ++ leBytes 4 0 ++ leBytes 8 d.now) }

/-- The first waiting drill of ring `g` is placed on dispatch queue `q`, its tickets issued to strand `k`, after the writes
that clear its OWN marks (R312). -/
def Dev.dispatch (d : Dev) (q g k : Nat) : Dev :=
  match (d.sq g).ready with
  | [] => d
  | r :: t =>
    let d := d.transmit.takeCode r
    let won := (d.drill r).won
    let d := d.modDrill r fun x => { x with phase := .dispatched, won := true, strand := k }
    let d := d.modSq g fun s => { s with ready := t, dispatched := if won then s.dispatched else s.dispatched + 1 }
    let d := d.issueTickets r k
    d.post (epKey 1 q) (d.dispatchMsg r)

/-- The rings of a dispatch queue, in increasing number. -/
def Dev.ringsOf (d : Dev) (q : Nat) : List Nat := d.sqsWhere fun g => d.fld RINGS_SQ_BIND.DQ [g] = q

/-- The next ring to serve after ring `last`: the first that `p` admits, in increasing number and around. -/
def nextRing (rings : List Nat) (last : Nat) (p : Nat → Bool) : Option Nat :=
  ((rings.filter fun g => last < g) ++ rings.filter fun g => g ≤ last).find? p

/-- Begins ring `g`'s turn with its first drill. -/
def Dev.startTurn (d : Dev) (q g k : Nat) : Dev :=
  let n := (d.drill ((d.sq g).ready.headD 0)).count
  let d := (d.modSq g fun s => { s with turns := s.turns - 1 }).dispatch q g k
  { d with ring := { d.ring with turn := tput d.ring.turn q (g, n) } }

/-- The ring whose turn queue `q` serves, and the entries dispatched in that turn. -/
def Dev.turnOf (d : Dev) (q : Nat) : Nat × Nat := (tfind d.ring.turn q).getD (65536, 0)

/-- The turn of queue `q` can go on with its ring's next drill. -/
def Dev.turnGoesOn (d : Dev) (q : Nat) : Bool :=
  let (g, n) := d.turnOf q
  n ≠ 0 && (d.ringsOf q).contains g && d.eligible g &&
    n + (d.drill ((d.sq g).ready.headD 0)).count ≤ d.fld RINGS_SQ_CTL.BURST [g]

/-- A round that has no eligible ring with turns left, nor a turn that can go on, has ended: the next begins, with WEIGHT
turns for each ring (R317). -/
def Dev.endRound (d : Dev) (q : Nat) : Dev :=
  let rings := d.ringsOf q
  if d.turnGoesOn q || rings.any fun g => d.eligible g && (d.sq g).turns ≠ 0 then d
  else
    let d := rings.foldl (fun d g => d.modSq g fun s => { s with turns := d.fld RINGS_SQ_CTL.WEIGHT [g] }) d
    { d with ring := { d.ring with turn := tdel d.ring.turn q } }

/-- DRILL_DISPATCH (R316 to R319, R357): dispatch queue `q`'s arbiter dispatches one drill, whose tickets name strand
`k`. It goes on with the turn of the ring it serves while the burst allows, then takes the next ring with turns left. -/
def execDrillDispatch (q k : Nat) (s : State) : Res := s.run fun _ d =>
  if 64 ≤ q || 16 ≤ (d.queue (epKey 1 q)).length || d.flt.safe then d
  else
    let d := d.endRound q
    let (g0, n0) := d.turnOf q
    if d.turnGoesOn q then
      let len := (d.drill ((d.sq g0).ready.headD 0)).count
      let d := d.dispatch q g0 k
      ({ d with ring := { d.ring with turn := tput d.ring.turn q (g0, n0 + len) } }).endRound q
    else
      match nextRing (d.ringsOf q) g0 (fun g => d.eligible g && (d.sq g).turns ≠ 0) with
      | some g => (d.startTurn q g k).endRound q
      | none => d

/-! ### Completion messages (R320, R322, R323, R330 to R332, R359) -/

/-- The error log entry of a failure (R332). `kind` 1, 2 or 3. -/
def Dev.errLog (d : Dev) (r i kind : Nat) (o : Outcome16) : Dev :=
  let x := d.drill r
  let f := x.func
  let head := (d.reg .RINGS_ERRLOG_HEAD [f]).toNat
  let ack := (d.reg .RINGS_ERRLOG_ACK [f]).toNat
  if 64 ≤ head - ack then d.count .RINGS_ERRLOG_LOST [f]
  else
    let e := x.entry i
    let seq := head + 1
    let b := leBytes 8 seq ++ leBytes 2 (d.sqLocal x.sq) ++ leBytes 2 ((x.index0 + i) % d.sqSize x.sq) ++ leBytes 2 e.tag ++
      leBytes 1 e.opcode ++ leBytes 1 i ++ leBytes 2 o.status ++ leBytes 1 (d.sqMode x.sq) ++ leBytes 1 kind ++
      leBytes 4 o.detail ++ leBytes 16 o.result ++ leBytes 8 d.now ++ leBytes 16 (tget 0 x.objs i)
    let d := d.setReg .RINGS_ERRLOG_HEAD (BitVec.ofNat 64 seq) [f]
    let d := d.modFn f fun n => { n with errlog := tput n.errlog (seq % 64) b }
    d.raiseVector f 0

/-- The drill will be dispatched again from entry `i` on, ahead of its ring's other drills. -/
def Dev.redispatch (d : Dev) (r i : Nat) (retry : Bool) : Dev :=
  let x := d.drill r
  let d := d.putDrill r { x with phase := .accepted, start := i, next := i, resumed := true, retry := retry }
  d.modSq x.sq fun q => { q with ready := r :: q.ready }

/-- A failed entry is not to hold its ring: its completion goes on its way, and what is left of its drill is dispatched
again. -/
def Dev.releaseFail (d : Dev) (r i : Nat) (o : Outcome16) (drop : Bool) : Dev :=
  let x := d.drill r
  let d := d.pushCpl (d.cplOf r i o drop)
  if i + 1 < x.count then d.redispatch r (i + 1) false else d

/-- Entry `i` of the dispatched drill in record `r` is reported (R322, R323, R330, R331, R335). `fin` is END. -/
def Dev.entryDone (d : Dev) (r i : Nat) (o : Outcome16) (fin : Bool) : Dev :=
  let x := d.drill r
  let g := x.sq
  let d := d.putDrill r { x with next := i + 1, done := tput x.done i o.status, busy := false }
  let exec := failed o.status && o.status ≠ stMalformed && o.status ≠ stAborted && o.status ≠ stBmeCleared &&
    !claimed x.entries i
  let early (d : Dev) : Dev :=
    if fin && i + 1 < x.count then d.redispatch r (i + 1) false else d
  if !exec then early (d.pushCpl (d.cplOf r i o false))
  else if d.sqMode g ≠ 0 then early ((d.errLog r i 2 o).pushCpl (d.cplOf r i o false))
  else if (d.sq g).state = 4 then (d.errLog r i 3 o).releaseFail r i o true
  else
    let d := d.errLog r i 1 o
    let d := (d.noteQuiet r).modDrill r fun x => { x with phase := .held }
    d.modSq g fun q =>
      { q with held := q.held ++ [⟨r, i, o⟩], state := 3, cause := if q.held = [] then o.status else q.cause }

/-- The record a completion message names, if it names one that is dispatched. -/
def Dev.msgRecord (d : Dev) (x : Msg) : Option Nat :=
  let b := wideBytes x.data
  let a := leAt b 32 8
  let r := (a - d.drillBase) / 8192
  match d.drill? r with
  | none => none
  | some v =>
    if d.drillAddr r = a && v.phase = .dispatched && v.sq = leAt b 40 2 && v.workid.toNat = leAt b 24 8 &&
        v.next = leAt b 22 1 && leAt b 22 1 < v.count then some r else none

/-- COMPLETION_MESSAGE (R322, R359): the ring engine takes the oldest completion message put to it. -/
def execCompletionMessage (s : State) : Res := s.run fun _ d =>
  match d.queue (epKey 0x10 0) with
  | [] => d
  | x :: _ =>
    let d := d.pop (epKey 0x10 0)
    let b := wideBytes x.data
    let fin := bit (leAt b 23 1) 0
    let wid := BitVec.ofNat 64 (leAt b 24 8)
    if d.stale wid then
      let d := d.count .TENANT_STALE_DISCARDS
      match d.msgRecord x with
      | some r => if fin then d.freeDrill r else d.modDrill r fun v => { v with next := v.next + 1, written := v.next + 1 }
      | none => d
    else
      match d.msgRecord x with
      | none => d.report { code := 0x0303, kind := 1, unit := x.sender, master := x.sender }
      | some r => d.entryDone r (leAt b 22 1)
          { status := leAt b 20 2, detail := leAt b 16 4, result := leAt b 0 16 } fin

/-! ### Completion entries (R303, R315, R325 to R329) -/

/-- The ring has nothing in flight: STOPPING becomes STOPPED (R305). -/
def Dev.sqSettle (d : Dev) (g : Nat) : Dev :=
  let q := d.sq g
  if q.state = 2 && q.dispatched = 0 then d.setSq g { q with state := 0 } else d

/-- A completion entry has been written or dropped: it leaves OUTSTANDING, its status goes into the record, and after
the last one the record is free. -/
def Dev.cplDone (d : Dev) (c : HeldCpl) : Dev :=
  let d := d.modSq c.sq fun q => { q with outstanding := q.outstanding - 1 }
  match c.record with
  | none => d
  | some r =>
    let d := d.stBytes (d.drillAddr r + 4608 + 2 * c.entry) (leBytes 2 c.out.status)
    let d := d.modDrill r fun x => { x with written := c.entry + 1 }
    if c.last then
      let won := (d.drill r).won
      let d := d.freeDrill r
      let d := if won then d.modSq c.sq fun q => { q with dispatched := q.dispatched - 1 } else d
      d.sqSettle c.sq
    else d

/-- The entry's 32 bytes (R325). -/
def Dev.cplBytes (d : Dev) (c : HeldCpl) (phase : Bool) : List Byte :=
  leBytes 16 c.out.result ++ leBytes 4 c.out.detail ++ leBytes 2 c.tag ++ leBytes 2 c.out.status ++
    leBytes 2 (d.sqLocal c.sq) ++ leBytes 2 (d.sq c.sq).head ++ leBytes 2 c.index ++ leBytes 1 (b2n c.last) ++
    leBytes 1 (b2n phase)

/-- Sends the ring's message for its unsignalled entries. -/
def Dev.cqSignal (d : Dev) (g : Nat) : Dev :=
  (d.modCq g fun q => { q with unsignalled := 0 }).raiseVector (d.cqFunc g) (d.fld RINGS_CQ_CTL.VECTOR [g])

/-- Removes the first element that satisfies `p`. -/
def takeFirst {α : Type} (p : α → Bool) : List α → Option α × List α
  | [] => (none, [])
  | x :: t => if p x then (some x, t) else let (r, t') := takeFirst p t; (r, x :: t')

/-- Writes one completion entry at TAIL (R325 to R327, R329). -/
def Dev.cqWrite (d : Dev) (g : Nat) (c : HeldCpl) : Dev :=
  let q := d.cq g
  let d := d.hostWrite c.func tagRing (d.cqBase g + 32 * q.tail) none (d.cplBytes c q.phase)
  let d := if c.out.status = stMalformed then d.modSq c.sq fun s => { s with malformed := (s.malformed + 1) % 2 ^ 32 } else d
  let wrap := q.tail + 1 = d.cqSize g
  let d := d.setCq g { q with tail := if wrap then 0 else q.tail + 1, phase := if wrap then !q.phase else q.phase
                              unsignalled := q.unsignalled + 1
                              oldest := if q.unsignalled = 0 then d.now else q.oldest }
  if max 1 (d.fld RINGS_CQ_CTL.COAL_COUNT [g]) ≤ (d.cq g).unsignalled then d.cqSignal g else d

/-- CQ_ENTRY_WRITE (R283, R324 to R329): the oldest completion that waits for completion ring `g` is written, or
dropped while the function may not write. -/
def execCqEntryWrite (g : Nat) (s : State) : Res := s.run fun _ d =>
  if !d.flag RINGS_CQ_BIND.VALID [g] then d
  else
    let f := d.cqFunc g
    match takeFirst (fun c : HeldCpl => c.func = f && c.cq = d.fld RINGS_CQ_BIND.LOCAL [g]) d.ring.cpls with
    | (none, _) => d
    | (some c, rest) =>
      let taken (d : Dev) : Dev := { d with ring := { d.ring with cpls := rest } }
      if c.drop then (taken (d.bmeDrop f)).cplDone c
      else if d.flt.safe then d
      else if !d.fnMaster f then (taken (d.bmeDrop f)).cplDone c
      else if !(d.cq g).running || d.cqFull g then d
      else ((taken d).cqWrite g c).cplDone c

/-- CQ_DOORBELL (R299, R300, R327): a host writes the head doorbell of its completion ring `n`. -/
def execCqDoorbell (f n : Nat) (value : Word) (s : State) : Res := s.run fun _ d =>
  if !d.barOk f then d
  else if d.cqMax f ≤ n then d.barHole f
  else
    match d.findCq f n with
    | none => d
    | some g =>
      let i := value.toNat % 65536
      if d.cqSize g ≤ i then d.ringFault f else d.modCq g fun q => { q with head := i }

/-- CQ_COAL_TIMER (R329): COAL_TIME passes after the oldest unsignalled entry. -/
def execCqCoalTimer (g : Nat) (s : State) : Res := s.run fun _ d =>
  let q := d.cq g
  if q.unsignalled = 0 then d
  else d.at (q.oldest + max 1 (d.fld RINGS_CQ_CTL.COAL_TIME [g]) * 1000) fun d => d.cqSignal g

/-! ### Run control (R303 to R309, R344) -/

/-- STOPPED of a submission ring: STATE is STOPPED, HALTED or CONFIG. -/
def Dev.sqStopped (d : Dev) (g : Nat) : Bool :=
  let s := (d.sq g).state
  s = 0 || s = 4 || s = 5

/-- The ring's settings can be used (R307). -/
def Dev.sqUsable (d : Dev) (g : Nat) : Bool :=
  d.sqBound g && d.sqBase g % min (64 * d.sqSize g) 4096 = 0 && (d.sqCq g).isSome

/-- RUN is written 1 (R305 to R307). -/
def Dev.sqStart (d : Dev) (g : Nat) : Dev :=
  let q := d.sq g
  if q.state = 2 then (d.setSq g { q with state := 1 }).kickFetch g
  else if q.state ≠ 0 then d
  else if !d.sqUsable g then d.setSq g { q with state := 5 }
  else
    let q := if q.changed then { q with head := 0, tail := 0, overtook := false, changed := false } else q
    let f := d.sqFunc g
    if !d.flag HOST_FN_STATE.BME [f] || d.fld HOST_FN_STATE.DSTATE [f] ≠ 0 then
      d.setSq g { q with state := 4, cause := stBmeCleared }
    else (d.setSq g { q with state := 1 }).kickFetch g

/-- RUN is written 0 (R305, R307); FROZEN and HALTED keep their state until their restart (R334). -/
def Dev.sqStop (d : Dev) (g : Nat) : Dev :=
  let q := d.sq g
  if q.state = 1 then d.setSq g { q with state := if q.dispatched = 0 then 0 else 2, cause := stSuccess }
  else if q.state = 5 then d.setSq g { q with state := 0 }
  else d

/-- A write of RINGS_SQ_CTL (R306, R307): LOG2SIZE and CQ also keep their values while entries are outstanding. -/
def Dev.sqCtlWrite (d : Dev) (g : Nat) (w : Wr) : Dev :=
  if !w.accepted .RINGS_SQ_CTL then d.regWrite .RINGS_SQ_CTL [g] w
  else
    let old := d.reg .RINGS_SQ_CTL [g]
    let stopped := d.sqStopped g
    let d' := d.regWrite .RINGS_SQ_CTL [g] w stopped
    let size := d'.fld RINGS_SQ_CTL.LOG2SIZE [g]
    let cq := d'.fld RINGS_SQ_CTL.CQ [g]
    let moved := size ≠ RINGS_SQ_CTL.LOG2SIZE.get old || cq ≠ RINGS_SQ_CTL.CQ.get old
    let d' :=
      if !moved then d'
      else if (d.sq g).outstanding ≠ 0 then
        ((d'.setFld RINGS_SQ_CTL.LOG2SIZE (RINGS_SQ_CTL.LOG2SIZE.get old) [g]).setFld RINGS_SQ_CTL.CQ
          (RINGS_SQ_CTL.CQ.get old) [g]).refuse205 .RINGS_SQ_CTL [g] w
      else d'.modSq g fun q => { q with changed := true }
    let run := d'.flag RINGS_SQ_CTL.RUN [g]
    if w.mask.getLsbD 0 then (if run then d'.sqStart g else d'.sqStop g) else d'

/-- A write of RINGS_SQ_BASE (R306). -/
def Dev.sqBaseWrite (d : Dev) (g : Nat) (w : Wr) : Dev :=
  let old := d.reg .RINGS_SQ_BASE [g]
  let d' := d.regWrite .RINGS_SQ_BASE [g] w (d.sqStopped g && (d.sq g).outstanding = 0)
  if d'.reg .RINGS_SQ_BASE [g] = old then d' else d'.modSq g fun q => { q with changed := true }

/-- SQ_RUN (R305 to R307): a write of RINGS_SQ_CTL with RUN 1. -/
def execSqRun (master g size half : Nat) (value : Word) (s : State) : Res := s.run fun _ d =>
  let w : Wr := ⟨master, size, half, value⟩
  if w.placed.getLsbD 0 then d.sqCtlWrite g w else d

/-- SQ_STOP (R305, R307): a write of RINGS_SQ_CTL with RUN 0. -/
def execSqStop (master g size half : Nat) (value : Word) (s : State) : Res := s.run fun _ d =>
  let w : Wr := ⟨master, size, half, value⟩
  if w.placed.getLsbD 0 then d else d.sqCtlWrite g w

/-- The completion ring's base and vector can be used (R309). -/
def Dev.cqUsable (d : Dev) (g : Nat) : Bool :=
  d.flag RINGS_CQ_BIND.VALID [g] && d.cqBase g % min (32 * d.cqSize g) 4096 = 0 &&
    d.fld RINGS_CQ_CTL.VECTOR [g] < vecCount (d.cqFunc g)

/-- STOPPED of a completion ring: it does not run, and no entry of it is on its way to the host (R308, R309). -/
def Dev.cqStopped (d : Dev) (g : Nat) : Bool :=
  !(d.cq g).running && !d.posted.any fun w => w.toHost && w.master = tagRing && w.unit = d.cqFunc g && w.data.length = 32 &&
    d.cqBase g ≤ w.addr && w.addr < d.cqBase g + 32 * d.cqSize g

/-- A write of RINGS_CQ_CTL (R309). -/
def Dev.cqCtlWrite (d : Dev) (g : Nat) (w : Wr) : Dev :=
  if !w.accepted .RINGS_CQ_CTL then d.regWrite .RINGS_CQ_CTL [g] w
  else
    let old := d.reg .RINGS_CQ_CTL [g]
    let d := d.regWrite .RINGS_CQ_CTL [g] w (d.cqStopped g)
    let d := if d.fld RINGS_CQ_CTL.LOG2SIZE [g] ≠ RINGS_CQ_CTL.LOG2SIZE.get old then
        d.modCq g fun q => { q with changed := true } else d
    if !w.mask.getLsbD 0 then d
    else if !d.flag RINGS_CQ_CTL.RUN [g] then d.modCq g fun q => { q with running := false, config := false }
    else if (d.cq g).running then d
    else if !d.cqUsable g then d.modCq g fun q => { q with config := true }
    else d.modCq g fun q =>
      if q.changed then { q with tail := 0, head := 0, phase := true, config := false, running := true, changed := false }
      else { q with config := false, running := true }

/-- A write of RINGS_CQ_BASE (R309). -/
def Dev.cqBaseWrite (d : Dev) (g : Nat) (w : Wr) : Dev :=
  let old := d.reg .RINGS_CQ_BASE [g]
  let d := d.regWrite .RINGS_CQ_BASE [g] w (d.cqStopped g)
  if d.reg .RINGS_CQ_BASE [g] = old then d else d.modCq g fun q => { q with changed := true }

/-- CQ_RUN (R309): a write of RINGS_CQ_CTL with RUN 1. -/
def execCqRun (master g size half : Nat) (value : Word) (s : State) : Res := s.run fun _ d =>
  let w : Wr := ⟨master, size, half, value⟩
  if w.placed.getLsbD 0 then d.cqCtlWrite g w else d

/-! ### Restart (R334, R335) -/

/-- The ring runs again, or stops if RUN was written 0 meanwhile; rejected drills complete. -/
def Dev.sqRestarted (d : Dev) (g : Nat) : Dev :=
  let run := d.flag RINGS_SQ_CTL.RUN [g]
  let rejects := (d.sq g).rejects
  let d := d.modSq g fun q =>
    { q with state := if run then 1 else if q.dispatched = 0 then 0 else 2
             cause := if run then q.cause else stSuccess
             held := [], rejects := []
             head := if q.changed then 0 else q.head
             tail := if q.changed then 0 else q.tail
             overtook := q.overtook && !q.changed, changed := false }
  (rejects.foldl Dev.pushCpl d).kickFetch g

/-- A write of RINGS_SQ_RESTART: which ACTION GO names, if the write is one. -/
def restartAction (w : Wr) : Option Nat := if bit w.value.toNat 0 then some (bits w.value.toNat 1 2) else none

/-- SKIP (R334): held completions are written, and what is left of their drills runs. -/
def Dev.restartSkip (d : Dev) (g : Nat) : Dev :=
  let held := (d.sq g).held
  let d := held.foldl (fun d h => d.pushCpl (d.cplOf h.drill h.entry h.out false)) d
  let d := held.reverse.foldl (fun d h =>
    if h.entry + 1 < (d.drill h.drill).count then d.redispatch h.drill (h.entry + 1) false
    else d.modDrill h.drill fun x => { x with phase := .ended }) d
  d.sqRestarted g

/-- RETRY (R334): held completions are discarded, and their entries run again. -/
def Dev.restartRetry (d : Dev) (g : Nat) : Dev :=
  let held := (d.sq g).held
  let d := held.reverse.foldl (fun d h =>
    (d.modDrill h.drill fun x => { x with done := tdel x.done h.entry }).redispatch h.drill h.entry true) d
  d.sqRestarted g

/-- RESUME (R334): OWN clears that were dropped are written, then the ring goes on. -/
def Dev.restartResume (d : Dev) (g : Nat) : Dev :=
  let d := (d.sq g).ownDropped.foldl (fun d a => d.hostWrite (d.sqFunc g) tagRing a none [0]) d
  (d.modSq g fun q => { q with ownDropped := [], resumeAt := none }).sqRestarted g

/-- A write of RINGS_SQ_RESTART (R87, R334): the action its STATE accepts, or a contained fault. A RESUME that R334 ignores for
Bus Master Enable 0 takes effect if the enable becomes 1 at the same moment, as R286 has it (`Dev.resumeNow`; DEDUCED,
assumption 132). -/
def Dev.restartWrite (d : Dev) (g : Nat) (w : Wr) : Dev :=
  if !w.accepted .RINGS_SQ_RESTART then d.regWrite .RINGS_SQ_RESTART [g] w
  else
    let f := d.sqFunc g
    match restartAction w with
    | none => d
    | some a =>
      let st := (d.sq g).state
      if st = 3 && a = 1 then d.restartSkip g
      else if st = 3 && a = 2 then d.restartRetry g
      else if st = 4 && a = 0 && d.flag HOST_FN_STATE.BME [f] && d.fld HOST_FN_STATE.DSTATE [f] = 0 then d.restartResume g
      else (if st = 4 && a = 0 then d.modSq g fun q => { q with resumeAt := some d.now } else d).ringFault f

/-- RESTART_SKIP, RESTART_RETRY and RESTART_RESUME (R334, R335): a write of RINGS_SQ_RESTART with that action. -/
def execRestartSkip (master g size : Nat) (s : State) : Res := s.run fun _ d => d.restartWrite g ⟨master, size, 0, 3⟩
def execRestartRetry (master g size : Nat) (s : State) : Res := s.run fun _ d => d.restartWrite g ⟨master, size, 0, 5⟩
def execRestartResume (master g size : Nat) (s : State) : Res := s.run fun _ d => d.restartWrite g ⟨master, size, 0, 1⟩

/-- A ring becomes HALTED (R283, R335): its held failures are released, their completions dropped. -/
def Dev.sqHalt (d : Dev) (g : Nat) : Dev :=
  let q := d.sq g
  if q.state = 1 || q.state = 2 || q.state = 3 then
    let d := d.setSq g { q with state := 4, cause := stBmeCleared, held := [] }
    let d := q.held.foldl (fun d h => d.pushCpl (d.cplOf h.drill h.entry h.out true)) d
    q.held.reverse.foldl (fun d h =>
      if h.entry + 1 < (d.drill h.drill).count then d.redispatch h.drill (h.entry + 1) false
      else d.modDrill h.drill fun x => { x with phase := .ended }) d
  else d

/-- ERRLOG_ACK_WRITE (R333): the acknowledgement never moves back, nor past HEAD. -/
def Dev.errlogAckWrite (d : Dev) (f : Nat) (w : Wr) : Dev :=
  if !w.accepted .RINGS_ERRLOG_ACK then (d.regWrite .RINGS_ERRLOG_ACK [f] w).barHole f
  else
    let old := (d.reg .RINGS_ERRLOG_ACK [f]).toNat
    let new := min (w.over (d.reg .RINGS_ERRLOG_ACK [f])).toNat (d.reg .RINGS_ERRLOG_HEAD [f]).toNat
    if old ≤ new then d.setReg .RINGS_ERRLOG_ACK (BitVec.ofNat 64 new) [f] else d

/-- ERRLOG_ACK_WRITE: the function's host writes RINGS_ERRLOG_ACK. -/
def execErrlogAckWrite (f size half : Nat) (value : Word) (s : State) : Res := s.run fun _ d =>
  if d.barOk f then d.errlogAckWrite f ⟨0x10000 + f, size, half, value⟩ else d

/-! ### Abort by tag (R205, R337 to R339) -/

/-- Some confirmed entry of a drill whose completion has not been written carries a tag. -/
def Drill.matchesTag (x : Drill) (tag : Nat) : Bool :=
  x.entries.zipIdx.any fun p => Entry.tag p.1 = tag && (Entry.isCode p.1 || x.written ≤ p.2)

/-- A drill is caught (R338): its work entries complete ABORTED, in order. -/
def Dev.catchDrill (d : Dev) (r : Nat) : Dev :=
  let x := d.drill r
  let nc := x.nCode
  let wasOpen := x.phase = .opened
  let d := (d.noteQuiet r).putDrill r { x with phase := .caught }
  let d := d.modSq x.sq fun q =>
    { q with openDrill := if wasOpen then none else q.openDrill, ready := q.ready.filter fun n => n ≠ r
             outstanding := if wasOpen then q.outstanding - nc else q.outstanding }
  let cs := (List.range x.count).filter fun i => nc ≤ i
  if cs = [] then d.freeDrill r
  else cs.foldl (fun d i => (d.pushCpl (d.cplOf r i { status := stAborted } false)).touchEntry x.func (x.entry i)) d

/-- ABORT (R337 to R339): the accepted ABORT drill in record `r` takes effect. -/
def execAbort (r : Nat) (s : State) : Res := s.run fun _ d =>
  let x := d.drill r
  if x.phase ≠ .abortReady then d
  else
    let tag := leAt (x.entry 0) 8 2
    let hit := d.ring.drills.filter fun e =>
      e.1 ≠ r && e.2.func = x.func && e.2.phase ≠ .rejected && e.2.matchesTag tag
    let free := hit.filter fun e => !e.2.won && (e.2.phase = .opened || e.2.phase = .accepted || e.2.phase = .abortReady)
    let caught := hit.all fun e => e.2.phase = .caught || free.contains e
    let d := free.foldl (fun d e => d.catchDrill e.1) d
    let st := if hit = [] then 4 else if caught then 2 else 3
    let d := d.modDrill r fun x => { x with phase := .ended }
    d.pushCpl (d.cplOf r 0 { status := st } false)

/-! ### Views (R303, R308) -/

def Dev.sqCtlView (d : Dev) (g : Nat) : Word := RINGS_SQ_CTL.STOPPED.set (d.reg .RINGS_SQ_CTL [g]) (b2n (d.sqStopped g))

def Dev.sqStatusView (d : Dev) (g : Nat) : Word :=
  let q := d.sq g
  BitVec.ofNat 64 (q.head + q.tail * 2 ^ 16 + q.state * 2 ^ 32 + min 16 q.held.length * 2 ^ 36 + q.cause * 2 ^ 48)

def Dev.sqCountView (d : Dev) (g : Nat) : Word :=
  let q := d.sq g
  BitVec.ofNat 64 (q.outstanding % 2 ^ 17 + q.malformed * 2 ^ 32)

def Dev.cqCtlView (d : Dev) (g : Nat) : Word := RINGS_CQ_CTL.STOPPED.set (d.reg .RINGS_CQ_CTL [g]) (b2n (d.cqStopped g))

def Dev.cqStatusView (d : Dev) (g : Nat) : Word :=
  let q := d.cq g
  BitVec.ofNat 64 (q.tail + q.head * 2 ^ 16 + b2n q.phase * 2 ^ 32 + b2n (d.cqFull g) * 2 ^ 33 + b2n q.config * 2 ^ 34)

def Dev.fnCapsView (d : Dev) (f : Nat) : Word := BitVec.ofNat 64 (d.sqMax f + d.cqMax f * 2 ^ 32)

end Sys2Proof.Machine
end

