-- ==== Sys2Proof/Machine/Work.lean ====
section
/-!
DEFINITION. Work entries: how firmware takes up the next entry of a dispatched drill and reports it (R222 to R231,
R316 to R323), and the entries NOP, CODE, RUN and SELFTEST (R232, R238 to R240, R342).
A work command names the drill's record and the entry. Where the entry needs bytes from outside the device, or a
choice that the spec leaves to firmware, the command carries them.
-/

namespace Sys2Proof.Machine

/-! ### Reporting an entry (R320, R322, R323) -/

/-- Firmware puts entry `i`'s completion message, after the entry's writes to host memory. In service mode an unclaimed failure ends the dispatch (R323). -/
def Dev.finishWork (d : Dev) (r i : Nat) (o : Outcome16) : Dev :=
  let x := d.drill r
  if d.stale x.workid then (d.discardStale).freeDrill r
  else
    let stop := d.sqMode x.sq = 0 && failed o.status && !claimed x.entries i
    let fin := stop || i + 1 = x.count
    let b := leBytes 16 o.result ++ leBytes 4 o.detail ++ leBytes 2 o.status ++ leBytes 1 i ++ leBytes 1 (b2n fin) ++
      leBytes 8 x.workid.toNat ++ leBytes 8 (d.drillAddr r) ++ leBytes 2 x.sq
    (d.transmit.modDrill r fun x => { x with busy := true, answer := none }).post (epKey 0x10 0) { workid := x.workid, data := bytesWide b }

/-- Firmware has taken the drill's dispatch message. -/
def Dev.takeDispatch (d : Dev) (r : Nat) : Dev :=
  let ep := epKey 1 (d.fld RINGS_SQ_BIND.DQ [(d.drill r).sq])
  d.setQueue ep ((d.queue ep).filter fun x => leAt x.bytes 0 8 ≠ d.drillAddr r)

/-- The entry waits inside the device. -/
def Dev.workWaits (d : Dev) (r : Nat) : Dev := d.modDrill r fun x => { x with busy := true }

/-- The object ID an entry names for the error log (R332). -/
def Dev.noteObj (d : Dev) (r i obj : Nat) : Dev := d.modDrill r fun x => { x with objs := tset 0 x.objs i obj }

/-- Entry `i` of the drill in record `r` is the next to execute, and may (R223). -/
def Dev.workReady (d : Dev) (r i : Nat) : Bool :=
  match d.drill? r with
  | none => false
  | some x => x.phase = .dispatched && x.next = i && i < x.count && x.written = i && !x.busy && !d.flt.safe

/-- Takes up entry `i` of the drill in record `r` if it is of opcode `op`: a stale drill ends (R359), an entry whose
condition does not hold completes SKIPPED (R230), and otherwise `body` runs. -/
def Dev.workRun (d : Dev) (r i op : Nat) (body : Dev → Drill → Entry → Dev) : Dev :=
  let x := d.drill r
  let e := x.entry i
  if !d.workReady r i || e.opcode ≠ op then d
  else
    let d := d.takeDispatch r
    if d.stale x.workid then d.discardStale.freeDrill r
    else if !condHolds x.done x.nCode i e then (d.touchEntry x.func e).finishWork r i { status := stSkipped }
    else
      let d := if [0x20, 0x21, 0x31, 0x32].contains op then d.noteObj r i (leAt e 8 16) else d
      body d x e

/-! ### Host buffers (R226, R228, R284) -/

/-- The buffer a handle names. -/
def Dev.bufOf (d : Dev) (f h : Nat) : Buf := d.buf f (handleSlot h)
def Buf.tag (b : Buf) : Option Nat := if b.pasidEn then some b.pasid else none

/-- A request of drill `r`'s entry for `n` bytes of host memory: how many of them pass, and the status the entry ends
with where the request fails or may not be made (R234, R273, R284). A write fails only where it needs a translation that
the host refuses (R867). -/
def Dev.hostAsk (d : Dev) (f r addr : Nat) (tag : Option Nat) (n : Nat) (write : Bool) : Nat × Option Nat × Dev :=
  if n = 0 then (0, none, d)
  else if !d.fnMaster f then (0, some stBmeCleared, d.bmeDrop f)
  else
    let send (d : Dev) (n : Nat) : Dev := if write || n = 0 then d else d.sendHostRead f addr n tag
    match (d.drill r).answer with
    | none => (n, none, send d n)
    | some (b, e) =>
      let page := d.atcPage f (addr + b)
      let asks := (d.fn f).atsEn && !d.host.atc.contains { func := f, pasid := tag, page := page }
      if b < n && (if e = 3 then asks else !write) then
        let d := if e = 3 then (send d b).emit (.translationRequest f (d.routingId f) tag page) else send d n
        (b, some (if e = 0 then stHostTimeout else stHostAbort), d.hostFail (hostErrFld e) f (addr + b))
      else (n, none, send (d.modDrill r fun x => { x with answer := some (b - n, e) }) n)

/-- An entry's write to host memory: the bytes that reached it, and the status the entry ends with where it fails. -/
def Dev.hostPut (d : Dev) (f r addr : Nat) (tag : Option Nat) (data : List Byte) : Nat × Option Nat × Dev :=
  let (b, status, d) := d.hostAsk f r addr tag data.length true
  (b, status, if b = 0 then d else d.hostWrite f 0xFFFF addr tag (data.take b))

/-! ### NOP and CODE -/

/-- NOP (R232). -/
def execNop (r i : Nat) (s : State) : Res := s.run fun _ d => d.workRun r i 0x01 fun d _ _ =>
  d.finishWork r i { status := stSuccess }

/-- Instructions that the CODE entries before entry `i` carry. -/
def codeBefore (es : List Entry) (i : Nat) : Nat := ((es.take i).map fun e => leAt e 56 1).foldl (· + ·) 0

/-- CODE (R238, R241): the instructions of a CODE entry stand in the drill's code record. -/
def execCode (r i : Nat) (s : State) : Res := s.run fun _ d =>
  let x := d.drill r
  match d.drill? r, x.code with
  | some _, some c =>
    let e := x.entry i
    if i < x.nCode && (x.phase = .accepted || x.phase = .dispatched) then
      d.stBytes (d.codeBase + 1024 * c + 4 * codeBefore x.entries i) (slice e 8 (4 * leAt e 56 1))
    else d
  | _, _ => d

/-! ### RUN (R239, R240) -/

/-- A slot of a RUN: where firmware stages it, its length and its buffer; `none` for a null handle. -/
structure RunSlot where
  addr : Nat
  len : Nat
  buf : Buf
  deriving DecidableEq, Repr

/-- The slots of a RUN entry. `stage` gives the staging addresses firmware chose. -/
def Dev.runSlots (d : Dev) (f : Nat) (e : Entry) (stage : List Nat) : List (Option RunSlot) :=
  (List.range 4).map fun h =>
    let v := leAt e (8 + 4 * h) 4
    if v = 0 then none
    else
      let b := d.bufOf f v
      some { addr := stage.getD h 0, len := min b.len 1048576, buf := b }

/-- Step 1 of R239 for a slot: its staged copy; `data` holds what the host returns for it. A status is the one the copy
in ends with. -/
def Dev.stageSlot (f r : Nat) (acc : Option Nat × Dev) (slot : Option RunSlot) (data : List Byte) : Option Nat × Dev :=
  match acc, slot with
  | (none, d), some s =>
    if s.buf.read then
      let (_, status, d) := d.hostAsk f r s.buf.base s.buf.tag s.len false
      (status, if status.isSome then d else d.stBytes s.addr (slice data 0 s.len))
    else (none, d.stBytes s.addr (List.replicate s.len 0))
  | _, _ => acc

/-- The copy back of a slot (R239). -/
def Dev.slotBack (f r : Nat) (m : Mem) (acc : Option Nat × Dev) (slot : Option RunSlot) : Option Nat × Dev :=
  match acc, slot with
  | (none, d), some s =>
    if s.buf.write then
      let (_, status, d) := d.hostPut f r s.buf.base s.buf.tag (d.ldBytes m s.addr s.len)
      (status, d)
    else acc
  | _, _ => acc

/-- The registers a RUN starts with: ARG1 to ARG3, the previous entry's status, DBUDGET and the slots (R239), and those
DENTER gives (R120). -/
def runRegs (e : Entry) (prev : Nat) (slots : List (Option RunSlot)) (dcode dlen : Nat) (wid : Word) : Regs :=
  let g := (List.range 3).foldl (fun g j => tset 0 g (j + 1) (BitVec.ofNat 64 (leAt e (24 + 8 * j) 8))) []
  let bind (f : RunSlot → Word) (t : Tbl Word) (h : Nat) : Tbl Word :=
    match slots[h]?.join with
    | some s => tset 0 t h (f s)
    | none => t
  { g := tset 0 g 4 (BitVec.ofNat 64 prev), pc := pcOf dcode, drill := true, dcode := BitVec.ofNat 64 dcode,
    dlen := BitVec.ofNat 64 dlen, dbudget := BitVec.ofNat 64 (leAt e 48 4), workid := wid,
    hbase := (List.range 4).foldl (bind fun s => BitVec.ofNat 64 s.addr) [],
    hlim := (List.range 4).foldl (bind fun s => BitVec.ofNat 64 (s.len + b2n s.buf.write * 2 ^ 62 + 2 ^ 63)) [] }

/-- A fault's EVAL as the host sees it: where it is an address, the signed offset from DCODE (R239). The address of a
misaligned JALR and the offset of a misaligned handle access are told apart by the instruction at EPC, and a bad fetch from a
handle access to bad data by the memory at EPC. -/
def runEval (d : Dev) (m : Mem) (r : Regs) : Nat :=
  let c := r.ecause.toNat
  let jalr := d.ldWord m r.epc.toNat >>> 26 = 0x2F
  if c = 4 || c = 7 || (c = 12 && d.poisoned r.epc.toNat 4) || (c = 3 && jalr) then (r.eval - r.dcode).toNat else r.eval.toNat

/-- The unused ticket of entry `i` of a drill whose code stands in record `c`, issued to strand `k`, and its number (R242). -/
def Dev.ticketOf (d : Dev) (c i k : Nat) : Option (Nat × Ticket) :=
  d.tine.tickets.find? fun e => bits e.1 16 12 = c && bits e.1 28 6 = i && e.2.strand = k && !e.2.used

/-- RUN (R239, R240): `k` is the strand in which the drill's code runs, which the RUN's ticket names and DENTER marks
used; without such a ticket the command has no effect. `stage` is where firmware stages the slots, and `data` what the host
returns for each readable buffer. The strand's own registers are firmware's and stay. -/
def execRun (r i k : Nat) (stage : List Nat) (data : List (List (BitVec 8))) (s : State) : Res :=
  s.run fun m d =>
    match d.ticketOf ((d.drill r).code.getD 0) i k with
    | none => d
    | some (v, t) => if !d.canIssue k || (d.strand k).regs.drill then d else d.workRun r i 0x03 fun d x e =>
    let f := x.func
    if !d.handlesOk f e then d.finishWork r i { status := stHandleInvalid }
    else
      let slots := d.runSlots f e stage
      match slots.zipIdx.foldl (fun acc p => Dev.stageSlot f r acc p.1 (data.getD p.2 [])) (none, d) with
      | (some status, d) => d.finishWork r i { status := status }
      | (none, d) =>
        let prev := if i = x.nCode then 0xFFFF else tget 0xFFFF x.done (i - 1)
        let saved := d.strand k
        let posted := d.posted
        let tine := { d.tine with tickets := tput d.tine.tickets v { t with used := true } }
        let regs := runRegs e prev slots t.dcode.toNat t.dlen.toNat t.workid
        let d := drillRun m k (leAt e 48 4 + 1) (({ d with posted := [] }).alone k regs)
        let after := (d.strand k).regs
        let d := ({ d with posted := posted, tine := tine }).setStrand k
          { saved with regs := { saved.regs with retired := saved.regs.retired + after.retired } }
        if after.inex then
          d.finishWork r i { status := stDrillFault, result := after.ecause.toNat + runEval d m after * 2 ^ 64 }
        else
          match slots.foldl (Dev.slotBack f r m) (none, d) with
          | (some status, d) => d.finishWork r i { status := status }
          | (none, d) => d.finishWork r i { status := stSuccess, result := (after.rd 1).toNat + (after.rd 2).toNat * 2 ^ 64 }

/-! ### SELFTEST (R342) -/

/-- Some other drill than the one in record `r` keeps a self-test of those plots from running. -/
def Dev.otherDrills (d : Dev) (r : Nat) (plots : List Nat) : Bool :=
  d.ring.drills.any fun e => e.1 ≠ r && d.conflicts e.2 plots

/-- A self-test comes to a check boundary: it pauses there for other drills, or runs `n` further checks, after which it is at
a boundary again or has ended. -/
def Dev.selftestGo (d : Dev) (t : SelfTest) (n : Nat) : Dev :=
  let keep (x : SelfTest) : Dev :=
    { d with ring := { d.ring with tests := (d.ring.tests.filter fun y => y.drill ≠ t.drill) ++ [x] } }
  if d.otherDrills t.drill t.plots then keep { t with paused := true }
  else if n < t.left then keep { t with paused := false, left := t.left - n }
  else
    let d := { d with ring := { d.ring with tests := d.ring.tests.filter fun y => y.drill ≠ t.drill } }
    d.finishWork t.drill t.entry { status := stSuccess, result := t.run + t.failed * 2 ^ 64 }

/-- SELFTEST (R342): `checks` of them in all, at least one, of which `bad` fail: the image's choice. `n` checks run before
another command can meet the test at a boundary. -/
def execSelftest (r i checks bad n : Nat) (plots : List Nat) (s : State) : Res :=
  s.run fun _ d => d.workRun r i 0x40 fun d _ _ =>
    let all := max 1 checks
    (d.workWaits r).selftestGo { drill := r, entry := i, plots := plots, run := all, failed := min bad all, left := all
                                 quietFrom := d.now } n

/-- SELFTEST_RESUME (R342): the self-test of drill `r` goes on at its check boundary with `n` checks, a paused one once no
conflicting drill has existed for 1 ms. -/
def execSelftestResume (r n : Nat) (s : State) : Res := s.run fun _ d =>
  match d.ring.tests.find? fun t => t.drill = r with
  | none => d
  | some t =>
    if t.paused then
      if d.otherDrills r t.plots then d else d.at (t.quietFrom + 1000000) fun d => d.selftestGo t n
    else d.selftestGo t n

end Sys2Proof.Machine
end

