-- ==== Sys2Proof/Machine/Media.lean ====
section
/-!
DEFINITION. Media format, generation 3, as bytes: row headers, sheaf descriptors and ledger records, and the writing
of rows at placements (R418 to R422, R551 to R581).
-/

namespace Sys2Proof.Machine

/-! ### Places and times -/

/-- This device's node number, and the place fields of an object ID (R20, R24). -/
def Dev.node (d : Dev) : Nat := (d.reg .DEVICE_PLACE).toNat % 2 ^ 24 / 64 * 64

/-- The object ID of an issuer serial (R24, R379). -/
def Dev.objectId (d : Dev) (serial : Nat) : Nat :=
  serial % 2 ^ 82 + d.fld DEVICE_PLACE.DEVICE * 2 ^ 82 + d.fld DEVICE_PLACE.HOLDING * 2 ^ 88 +
    d.fld DEVICE_PLACE.COMMON * 2 ^ 100 + d.fld DEVICE_PLACE.ESTATE * 2 ^ 112

/-- Time of day: seconds in 48 bits, nanoseconds and quality. -/
def Dev.stamp (d : Dev) : Nat × Nat × Nat := ((d.todSec % 2 ^ 48).toNat, d.todNs, d.quality)

/-- A structure's bytes with its CRC-32C in the last four (R551). -/
def withCrc (l : List Byte) : List Byte := l ++ leBytes 4 (crc32c l).toNat

/-- The CRC in the last four bytes checks. -/
def crcOk (l : List Byte) : Bool :=
  leAt l (l.length - 4) 4 = (crc32c (l.take (l.length - 4))).toNat

/-! ### Target labels (R554, R555, R582, R859) -/

/-- A label names its generation: bytes 0 to 2 and 4 (R589), the letter and the CRC of that generation. -/
def labelIs (gen : Nat) (b : List Byte) : Bool :=
  b.take 5 = [0x54, 0x47, 0x4D, BitVec.ofNat 8 (0x30 + gen), BitVec.ofNat 8 gen] && crcOk (slice b 0 256)

/-- A target with this label is in service for rows in an estate (R555). -/
def labelServes (estate : Nat) (b : List Byte) : Bool := labelIs 3 b && leAt b 10 2 = estate && leAt b 6 2 = 0

/-- A label of a later generation, or with a feature that a reader must know (R590, R591). -/
def labelLater (b : List Byte) : Bool :=
  b.take 3 = [0x54, 0x47, 0x4D] && (3 < leAt b 4 1 || (leAt b 4 1 = 3 && leAt b 6 2 ≠ 0))

def labelRows (b : List Byte) : Nat := leAt b 44 4
def labelRowLba (b : List Byte) : Nat := leAt b 48 8

/-- The label firmware has read of a target. -/
def Dev.label (d : Dev) (t : Nat) : List Byte := (tfind d.stg.labels t).getD []

/-- Target `t` of this device is in service for rows. -/
def Dev.inService (d : Dev) (t : Nat) : Bool := d.targetPresent t && labelServes (d.fld DEVICE_PLACE.ESTATE) (d.label t)

/-- A row may lie at this placement: on another node, or within the rows of a local target in service (R555, R859). -/
def Dev.canPlace (d : Dev) (p : Place) : Bool := p.1 ≠ d.node || (d.inService p.2.1 && p.2.2 < labelRows (d.label p.2.1))

/-- The first block of a row of a target (R553). -/
def Dev.rowLba (d : Dev) (t row : Nat) : Nat := labelRowLba (d.label t) + 17 * row

/-- Firmware has read the label of target `t`; one of a later generation is reported (R591). -/
def Dev.labelRead (d : Dev) (t : Nat) (b : List Byte) : Dev :=
  let d := { d with stg := { d.stg with labels := tput d.stg.labels t (slice b 0 256) } }
  if labelLater b then d.report { code := 0x0405, kind := 8, unit := t, node := d.node } else d

/-- What an NVMe command's entry asks for at target `t`, in the NVM command set's layout (PRESUMED, assumption 145). -/
def Dev.nvmeOp (d : Dev) (t : Nat) (e : List Byte) : NvmeOp :=
  let lba := leAt e 40 8
  let row := (lba - labelRowLba (d.label t)) / 17
  if leAt e 0 1 = 1 && leAt e 48 2 = 16 && bit (leAt e 48 4) 30 && lba = d.rowLba t row && d.canPlace (d.node, t, row) then .row row
  else if leAt e 0 1 = 2 && lba = 0 then .label else .other

/-! ### Row headers (R560 to R562) -/

/-- The fields of a row header. -/
structure RowHead where
  kind : Nat := 1
  tenant : Nat
  object : Nat
  sheaf : Nat
  grain : Nat := 0
  valid : Nat := 0
  pos : Nat
  k : Nat
  m : Nat
  g : Nat
  hash : Nat
  kp : Nat
  prof : Nat
  last : Bool := false
  epoch : Nat := 0
  node : Nat
  version : Nat := 0
  sec : Nat
  ns : Nat
  quality : Nat
  digest : List Byte
  deriving DecidableEq, Repr

/-- Bytes 0 to 255 of a header block (R560). -/
def RowHead.bytes (h : RowHead) : List Byte :=
  withCrc ([0x54, 0x47, 0x57, 0x33, 3] ++ leBytes 1 h.kind ++ leBytes 6 0 ++ leBytes 4 h.tenant ++ leBytes 16 h.object ++
    leBytes 4 h.sheaf ++ leBytes 4 h.grain ++ leBytes 4 h.valid ++ leBytes 1 h.pos ++ leBytes 1 h.k ++ leBytes 1 h.m ++
    leBytes 1 h.g ++ leBytes 1 h.hash ++ leBytes 1 h.kp ++ leBytes 1 h.prof ++ leBytes 1 (b2n h.last) ++
    leBytes 2 h.epoch ++ leBytes 2 0 ++ leBytes 4 h.node ++ leBytes 4 h.version ++ leBytes 6 h.sec ++ leBytes 2 0 ++
    leBytes 4 h.ns ++ leBytes 1 h.quality ++ leBytes 3 0 ++ slice h.digest 0 32 ++ leBytes 140 0)

/-- A header block: the row header, then bytes 256 to 4,095. -/
def headBlock (h : RowHead) (rest : List Byte) : List Byte := h.bytes ++ slice rest 0 3840

/-- The identity and feature fields a reader tests first (R589 to R591): `none` where the row is of a later generation
or has an unknown feature; else whether the header checks (R562). -/
def rowChecks (b : List Byte) : Option Bool :=
  if b.take 3 = [0x54, 0x47, 0x57] && (3 < leAt b 4 1 || (leAt b 4 1 = 3 && leAt b 6 2 ≠ 0)) then none
  else some (b.take 5 = [0x54, 0x47, 0x57, 0x33, 3] && crcOk (slice b 0 256))

/-- A row's payload. -/
def rowPayload (b : List Byte) : List Byte := slice b 4096 65536

/-! ### Sheaf descriptors (R565 to R567) -/

/-- A PLACE entry; an absent position has none (R565). -/
def placeEntry (p : Option Place) : List Byte :=
  match p with
  | some (n, t, r) => leBytes 4 n ++ leBytes 2 t ++ leBytes 2 0 ++ leBytes 4 r ++ leBytes 4 0
  | none => leBytes 4 0xFFFFFFFF ++ leBytes 12 0

/-- Bytes 256 to 4,095 of a descriptor row. `places` goes by position up to w. -/
def descBlock (n : Nat) (tally : List Byte) (opened : Bool) (places : List (Option Place)) (pdig : List (List Byte)) : List Byte :=
  withCrc (leBytes 8 n ++ slice tally 0 32 ++ leBytes 1 (b2n opened) ++ leBytes 23 0 ++
    slice (places.flatMap placeEntry) 0 1344 ++ slice (pdig.flatMap fun p => slice p 0 32) 0 640 ++ leBytes 1788 0)

/-- A descriptor row checks, and is of this object and sheaf (R562, R567). -/
def descOk (obj sheaf hash : Nat) (b : List Byte) : Bool :=
  rowChecks b = some true && leAt b 5 1 = 2 && leAt b 16 16 = obj && leAt b 32 4 = sheaf &&
    crcOk (slice b 256 3840) && hashH hash (rowPayload b) = slice b 80 32

/-- A PLACE entry at a byte of a descriptor row. -/
def placeAt (b : List Byte) (o : Nat) : Option Place :=
  if leAt b o 4 = 0xFFFFFFFF then none else some (leAt b o 4, leAt b (o + 4) 2 % 4096, leAt b (o + 8) 4)

/-- The fields of a descriptor row. -/
def descPlace (b : List Byte) (q : Nat) : Option Place := placeAt b (320 + 16 * q)
def descPdig (b : List Byte) (t : Nat) : List Byte := slice b (1664 + 32 * t) 32

/-- The tally path of data position `j` of a sheaf, from its path table (R566). -/
def descPath (b : List Byte) (k sheaf j : Nat) : List (List Byte) :=
  let n := leAt b 256 8
  let len (i : Nat) : Nat := pathLen 40 (sheaf * k + i) n
  let before := ((List.range j).map len).foldl (· + ·) 0
  digestList (len j) (slice (rowPayload b) (32 * before) (32 * len j))

/-- A path table's payload. -/
def pathTable (paths : List (List (List Byte))) : List Byte := slice (paths.flatten.flatten) 0 65536

/-! ### Generation 2 (R583 to R586) -/

/-- A generation-2 row header checks (R583). -/
def oldRowChecks (b : List Byte) : Bool := b.take 5 = [0x54, 0x47, 0x57, 0x32, 2] && crcOk (slice b 0 128)

/-- A generation-2 descriptor row of this object and sheaf, whose digest is that of its payload. -/
def oldDescOk (obj sheaf : Nat) (b : List Byte) : Bool :=
  oldRowChecks b && leAt b 5 1 = 2 && leAt b 8 16 = obj && leAt b 32 4 = sheaf && sha256 (rowPayload b) = slice b 48 32

/-- Its PLACE entries and digests, by position; DDIG has 32 entries and PDIG follows (R584). -/
def oldPlace (b : List Byte) (q : Nat) : Option Place := placeAt b (4096 + 16 * q)
def oldDigest (b : List Byte) (k q : Nat) : List Byte := slice (rowPayload b) (640 + 32 * (if q < k then q else 32 + (q - k))) 32

/-- A generation-2 seal record (R586). -/
def oldRecord (r : List Byte) : Bool := r.length = 128 && r.take 6 = [0x54, 0x47, 0x45, 0x32, 2, 1]

/-- The chain of PREV digests from the first of these records reaches the ledger head whose SHA-256 is `head` (R587). -/
def oldChain (head : List Byte) : List (List Byte) → Bool
  | [] => false
  | [r] => sha256 r = head
  | r :: n :: t => sha256 r = slice n 80 32 && oldChain head (n :: t)

/-! ### Rows at placements (R418 to R420, R558) -/

/-- Puts a row at a placement where a row may lie (R555, R859). -/
def Dev.storeRow (d : Dev) (p : Place) (data : List Byte) : Dev :=
  if d.flt.safe || !d.canPlace p then d
  else d.emit (if p.1 = d.node then .rowWrite p.2.1 (d.rowLba p.2.1 p.2.2) data else .rowSend p.1 p.2.1 p.2.2 data)

/-- Writes a row where firmware placed it: a local row's bit is set first (R558). -/
def Dev.writeRow (d : Dev) (p : Place) (data : List Byte) : Dev :=
  (if p.1 = d.node && d.canPlace p then d.emit (.rowAlloc p.2.1 p.2.2) else d).storeRow p data

/-- Frees a local row; of a target that is not in service nothing is written (R555). -/
def Dev.dropRow (d : Dev) (p : Place) : Dev :=
  if p.1 = d.node && d.inService p.2.1 then d.emit (.rowFree p.2.1 p.2.2) else d

/-- The placements of a sheaf's rows: firmware's choices in order, each of them `ok` and none on a target already used in the
sheaf (R418); any other choice counts as no room. -/
def assignRows (ok : Place → Bool) (sheaf : Nat) : List Nat → List (Nat × Nat) → List Place → List RowW × List Place
  | [], _, ps => ([], ps)
  | q :: t, used, [] =>
    let rest := assignRows ok sheaf t used []
    (⟨sheaf, q, none, false⟩ :: rest.1, rest.2)
  | q :: t, used, p :: ps =>
    if used.contains (p.1, p.2.1) || !ok p then
      let rest := assignRows ok sheaf t used ps
      (⟨sheaf, q, none, false⟩ :: rest.1, rest.2)
    else
      let rest := assignRows ok sheaf t ((p.1, p.2.1) :: used) ps
      (⟨sheaf, q, some p, false⟩ :: rest.1, rest.2)

/-- Every row is on media. -/
def rowsDone (l : List RowW) : Bool := l.all RowW.durable

/-- Marks the row at a placement as on media, in a list. -/
def markRow (p : Place) (l : List RowW) : List RowW := l.map fun r => if r.place = some p then { r with durable := true } else r

/-- A row of a list lies, or is being written, at a placement. -/
def hasRow (p : Place) (l : List RowW) : Bool := l.any fun r => r.place = some p && !r.durable

/-! ### Ledger records (R570 to R572) -/

/-- Bytes 0 to 223 of a record. -/
def recordHead (q : LedgerReq) (seq : Nat) (prev : List Byte) : List Byte :=
  [0x54, 0x47, 0x45, 0x33, 3] ++ leBytes 1 q.kind ++ leBytes 2 0 ++ leBytes 8 seq ++ leBytes 4 q.tenant ++
    leBytes 4 q.node ++ leBytes 16 q.object ++ leBytes 6 q.sec ++ leBytes 2 0 ++ leBytes 4 q.ns ++ leBytes 1 q.quality ++
    leBytes 1 q.label ++ leBytes 2 q.epoch ++ slice prev 0 32 ++ slice q.body 0 104 ++ leBytes 32 0

/-- A record's digest (R571). -/
def recordDigest (r : List Byte) : List Byte := sha256 r

/-- The key of a record's MAC (R571). -/
def Dev.recordKey (d : Dev) (kind tenant object epoch : Nat) : List Byte × Dev :=
  let code := if kind = 1 then 0x02 else 0x03
  let (o, d) := d.deriveKey code tenant object epoch
  (macKey code o.1, d)

/-- A record's MAC verifies. -/
def Dev.recordOk (d : Dev) (r : List Byte) : Bool × Dev :=
  let (key, d) := d.recordKey (leAt r 5 1) (leAt r 16 4) (leAt r 24 16) (leAt r 54 2)
  (decide (hmac256 key (slice r 0 224) = slice r 224 32), d)

/-- Segment `j`'s object ID (R575). -/
def Dev.segmentId (d : Dev) (tenant j : Nat) : Nat :=
  j % 2 ^ 48 + tenant * 2 ^ 48 + (2 ^ 30 - 1) * 2 ^ 82 + d.fld DEVICE_PLACE.ESTATE * 2 ^ 112

end Sys2Proof.Machine
end

