-- ==== Sys2Proof/Machine/Sow.lean ====
section
/-!
DEFINITION. Sowing: object IDs and serial epochs, profiles, sessions, the frontier, grain buffers, sealing, and the
tenants' ledgers (R353 to R356, R379 to R430, R570 to R581, R869, R870).
-/

namespace Sys2Proof.Machine

/-! ### Sessions -/

def SowSess.shape (s : SowSess) : Shape := { k := s.k, m := s.m, g := s.g, hash := s.hash }

/-- Sessions in OPEN or SEALING (DEVICE_SOW_STATUS.OPEN). -/
def Dev.openSessions (d : Dev) : Nat := (d.sow.sess.filter fun e => e.2.phase ≠ .expired).length

/-- Grain buffers in the HBM write buffer (DEVICE_SOW_STATUS.SPILLED). -/
def Dev.spilled (d : Dev) : Nat :=
  (d.sow.sess.map fun e => e.2.hbm + (e.2.sheaves.map SowSheaf.hbm).foldl (· + ·) 0).foldl (· + ·) 0

def Dev.sowStatusView (d : Dev) : Word := BitVec.ofNat 64 (d.openSessions % 2 ^ 21 + d.spilled % 2 ^ 24 * 2 ^ 32)

/-- A SOW_OPEN naming profile `n` has been accepted and not executed. -/
def Dev.openPending (d : Dev) (n : Nat) : Bool :=
  d.ring.drills.any fun e => (e.2.phase = .accepted || e.2.phase = .dispatched || e.2.phase = .held) &&
    e.2.entries.zipIdx.any fun p => e.2.next ≤ p.2 && leAt p.1 0 1 = 0x10 && leAt p.1 12 1 % 16 = n

/-- DEVICE_PROFILE.IDLE (R392). -/
def Dev.profileIdle (d : Dev) (n : Nat) : Bool :=
  !d.flag DEVICE_PROFILE.EN [n] && !(d.sow.sess.any fun e => e.2.prof = n && e.2.phase ≠ .expired) && !d.openPending n

def Dev.profileView (d : Dev) (n : Nat) : Word :=
  DEVICE_PROFILE.IDLE.set (d.reg .DEVICE_PROFILE [n]) (b2n (d.profileIdle n))

/-- A write of DEVICE_PROFILE: discarded whole where the shape it leaves breaks R393; K, M, G and HASH change only while
the profile is stopped (R394). -/
def Dev.profileWrite (d : Dev) (n : Nat) (w : Wr) : Dev :=
  if !w.accepted .DEVICE_PROFILE then d.regWrite .DEVICE_PROFILE [n] w
  else
    let v := w.over (d.reg .DEVICE_PROFILE [n])
    let s : Shape := { k := DEVICE_PROFILE.K.get v, m := DEVICE_PROFILE.M.get v, g := DEVICE_PROFILE.G.get v }
    if s.ok then d.regWrite .DEVICE_PROFILE [n] w (d.profileIdle n) else d.refuse206 .DEVICE_PROFILE [n] w

/-- PROFILE_WRITE (R393 to R395). -/
def execProfileWrite (master n size half : Nat) (value : Word) (s : State) : Res := s.run fun _ d =>
  if n < 16 then d.profileWrite n ⟨master, size, half, value⟩ else d

/-! ### Grain buffers (R353 to R356, R415, R416) -/

/-- Grain buffers function `f` holds. -/
def Dev.grains (d : Dev) (f : Nat) : Nat := d.fld TENANT_STATE.GRAINS [f]

/-- LIMIT as it acts (R351). -/
def Dev.grainLimit (d : Dev) (f : Nat) : Nat :=
  let l := d.fld TENANT_POOL.LIMIT [f]
  max (d.fld TENANT_POOL.RESV [f]) (if l = 0 then d.fld TENANT_POOL_TOTAL.COUNT else l)

/-- The functions that have sessions, each once. -/
def Dev.sowFuncs (d : Dev) : List Nat := (d.sow.sess.map fun e => sessFunc e.1).eraseDups

/-- The sum over every function of the greater of its RESV and its GRAINS (R354). -/
def Dev.poolSum (d : Dev) : Nat :=
  d.sowFuncs.foldl (fun n f => n + (d.grains f - d.fld TENANT_POOL.RESV [f])) (d.fld TENANT_POOL_RESV.COUNT)

/-- Buffers free in the sowing area of plot `p`, and in the HBM write buffer (R415). -/
def Dev.areaFree (d : Dev) (p : Nat) : Nat := tget 0 d.sow.area p - tget 0 d.sow.areaUsed p
def Dev.hbmFree (d : Dev) : Nat := bits d.boot.writeBuf 0 24 - d.spilled

/-- `n` more buffers lie within what function `f` has reserved. -/
def Dev.inReserve (d : Dev) (f n : Nat) : Bool := d.grains f + n ≤ d.fld TENANT_POOL.RESV [f]

/-- The session may take `n` more buffers: its function is entitled to them (R354), and they are free where the session takes
buffers (R415). -/
def Dev.mayTake (d : Dev) (key n : Nat) : Bool :=
  let f := sessFunc key
  let h := d.grains f
  let resv := d.fld TENANT_POOL.RESV [f]
  let plot := ((d.sess? key).map SowSess.plot).getD 0
  n ≤ d.areaFree plot + d.hbmFree &&
    (d.inReserve f n ||
      (h + n ≤ d.grainLimit f && d.poolSum + ((h + n - resv) - (h - resv)) ≤ d.fld TENANT_POOL_TOTAL.COUNT))

/-- The buffers that the first byte of the session's next grain takes: its own and, where a sheaf begins with it, the
parity buffers (R416). -/
def SowSess.need (s : SowSess) : Nat :=
  let first : Bool := if s.part.length = grainLen then s.cur.length + 1 = s.k else s.cur = []
  1 + if first then s.m + s.g else 0

/-- The buffers that a waiting request needs next. -/
def Dev.waitNeed (d : Dev) (w : SowWait) : Nat :=
  match d.sess? w.key with
  | some s => s.need
  | none => 1

/-- A waiting request that a buffer could go to now. -/
def Dev.couldGrant (d : Dev) (w : SowWait) : Bool := !w.frontier && d.mayTake w.key (d.waitNeed w)

/-- The session receives `n` buffers without waiting: its function's own reserve holds them, or they are free in the shared part
of the pool and no earlier request waits for them (R354). -/
def Dev.getsBuffers (d : Dev) (key n : Nat) : Bool :=
  d.mayTake key n && (d.inReserve (sessFunc key) n || !d.sow.waits.any d.couldGrant)

/-- A session takes `n` buffers for a grain, from its home plot's sowing area while one is free there (R415). -/
def Dev.takeBuffers (d : Dev) (key n : Nat) : Dev :=
  match d.sess? key with
  | none => d
  | some s =>
    let f := sessFunc key
    let a := min n (d.areaFree s.plot)
    let d := d.setFld TENANT_STATE.GRAINS (d.grains f + n) [f]
    let d := d.putSess key { s with sram := tset 0 s.sram s.plot (tget 0 s.sram s.plot + a), hbm := s.hbm + (n - a)
                                    took := (s.plot, a, n - a) }
    { d with sow := { d.sow with areaUsed := tset 0 d.sow.areaUsed s.plot (tget 0 d.sow.areaUsed s.plot + a) } }

/-- Buffers are freed: in the plots' sowing areas, and in HBM. -/
def Dev.freeBuffers (d : Dev) (f : Nat) (sram : Tbl Nat) (hbm : Nat) : Dev :=
  let n := (sram.map Prod.snd).foldl (· + ·) hbm
  let d := d.setFld TENANT_STATE.GRAINS (d.grains f - n) [f]
  let used := sram.foldl (fun t e => tset 0 t e.1 (tget 0 t e.1 - e.2)) d.sow.areaUsed
  { d with sow := { d.sow with areaUsed := used } }

/-- A session holds buffers in plot `p`'s SRAM. -/
def SowSess.holdsAt (s : SowSess) (p : Nat) : Bool := tget 0 s.sram p ≠ 0 || s.sheaves.any fun h => tget 0 h.sram p ≠ 0

/-- Every buffer that the session holds is freed. -/
def Dev.freeSess (d : Dev) (f : Nat) (s : SowSess) : Dev :=
  s.sheaves.foldl (fun d h => d.freeBuffers f h.sram h.hbm) (d.freeBuffers f s.sram s.hbm)

/-- FN's count of writes that wait for buffers, which holds its rings' fetches (R428). -/
def Dev.countWaits (d : Dev) (f : Nat) : Dev :=
  let n := (d.sow.waits.filter fun w => !w.frontier && sessFunc w.key = f).length
  let was := (d.fn f).sowWaits
  let d := d.modFn f fun x => { x with sowWaits := n }
  if was ≠ 0 && n = 0 then d.kickAsked f else d

/-! ### Idle time (R402) -/

/-- Some work entry naming the session executes or waits. -/
def Dev.sessBusy (d : Dev) (key : Nat) : Bool := d.sow.waits.any fun w => w.key = key

/-! ### Rows of a sheaf (R412, R413, R418, R436, R560, R564) -/

/-- The header of position `q`'s row of a closed sheaf. `len` is the object's length where the seal has settled it. -/
def Dev.sheafHead (d : Dev) (s : SowSess) (h : SowSheaf) (q : Nat) (len : Option Nat) : RowHead :=
  let t := d.stamp
  let data := q < s.k
  let gi := h.idx * s.k + q
  let last := data && (match len with
    | some n => gi + 1 = max 1 ((n + 65535) / 65536)
    | none => false)
  let valid := if !data then 0 else if last then len.getD 0 - gi * 65536 else 65536
  { tenant := s.tenant, object := s.obj, sheaf := h.idx, grain := if data then gi else 0, valid := valid, pos := q,
    k := s.k, m := s.m, g := s.g, hash := s.hash, kp := h.kp, prof := s.prof, last := last, epoch := s.epoch, node := d.node,
    sec := t.1, ns := t.2.1, quality := t.2.2, digest := h.digs.getD q [] }

/-- Writes the rows of a sheaf that have a placement and are not yet on media. -/
def Dev.writeSheaf (d : Dev) (s : SowSess) (h : SowSheaf) (len : Option Nat) : Dev :=
  h.rows.foldl (fun d r =>
    match r.place with
    | some p => if r.durable then d else d.writeRow p (headBlock (d.sheafHead s h r.pos len) [] ++ h.grains.getD r.pos [])
    | none => d) d

/-- A sheaf closes (R413, R436): parity, digests and placements of its present positions. -/
def closeSheaf (ok : Place → Bool) (s : SowSess) (ps : List Place) : SowSheaf × List Place :=
  let n := s.shape
  let kp := s.cur.length
  let data := s.cur ++ List.replicate (s.k - kp) zeroGrain
  let grains := s.cur ++ List.replicate (s.k - kp) [] ++ parityGrains n grainLen data
  let idx := s.sheaves.length
  let qs := (List.range n.w).filter fun q => q < kp || s.k ≤ q
  let a := assignRows ok idx qs [] ps
  ({ idx := idx, kp := kp, grains := grains, digs := grains.map fun g => if g = [] then [] else hashH s.hash g,
     rows := a.1, sram := s.sram, hbm := s.hbm }, a.2)

/-- The sheaf being filled joins the closed ones, and its rows are written. -/
def Dev.closeCur (d : Dev) (key : Nat) (ps : List Place) (len : Option Nat) : Dev × List Place :=
  match d.sess? key with
  | none => (d, ps)
  | some s =>
    let c := closeSheaf d.canPlace s ps
    let d := d.putSess key { s with sheaves := s.sheaves ++ [c.1], cur := [], sram := [], hbm := 0 }
    (d.writeSheaf s c.1 len, c.2)

/-- The home plot can encrypt and fold (R414); firmware homes a session on the first plot that can (assumption 16). -/
def Dev.plotSows (d : Dev) (p : Nat) : Bool := p < 4 && !d.gatedBlock p 0 && !d.gatedBlock p 1
def Dev.homePlot (d : Dev) (p : Nat) : Option Nat := (p :: List.range 4).find? d.plotSows

/-- GRAIN_COMPLETE (R412, R413): the incomplete grain, filled to 64 KiB, is encrypted, hashed and folded; `none` where no
plot can. -/
def Dev.completeGrain (d : Dev) (key : Nat) (ps : List Place) : Option (Dev × List Place) :=
  match d.sess? key with
  | none => none
  | some s =>
    match d.homePlot s.plot with
    | none => none
    | some p =>
      let (o, d) := d.deriveKey 0x01 s.tenant s.obj s.epoch
      let ct := grainEnc o.1 s.digests.length (slice s.part 0 grainLen)
      let s := { s with plot := p, part := [], cur := s.cur ++ [ct], digests := s.digests ++ [hashH s.hash ct] }
      let d := d.putSess key s
      if s.cur.length = s.k then some (d.closeCur key ps none) else some (d, ps)

/-! ### SOW_OPEN (R379 to R384) -/

/-- LOW follows COUNT and NEXT.VALID; a rise is a notice (R397). -/
def Dev.sowLow (d : Dev) : Dev :=
  let low := 0xFF00000000 ≤ d.fld DEVICE_SOW_ISSUED.COUNT && !d.flag DEVICE_SOW_NEXT.VALID
  let rose := low && !d.flag DEVICE_SOW_ISSUED.LOW
  let d := d.setFld DEVICE_SOW_ISSUED.LOW (b2n low)
  if rose then d.report { code := 0x0004, kind := 0, unit := 0 } else d

/-- EPOCH_SWITCH (R383). -/
def Dev.epochSwitch (d : Dev) : Dev :=
  let d := d.setFld DEVICE_SOW_EPOCH.EPOCH (d.fld DEVICE_SOW_NEXT.EPOCH)
  let d := ((d.setFld DEVICE_SOW_NEXT.VALID 0).setFld DEVICE_SOW_ISSUED.COUNT 0).setFld DEVICE_SOW_ISSUED.DRY 0
  (d.report { code := 0x0003, kind := 0, unit := 0 }).sowLow

/-- Issues the next object ID (R379, R380, R383). -/
def Dev.issueId (d : Dev) : Nat × Dev :=
  let count := d.fld DEVICE_SOW_ISSUED.COUNT
  let id := d.objectId (count + d.fld DEVICE_SOW_EPOCH.EPOCH * 2 ^ 40)
  if count = 0xFFFFFFFFFF then
    (id, if d.flag DEVICE_SOW_NEXT.VALID then d.epochSwitch else d.setFld DEVICE_SOW_ISSUED.DRY 1)
  else (id, (d.setFld DEVICE_SOW_ISSUED.COUNT (count + 1)).sowLow)

/-- The place is unset, or is the node reserved for ledger segments (R379, R576). -/
def Dev.placeUnset (d : Dev) : Bool :=
  !d.flag DEVICE_PLACE.LOCK || (d.fld DEVICE_PLACE.COMMON = 0xFFF && d.fld DEVICE_PLACE.HOLDING = 0xFFF &&
    d.fld DEVICE_PLACE.DEVICE = 63)

/-- What a SOW_OPEN does once it may test and issue (R379). -/
def Dev.sowOpen (d : Dev) (r i : Nat) (x : Drill) (e : Entry) : Dev :=
  let f := x.func
  let key := sessKey f (handleSlot (leAt e 8 4))
  if d.placeUnset then d.finishWork r i { status := stPlaceUnset }
  else if (d.sess? key).isSome then d.finishWork r i { status := stSessionBusy }
  else if !d.rootOk then d.finishWork r i { status := stKeyUnavailable }
  else if d.flag DEVICE_SOW_ISSUED.DRY || (d.sow.dry ≠ [] && !(d.sow.dry.contains (r, i))) then
    (d.workWaits r).setSow { d.sow with dry := d.sow.dry ++ [(r, i)] }
  else
    let n := leAt e 12 1 % 16
    let len := leAt e 16 8
    let (id, d) := d.issueId
    let s : SowSess := { obj := id, tenant := d.fld TENANT_ID.TENANT [f], epoch := d.fld TENANT_ID.EPOCH [f], prof := n,
                         k := d.fld DEVICE_PROFILE.K [n], m := d.fld DEVICE_PROFILE.M [n], g := d.fld DEVICE_PROFILE.G [n],
                         hash := d.fld DEVICE_PROFILE.HASH [n], expected := if 2 ^ 48 < len then 0 else len,
                         plot := (d.homePlot 0).getD 0, idleFrom := d.now }
    ((d.putSess key s).noteObj r i id).finishWork r i { status := stSuccess, result := id }

/-- SOW_OPEN (R379 to R383, R400). -/
def execSowOpen (r i : Nat) (s : State) : Res := s.run fun _ d => d.workRun r i 0x10 fun d x e => d.sowOpen r i x e

/-- DRY_OPEN_RESUME (R383): the SOW_OPEN that has waited longest goes on. -/
def execDryOpenResume (s : State) : Res := s.run fun _ d =>
  match d.sow.dry with
  | [] => d
  | (r, i) :: t =>
    if d.flag DEVICE_SOW_ISSUED.DRY then d
    else
      let x := d.drill r
      let d' := d.setSow { d.sow with dry := t }
      if d.stale x.workid then d'.discardStale.freeDrill r
      else
        let d := d.sowOpen r i x (x.entry i)
        d.setSow { d.sow with dry := d.sow.dry.filter fun p => p ≠ (r, i) }

/-- A write of DEVICE_SOW_EPOCH (R382). -/
def Dev.sowEpochWrite (d : Dev) (w : Wr) : Dev :=
  if w.accepted .DEVICE_SOW_EPOCH && d.flag DEVICE_PLACE.LOCK then d.refuse206 .DEVICE_SOW_EPOCH [] w
  else d.regWrite .DEVICE_SOW_EPOCH [] w

/-- SOW_EPOCH_WRITE (R382). -/
def execSowEpochWrite (master size half : Nat) (value : Word) (s : State) : Res := s.run fun _ d =>
  d.sowEpochWrite ⟨master, size, half, value⟩

/-- A write of DEVICE_SOW_NEXT (R383, R384). -/
def Dev.sowNextWrite (d : Dev) (w : Wr) : Dev :=
  if !w.accepted .DEVICE_SOW_NEXT then d.regWrite .DEVICE_SOW_NEXT [] w
  else
    let v := w.over (d.reg .DEVICE_SOW_NEXT)
    if d.flag DEVICE_SOW_NEXT.VALID || DEVICE_SOW_NEXT.EPOCH.get v ≤ d.fld DEVICE_SOW_EPOCH.EPOCH then
      d.refuse206 .DEVICE_SOW_NEXT [] w
    else
      let d := d.regWrite .DEVICE_SOW_NEXT [] w
      if d.flag DEVICE_SOW_ISSUED.DRY && d.flag DEVICE_SOW_NEXT.VALID then d.epochSwitch else d.sowLow

/-- SOW_NEXT_WRITE (R383, R384). -/
def execSowNextWrite (master size half : Nat) (value : Word) (s : State) : Res := s.run fun _ d =>
  d.sowNextWrite ⟨master, size, half, value⟩

/-! ### Ending sessions (R400, R401, R427) -/

/-- A session's rows are freed: those it lists. -/
def Dev.freeRows (d : Dev) (s : SowSess) : Dev :=
  s.sheaves.foldl (fun d h => h.rows.foldl (fun d r => (r.place.map d.dropRow).getD d) d) d

/-- A session ends as SOW_DROP ends it: its buffers and rows are freed and its bytes discarded. -/
def Dev.sessEnd (d : Dev) (key : Nat) : Dev :=
  match d.sess? key with
  | none => d
  | some s =>
    let f := sessFunc key
    ((d.freeSess f s).freeRows s).delSess key

/-- Waiting writes of a session complete with a status (R401); their result shows F as it stands. -/
def Dev.endWaits (d : Dev) (key status : Nat) : Dev :=
  let ws := d.sow.waits.filter fun w => w.key = key
  let fr := ((d.sess? key).map SowSess.fr).getD 0
  let d := d.setSow { d.sow with waits := d.sow.waits.filter fun w => w.key ≠ key }
  let d := ws.foldl (fun d w => d.finishWork w.drill w.entry { status := status, result := fr }) d
  d.countWaits (sessFunc key)

/-- What SOW_DROP reports of a slot, and the slot becomes free. -/
def execSowDrop (r i : Nat) (s : State) : Res := s.run fun _ d => d.workRun r i 0x13 fun d x e =>
  let key := sessKey x.func (handleSlot (leAt e 8 4))
  match d.sess? key with
  | none => d.finishWork r i { status := stNoSession }
  | some s =>
    let d := d.noteObj r i s.obj
    if s.phase = .sealing then d.finishWork r i { status := stNoSession }
    else (d.endWaits key stNoSession |>.sessEnd key).finishWork r i { status := stSuccess, result := s.fr }

/-- A session expires: it ends, and its slot stays occupied until it is dropped (R400). -/
def Dev.sessExpire (d : Dev) (key : Nat) : Dev :=
  match d.sess? key with
  | none => d
  | some s =>
    let d := (d.endWaits key stSessionExpired).sessEnd key
    d.putSess key { s with phase := .expired, part := [], cur := [], sheaves := [], digests := [], sram := [], hbm := 0 }

/-- IDLE as it acts, in ns (R397). -/
def Dev.idleNs (d : Dev) : Nat := min 2592000 (max 1 (d.fld DEVICE_SOW_CTL.IDLE)) * 1000000000

/-- SESSION_EXPIRE (R402): the idle time of a function's session reaches IDLE. -/
def execSessionExpire (f slot : Nat) (s : State) : Res := s.run fun _ d =>
  let key := sessKey f slot
  match d.sess? key with
  | some s =>
    if s.phase = .opened && !d.sessBusy key && !d.freezing f then
      d.at (s.idleFrom + (d.idleNs - s.idle)) fun d => d.sessExpire key
    else d
  | none => d

/-! ### Taking bytes (R404 to R409) -/

/-- Why a write stops taking bytes. -/
inductive TakeEnd where
  | all | buffer | fallow
  deriving DecidableEq, Repr

/-- Takes bytes from F on: each grain takes its buffer with its first byte, and a grain completes when the first byte
beyond it is taken (R413), so a full grain waits, incomplete, for the next one's buffer. In `turn`, the buffers of the first
grain begun were waited for, and others that wait are passed over. The device, the bytes not taken, the placements not
used, and why it stopped. -/
def sowTake (key : Nat) : Nat → Bool → List Byte → List Place → Dev → Dev × List Byte × List Place × TakeEnd
  | 0, _, bytes, ps, d => (d, bytes, ps, .all)
  | n + 1, turn, bytes, ps, d =>
    match d.sess? key, bytes with
    | none, _ => (d, bytes, ps, .all)
    | _, [] => (d, [], ps, .all)
    | some s, _ =>
      let gets := if turn then d.mayTake key s.need else d.getsBuffers key s.need
      if (s.part = [] || s.part.length = grainLen) && !gets then (d, bytes, ps, .buffer)
      else if s.part.length = grainLen then
        match d.completeGrain key ps with
        | none => (d, bytes, ps, .fallow)
        | some (d, ps) => sowTake key n turn bytes ps d
      else
        let d := if s.part = [] then d.takeBuffers key s.need else d
        let t := bytes.take (grainLen - s.part.length)
        let d := d.modSess key fun s => { s with part := s.part ++ t, fr := s.fr + t.length }
        sowTake key n (turn && s.part ≠ []) (bytes.drop t.length) ps d

/-- Steps enough for `sowTake` on a byte string. -/
def takeFuel (bytes : List Byte) : Nat := 2 * (bytes.length / 65536) + 4

/-- Work stops before a grain is completed (R414): F stands at the end of the last completed grain; the bytes beyond it are
discarded, and their buffers freed. -/
def Dev.sowFallow (d : Dev) (key : Nat) : Dev :=
  match d.sess? key with
  | none => d
  | some s =>
    if s.part = [] then d
    else
      let (p, a, h) := s.took
      let d := d.putSess key { s with part := [], fr := s.digests.length * grainLen, hbm := s.hbm - h
                                      sram := tset 0 s.sram p (tget 0 s.sram p - a) }
      d.freeBuffers (sessFunc key) [(p, a)] h

/-- The work of a session stops at its home plot (R414): its writes in progress end BLOCK_FALLOW, what is left of its grain is
discarded, and firmware homes it on another plot. -/
def Dev.sowStop (d : Dev) (key : Nat) : Dev :=
  let mine (w : SowWait) : Bool := w.key = key && !w.frontier && !w.seals
  let ws := d.sow.waits.filter mine
  let d := (d.setSow { d.sow with waits := d.sow.waits.filter fun w => !mine w }).sowFallow key
  let fr := ((d.sess? key).map SowSess.fr).getD 0
  let d := ws.foldl (fun d w => (d.touchSess key).finishWork w.drill w.entry { status := stBlockFallow, result := fr }) d
  (d.modSess key fun s => { s with plot := (d.homePlot s.plot).getD s.plot }).countWaits (sessFunc key)

/-- A SOW_WRITE takes what it can of `bytes`, and completes or waits (R354, R409, R414, R869); `fails` is the status it ends
with after them when its host request has failed, and in `turn` it has waited for its next buffers. -/
def Dev.sowGo (d : Dev) (key r i : Nat) (turn : Bool) (bytes : List Byte) (fails : Option Nat) (ps : List Place) : Dev :=
  let f := sessFunc key
  let (d, rest, _, why) := sowTake key (takeFuel bytes) turn bytes ps d
  let fr (d : Dev) : Nat := ((d.sess? key).map SowSess.fr).getD 0
  match why with
  | .all => (d.touchSess key).finishWork r i { status := fails.getD stSuccess, result := fr d }
  | .fallow =>
    let d := (d.sowStop key).touchSess key
    d.finishWork r i { status := stBlockFallow, result := fr d }
  | .buffer =>
    if d.freezing f then (d.touchSess key).finishWork r i { status := stSuccess, result := fr d }
    else
      let w : SowWait := { drill := r, entry := i, key := key, off := fr d, frontier := false, rest := rest, fails := fails }
      ((d.workWaits r).setSow { d.sow with waits := d.sow.waits ++ [w] }).countWaits f

/-- The bytes of a write's buffer that lie at or beyond F and below 2^48: `data` is the buffer from BUF_OFFSET on. -/
def writeBytes (e : Entry) (fr : Nat) (data : List Byte) : List Byte :=
  let off := leAt e 24 8
  let stop := min (off + leAt e 32 4) (2 ^ 48)
  if stop ≤ fr then [] else slice data (fr - off) (stop - fr)

/-- A SOW_WRITE whose OBJ_OFFSET is at or below F (R405). -/
def Dev.sowWriteGo (d : Dev) (key r i : Nat) (x : Drill) (e : Entry) (data : List Byte) (ps : List Place) : Dev :=
  let fr := ((d.sess? key).map SowSess.fr).getD 0
  let bytes := writeBytes e fr data
  let b := d.bufOf x.func (leAt e 12 4)
  let (n, fails, d) := d.hostAsk x.func r (b.base + leAt e 16 8 + (fr - leAt e 24 8)) b.tag bytes.length false
  (d.modDrill r fun x => { x with answer := none }).sowGo key r i false (bytes.take n) fails ps

/-- SOW_WRITE (R400, R404 to R409, R869): `data` is what the host returns from BUF_OFFSET on, `place` the placements
firmware chooses for the sheaves that close. -/
def execSowWrite (r i : Nat) (data : List (BitVec 8)) (place : List (Nat × Nat × Nat)) (s : State) : Res :=
  s.run fun _ d => d.workRun r i 0x11 fun d x e =>
    let key := sessKey x.func (handleSlot (leAt e 8 4))
    let off := leAt e 24 8
    let d := match d.sess? key with
      | some s => d.noteObj r i s.obj
      | none => d
    let fr := ((d.sess? key).map SowSess.fr).getD 0
    if !d.handlesOk x.func e then (d.touchSess key).finishWork r i { status := stHandleInvalid, result := fr }
    else
      match d.sess? key with
      | none => d.finishWork r i { status := stNoSession }
      | some s =>
        if s.phase = .expired then d.finishWork r i { status := stSessionExpired, result := s.fr }
        else if s.phase = .sealing then d.finishWork r i { status := stNoSession, result := s.fr }
        else if 2 ^ 48 ≤ off then (d.touchSess key).finishWork r i { status := stSuccess, result := s.fr }
        else if s.fr < off then
          if d.freezing x.func then (d.touchSess key).finishWork r i { status := stSuccess, result := s.fr }
          else
            let w : SowWait := { drill := r, entry := i, key := key, off := off, frontier := true }
            (d.workWaits r).setSow { d.sow with waits := d.sow.waits ++ [w] }
        else d.sowWriteGo key r i x e data place

/-- Takes a wait out of the list. -/
def Dev.dropWait (d : Dev) (r i : Nat) : Dev :=
  d.setSow { d.sow with waits := d.sow.waits.filter fun w => !(w.drill = r && w.entry = i) }

/-- FRONTIER_WRITE_RESUME (R407): F has reached the offset of the write that is entry `i` of drill `r`. -/
def execFrontierWriteResume (r i : Nat) (data : List (BitVec 8)) (place : List (Nat × Nat × Nat)) (s : State) : Res :=
  s.run fun _ d =>
    match d.sow.waits.find? fun w => w.drill = r && w.entry = i && w.frontier with
    | none => d
    | some w =>
      let x := d.drill r
      let fr := ((d.sess? w.key).map SowSess.fr).getD 0
      if d.stale x.workid then (d.dropWait r i).discardStale.freeDrill r
      else if fr < w.off then d
      else if !d.handlesOk x.func (x.entry i) then
        ((d.dropWait r i).touchSess w.key).finishWork r i { status := stHandleInvalid, result := fr }
      else (d.dropWait r i).sowWriteGo w.key r i x (x.entry i) data place

/-- The waiting request that a freed buffer goes to (R354): first one below its function's reserve, else in order. -/
def Dev.nextGrant (d : Dev) : Option SowWait :=
  let ws := d.sow.waits.filter d.couldGrant
  match ws.find? fun w => d.grains (sessFunc w.key) < d.fld TENANT_POOL.RESV [sessFunc w.key] with
  | some w => some w
  | none => ws.head?

/-- A SOW_WRITE that has waited receives its buffers and goes on with the bytes that still lie beyond F (R405, R411); its handle
is resolved again (R228). -/
def Dev.writeGranted (d : Dev) (w : SowWait) (ps : List Place) : Dev :=
  let x := d.drill w.drill
  let e := x.entry w.entry
  let fr := ((d.sess? w.key).map SowSess.fr).getD 0
  let rest := w.rest.drop (fr - w.off)
  if w.fails.isSome then d.sowGo w.key w.drill w.entry true rest w.fails ps
  else if !d.handlesOk x.func e then (d.touchSess w.key).finishWork w.drill w.entry { status := stHandleInvalid, result := fr }
  else
    let b := d.bufOf x.func (leAt e 12 4)
    let (n, fails, d) := d.hostAsk x.func w.drill (b.base + leAt e 16 8 + (fr - leAt e 24 8)) b.tag rest.length false
    (d.modDrill w.drill fun x => { x with answer := none }).sowGo w.key w.drill w.entry true (rest.take n) fails ps

/-- FREEZE ends a function's waiting writes (R869). -/
def Dev.freezeWaits (d : Dev) (f : Nat) : Dev :=
  let mine (w : SowWait) : Bool := sessFunc w.key = f && !w.seals
  let ws := d.sow.waits.filter mine
  let d := d.setSow { d.sow with waits := d.sow.waits.filter fun w => !mine w }
  let d := ws.foldl (fun d w =>
    let fr := ((d.sess? w.key).map SowSess.fr).getD 0
    (d.touchSess w.key).finishWork w.drill w.entry { status := stSuccess, result := fr }) d
  d.countWaits f

/-- The fold or cipher block of plot `p` is gated, and the work of the sessions homed there stops (R414). -/
def Dev.sowGated (d : Dev) (p : Nat) : Dev :=
  (d.sow.sess.filter fun e => e.2.plot = p && e.2.phase = .opened).foldl (fun d e => d.sowStop e.1) d

/-- Plot `p`'s SRAM is lost: open sessions whose buffers lay in it expire (R400, R414); a seal that needs them ends with its
object unsealed and its slot free (R360), BLOCK_FALLOW (assumption 143). -/
def Dev.sowBuffersLost (d : Dev) (p : Nat) : Dev :=
  (d.sow.sess.filter fun e => e.2.phase ≠ .expired && e.2.holdsAt p).foldl (fun d e =>
    match e.2.sealJob with
    | some j => (d.sessEnd e.1).finishWork j.drill j.entry { status := stBlockFallow }
    | none => d.sessExpire e.1) d

/-! ### Records for a ledger (R425) -/

/-- Hands a record to the tenant's ledger home, with the device's node and time stamp (R423 step 4, R546); while a step
is pending it is held (R71). -/
def Dev.handRecord (d : Dev) (q : LedgerReq) : Dev :=
  let t := d.stamp
  let sent := !d.flag TIME_STATUS.STEP_PEND
  let q := { q with node := d.node, sec := t.1, ns := t.2.1, quality := t.2.2, sent := sent }
  let d := d.setSow { d.sow with reqs := d.sow.reqs ++ [q] }
  if sent then d.emit (.ledgerHand q) else d

/-- A tenant's durable records: those of the ledger homed here, or what its home elsewhere returns. -/
def Dev.ledgerOf (d : Dev) (tenant : Nat) (remote : List (List Byte)) : List (List Byte) :=
  match tfind d.sow.ledgers tenant with
  | some l => l.recs.take l.durable
  | none => remote

/-! ### Sealing (R423, R870) -/

/-- A session that has accepted no byte. -/
def SowSess.empty (s : SowSess) : Bool := s.part = [] && s.digests = []

/-- SOW_SEAL's step 1 (R413, R423): the last grain, filled, and the last sheaf. An object of length 0 has one grain, all
padding (R388), whose buffers may be taken. `none` where no plot can complete the grain. -/
def Dev.sealLast (d : Dev) (key : Nat) (ps : List Place) : Option (Dev × List Place) :=
  match d.sess? key with
  | none => none
  | some s =>
    let d := if s.empty then d.takeBuffers key s.need else d
    let go : Option Dev :=
      if s.part = [] && !s.empty then some d
      else
        match d.sess? key, d.homePlot s.plot with
        | some s, some p =>
          let (o, d) := d.deriveKey 0x01 s.tenant s.obj s.epoch
          let ct := grainEnc o.1 s.digests.length (slice s.part 0 grainLen)
          some (d.putSess key { s with plot := p, part := [], cur := s.cur ++ [ct], digests := s.digests ++ [hashH s.hash ct] })
        | _, _ => none
    match go with
    | none => none
    | some d =>
      match d.sess? key with
      | some s' => if s'.cur = [] then some (d, ps) else some (d.closeCur key ps (some s.fr))
      | none => none

/-- Rows of earlier sheaves that had no room are placed again (R422, R870). -/
def Dev.placeAgain (d : Dev) (key : Nat) (ps : List Place) : Dev × List Place :=
  match d.sess? key with
  | none => (d, ps)
  | some s =>
    s.sheaves.foldl (fun acc h =>
      let (d, ps) := acc
      let lost := (h.rows.filter fun r => r.place.isNone).map RowW.pos
      if lost = [] then (d, ps)
      else
        let used := h.rows.filterMap fun (r : RowW) => r.place.map fun p => (p.1, p.2.1)
        let a := assignRows d.canPlace h.idx lost used ps
        let rows := h.rows.map fun r => ((a.1.find? fun n => n.pos = r.pos).filter fun _ => r.place.isNone).getD r
        let h' := { h with rows := rows }
        let d := d.writeSheaf s { h' with rows := a.1 } (some s.fr)
        (d.modSess key fun s => { s with sheaves := s.sheaves.map (fun x => if x.idx = h.idx then h' else x) }, a.2)) (d, ps)

/-- Some row of the object has no placement. -/
def SowSess.noRoom (s : SowSess) : Bool := s.sheaves.any fun h => h.rows.any fun r => r.place.isNone

/-- SEAL_NO_CAPACITY (R870): the seal ends, and the session returns to OPEN with step 1 undone. -/
def Dev.sealNoCapacity (d : Dev) (key : Nat) : Dev :=
  match d.sess? key with
  | none => d
  | some s =>
    match s.sealJob with
    | none => d
    | some j =>
      let undone := if j.part = [] && j.cur = [] && s.fr ≠ 0 then none else s.sheaves.getLast?
      let d := match undone with
        | some h => h.rows.foldl (fun (d : Dev) (r : RowW) => (r.place.map d.dropRow).getD d) d
        | none => d
      let freed := s.fr = 0
      let s' : SowSess := match undone with
        | some h => { s with sheaves := s.sheaves.dropLast, part := j.part, cur := j.cur, digests := j.digests,
                             sram := if freed then [] else h.sram, hbm := if freed then 0 else h.hbm }
        | none => s
      let d := d.putSess key { s' with phase := .opened, sealJob := none, idle := 0, idleFrom := d.now }
      let d := match undone with
        | some h => if freed then d.freeBuffers (sessFunc key) h.sram h.hbm else d
        | none => d
      d.finishWork j.drill j.entry { status := stNoCapacity }

/-- Steps 1 and 2 of R423: the object's last rows are written, and the session is SEALING. -/
def Dev.sealGo (d : Dev) (key : Nat) (j : SealJob) (place : List Place) : Dev :=
  match d.sealLast key place with
  | none =>
    ((d.modSess key fun s => { s with phase := .opened, sealJob := none }).touchSess key).finishWork j.drill j.entry
      { status := stBlockFallow }
  | some (d, ps) =>
    let d := (d.placeAgain key ps).1
    let d := (d.modSess key fun s => { s with phase := .sealing, sealJob := some { j with step := 2 } }).workWaits j.drill
    let d := d.endWaits key stNoSession
    if ((d.sess? key).map SowSess.noRoom).getD false then d.sealNoCapacity key else d

/-- The buffers of an object of length 0 are not to be had yet: the session is SEALING, and its seal waits (R354, R355). -/
def Dev.sealWaits (d : Dev) (key : Nat) (j : SealJob) : Dev :=
  let d := (d.modSess key fun s => { s with phase := .sealing, sealJob := some { j with step := 1 } }).workWaits j.drill
  let d := d.endWaits key stNoSession
  let w : SowWait := { drill := j.drill, entry := j.entry, key := key, off := 0, frontier := false, seals := true }
  (d.setSow { d.sow with waits := d.sow.waits ++ [w] }).countWaits (sessFunc key)

/-- GRAIN_BUFFER_GRANT (R354): a waiting request receives freed buffers, and its write or seal goes on. -/
def execGrainBufferGrant (place : List (Nat × Nat × Nat)) (s : State) : Res := s.run fun _ d =>
  match d.nextGrant with
  | none => d
  | some w =>
    let d := (d.dropWait w.drill w.entry).countWaits (sessFunc w.key)
    if d.stale (d.drill w.drill).workid then d.discardStale.freeDrill w.drill
    else if w.seals then
      match (d.sess? w.key).bind SowSess.sealJob with
      | some j => d.sealGo w.key j place
      | none => d
    else d.writeGranted w place

/-- SOW_SEAL (R400, R423, R870): compares the length, and begins sealing. -/
def execSowSeal (r i : Nat) (place : List (Nat × Nat × Nat)) (s : State) : Res :=
  s.run fun _ d => d.workRun r i 0x12 fun d x e =>
    let key := sessKey x.func (handleSlot (leAt e 8 4))
    let d := match d.sess? key with
      | some s => d.noteObj r i s.obj
      | none => d
    if !d.handlesOk x.func e then (d.touchSess key).finishWork r i { status := stHandleInvalid }
    else
      match d.sess? key with
      | none => d.finishWork r i { status := stNoSession }
      | some s =>
        if s.phase = .expired then d.finishWork r i { status := stSessionExpired }
        else if s.phase = .sealing then d.finishWork r i { status := stNoSession }
        else if leAt e 16 8 ≠ s.fr then (d.touchSess key).finishWork r i { status := stLengthMismatch }
        else
          let h := leAt e 12 4
          let b := d.bufOf x.func h
          let j : SealJob := { drill := r, entry := i, buf := if h = 0 then none else some (b.base, b.tag),
                               part := s.part, cur := s.cur, digests := s.digests }
          if s.empty && !d.getsBuffers key s.need then d.sealWaits key j else d.sealGo key j place

/-- The positions whose devices hold a copy of the descriptor: 0 and the Reed-Solomon parity (R568). -/
def descSites (k m : Nat) : List Nat := 0 :: (List.range m).map fun i => k + i

/-- Writes one copy of a sheaf's descriptor (R565, R566, R569). -/
def Dev.writeDesc (d : Dev) (s : SowSess) (h : SowSheaf) (tally : List Byte) (version : Nat) (p : Place) : Dev :=
  let n := s.digests.length
  let paths := (List.range h.kp).map fun j => tallyPath s.hash (h.idx * s.k + j) s.digests
  let table := pathTable paths
  let places := (List.range s.shape.w).map fun q => ((h.rows.find? fun r => r.pos = q).map RowW.place).join
  let block := descBlock n tally false places (h.digs.drop s.k)
  let t := d.stamp
  let head : RowHead :=
    { kind := 2, tenant := s.tenant, object := s.obj, sheaf := h.idx, pos := 0xFF, k := s.k, m := s.m, g := s.g,
      hash := s.hash, kp := h.kp, prof := s.prof, epoch := s.epoch, node := d.node, version := version, sec := t.1,
      ns := t.2.1, quality := t.2.2, digest := hashH s.hash table }
  d.writeRow p (headBlock head block ++ table)

/-- A descriptor copy lies on the device of its site, on a target firmware chooses. -/
def descRow (h : SowSheaf) (q : Nat) (p : Option Place) : RowW :=
  let site : Option Place := (h.rows.find? fun r => r.pos = q).bind RowW.place
  ⟨h.idx, 256 + q, match site, p with
    | some a, some b => if a.1 = b.1 then some b else none
    | _, _ => none, false⟩

/-- Step 3 of R423: the tally, and every copy of every descriptor. -/
def Dev.sealDescs (d : Dev) (key : Nat) (ps : List Place) : Dev :=
  match d.sess? key with
  | none => d
  | some s =>
    let tally := tallyOf s.hash s.digests
    let rows := s.sheaves.flatMap fun h => (descSites s.k s.m).map fun q => (h, q)
    let rows := rows.zipIdx.map fun e => (e.1.1, descRow e.1.1 e.1.2 (ps[e.2]?.filter d.canPlace))
    let d := rows.foldl (fun d e => match e.2.place with
      | some p => d.writeDesc s e.1 tally 1 p
      | none => d) d
    d.modSess key fun s => { s with sealJob := s.sealJob.map fun j => { j with step := 3, descs := rows.map Prod.snd } }

/-- Step 4: the seal record goes to the ledger home. -/
def Dev.sealRecord (d : Dev) (key : Nat) : Dev :=
  match d.sess? key with
  | none => d
  | some s =>
    let body := leBytes 8 s.fr ++ leBytes 1 s.prof ++ leBytes 1 s.k ++ leBytes 1 s.m ++ leBytes 1 s.g ++ leBytes 1 s.hash ++
      leBytes 3 0 ++ slice (tallyOf s.hash s.digests) 0 32
    let d := d.handRecord { tenant := s.tenant, kind := 1, object := s.obj, label := 1, epoch := s.epoch, body := body,
                            origin := .sealOf key }
    d.modSess key fun s => { s with sealJob := s.sealJob.map fun j => { j with step := 5 } }

/-- SEAL_FULL_REDUNDANCY (R421, R422, R423, R569, R71): rows that have lost their placement are placed again; every sheaf is on
media: the descriptors are written; once every copy is on media, and while no step is pending, the seal record is handed on.
`place` chooses the rows. -/
def execSealFullRedundancy (f slot : Nat) (place : List (Nat × Nat × Nat)) (s : State) : Res := s.run fun _ d =>
  let key := sessKey f slot
  match d.sess? key with
  | none => d
  | some s =>
    match s.sealJob with
    | none => d
    | some j =>
      if d.stale (d.drill j.drill).workid || d.flt.safe then d
      else if j.step = 2 && s.noRoom then
        let d := (d.placeAgain key place).1
        if ((d.sess? key).map SowSess.noRoom).getD false then d.sealNoCapacity key else d
      else if j.step = 2 && s.sheaves.all SowSheaf.full then d.sealDescs key place
      else if j.step = 3 then
        if rowsDone j.descs && !d.flag TIME_STATUS.STEP_PEND then d.sealRecord key
        else
          let lost := j.descs.filter fun r => r.place.isNone
          if lost = [] then d
          else
            let tally := tallyOf s.hash s.digests
            let new := lost.zipIdx.map fun e =>
              match s.sheaves.find? fun h => h.idx = e.1.sheaf with
              | some h => (h, descRow h (e.1.pos - 256) (place[e.2]?.filter d.canPlace))
              | none => ({ idx := 0, kp := 0, grains := [], digs := [], rows := [] }, e.1)
            let d := new.foldl (fun d e => match e.2.place with
              | some p => d.writeDesc s e.1 tally 1 p
              | none => d) d
            let pick (r : RowW) : RowW :=
              ((new.find? fun e => e.2.sheaf = r.sheaf && e.2.pos = r.pos).map Prod.snd).getD r
            let j' : SealJob := { j with descs := j.descs.map fun r => if r.place.isNone then pick r else r }
            d.modSess key fun s => { s with sealJob := some j' }
      else d

/-! ### Rows reach media, or fail (R419 to R422) -/

/-- A sheaf at full redundancy frees its buffers (R416, R421). -/
def Dev.sheafSettle (d : Dev) (key : Nat) : Dev :=
  match d.sess? key with
  | none => d
  | some s =>
    let newly := s.sheaves.filter fun h => !h.full && rowsDone h.rows
    let d := newly.foldl (fun d h => d.freeBuffers (sessFunc key) h.sram h.hbm) d
    if newly = [] then d
    else
      let settle (h : SowSheaf) : SowSheaf :=
        if !h.full && rowsDone h.rows then { h with full := true, grains := [], sram := [], hbm := 0 } else h
      d.modSess key fun s => { s with sheaves := s.sheaves.map settle }

/-- A session's rows, with those of its seal's descriptors. -/
def SowSess.allRows (s : SowSess) : List RowW :=
  s.sheaves.flatMap SowSheaf.rows ++ (s.sealJob.map SealJob.descs).getD []

/-- A session's row is on media. -/
def Dev.sessRowDone (d : Dev) (key : Nat) (p : Place) : Dev :=
  (d.modSess key fun s => { s with sheaves := s.sheaves.map (fun h => { h with rows := markRow p h.rows }),
                                   sealJob := s.sealJob.map fun j => { j with descs := markRow p j.descs } }).sheafSettle key

/-- GRAIN_REPLACE (R422): a session's row could not be written at `p`; firmware places it again at `alt`, or, if it has
looked, finds no room, on which a seal within its step 2 ends NO_CAPACITY. -/
def Dev.sessRowFail (d : Dev) (key : Nat) (p : Place) (alt : Option Place) (looked : Bool) : Dev :=
  match d.sess? key with
  | none => d
  | some s =>
    match s.sheaves.find? fun h => h.rows.any fun r => r.place = some p with
    | some h =>
      let alt := alt.filter fun a => !h.rows.any fun r => (r.place.map fun x => (x.1, x.2.1)) = some (a.1, a.2.1)
      let move (r : RowW) : RowW := if r.place = some p then { r with place := alt } else r
      let rows := h.rows.map move
      let len := if s.phase = .sealing then some s.fr else none
      let d := d.modSess key fun s => { s with sheaves := s.sheaves.map fun x => if x.idx = h.idx then { x with rows := rows } else x }
      let d := d.writeSheaf s { h with rows := rows.filter fun r => r.place = alt && alt.isSome && !r.durable } len
      if looked && alt.isNone && decide (s.phase = .sealing) && (s.sealJob.map SealJob.step) == some 2 then d.sealNoCapacity key else d
    | none => d.modSess key fun s => { s with sealJob := s.sealJob.map fun j =>
        { j with descs := j.descs.map fun r => if r.place = some p then { r with place := none } else r } }

/-! ### Durable records (R423 steps 5 to 7, R425, R578) -/

/-- A seal completes: the record goes to B, and the slot becomes free (R423). -/
def Dev.sealDone (d : Dev) (key seq : Nat) (rec256 : List Byte) : Dev :=
  match d.sess? key with
  | none => d
  | some s =>
    match s.sealJob with
    | none => d
    | some j =>
      let f := sessFunc key
      let d := d.delSess key
      let o (status : Nat) : Outcome16 := { status := status, result := seq + s.fr * 2 ^ 64 }
      match j.buf with
      | none => d.finishWork j.drill j.entry (o stSuccess)
      | some (base, pasid) =>
        let (_, status, d) := d.hostPut f j.drill base pasid rec256
        d.finishWork j.drill j.entry (o (status.getD stSuccess))

/-- The seal of a record of a session that is still there: held while a step is pending (R71). -/
def LedgerReq.isSeal (q : LedgerReq) : Bool :=
  match q.origin with
  | .sealOf _ => true
  | _ => false

end Sys2Proof.Machine
end

