-- ==== Sys2Proof/Machine/Glean.lean ====
section
/-!
DEFINITION. Gleaning: finding an object's seal, the verified read with its hedged reconstructions, and the reads of
seals and ledgers (R233 to R236, R341, R516 to R528, R871, R872).
The media, the peers and a ledger homed elsewhere lie outside the device, so a command carries what they answer: a
ledger's durable records with those of the tenant's generation-2 ledger, the descriptor rows read for an object, and the row that a fetch returns (an empty one is an
error reported by the target or peer).
-/

namespace Sys2Proof.Machine

def Dev.setGlean (d : Dev) (g : GleanSt) : Dev := { d with glean := g }

/-! ### The object's seal (R516) -/

/-- What looking an object up finds. -/
inductive Found where
  | unknown | bad | noRoot
  | seal (b : List Byte)
  deriving DecidableEq, Repr

/-- A record found for an object, which verifies or does not. -/
def Dev.foundSeal (d : Dev) (obj : Nat) (b : List Byte) (ok : Bool) : Found × Dev :=
  if ok then (.seal b, d) else (.bad, d.report { code := 0x0401, kind := 14, unit := 0, object := obj })

/-- The SEAL record of an object among a tenant's durable records, with its MAC checked (R516); else its generation-2 record,
which verifies by its chain (R587). -/
def Dev.findSeal (d : Dev) (tenant obj : Nat) (l : LedgerRead) : Found × Dev :=
  match (d.ledgerOf tenant l.recs).find? fun r => leAt r 5 1 = 1 && leAt r 24 16 = obj with
  | some b =>
    if !d.rootOk then (.noRoot, d)
    else
      let (ok, d) := d.recordOk b
      d.foundSeal obj b ok
  | none =>
    match l.old.dropWhile fun r => !(oldRecord r && leAt r 16 4 = tenant && leAt r 20 16 = obj) with
    | [] => (.unknown, d)
    | b :: t => if !d.rootOk then (.noRoot, d) else d.foundSeal obj b (oldChain l.head (b :: t))

/-- Ends an entry that finds no seal; `none` when one was found. -/
def Found.status : Found → Option Nat
  | .unknown => some stNoObject
  | .bad => some stNoObject
  | .noRoot => some stKeyUnavailable
  | .seal _ => none

/-- The descriptor of a sheaf among rows read: of those that check, the copy of highest VERSION (R567, R568). -/
def bestDesc (obj sheaf hash : Nat) (rows : List (List Byte)) : Option (List Byte) :=
  (rows.filter fun b => descOk obj sheaf hash b).foldl (fun best b =>
    match best with
    | some a => if leAt a 60 4 < leAt b 60 4 then some b else best
    | none => some b) none

/-- Grains and sheaves of an object (R386, R388). -/
def ObjRef.grains (o : ObjRef) : Nat := max 1 ((o.len + 65535) / 65536)
def ObjRef.sheaves (o : ObjRef) : Nat := (o.grains + (o.k - 1)) / max 1 o.k
def ObjRef.shape (o : ObjRef) : Shape := { k := o.k, m := o.m, g := o.g, hash := o.hash }
/-- Present data positions of a sheaf. -/
def ObjRef.kp (o : ObjRef) (sheaf : Nat) : Nat := min o.k (o.grains - sheaf * o.k)
/-- Present positions of a sheaf, in order. -/
def ObjRef.present (o : ObjRef) (sheaf : Nat) : List Nat :=
  (List.range o.shape.w).filter fun q => q < o.kp sheaf || o.k ≤ q

/-- What a seal record says of its object (R572, R586). -/
def sealRef (b : List Byte) : ObjRef :=
  if leAt b 4 1 = 2 then
    { obj := leAt b 20 16, tenant := leAt b 16 4, label := 0x11, gen := 2, len := leAt b 36 8, k := leAt b 44 1, m := leAt b 45 1,
      tally := slice b 48 32, sealSeq := leAt b 8 8 }
  else
    { obj := leAt b 24 16, tenant := leAt b 16 4, epoch := leAt b 54 2, label := leAt b 53 1, len := leAt b 88 8,
      prof := leAt b 96 1, k := leAt b 97 1, m := leAt b 98 1, g := leAt b 99 1, hash := leAt b 100 1,
      tally := slice b 104 32, sealSeq := leAt b 8 8 }

/-- An object as its seal record and the descriptor rows read for it show it (R518). Of a generation-2 object every
descriptor is needed before any is used (R585). -/
def objRef (b : List Byte) (descs : List (List Byte)) : ObjRef :=
  let o := sealRef b
  let best (h : Nat) : Option (List Byte) :=
    if o.gen = 2 then descs.find? fun x => oldDescOk o.obj h x else bestDesc o.obj h o.hash descs
  let put (t : Tbl (List Byte)) (h : Nat) : Tbl (List Byte) :=
    match best h with
    | some x => tput t h x
    | none => t
  let t := (List.range o.sheaves).foldl put []
  { o with descs := if o.gen = 2 && t.length ≠ o.sheaves then [] else t }

def ObjRef.desc (o : ObjRef) (sheaf : Nat) : Option (List Byte) := tfind o.descs sheaf
def ObjRef.place (o : ObjRef) (sheaf q : Nat) : Option Place :=
  (o.desc sheaf).bind fun b => if o.gen = 2 then oldPlace b q else descPlace b q

/-- A tally over grains' digests, in the object's generation (R441, R585). -/
def ObjRef.tallyFrom (o : ObjRef) (digests : List (List Byte)) : List Byte :=
  if o.gen = 2 then sha256 digests.flatten else tallyOf o.hash digests

/-- The tally of a generation-2 object's descriptors is the sealed one, where they could be read; otherwise the object counts as
unsealed (R585). -/
def ObjRef.sealedAsRead (o : ObjRef) : Bool :=
  let digs := (List.range o.grains).map fun gi => oldDigest ((o.desc (gi / o.k)).getD []) o.k (gi % o.k)
  o.gen ≠ 2 || o.descs = [] || o.tallyFrom digs = o.tally

/-- A position's payload verifies (R460, R523): a data grain against its tally path, any other against its digest; in
a ledger grain whose descriptor is OPEN, position 0 against the digest its path table holds (R580). A generation-2
descriptor holds every digest (R585). -/
def ObjRef.verifies (o : ObjRef) (sheaf q : Nat) (payload : List Byte) : Bool :=
  match o.desc sheaf with
  | none => false
  | some b =>
    let dig := hashH o.hash payload
    if o.gen = 2 then dig = oldDigest b o.k q
    else if bit (leAt b 296 1) 0 && q < o.k then dig = slice (rowPayload b) 0 32
    else if q < o.k then verifyPath o.hash dig (sheaf * o.k + q) o.grains (descPath b o.k sheaf q) o.tally
    else dig = descPdig b (q - o.k)

/-- A fetched row's header checks and names what was fetched (R520, R562). -/
def rowNames (obj sheaf q : Nat) (b : List Byte) : Bool :=
  rowChecks b = some true && leAt b 5 1 = 1 && leAt b 16 16 = obj && leAt b 32 4 = sheaf && leAt b 44 1 = q

/-- The same of a row of an object, whose generation gives its header (R583). -/
def ObjRef.names (o : ObjRef) (sheaf q : Nat) (b : List Byte) : Bool :=
  if o.gen = 2 then oldRowChecks b && leAt b 5 1 = 1 && leAt b 8 16 = o.obj && leAt b 32 4 = sheaf && leAt b 30 1 = q
  else rowNames o.obj sheaf q b

/-- A row of a later generation is reported against its target (R591). -/
def Dev.laterRow (d : Dev) (p : Option Place) (b : List Byte) : Dev :=
  match rowChecks b, p with
  | none, some p => d.report { code := 0x0405, kind := 8, unit := p.2.1, node := p.1 }
  | _, _ => d

/-- The 64 bytes that decrypt an object's grains. -/
def Dev.objKey (d : Dev) (o : ObjRef) : List Byte × Dev :=
  let (k, d) := d.deriveKey o.label o.tenant o.obj o.epoch
  (k.1.take 64, d)

/-- An object's grain, decrypted. -/
def ObjRef.plain (o : ObjRef) (key : List Byte) (gi : Nat) (ct : List Byte) : List Byte :=
  if o.gen = 2 then oldGrainDec key gi ct else grainDec key gi ct

/-! ### Jobs -/

def Dev.gleanJob? (d : Dev) (r : Nat) : Option GleanJob := d.glean.gleans.find? fun j => j.drill = r
def Dev.putJob (d : Dev) (j : GleanJob) : Dev :=
  d.setGlean { d.glean with gleans := d.glean.gleans.map fun x => if x.drill = j.drill then j else x }
def Dev.dropJob (d : Dev) (r : Nat) : Dev := d.setGlean { d.glean with gleans := d.glean.gleans.filter fun j => j.drill ≠ r }

/-- The job as the device now holds it. -/
def Dev.jobNow (d : Dev) (j : GleanJob) : GleanJob := (d.gleanJob? j.drill).getD j

def fetchTo (d : Dev) : Nat := max 1 (d.fld DEVICE_GLEAN_CTL.FETCH_TO) * 1000000
def hedgeOf (d : Dev) : Option Nat :=
  let h := d.fld DEVICE_GLEAN_CTL.HEDGE
  if h = 0 then none else some (max 10 h * 1000)

/-- Sends a fetch. -/
def Dev.sendFetch (d : Dev) (p : Place) : Dev := d.emit (.rowFetch p.1 p.2.1 p.2.2)

def GFetch.settled (x : GFetch) : Bool := x.st = .released || x.st = .lost
/-- A grain without a copy: its fetch failed, or its copy did. -/
def GFetch.gone (x : GFetch) : Bool := x.st = .missing || x.st = .mismatch

def GleanJob.fetch? (j : GleanJob) (sheaf pos : Nat) : Option GFetch := j.fetches.find? fun x => x.sheaf = sheaf && x.pos = pos
def GleanJob.modFetch (j : GleanJob) (sheaf pos : Nat) (f : GFetch → GFetch) : GleanJob :=
  { j with fetches := j.fetches.map fun x => if x.sheaf = sheaf && x.pos = pos then f x else x }
def GleanJob.has (j : GleanJob) (sheaf pos : Nat) : Option (List Byte) :=
  (j.held.find? fun e => e.1 = (sheaf, pos)).map Prod.snd
def GleanJob.keep (j : GleanJob) (sheaf pos : Nat) (ct : List Byte) : GleanJob := { j with held := j.held ++ [((sheaf, pos), ct)] }
def GleanJob.recon? (j : GleanJob) (sheaf : Nat) : Option GRecon := j.recons.find? fun c => c.sheaf = sheaf
def GleanJob.putRecon (j : GleanJob) (c : GRecon) : GleanJob :=
  { j with recons := j.recons.map fun x => if x.sheaf = c.sheaf then c else x }
def GleanJob.dropRecon (j : GleanJob) (sheaf : Nat) : GleanJob := { j with recons := j.recons.filter fun c => c.sheaf ≠ sheaf }

/-- A copy that failed verification (R526). -/
def Dev.copyBad (d : Dev) (o : ObjRef) (sheaf q : Nat) : Dev :=
  let p := (o.place sheaf q).getD (0, 0, 0)
  let d := d.count .DEVICE_GLEAN_MISMATCH
  let d := d.report { code := 0x0402, kind := 14, unit := 0, object := o.obj, node := p.1,
                      addr := sheaf * 2 ^ 32 + q * 2 ^ 16 + p.2.1 }
  d.setGlean { d.glean with repairList := d.glean.repairList ++ [⟨o.obj, o.tenant, sheaf, q, p⟩] }

/-! ### Release (R519, R525) -/

/-- Bytes delivered without a gap from the start of the range (R527, R872). -/
def GleanJob.delivered (j : GleanJob) : Nat :=
  match j.fetches.find? fun x => x.st ≠ .released with
  | some x => (x.sheaf * j.ref.k + x.pos) * 65536 - j.lo
  | none => j.hi - j.lo

/-- A read ends, with its fetches and reconstructions. A loser still in flight is noted (R210); what else then arrives
finds no read. -/
def Dev.gleanEnd (d : Dev) (j : GleanJob) (status : Nat) : Dev :=
  let late := (j.fetches.filter fun x => x.inFlight && x.verified).map fun x => (j.drill, x.sheaf, x.pos)
  let d := d.setGlean { d.glean with losers := d.glean.losers ++ late }
  (d.dropJob j.drill).finishWork j.drill j.entry { status := status, result := j.delivered }

/-- A verified copy of a data grain leaves to the host: the bytes of the range in it. A write that the host refuses ends
the read (R273). -/
def Dev.gleanRelease (d : Dev) (j : GleanJob) (sheaf pos : Nat) (ct : List Byte) : Dev :=
  let gi := sheaf * j.ref.k + pos
  let (key, d) := d.objKey j.ref
  let lo := max j.lo (gi * 65536)
  let hi := min j.hi (gi * 65536 + 65536)
  let f := (d.drill j.drill).func
  match d.hostPut f j.drill (j.dst + (lo - j.lo)) j.pasid (slice (j.ref.plain key gi ct) (lo - gi * 65536) (hi - lo)) with
  | (_, some status, d) => d.gleanEnd j status
  | (_, none, d) =>
    (d.count .DEVICE_GLEAN_RELEASED).putJob ((j.modFetch sheaf pos fun x => { x with st := .released }).keep sheaf pos ct)

/-! ### Reconstruction (R521 to R524) -/

/-- R522's order 1 for a set of targets; empty where it does not apply. -/
def order1 (o : ObjRef) (sheaf : Nat) (targets : List Nat) : List Nat :=
  let s := o.shape
  let single := targets.all fun t =>
    match s.groupOf t with
    | some h => (targets.filter fun u => s.inGroup h u).length = 1
    | none => false
  if s.g = 0 || !single then []
  else targets.flatMap fun t =>
    match s.groupOf t with
    | some h => ((List.range (o.kp sheaf)).filter fun j => s.inGroup h j && j ≠ t) ++ [s.k + s.m + h]
    | none => []

/-- R522's order 2. -/
def order2 (o : ObjRef) (sheaf : Nat) (targets : List Nat) : List Nat :=
  (List.range (o.k + o.m)).filter fun q => (q < o.kp sheaf || o.k ≤ q) && !targets.contains q

/-- A position is being fetched: by the read itself, or by its reconstruction. -/
def GleanJob.coming (j : GleanJob) (c : GRecon) (q : Nat) : Bool :=
  c.asked.any (fun e => e.1 = q) ||
    match j.fetch? c.sheaf q with
    | some x => x.st = .flying
    | none => false

/-- A position has been fetched already, and failed. -/
def GleanJob.failed (j : GleanJob) (c : GRecon) (q : Nat) : Bool :=
  (j.has c.sheaf q).isNone && !j.coming c q && (c.tried.contains q || (j.fetch? c.sheaf q).isSome)

/-- The survivors a reconstruction asks for next: order 1 whole, or order 2 until k are fetched or in hand. The
reconstruction turns to order 2 once an order 1 survivor has failed. -/
def GleanJob.wants (j : GleanJob) (c : GRecon) : List Nat × Bool :=
  let o1 := order1 j.ref c.sheaf c.targets
  let two := c.order2 || o1 = [] || o1.any (j.failed c)
  let fresh (q : Nat) : Bool := (j.has c.sheaf q).isNone && !j.coming c q && !j.failed c q
  if !two then (o1.filter fresh, false)
  else
    let cand := order2 j.ref c.sheaf c.targets
    let got := (cand.filter fun q => (j.has c.sheaf q).isSome || j.coming c q).length + (j.ref.k - j.ref.kp c.sheaf)
    ((cand.filter fresh).take (j.ref.k - got), true)

/-- Issues the survivor fetches that a reconstruction wants. A position with no placement fails at once. -/
def Dev.askSurvivors (d : Dev) (j : GleanJob) (c : GRecon) : Dev :=
  let (qs, two) := j.wants c
  let due := d.now + fetchTo d
  let loc (q : Nat) : Option Place := j.ref.place c.sheaf q
  let d := qs.foldl (fun d q =>
    match loc q with
    | some p => d.sendFetch p
    | none => d.count .DEVICE_GLEAN_FETCHFAIL) d
  let c' : GRecon := { c with order2 := two, tried := c.tried ++ qs,
                              asked := c.asked ++ (qs.filter fun q => (loc q).isSome).map fun q => (q, due) }
  d.putJob (j.putRecon c')

/-- The grains of a sheaf that a reconstruction starting now has for targets (R524). -/
def GleanJob.targets (j : GleanJob) (sheaf : Nat) : List GFetch :=
  j.fetches.filter fun x => x.sheaf = sheaf && !x.verified && (x.gone || (x.st = .flying && x.slow))

/-- Starts a reconstruction of a sheaf where one is due: none runs, and some target has not been through one. -/
def Dev.startRecon (d : Dev) (j : GleanJob) (sheaf : Nat) : Dev :=
  let ts := j.targets sheaf
  if (j.recon? sheaf).isSome || !ts.any fun x => !x.reconFailed then d
  else
    let d := if ts.any fun x => x.st = .flying then d.count .DEVICE_SPEC_HEDGE_START else d
    d.putJob { j with recons := j.recons ++ [{ sheaf := sheaf, targets := ts.map GFetch.pos }] }

/-- A verified copy of a grain is decrypted in a release entry of the read's plot and released, or waits for an entry (R196,
R519). -/
def Dev.gleanPass (d : Dev) (j : GleanJob) (sheaf pos : Nat) (ct : List Byte) : Dev :=
  if (freeRelease (d.ciph j.plot)).isNone then d.putJob { j with waiting := j.waiting ++ [((sheaf, pos), true, ct)] }
  else (d.count .DEVICE_SPEC_DECRYPT_EARLY).gleanRelease j sheaf pos ct

/-- A reconstruction ends: RECON's rebuilt targets that verify are released, each of the others is counted under R526
and has failed. -/
def Dev.endRecon (d : Dev) (j : GleanJob) (c : GRecon) (all : Option (List Grain)) : Dev :=
  let step (acc : Dev × Bool) (t : Nat) : Dev × Bool :=
    let (d, won) := acc
    let j := d.jobNow j
    match (d.gleanJob? j.drill).bind fun _ => j.fetch? c.sheaf t with
    | none => acc
    | some x =>
      match all with
      | none => (d.putJob (j.modFetch c.sheaf t fun x => { x with reconFailed := true }), won)
      | some g =>
        let ct := g.getD t []
        if x.verified then (d.count .DEVICE_SPEC_LOSER, won)
        else if j.ref.verifies c.sheaf t ct then
          let j := j.modFetch c.sheaf t fun x => { x with verified := true }
          ((d.putJob j).gleanPass j c.sheaf t ct, won || x.inFlight)
        else
          let d := d.copyBad j.ref c.sheaf t
          (d.putJob (j.modFetch c.sheaf t fun x => { x with reconFailed := true }), won)
  let (d, won) := c.targets.foldl step (d, false)
  let d := if won then d.count .DEVICE_SPEC_HEDGE_WON else d
  d.putJob ((d.jobNow j).dropRecon c.sheaf)

/-- The reconstruction buffers of plot `p`'s fold units, 16 grains each, have room for `n` more rebuilt grains (R196). -/
def Dev.reconRoom (d : Dev) (p n : Nat) : Bool :=
  let held := ((d.glean.gleans.filter fun j => j.plot = p).map fun j => (j.waiting.filter fun w => w.2.1).length).foldl (· + ·) 0
  held = 0 || held + n ≤ 16 * ((List.range 4).filter fun u => !d.flag FOLD_STATUS.FAILED [p, u]).length

/-- One step of a sheaf's reconstruction: it is solved from what is in hand, once there is room for what it rebuilds, or asks
for more, or has failed. -/
def Dev.runRecon (d : Dev) (j : GleanJob) (c : GRecon) : Dev :=
  let get (q : Nat) : Option Grain := if c.targets.contains q then none else j.has c.sheaf q
  match reconstruct j.ref.shape grainLen (j.ref.kp c.sheaf) c.targets get with
  | some all => if d.reconRoom j.plot c.targets.length then d.endRecon j c (some all) else d
  | none =>
    let d := d.askSurvivors j c
    let j := d.jobNow j
    let c := (j.recon? c.sheaf).getD c
    let cand := order1 j.ref c.sheaf c.targets ++ order2 j.ref c.sheaf c.targets
    if cand.any fun q => !c.targets.contains q && (j.coming c q || (j.wants c).1.contains q) then d
    else d.endRecon j c none

/-- Grains that are given up on (R527). -/
def Dev.giveUp (d : Dev) (j : GleanJob) : Dev :=
  let lost := j.fetches.filter fun x => x.gone && x.reconFailed
  let d := d.count .DEVICE_GLEAN_UNRECOV [] lost.length
  d.putJob { j with fetches := j.fetches.map fun x => if x.gone && x.reconFailed then { x with st := .lost } else x }

/-- What a read does after each event: it starts and runs reconstructions, gives grains up, and completes once every
grain is released or given up (R519, R527). -/
def Dev.gleanStep (r : Nat) : Nat → Dev → Dev
  | 0, d => d
  | n + 1, d =>
    match d.gleanJob? r with
    | none => d
    | some j =>
      let d' := d.giveUp j
      let d' := (List.range j.ref.sheaves).foldl (fun d h =>
        if j.fetches.any fun x => x.sheaf = h then d.startRecon (d.jobNow j) h else d) d'
      let d' := (d'.jobNow j).recons.foldl (fun d c =>
        match (d.jobNow j).recon? c.sheaf with
        | some c => if (d.gleanJob? r).isSome then d.runRecon (d.jobNow j) c else d
        | none => d) d'
      let k := d'.jobNow j
      if (d'.gleanJob? r).isNone then d'
      else if k.fetches.all GFetch.settled then
        d'.gleanEnd k (if k.fetches.any fun x => x.st = .lost then stUnrecoverable else stSuccess)
      else if k = j then d'
      else Dev.gleanStep r n d'

/-- Steps enough for `gleanStep`: each round settles a grain, asks for survivors or ends. -/
def gleanFuel : Nat := 1024

/-! ### GLEAN_READ (R235, R519) -/

/-- A grain of an unsealed object while its buffer holds it (R341): a completed one only when its ciphertext matches the
digest the fold unit computed. -/
def SowSess.buffered (s : SowSess) (key : List Byte) (gi : Nat) : Option (List Byte) :=
  if gi = s.digests.length then some s.part
  else
    let ct := match s.sheaves[gi / s.k]? with
      | some h => h.grains.getD (gi % s.k) []
      | none => s.cur.getD (gi % s.k) []
    if ct = [] || hashH s.hash ct ≠ s.digests.getD gi [] then none else some (grainDec key gi ct)

/-- The session of a function that sows an object, OPEN or SEALING (R517). -/
def Dev.sessOf (d : Dev) (f obj : Nat) : Option SowSess :=
  (d.sow.sess.find? fun e => sessFunc e.1 = f && e.2.obj = obj && e.2.phase ≠ .expired).map Prod.snd

/-- GLEAN_READ of an unsealed object: bytes of the volatile buffer, or NO_OBJECT (R341, R517). -/
def Dev.gleanBuffer (d : Dev) (r i : Nat) (x : Drill) (e : Entry) (s : SowSess) : Dev :=
  let off := leAt e 32 8
  let hi := min (off + leAt e 28 4) s.fr
  if s.fr ≤ off then d.finishWork r i { status := stSuccess }
  else if !d.rootOk then d.finishWork r i { status := stKeyUnavailable }
  else
    let (o, d) := d.deriveKey 0x01 s.tenant s.obj s.epoch
    let first := off / 65536
    let parts := (List.range ((hi - 1) / 65536 + 1 - first)).map fun t => s.buffered o.1 (first + t)
    if parts.any Option.isNone then d.finishWork r i { status := stNoObject }
    else
      let bytes := slice (parts.flatMap fun p => p.getD []) (off - first * 65536) (hi - off)
      let b := d.bufOf x.func (leAt e 24 4)
      match d.hostPut x.func r (b.base + leAt e 40 8) b.tag bytes with
      | (_, none, d) => d.finishWork r i { status := stSuccess, result := hi - off }
      | (n, some status, d) => d.finishWork r i { status := status, result := (off + n) / 65536 * 65536 - off }

/-- The fetch of one data grain, as GLEAN_READ begins: none where the sheaf's descriptor is not known (R871). -/
def Dev.firstFetch (d : Dev) (o : ObjRef) (gi : Nat) : GFetch × Dev :=
  let sheaf := gi / o.k
  let x : GFetch := { sheaf := sheaf, pos := gi % o.k, due := d.now + fetchTo d, hedgeAt := (hedgeOf d).map (d.now + ·) }
  match o.desc sheaf, o.place sheaf (gi % o.k) with
  | none, _ => ({ x with st := .lost, inFlight := false }, d.count .DEVICE_GLEAN_UNRECOV)
  | some _, none => ({ x with st := .missing, inFlight := false }, d.count .DEVICE_GLEAN_FETCHFAIL)
  | some _, some p => (x, d.sendFetch p)

/-- Begins the read of a sealed object. -/
def Dev.gleanBegin (d : Dev) (r i : Nat) (x : Drill) (e : Entry) (o : ObjRef) : Dev :=
  let off := leAt e 32 8
  let hi := min (off + leAt e 28 4) o.len
  if !o.sealedAsRead then d.finishWork r i { status := stNoObject }
  else if o.len ≤ off then d.finishWork r i { status := stSuccess }
  else if (d.homePlot 0).isNone then d.finishWork r i { status := stBlockFallow }
  else if !d.fnMaster x.func then (d.bmeDrop x.func).finishWork r i { status := stBmeCleared }
  else
    let b := d.bufOf x.func (leAt e 24 4)
    let gs := (List.range ((hi - 1) / 65536 + 1 - off / 65536)).map (· + off / 65536)
    let (fs, d) := gs.foldl (fun acc gi =>
      let (x, d) := acc.2.firstFetch o gi
      (acc.1 ++ [x], d)) (([] : List GFetch), d)
    let j : GleanJob := { drill := r, entry := i, ref := o, lo := off, hi := hi, dst := b.base + leAt e 40 8, pasid := b.tag,
                          plot := (d.homePlot 0).getD 0, fetches := fs }
    let d := d.workWaits r
    Dev.gleanStep r gleanFuel (d.setGlean { d.glean with gleans := d.glean.gleans ++ [j] })

/-- GLEAN_READ (R233, R235, R516 to R519): `ledger` is what firmware reads of the tenant's ledgers, `descs` the
descriptor rows that can be read. -/
def execGleanRead (r i : Nat) (ledger : LedgerRead) (descs : List (List (BitVec 8))) (s : State) : Res :=
  s.run fun _ d => d.workRun r i 0x20 fun d x e =>
    let obj := leAt e 8 16
    if !d.handlesOk x.func e then d.finishWork r i { status := stHandleInvalid }
    else
      match d.sessOf x.func obj with
      | some s => d.gleanBuffer r i x e s
      | none =>
        match d.findSeal (d.fld TENANT_ID.TENANT [x.func]) obj ledger with
        | (.seal b, d) => d.gleanBegin r i x e (objRef b descs)
        | (.unknown, d) => d.finishWork r i { status := stNoObject }
        | (.bad, d) => d.finishWork r i { status := stNoObject }
        | (.noRoot, d) => d.finishWork r i { status := stKeyUnavailable }

/-! ### Fetches arrive, or fail (R520 to R525) -/

/-- The read of drill `r` goes on, unless its drill is stale (R359), its function may issue no request (R284), or a block it
needs of its plot is gated (R212). -/
def Dev.gleanGo (d : Dev) (r : Nat) (go : Dev → GleanJob → Dev) : Dev :=
  match d.gleanJob? r with
  | none => d
  | some j =>
    let x := d.drill r
    if d.flt.safe then d
    else if d.stale x.workid then (d.dropJob r).discardStale.freeDrill r
    else if !d.fnMaster x.func then (d.bmeDrop x.func).gleanEnd j stBmeCleared
    else if !d.plotSows j.plot then d.gleanEnd j stBlockFallow
    else Dev.gleanStep r gleanFuel (go d j)

/-- A grain's fetch fails: it is missing from now (R520). -/
def Dev.fetchFails (d : Dev) (j : GleanJob) (sheaf pos : Nat) : Dev :=
  (d.count .DEVICE_GLEAN_FETCHFAIL).putJob
    (j.modFetch sheaf pos fun x => { x with st := if x.st = .flying then .missing else x.st, inFlight := false })

/-- A running reconstruction all of whose targets have a verified copy stops, each target a loser (R210, R524). -/
def Dev.stopRecon (d : Dev) (j : GleanJob) (sheaf : Nat) : Dev :=
  match j.recon? sheaf with
  | none => d
  | some c =>
    if c.targets.all fun t => ((j.fetch? sheaf t).map GFetch.verified).getD false then
      (d.count .DEVICE_SPEC_LOSER [] c.targets.length).putJob (j.dropRecon sheaf)
    else d

/-- A fetched copy is decrypted as it is verified (R209), in a release entry of the read's plot; verified, it is released
(R519, R525), and else discarded (R526). -/
def Dev.gleanCopy (d : Dev) (j : GleanJob) (sheaf pos : Nat) (ct : List Byte) : Dev :=
  let d := d.count .DEVICE_SPEC_DECRYPT_EARLY
  if j.ref.verifies sheaf pos ct then
    let j := j.modFetch sheaf pos fun x => { x with verified := true }
    let d := (d.putJob j).stopRecon j sheaf
    d.gleanRelease (d.jobNow j) sheaf pos ct
  else
    let d := (d.count .DEVICE_SPEC_DECRYPT_DISCARD).copyBad j.ref sheaf pos
    d.putJob (j.modFetch sheaf pos fun x => { x with st := .mismatch })

/-- A fetched row of a data grain (R196, R519, R520): its copy takes a release entry, or waits for one. -/
def Dev.grainArrives (d : Dev) (j : GleanJob) (x : GFetch) (b : List Byte) : Dev :=
  let j' := j.modFetch x.sheaf x.pos fun x => { x with inFlight := false }
  if x.verified then
    if b = [] then d.putJob j' else (d.count .DEVICE_SPEC_LOSER).putJob j'
  else
    let d := d.laterRow (j.ref.place x.sheaf x.pos) b
    if !j.ref.names x.sheaf x.pos b then d.fetchFails j x.sheaf x.pos
    else if (freeRelease (d.ciph j.plot)).isNone then
      d.putJob { j' with waiting := j'.waiting ++ [((x.sheaf, x.pos), false, rowPayload b)] }
    else d.gleanCopy j' x.sheaf x.pos (rowPayload b)

/-- The oldest copy of a read that waits for a release entry takes one (R196). One whose grain has since verified is a loser
(R210). -/
def Dev.gleanTake (d : Dev) (j : GleanJob) : Dev :=
  match j.waiting with
  | [] => d
  | ((sheaf, pos), rebuilt, ct) :: t =>
    let j := { j with waiting := t }
    let d := d.putJob j
    if rebuilt then (d.count .DEVICE_SPEC_DECRYPT_EARLY).gleanRelease j sheaf pos ct
    else if ((j.fetch? sheaf pos).map GFetch.verified).getD false then d.count .DEVICE_SPEC_LOSER
    else d.gleanCopy j sheaf pos ct

/-- RELEASE_ENTRY_FREE (R196, R505): a decryption that waits for a release entry of plot `p` takes one that is free: the command
at the front of the cipher queue, else the oldest read (assumption 146). -/
def execReleaseEntryFree (p : Nat) (ext : List (BitVec 8)) (s : State) : Res := s.run fun m d =>
  if (d.ciph p).waitRelease then d.releaseFreed m p ext
  else if (freeRelease (d.ciph p)).isNone then d
  else
    match d.glean.gleans.find? fun j => j.plot = p && j.waiting ≠ [] with
    | none => d
    | some j =>
      let d := d.gleanGo j.drill fun d j => d.gleanTake j
      ((d.glean.gleans.filter fun x => x.plot = p).map GleanJob.drill).foldl (fun d r => d.gleanGo r fun d _ => d) d

/-- A read's plot is gated: what it holds is discarded, and it ends (R212, R213). -/
def Dev.gleanGated (d : Dev) (p : Nat) : Dev :=
  ((d.glean.gleans.filter fun x => x.plot = p).map GleanJob.drill).foldl (fun d r => d.gleanGo r fun d _ => d) d

/-- A loser of a read that has ended arrives, and is discarded (R210); an error reply is no copy. -/
def Dev.loserArrives (d : Dev) (r sheaf pos : Nat) (b : List Byte) : Dev :=
  if d.glean.losers.contains (r, sheaf, pos) then
    let d := d.setGlean { d.glean with losers := d.glean.losers.erase (r, sheaf, pos) }
    if b = [] then d else d.count .DEVICE_SPEC_LOSER
  else d

/-- GLEAN_FETCH_ARRIVE (R210, R519, R520, R525): the row of data position `pos` of a sheaf arrives for the read of drill
`r`, which may have ended. -/
def execGleanFetchArrive (r sheaf pos : Nat) (data : List (BitVec 8)) (s : State) : Res := s.run fun _ d =>
  match (d.gleanJob? r).bind fun j => j.fetch? sheaf pos with
  | some x => if x.inFlight then d.gleanGo r fun d j => d.grainArrives j x data else d.loserArrives r sheaf pos data
  | none => d.loserArrives r sheaf pos data

/-- A survivor's fetch has ended. -/
def GleanJob.unask (j : GleanJob) (c : GRecon) (pos : Nat) : GleanJob :=
  j.putRecon { c with asked := c.asked.filter fun e => e.1 ≠ pos }

/-- SURVIVOR_ARRIVE (R523): a survivor arrives, and is kept if it verifies. -/
def execSurvivorArrive (r sheaf pos : Nat) (data : List (BitVec 8)) (s : State) : Res := s.run fun _ d =>
  d.gleanGo r fun d j =>
    match j.recon? sheaf with
    | none => d
    | some c =>
      if !c.asked.any fun e => e.1 = pos then d
      else
        let j := j.unask c pos
        let d := d.laterRow (j.ref.place sheaf pos) data
        if !j.ref.names sheaf pos data then (d.count .DEVICE_GLEAN_FETCHFAIL).putJob j
        else if j.ref.verifies sheaf pos (rowPayload data) then d.putJob (j.keep sheaf pos (rowPayload data))
        else (d.copyBad j.ref sheaf pos).putJob j

/-- GLEAN_FETCH_TIMEOUT (R520): FETCH_TO passes for a fetch of the read, a grain's or a survivor's. -/
def execGleanFetchTimeout (r sheaf pos : Nat) (s : State) : Res := s.run fun _ d =>
  match d.gleanJob? r with
  | none => d
  | some j =>
    match j.fetch? sheaf pos, (j.recon? sheaf).bind fun c => (c.asked.find? fun e => e.1 = pos).map fun e => (c, e.2) with
    | some x, _ =>
      if x.inFlight && x.st = .flying && !x.verified then d.at x.due fun d => d.gleanGo r fun d j => d.fetchFails j sheaf pos else d
    | none, some (c, due) =>
      d.at due fun d => d.gleanGo r fun d j => (d.count .DEVICE_GLEAN_FETCHFAIL).putJob (j.unask c pos)
    | none, none => d

/-- Every grain whose fetch has lasted HEDGE µs is slow (R521, R524). -/
def GleanJob.slowAt (j : GleanJob) (now : Nat) : GleanJob :=
  let late (x : GFetch) : Bool := x.st = .flying && x.inFlight && !x.verified && (x.hedgeAt.map fun t => decide (t ≤ now)).getD false
  { j with fetches := j.fetches.map fun x => if late x then { x with slow := true } else x }

/-- HEDGE_THRESHOLD (R521): a grain's fetch becomes slow, and with it each that was issued no later. -/
def execHedgeThreshold (r sheaf pos : Nat) (s : State) : Res := s.run fun _ d =>
  match (d.gleanJob? r).bind fun j => j.fetch? sheaf pos with
  | none => d
  | some x =>
    match x.hedgeAt with
    | none => d
    | some t =>
      if x.st ≠ .flying || !x.inFlight || x.verified || x.slow then d
      else d.at t fun d => d.gleanGo r fun d j => d.putJob (j.slowAt d.now)

/-! ### OBJ_STAT and LEDGER_READ -/

/-- OBJ_STAT (R233, R516). A generation-2 record is followed by zeros, and has no profile (assumption 144). -/
def execObjStat (r i : Nat) (ledger : LedgerRead) (s : State) : Res :=
  s.run fun _ d => d.workRun r i 0x21 fun d x e =>
    if !d.handlesOk x.func e then d.finishWork r i { status := stHandleInvalid }
    else
      match d.findSeal (d.fld TENANT_ID.TENANT [x.func]) (leAt e 8 16) ledger with
      | (.seal b, d) =>
        let u := d.bufOf x.func (leAt e 24 4)
        let o := sealRef b
        match d.hostPut x.func r u.base u.tag (slice b 0 256) with
        | (_, none, d) => d.finishWork r i { status := stSuccess, result := o.len + o.prof * 2 ^ 64 }
        | (_, some status, d) => d.finishWork r i { status := status }
      | (.unknown, d) => d.finishWork r i { status := stNoObject }
      | (.bad, d) => d.finishWork r i { status := stNoObject }
      | (.noRoot, d) => d.finishWork r i { status := stKeyUnavailable }

/-- LEDGER_READ (R236). -/
def execLedgerRead (r i : Nat) (ledger : List (List (BitVec 8))) (s : State) : Res :=
  s.run fun _ d => d.workRun r i 0x30 fun d x e =>
    if !d.handlesOk x.func e then d.finishWork r i { status := stHandleInvalid }
    else if !d.rootOk then d.finishWork r i { status := stKeyUnavailable }
    else
      let recs := d.ledgerOf (d.fld TENANT_ID.TENANT [x.func]) ledger
      let first := max 1 (leAt e 8 8)
      let got := (recs.drop (first - 1)).take (leAt e 16 4)
      if got = [] then d.finishWork r i { status := stSuccess }
      else
        let b := d.bufOf x.func (leAt e 20 4)
        match d.hostPut x.func r b.base b.tag (got.flatMap fun b => slice b 0 256) with
        | (_, none, d) => d.finishWork r i { status := stSuccess, result := got.length + (first + got.length - 1) * 2 ^ 64 }
        | (n, some status, d) => d.finishWork r i
            { status := status, result := if n / 256 = 0 then 0 else n / 256 + (first + n / 256 - 1) * 2 ^ 64 }

/-- GLEAN_CLR (R550). -/
def execGleanClr (master size : Nat) (value : Word) (s : State) : Res := s.run fun _ d =>
  d.clrWrite .DEVICE_GLEAN_CLR [] ⟨master, size, 0, value⟩

end Sys2Proof.Machine
end

