-- ==== Sys2Proof/Machine/Repair.lean ====
section
/-!
DEFINITION. FIXITY and REPAIR (R529 to R533, R542 to R547, R871).
A command that reads rows carries what each present position's read gives, in increasing sheaf and position: 0 with
the row's bytes, 2 when the target or peer reports an error, 3 when nothing answers.
-/

namespace Sys2Proof.Machine

/-- What reading a position gave. -/
abbrev RowRead := Nat × List Byte

/-- FAULT of R544 for a read of position `q`, 0 when the copy verifies. -/
def ObjRef.faultOf (o : ObjRef) (sheaf q : Nat) (r : RowRead) : Nat :=
  if (o.desc sheaf).isNone then 3
  else if r.1 = 2 then 2
  else if r.1 ≠ 0 then 3
  else if !o.names sheaf q r.2 then 4
  else if o.verifies sheaf q (rowPayload r.2) then 0 else 1

/-- The present positions of an object, in order. -/
def ObjRef.allPos (o : ObjRef) : List (Nat × Nat) :=
  (List.range o.sheaves).flatMap fun h => (o.present h).map fun q => (h, q)

/-- Reads by position; a position the command gives no read for has not answered. -/
def readsOf (ps : List (Nat × Nat)) (rows : List RowRead) : List ((Nat × Nat) × RowRead) :=
  ps.zipIdx.map fun e => (e.1, rows.getD e.2 (3, []))

/-- Reports the rows of a later generation that a set of reads met (R591). -/
def Dev.laterRows (d : Dev) (o : ObjRef) (rs : List ((Nat × Nat) × RowRead)) : Dev :=
  rs.foldl (fun d r => if r.2.1 = 0 then d.laterRow (o.place r.1.1 r.1.2) r.2.2 else d) d

/-! ### FIXITY (R542 to R545) -/

/-- An entry of the report's LIST. -/
def fixityEntry (o : ObjRef) (h q fault : Nat) : List Byte :=
  let p := (o.place h q).getD (0, 0, 0)
  leBytes 4 h ++ leBytes 1 q ++ leBytes 1 fault ++ leBytes 2 p.2.1 ++ leBytes 4 (p.1 % 2 ^ 24) ++ leBytes 4 0

/-- The report's bytes 0 to 4,063 (R543). -/
def Dev.fixityHead (d : Dev) (o : ObjRef) (after : Nat) (tallyMedia : List Byte) (bad : List ((Nat × Nat) × Nat)) : List Byte :=
  let t := d.stamp
  let list := (bad.take 238).flatMap fun b => fixityEntry o b.1.1 b.1.2 b.2
  let head := [0x54, 0x47, 0x58, 0x33] ++ leBytes 2 1 ++ leBytes 2 (min bad.length 238) ++ leBytes 4 o.tenant ++
    leBytes 4 d.node ++ leBytes 16 o.obj ++ leBytes 8 o.len ++ leBytes 1 o.prof ++ leBytes 1 o.k ++ leBytes 1 o.m ++
    leBytes 1 o.g ++ leBytes 1 o.hash ++ leBytes 3 0 ++ leBytes 8 o.sealSeq ++ leBytes 8 after ++ slice o.tally 0 32 ++
    slice tallyMedia 0 32 ++ leBytes 6 t.1 ++ leBytes 4 t.2.1 ++ leBytes 1 t.2.2 ++ leBytes 5 0 ++
    leBytes 8 o.allPos.length ++ leBytes 8 bad.length ++ leBytes 8 o.sheaves
  slice head 0 256 ++ slice list 0 3808

/-- The result of FIXITY: positions checked and failed. -/
def fixityResult (checked failed : Nat) : Nat := checked + failed * 2 ^ 64

/-- FIXITY (R542): the entry waits for its record once the report is written, or its write has failed. -/
def execFixity (r i : Nat) (ledger : LedgerRead) (descs : List (List (BitVec 8))) (rows : List (Nat × List (BitVec 8))) (s : State) : Res :=
  s.run fun _ d => d.workRun r i 0x31 fun d x e =>
    let tenant := d.fld TENANT_ID.TENANT [x.func]
    if !d.handlesOk x.func e then d.finishWork r i { status := stHandleInvalid }
    else
      match d.findSeal tenant (leAt e 8 16) ledger with
      | (.unknown, d) => d.finishWork r i { status := stNoObject }
      | (.bad, d) => d.finishWork r i { status := stNoObject }
      | (.noRoot, d) => d.finishWork r i { status := stKeyUnavailable }
      | (.seal b, d) =>
        let o := objRef b descs
        if !o.sealedAsRead then d.finishWork r i { status := stNoObject } else
        let after := (d.ledgerOf tenant ledger.recs).length
        let rs := readsOf o.allPos rows
        let d := d.laterRows o rs
        let bad := rs.filterMap fun x => if o.faultOf x.1.1 x.1.2 x.2 = 0 then none else some (x.1, o.faultOf x.1.1 x.1.2 x.2)
        let read (x : (Nat × Nat) × RowRead) : Bool := x.2.1 = 0 && o.names x.1.1 x.1.2 x.2.2
        let data := rs.filter fun x => x.1.2 < o.k
        let tm := if data.all read && o.descs.length = o.sheaves then
            o.tallyFrom (data.map fun x => hashH o.hash (rowPayload x.2.2)) else List.replicate 32 0
        let head := d.fixityHead o after tm bad
        let (key, d) := d.deriveKey 0x03 tenant 0 0
        let report := head ++ hmac256 (macKey 0x03 key.1) head
        let checked := o.allPos.length
        let b := d.bufOf x.func (leAt e 24 4)
        let (_, fails, d) := d.hostPut x.func r b.base b.tag report
        let status := fails.getD stSuccess
        let d := d.workWaits r
        let j : FixityJob := { drill := r, entry := i, status := status, checked := checked, failed := bad.length }
        let d := d.setGlean { d.glean with fixities := d.glean.fixities ++ [j] }
        d.handRecord { tenant := tenant, kind := 3, object := o.obj, origin := .entry r i,
                       body := sha256 report ++ leBytes 8 checked ++ leBytes 8 bad.length ++ leBytes 8 after }

/-- A FIXITY's record is durable, or cannot be made: the entry completes. -/
def Dev.fixityDone (d : Dev) (r i status : Nat) : Dev :=
  match d.glean.fixities.find? fun j => j.drill = r && j.entry = i with
  | none => d
  | some j =>
    let d := d.setGlean { d.glean with fixities := d.glean.fixities.filter fun j => !(j.drill = r && j.entry = i) }
    d.finishWork r i { status := if status = stSuccess then j.status else status, result := fixityResult j.checked j.failed }

/-! ### REPAIR (R529 to R532) -/

def Dev.setRepairs (d : Dev) (l : List RepairJob) : Dev := d.setGlean { d.glean with repairs := l }
/-- The repair of an object that holds its lock. -/
def Dev.repair? (d : Dev) (obj : Nat) : Option RepairJob := d.glean.repairs.find? fun j => j.ref.obj = obj && j.phase ≠ 0
def Dev.putRepair (d : Dev) (j : RepairJob) : Dev :=
  d.setRepairs (d.glean.repairs.map fun x => if x.ref.obj = j.ref.obj && x.phase ≠ 0 then j else x)
def Dev.dropRepair (d : Dev) (obj : Nat) : Dev :=
  (d.setRepairs (d.glean.repairs.filter fun j => !(j.ref.obj = obj && j.phase ≠ 0))).emit (.repairLock obj false)

/-- A repair asks for the object's lock (R532). -/
def Dev.repairAsk (d : Dev) (j : RepairJob) : Dev :=
  (d.setRepairs (d.glean.repairs ++ [j])).emit (.repairLock j.ref.obj true)

/-- REPAIR (R516, R532): the object is found, and its repair waits for the lock. -/
def execRepair (r i : Nat) (ledger : LedgerRead) (descs : List (List (BitVec 8))) (s : State) : Res :=
  s.run fun _ d => d.workRun r i 0x32 fun d x e =>
    match d.findSeal (d.fld TENANT_ID.TENANT [x.func]) (leAt e 8 16) ledger with
    | (.unknown, d) => d.finishWork r i { status := stNoObject }
    | (.bad, d) => d.finishWork r i { status := stNoObject }
    | (.noRoot, d) => d.finishWork r i { status := stKeyUnavailable }
    | (.seal b, d) =>
      if !(objRef b descs).sealedAsRead then d.finishWork r i { status := stNoObject }
      else (d.workWaits r).repairAsk { drill := some (r, i), ref := objRef b descs }

/-- Grain rows of a repair that are now in effect (R531). -/
def RepairJob.count (j : RepairJob) : Nat := (j.rows.filter RowW.durable).length

/-- A row moves: it is written at a new placement. -/
def RepairJob.movedRow (j : RepairJob) (w : RowW) : Bool := w.place ≠ j.ref.place w.sheaf w.pos

/-- Phase 3: the repair's record (R531, R536, R546). -/
def Dev.repairRecord (d : Dev) (j : RepairJob) : Dev :=
  let d := d.putRepair { j with phase := 3 }
  match j.harrow with
  | some (h, q, fault, target) =>
    let d := d.count .DEVICE_HARROW_REPAIRED [] j.count
    d.handRecord { tenant := j.ref.tenant, kind := 4, object := j.ref.obj, origin := .harrow j.ref.obj,
                   body := leBytes 4 h ++ leBytes 1 q ++ leBytes 1 fault ++ leBytes 2 target ++ leBytes 1 (b2n (j.lost = [])) }
  | none =>
    let first := j.lost.foldl (fun a b => if b.1 < a.1 || (b.1 = a.1 && b.2 < a.2) then b else a) (0xFFFFFFFF, 0xFF)
    let from' := match j.drill with
      | some e => ReqFrom.entry e.1 e.2
      | none => ReqFrom.nobody
    d.handRecord { tenant := j.ref.tenant, kind := 5, object := j.ref.obj, origin := from',
                   body := leBytes 8 j.count ++ leBytes 8 j.lost.length ++ leBytes 4 first.1 ++ leBytes 1 first.2 }

/-- A repair's record is durable: the lock is released, and a REPAIR completes (R531, R532). -/
def Dev.repairDone (d : Dev) (obj status : Nat) : Dev :=
  match d.repair? obj with
  | none => d
  | some j =>
    let d := d.dropRepair obj
    match j.drill with
    | none => d
    | some (r, i) =>
      d.finishWork r i { status := if status ≠ stSuccess then status else if j.lost = [] then stSuccess else stUnrecoverable,
                         result := j.count }

/-- A descriptor with new placements, VERSION one higher (R568). -/
def Dev.newDesc (d : Dev) (j : RepairJob) (sheaf : Nat) (b : List Byte) : List Byte :=
  let t := d.stamp
  let h := putBytes (slice b 0 252) 60 (leBytes 4 (leAt b 60 4 + 1) ++ leBytes 6 t.1 ++ leBytes 2 0 ++ leBytes 4 t.2.1 ++ leBytes 1 t.2.2)
  let block := (j.rows.filter fun w => w.sheaf = sheaf && w.durable).foldl (fun x w =>
    putBytes x (64 + 16 * w.pos) (placeEntry w.place)) (slice b 256 3836)
  withCrc h ++ withCrc block ++ rowPayload b

/-- Writes the first descriptor copy that is not yet rewritten; with none left, the replaced rows' freeing starts and
the record follows (R530, R569). -/
def Dev.repairDescs (d : Dev) (j : RepairJob) : Dev :=
  match j.descs.find? fun w => !w.durable with
  | some w =>
    match w.place, j.ref.desc w.sheaf with
    | some p, some b => d.writeRow p (d.newDesc j w.sheaf b)
    | _, _ => d
  | none =>
    let due := d.now + fetchTo d
    let old := (j.rows.filter fun w => w.durable && j.movedRow w).filterMap fun w => (j.ref.place w.sheaf w.pos).map fun p => (due, p)
    (d.setGlean { d.glean with oldRows := d.glean.oldRows ++ old }).repairRecord j

/-- Once its rows are on media, a repair rewrites the descriptors of the sheaves whose rows moved. A sheaf whose copies
are not to be found keeps its descriptor, and its moved rows are not in effect. -/
def Dev.repairNext (d : Dev) (j : RepairJob) : Dev :=
  if j.phase ≠ 1 || !rowsDone j.rows then d
  else
    let sheaves := (j.rows.filter j.movedRow).map RowW.sheaf |>.eraseDups
    let copiesOf (h : Nat) : List Place := (j.copies.filter fun e => e.1 = h).map Prod.snd
    let gone := j.rows.filter fun w => j.movedRow w && copiesOf w.sheaf = []
    let descs : List RowW := sheaves.flatMap fun h => (copiesOf h).zipIdx.map fun e => ⟨h, 256 + e.2, some e.1, false⟩
    let j' : RepairJob := { j with phase := 2, descs := descs, rows := j.rows.filter (fun w => !gone.contains w),
                                   lost := j.lost ++ gone.map fun w => (w.sheaf, w.pos) }
    (d.putRepair j').repairDescs j'

/-- A rebuilt row with its header (R530). -/
def Dev.repairRow (d : Dev) (o : ObjRef) (h q : Nat) (payload : List Byte) : List Byte :=
  let t := d.stamp
  let b := (o.desc h).getD []
  let data := q < o.k
  let gi := h * o.k + q
  let last := data && decide (gi + 1 = o.grains)
  let head : RowHead :=
    { tenant := o.tenant, object := o.obj, sheaf := h, grain := if data then gi else 0,
      valid := if !data then 0 else if last then o.len - gi * 65536 else 65536, pos := q, k := o.k, m := o.m, g := o.g,
      hash := o.hash, kp := o.kp h, prof := o.prof, last := last, epoch := o.epoch, node := leAt b 56 4,
      sec := t.1, ns := t.2.1, quality := t.2.2, digest := hashH o.hash payload }
  headBlock head [] ++ payload

/-- The survivors R522 gives a repair of some positions of a sheaf, from the copies that verified. -/
def repairSurvivors (o : ObjRef) (h : Nat) (targets : List Nat) (good : Nat → Option Grain) : List Nat :=
  let o1 := if targets.all (· < o.k) then order1 o h targets else []
  let near := (List.range o.g).map fun x => o.k + o.m + x
  if o1 ≠ [] && o1.all fun q => (good q).isSome then o1
  else ((order2 o h targets).filter fun q => (good q).isSome).take (o.kp h) ++
    near.filter fun q => (good q).isSome && !targets.contains q

/-- What a repair of positions `targets` of one sheaf rebuilds (R529, R438, R463). -/
def rebuilt (o : ObjRef) (h : Nat) (targets : List Nat) (good : Nat → Option Grain) : List (Nat × Grain) :=
  let sv := repairSurvivors o h targets good
  match reconstruct o.shape grainLen (o.kp h) targets (fun q => if sv.contains q then good q else none) with
  | none => []
  | some all => (targets.map fun q => (q, all.getD q [])).filter fun e => o.verifies h e.1 e.2

/-- Placements that keep R418 in a sheaf: no other position's target, old or new. -/
def keepsR418 (o : ObjRef) (h q : Nat) (taken : List (Nat × Nat × Place)) (p : Place) : Bool :=
  let others := ((o.present h).filter fun x => x ≠ q).filterMap fun x => (o.place h x).map fun y => (y.1, y.2.1)
  let new := (taken.filter fun e => e.1 = h).map fun e => (e.2.2.1, e.2.2.2.1)
  !(others ++ new).contains (p.1, p.2.1)

/-- Where the rebuilt positions go, in order: the row each replaces, or a new placement. A row of a later generation is
never rewritten (R591), and only a place that is `ok` takes a row. -/
def repairPlaces (o : ObjRef) (ok : Place → Bool) (later : Nat × Nat → Bool) : List (Nat × Nat) → List Place →
    List (Nat × Nat × Place) → List (Nat × Nat × Place)
  | [], _, acc => acc
  | (h, q) :: t, ps, acc =>
    match ps with
    | [] => repairPlaces o ok later t [] acc
    | p :: ps =>
      let fits := ok p && if o.place h q = some p then !later (h, q) else keepsR418 o h q acc p
      repairPlaces o ok later t ps (if fits then acc ++ [(h, q, p)] else acc)

/-- A repair works under its lock: its reads, its rebuilt rows and their writes. `scope` gives the positions it reads,
`want` those it repairs if they failed. -/
def Dev.repairWork (d : Dev) (j : RepairJob) (rows : List RowRead) (ps : List Place) (copies : List (Nat × Place)) : Dev :=
  let o := j.ref
  let scope := match j.harrow with
    | some (h, _, _, _) => (o.present h).map fun q => (h, q)
    | none => o.allPos
  let rs := readsOf scope rows
  let d := d.laterRows o rs
  let bad := (rs.filter fun x => o.faultOf x.1.1 x.1.2 x.2 ≠ 0).map Prod.fst
  let bad := match j.harrow with
    | some (h, q, _, _) => bad.filter fun x => x = (h, q)
    | none => bad
  let good (h q : Nat) : Option Grain :=
    (rs.find? fun x => x.1 = (h, q) && o.faultOf h q x.2 = 0).map fun x => rowPayload x.2.2
  let data := (List.range o.sheaves).flatMap fun h =>
    let ts := (bad.filter fun x => x.1 = h).map Prod.snd
    if ts = [] || (o.desc h).isNone then [] else (rebuilt o h ts (good h)).map fun e => ((h, e.1), e.2)
  let later (x : Nat × Nat) : Bool := rs.any fun y => y.1 = x && y.2.1 = 0 && (rowChecks y.2.2).isNone
  let placed := repairPlaces o (fun p => o.gen = 3 && d.canPlace p) later (data.map Prod.fst) ps []
  let copies := copies.filter fun e => d.canPlace e.2
  let lost := bad.filter fun x => !placed.any fun e => (e.1, e.2.1) = x
  let w : List RowW := placed.map fun e => ⟨e.1, e.2.1, some e.2.2, false⟩
  let j' : RepairJob := { j with phase := 1, rows := w, data := data, copies := copies, lost := lost }
  let read := match j.harrow with
    | some (h, q, _, _) => if bad = [] then 0 else (repairSurvivors o h [q] (good h)).length
    | none => 0
  let d := d.count .DEVICE_HARROW_BYTES [] (read * 65536)
  let d := d.setGlean { d.glean with tokens := d.glean.tokens - read * 65536 }
  let d := placed.foldl (fun d e =>
    let bytes := d.repairRow o e.1 e.2.1 (((data.find? fun x => x.1 = (e.1, e.2.1)).map Prod.snd).getD [])
    if o.place e.1 e.2.1 = some e.2.2 then d.storeRow e.2.2 bytes else d.writeRow e.2.2 bytes) d
  (d.putRepair j').repairNext j'

/-- REPAIR_LOCK_GRANT (R529 to R532): the ledger home grants an object's lock to the repair that has waited longest.
`rows` are its reads, `place` where firmware writes what is rebuilt, `copies` where each sheaf's descriptor copies lie. -/
def execRepairLockGrant (obj : Nat) (rows : List (Nat × List (BitVec 8))) (place : List (Nat × Nat × Nat))
    (copies : List (Nat × Nat × Nat × Nat)) (s : State) : Res := s.run fun _ d =>
  match d.repair? obj, d.glean.repairs.find? fun j => j.ref.obj = obj with
  | none, some j =>
    let stale := match j.drill with
      | some e => d.stale (d.drill e.1).workid
      | none => false
    let waiting := dropFirst (fun (x : RepairJob) => x.ref.obj = obj) d.glean.repairs
    if d.flt.safe then d
    else if stale then
      let d := ((d.setRepairs waiting).discardStale).emit (.repairLock obj false)
      match j.drill with
      | some e => d.freeDrill e.1
      | none => d
    else
      let j' : RepairJob := { j with phase := 1 }
      (d.setRepairs (waiting ++ [j'])).repairWork j' rows place copies
  | _, _ => d

/-! ### A repair's writes end -/

/-- A row or a descriptor copy of a repair is on media. -/
def Dev.repairRowDone (d : Dev) (j : RepairJob) (p : Place) : Dev :=
  if j.phase = 1 then
    let j' : RepairJob := { j with rows := markRow p j.rows }
    (d.putRepair j').repairNext j'
  else if j.phase = 2 then
    let j' : RepairJob := { j with descs := markRow p j.descs }
    (d.putRepair j').repairDescs j'
  else d

/-- A write of a repair fails (R422, R530): it goes to the placement firmware chooses instead, or is given up. -/
def Dev.repairRowFail (d : Dev) (j : RepairJob) (p : Place) (alt : Option Place) : Dev :=
  let o := j.ref
  if j.phase = 1 then
    match j.rows.find? fun w => w.place = some p && !w.durable with
    | none => d
    | some w =>
      let taken := j.rows.filterMap fun x => if x = w then none else x.place.map fun y => (x.sheaf, x.pos, y)
      let used (a : Place) : Bool := keepsR418 o w.sheaf w.pos taken a && (a.1, a.2.1) ≠ (p.1, p.2.1)
      match alt.filter used with
      | some a =>
        let j' : RepairJob := { j with rows := j.rows.map fun x => if x = w then { x with place := some a } else x }
        let bytes := ((j.data.find? fun x => x.1 = (w.sheaf, w.pos)).map Prod.snd).getD []
        (d.putRepair j').writeRow a (d.repairRow o w.sheaf w.pos bytes)
      | none =>
        let j' : RepairJob := { j with rows := j.rows.filter (fun x => x ≠ w), lost := j.lost ++ [(w.sheaf, w.pos)] }
        (d.putRepair j').repairNext j'
  else if j.phase = 2 then
    match j.descs.find? fun w => w.place = some p && !w.durable with
    | none => d
    | some w =>
      match alt.filter fun a => a.1 = p.1 with
      | some a =>
        let j' : RepairJob := { j with descs := j.descs.map fun x => if x = w then { x with place := some a } else x }
        (d.putRepair j').repairDescs j'
      | none =>
        let gone := j.rows.filter fun x => x.sheaf = w.sheaf && j.movedRow x
        let j' : RepairJob := { j with descs := j.descs.filter (fun x => x.sheaf ≠ w.sheaf), rows := j.rows.filter (fun x => !gone.contains x),
                                       lost := j.lost ++ gone.map fun x => (x.sheaf, x.pos) }
        (d.putRepair j').repairDescs j'
  else d

/-- OLD_ROW_FREE (R530): FETCH_TO after its descriptor change, a replaced row is freed. -/
def execOldRowFree (s : State) : Res := s.run fun _ d =>
  match d.glean.oldRows with
  | [] => d
  | (due, p) :: t => d.at due fun d => (d.setGlean { d.glean with oldRows := t }).dropRow p

end Sys2Proof.Machine
end

