-- ==== Sys2Proof/Machine/Durable.lean ====
section
/-!
DEFINITION. What becomes durable: rows on local media and on peers (R419 to R422), and the tenants' ledgers that this
device keeps (R425, R570 to R581).
-/

namespace Sys2Proof.Machine

/-! ### A ledger's rows (R574 to R580) -/

def Dev.ledger (d : Dev) (tenant : Nat) : Ledger := tget {} d.sow.ledgers tenant
def Dev.putLedger (d : Dev) (tenant : Nat) (l : Ledger) : Dev :=
  d.setSow { d.sow with ledgers := tput d.sow.ledgers tenant l }

/-- The ciphertext of grain `g` of segment `seg` with the ledger's first `total` records. -/
def ledgerGrain (l : Ledger) (key : List Byte) (seg g total : Nat) : Grain :=
  let first := seg * 2 ^ 24 + g * 256
  grainEnc key g (slice ((l.recs.drop first).take (min total (first + 256) - first)).flatten 0 grainLen)

/-- Digests of positions 0 to 4 of a ledger grain. -/
def ledgerGrains (ct : Grain) : List Grain := ct :: parityGrains { k := 1, m := 4, g := 0 } grainLen [ct]

/-- The header of a row of a ledger grain (R577). -/
def Dev.ledgerHead (d : Dev) (tenant seg g version kind pos : Nat) (digest : List Byte) : RowHead :=
  let t := d.stamp
  let data := kind = 1 && pos = 0
  { kind := kind, tenant := tenant, object := d.segmentId tenant seg, sheaf := g, grain := if data then g else 0,
    valid := if data then 65536 else 0, pos := pos, k := 1, m := 4, g := 0, hash := 0, kp := 1, prof := 0xFF,
    node := d.node, version := version, sec := t.1, ns := t.2.1, quality := t.2.2, digest := digest }

/-- The row of a position of a version. -/
def Dev.ledgerRow (d : Dev) (tenant seg g version : Nat) (ct : Grain) (pos : Nat) : List Byte :=
  let x := (ledgerGrains ct).getD pos []
  headBlock (d.ledgerHead tenant seg g version 1 pos (sha256 x)) [] ++ x

/-- A descriptor copy of a grain of an open segment (R580). -/
def Dev.ledgerDesc (d : Dev) (tenant seg g version : Nat) (ct : Grain) (rows : List RowW) : List Byte :=
  let digs := (ledgerGrains ct).map sha256
  let table := slice (digs.getD 0 []) 0 65536
  let places := (List.range 5).map fun q => ((rows.find? fun r => r.pos = q).bind RowW.place)
  headBlock (d.ledgerHead tenant seg g version 2 0xFF (sha256 table)) (descBlock 0 [] true places digs.tail) ++ table

/-- The key of a tenant's ledger rows (R478). -/
def Dev.ledgerKey (d : Dev) (tenant : Nat) : List Byte × Dev :=
  let (k, d) := d.deriveKey 0x03 tenant 0 0
  (k.1.take 64, d)

/-- The grain that a ledger's version in flight holds: its segment and index. -/
def Ledger.openGrain (l : Ledger) : Nat × Nat := (l.durable / 2 ^ 24, l.durable / 256 % 65536)

/-- LEDGER_VERSION_WRITE (R577, R578): the open grain is written whole as a new version, to five fresh rows. `ps` are the
placements firmware chooses for the rows and, after them, for the descriptor copies. -/
def Dev.ledgerWrite (d : Dev) (tenant : Nat) (ps : List Place) : Dev :=
  let l := d.ledger tenant
  if l.rows ≠ [] || l.durable = l.recs.length then d
  else
    let total := min l.recs.length (l.durable / 256 * 256 + 256)
    let (seg, g) := l.openGrain
    let version := if l.durable % 256 = 0 then 1 else l.version + 1
    let (key, d) := d.ledgerKey tenant
    let ct := ledgerGrain l key seg g total
    let a := assignRows d.canPlace g [0, 1, 2, 3, 4] [] ps
    let d := a.1.foldl (fun d r => match r.place with
      | some p => d.writeRow p (d.ledgerRow tenant seg g version ct r.pos)
      | none => d) d
    d.putLedger tenant { l with rows := a.1, copies := [], spare := a.2, writing := total, version := version }

/-- Once a version's rows are on media, its descriptor copies are written, each on the device of its position (R568,
R578). -/
def Dev.ledgerCopies (d : Dev) (tenant : Nat) : Dev :=
  let l := d.ledger tenant
  if l.rows = [] || !rowsDone l.rows || l.copies ≠ [] then d
  else
    let (seg, g) := l.openGrain
    let (key, d) := d.ledgerKey tenant
    let ct := ledgerGrain l key seg g l.writing
    let copy (e : RowW × Nat) : RowW :=
      ⟨g, 256 + e.1.pos, match e.1.place, l.spare[e.2]?.filter d.canPlace with
        | some a, some b => if a.1 = b.1 then some b else none
        | _, _ => none, false⟩
    let copies := l.rows.zipIdx.map copy
    let d := copies.foldl (fun d r => match r.place with
      | some p => d.writeRow p (d.ledgerDesc tenant seg g l.version ct l.rows)
      | none => d) d
    d.putLedger tenant { l with copies := copies }

/-- Rows and copies of the version in flight that have no placement are placed again (R422). -/
def Dev.ledgerPlace (d : Dev) (tenant : Nat) (ps : List Place) : Dev :=
  let l := d.ledger tenant
  let (seg, g) := l.openGrain
  let lost (rs : List RowW) : Bool := rs.any fun r => r.place.isNone
  if !lost l.rows && !lost l.copies then d
  else
    let (key, d) := d.ledgerKey tenant
    let ct := ledgerGrain l key seg g l.writing
    let used := l.rows.filterMap fun (r : RowW) => r.place.map fun p => (p.1, p.2.1)
    let a := assignRows d.canPlace g ((l.rows.filter fun r => r.place.isNone).map RowW.pos) used ps
    let pick (r : RowW) : RowW := if r.place.isSome then r else (a.1.find? fun n => n.pos = r.pos).getD r
    let rows := l.rows.map pick
    let site (r : RowW) : Option Nat := (l.rows.find? fun x => 256 + x.pos = r.pos).bind fun x => x.place.map Prod.fst
    let pickC (r : RowW) : RowW := if r.place.isSome then r else { r with place := a.2.find? fun p => site r = some p.1 && d.canPlace p }
    let copies := l.copies.map pickC
    let d := a.1.foldl (fun d r => match r.place with
      | some p => d.writeRow p (d.ledgerRow tenant seg g l.version ct r.pos)
      | none => d) d
    let d := (copies.filter fun r => !l.copies.contains r).foldl (fun d r => match r.place with
      | some p => d.writeRow p (d.ledgerDesc tenant seg g l.version ct l.rows)
      | none => d) d
    d.putLedger tenant { l with rows := rows, copies := copies }

/-! ### Records (R425, R570, R571) -/

/-- Appends a record to the ledger homed here: its sequence, the digest of its predecessor, and its MAC. -/
def Dev.ledgerAppend (d : Dev) (q : LedgerReq) : Nat × Dev :=
  let l := d.ledger q.tenant
  let seq := l.recs.length + 1
  let prev := match l.recs.getLast? with
    | some r => recordDigest r
    | none => []
  let head := recordHead q seq prev
  let (key, d) := d.recordKey q.kind q.tenant q.object q.epoch
  (seq, d.putLedger q.tenant { l with recs := l.recs ++ [head ++ hmac256 key head] })

/-- The STEP record of a time step (R71, R572). -/
def Dev.stepRecord (d : Dev) (tenant : Nat) : LedgerReq :=
  let t := d.stamp
  let old := d.clk.stepOld
  { tenant := tenant, kind := 2, node := d.node, sec := t.1, ns := t.2.1, quality := t.2.2,
    body := leBytes 6 ((old / todSecond) % 2 ^ 48).toNat ++ leBytes 2 0 ++ leBytes 4 (old % todSecond / 1000000).toNat ++
      leBytes 4 0 ++ leBytes 8 (d.clk.stepOff % 2 ^ 64).toNat }

/-- The record of a request that came from a peer: its fields as `recordHead` lays them out. -/
def peerReq (node : Nat) (b : List Byte) : LedgerReq :=
  { tenant := leAt b 16 4, kind := leAt b 5 1, node := leAt b 20 4, object := leAt b 24 16, sec := leAt b 40 6, ns := leAt b 48 4,
    quality := leAt b 52 1, label := leAt b 53 1, epoch := leAt b 54 2, body := slice b 88 104, origin := .peer node }

/-- Gives the first request that `p` admits its sequence. -/
def Dev.seqReq (d : Dev) (p : LedgerReq → Bool) (seq : Nat) : Dev :=
  d.setSow { d.sow with reqs := modFirst p (fun q => { q with seq := some seq }) d.sow.reqs }

/-- A ledger whose last segment is full takes no record before that segment's SEAL (R581). -/
def Ledger.full (l : Ledger) : Bool := l.recs ≠ [] && l.recs.length % 2 ^ 24 = 0

/-- An entry whose record cannot be made for lack of a root ends KEY_UNAVAILABLE (R234, R491). -/
def Dev.recordRefused (d : Dev) (q : LedgerReq) : Dev :=
  match q.origin with
  | .entry r i =>
    let d := d.setSow { d.sow with reqs := dropFirst (fun x => decide (x = q)) d.sow.reqs }
    match d.glean.repairs.find? fun j => j.drill = some (r, i) && j.phase ≠ 0 with
    | some j => d.repairDone j.ref.obj stKeyUnavailable
    | none => d.fixityDone r i stKeyUnavailable
  | _ => d

/-- LEDGER_RECORD_APPEND (R71, R425, R547, R578): as the ledger home of a tenant, this device appends the oldest record
handed to it on this device, or one that a peer sent; while STEP_PEND is 1 only the STEP record of the step. The
ledger's next version is written at once if none is in flight. -/
def execLedgerRecordAppend (tenant : Nat) (peer : Option (Nat × List (BitVec 8))) (place : List (Nat × Nat × Nat)) (s : State) :
    Res := s.run fun _ d =>
  let waits (q : LedgerReq) : Bool := q.tenant = tenant && q.seq = none
  let l := d.ledger tenant
  let d := if l.rows = [] then d else d.ledgerPlace tenant place
  if d.flt.safe then d
  else if !d.rootOk then
    match peer, d.sow.reqs.find? waits with
    | none, some q => d.recordRefused q
    | _, _ => d
  else if d.flag TIME_STATUS.STEP_PEND then
    if l.recs ≠ [] && l.steps < d.clk.steps && !l.full then
      let (_, d) := d.ledgerAppend (d.stepRecord tenant)
      let l := d.ledger tenant
      (d.putLedger tenant { l with steps := d.clk.steps }).ledgerWrite tenant place
    else d
  else if l.full then d
  else
    match peer with
    | some (node, b) =>
      let q := { (peerReq node b) with tenant := tenant }
      let (seq, d) := d.ledgerAppend q
      (d.setSow { d.sow with reqs := d.sow.reqs ++ [{ q with seq := some seq }] }).ledgerWrite tenant place
    | none =>
      match d.sow.reqs.find? waits with
      | none => d.ledgerWrite tenant place
      | some q =>
        let (seq, d) := d.ledgerAppend q
        (d.seqReq waits seq).ledgerWrite tenant place

/-! ### Closing a segment (R581) -/

/-- Digests of position 0 of every grain of a segment. -/
def segmentDigests (l : Ledger) (key : List Byte) (seg : Nat) : List (List Byte) :=
  (List.range 65536).map fun g => sha256 (ledgerGrain l key seg g l.recs.length)

/-- A descriptor copy of a completed segment. -/
def Dev.closedDesc (d : Dev) (tenant seg g : Nat) : List Byte × Dev :=
  let l := d.ledger tenant
  let (key, d) := d.ledgerKey tenant
  let digs := segmentDigests l key seg
  let (version, rows, _) := tget (0, [], []) l.grains g
  let table := pathTable [tallyPath 0 g digs]
  let places := (List.range 5).map fun q => ((rows.find? fun r => r.pos = q).bind RowW.place)
  let pdig := ((ledgerGrains (ledgerGrain l key seg g l.recs.length)).map sha256).tail
  (headBlock (d.ledgerHead tenant seg g (version + 1) 2 0xFF (sha256 table)) (descBlock 65536 (tallyOf 0 digs) false places pdig) ++
    table, d)

/-- The next descriptor copy of a closing segment is written; after the last, the segment's SEAL record is appended. -/
def Dev.segmentNext (d : Dev) (tenant : Nat) : Dev :=
  let l := d.ledger tenant
  let seg := l.recs.length / 2 ^ 24 - 1
  match l.closing.dropWhile fun e => !d.canPlace e.2 with
  | (g, p) :: t =>
    let (b, d) := d.closedDesc tenant seg g
    (d.putLedger tenant { l with closing := (g, p) :: t }).writeRow p b
  | [] =>
    let (key, d) := d.ledgerKey tenant
    let t := d.stamp
    let body := leBytes 8 (2 ^ 32) ++ [0xFF, 1, 4, 0, 0] ++ leBytes 3 0 ++ tallyOf 0 (segmentDigests l key seg)
    let d := d.putLedger tenant { l with grains := [], closing := [] }
    (d.ledgerAppend { tenant := tenant, kind := 1, node := d.node, object := d.segmentId tenant seg, sec := t.1, ns := t.2.1,
                      quality := t.2.2, label := 3, body := body }).2

/-- SEGMENT_CLOSE (R581): the last record of a segment is durable. -/
def Dev.segmentClose (d : Dev) (tenant : Nat) : Dev :=
  let l := d.ledger tenant
  let closing := l.grains.flatMap fun e => (e.2.2.2.filterMap RowW.place).map fun p => (e.1, p)
  (d.putLedger tenant { l with closing := closing }).segmentNext tenant

/-! ### Durable records (R423 steps 5 to 7, R531, R542) -/

/-- What waits for a record goes on: `b` is the record. -/
def Dev.reqDone (d : Dev) (q : LedgerReq) (seq : Nat) (b : List Byte) : Dev :=
  match q.origin with
  | .sealOf key => d.sealDone key seq b
  | .entry r i =>
    match d.glean.repairs.find? fun j => j.drill = some (r, i) && j.phase ≠ 0 with
    | some j => d.repairDone j.ref.obj stSuccess
    | none => d.fixityDone r i stSuccess
  | .harrow obj => d.repairDone obj stSuccess
  | .peer node => d.emit (.ledgerReport node q.tenant seq)
  | .nobody => d

/-- Requests of a ledger homed here whose records are durable complete; a seal is held while a step is pending (R71). -/
def Dev.reqsDone (d : Dev) (tenant : Nat) : Dev :=
  let l := d.ledger tenant
  let ready (q : LedgerReq) : Bool :=
    q.tenant = tenant && !(q.isSeal && d.flag TIME_STATUS.STEP_PEND) &&
      match q.seq with
      | some n => decide (n ≤ l.durable)
      | none => false
  let done := d.sow.reqs.filter ready
  let d := d.setSow { d.sow with reqs := d.sow.reqs.filter fun q => !ready q }
  done.foldl (fun d q => d.reqDone q (q.seq.getD 0) (l.recs.getD (q.seq.getD 0 - 1) [])) d

/-- LEDGER_HOME_REPORT (R423, R425, R578): the version in flight of a ledger homed here is on media; or, with `remote`, the
home on another device reports the oldest record handed to it durable, with its sequence and its bytes. -/
def execLedgerHomeReport (tenant : Nat) (remote : Option (Nat × List (BitVec 8))) (place : List (Nat × Nat × Nat)) (s : State) :
    Res := s.run fun _ d =>
  match remote with
  | some (seq, b) =>
    if (tfind d.sow.ledgers tenant).isSome then d
    else
      match d.sow.reqs.find? fun q => q.tenant = tenant && q.seq = none && q.sent with
      | none => d
      | some q =>
        if q.isSeal && d.flag TIME_STATUS.STEP_PEND then d
        else (d.setSow { d.sow with reqs := dropFirst (fun x => decide (x = q)) d.sow.reqs }).reqDone q seq b
  | none =>
    let l := d.ledger tenant
    if (tfind d.sow.ledgers tenant).isNone || d.flt.safe then d
    else if l.rows ≠ [] && rowsDone l.rows && l.copies ≠ [] && rowsDone l.copies then
      let g := l.openGrain.2
      let l' : Ledger := { l with durable := l.writing, rows := [], copies := [], spare := [],
                                  grains := tput l.grains g (l.version, l.rows, l.copies) }
      let d := (d.putLedger tenant l').reqsDone tenant
      if l'.durable % 2 ^ 24 = 0 then d.segmentClose tenant else d.ledgerWrite tenant place
    else d.reqsDone tenant

/-! ### Rows on media, and writes that fail (R419 to R422) -/

/-- What the write of a row belongs to. -/
inductive RowOwner where
  | session (key : Nat)
  | ledger (tenant : Nat)
  | repair (object : Nat)
  | closing (tenant : Nat)
  | peer (node : Nat)
  | nobody
  deriving DecidableEq, Repr

def Dev.rowOwner (d : Dev) (p : Place) : RowOwner :=
  match d.sow.sess.find? fun e => hasRow p e.2.allRows with
  | some e => .session e.1
  | none =>
    match d.sow.ledgers.find? fun e => hasRow p (e.2.rows ++ e.2.copies) with
    | some e => .ledger e.1
    | none =>
      match d.glean.repairs.find? fun j => j.phase ≠ 0 && hasRow p (j.rows ++ j.descs) with
      | some j => .repair j.ref.obj
      | none =>
        match d.sow.ledgers.find? fun e => (e.2.closing.head?.map Prod.snd) = some p with
        | some e => .closing e.1
        | none =>
          match d.sow.peers.find? fun e => p.1 = d.node && e.2 = p.2 with
          | some e => .peer e.1
          | none => .nobody

/-- LOCAL_GRAIN_DURABLE, and a peer's durable report (R419 to R421): the row at a placement is on media. -/
def Dev.rowDone (d : Dev) (p : Place) : Dev :=
  match d.rowOwner p with
  | .session key => d.sessRowDone key p
  | .ledger tenant =>
    let l := d.ledger tenant
    (d.putLedger tenant { l with rows := markRow p l.rows, copies := markRow p l.copies }).ledgerCopies tenant
  | .repair obj =>
    match d.repair? obj with
    | some j => d.repairRowDone j p
    | none => d
  | .closing tenant =>
    let l := d.ledger tenant
    (d.putLedger tenant { l with closing := l.closing.tail }).segmentNext tenant
  | .peer node =>
    (d.setSow { d.sow with peers := dropFirst (fun e => decide (e.1 = node ∧ e.2 = p.2)) d.sow.peers }).emit
      (.durableReport node p.2.1 p.2.2 true)
  | .nobody => d

/-- GRAIN_REPLACE (R422): the write of the row at a placement has failed. A write that ended with an error status has its
row freed at once; one whose outcome is not known keeps it in use. `alt` is where firmware places it again; with none, and
unless it has `looked`, it may still find a place later. -/
def Dev.rowFail (d : Dev) (p : Place) (known : Bool) (alt : Option Place) (looked : Bool := true) : Dev :=
  let alt := alt.filter d.canPlace
  let free (d : Dev) : Dev := if known then d.dropRow p else d
  match d.rowOwner p with
  | .session key => (free d).sessRowFail key p alt looked
  | .ledger tenant =>
    let l := d.ledger tenant
    let lose (r : RowW) : RowW := if r.place = some p then { r with place := none } else r
    ((free d).putLedger tenant { l with rows := l.rows.map lose, copies := l.copies.map lose }).ledgerPlace tenant alt.toList
  | .repair obj =>
    match d.repair? obj with
    | some j => (if j.phase = 1 && j.ref.place (j.rows.find? (fun w => w.place = some p) |>.map RowW.sheaf |>.getD 0)
        (j.rows.find? (fun w => w.place = some p) |>.map RowW.pos |>.getD 0) = some p then d else free d).repairRowFail j p alt
    | none => d
  | .closing tenant => d.segmentNext tenant
  | .peer node =>
    ((free d).setSow { d.sow with peers := dropFirst (fun e => decide (e.1 = node ∧ e.2 = p.2)) d.sow.peers }).emit
      (.durableReport node p.2.1 p.2.2 false)
  | .nobody => d

/-- Rows being written at some places. -/
def Dev.rowsOn (d : Dev) (here : Place → Bool) : List Place :=
  let rows := d.sow.sess.flatMap (fun e => e.2.allRows) ++ d.sow.ledgers.flatMap (fun e => e.2.rows ++ e.2.copies) ++
    d.glean.repairs.flatMap (fun j => j.rows ++ j.descs)
  ((rows.filter fun (r : RowW) => !r.durable).filterMap RowW.place ++ d.sow.peers.map fun e => (d.node, e.2)).filter here

/-- The writes of rows to target `t` have failed, their outcome not known (R422, R600); `alts` is where firmware places
those rows again. -/
def Dev.targetRowsFail (d : Dev) (t : Nat) (alts : List Place) : Dev :=
  ((d.rowsOn fun p => p.1 = d.node && p.2.1 = t).zipIdx).foldl (fun d e => d.rowFail e.1 false alts[e.2]? false) d

/-- PEER_GRAIN_RECEIVE (R420): a grain row from node `node` takes a buffer of the peer pool, and is written to the target
as received. While the pool is full the grain waits at its sender (R429); a target that takes no such row is reported. -/
def execPeerGrainReceive (node target row : Nat) (data : List (BitVec 8)) (s : State) : Res := s.run fun _ d =>
  if d.fld DEVICE_SOW_CTL.PEER_POOL ≤ d.sow.peers.length || d.flt.safe then d
  else if !d.canPlace (d.node, target, row) then d.emit (.durableReport node target row false)
  else (d.setSow { d.sow with peers := d.sow.peers ++ [(node, target, row)] }).writeRow (d.node, target, row) data

/-- PEER_DURABLE_REPORT (R420, R422): a peer reports its row on media, or that it could not write it. -/
def execPeerDurableReport (node target row : Nat) (ok : Bool) (alt : Option (Nat × Nat × Nat)) (s : State) : Res :=
  s.run fun _ d =>
    if node = d.node then d
    else if ok then d.rowDone (node, target, row) else d.rowFail (node, target, row) true alt

end Sys2Proof.Machine
end

