-- ==== Sys2Proof/Machine/Storage.lean ====
section
/-!
DEFINITION. The storage face: root ports, targets and NVMe queue pairs, DMA channels, and the buffer manager (R594 to
R634).
-/

namespace Sys2Proof.Machine

/-! ### Targets and ports (R594 to R602) -/

/-- The part has storage port `n` (R594). -/
def Dev.hasPort (d : Dev) (n : Nat) : Bool := d.flag STORAGE_PORT_PLAN.PRESENT [n] && (d.part = .t512 || (64 ≤ n && n < 128))

/-- A port in L0 or L0p. -/
def Dev.portUp (d : Dev) (n : Nat) : Bool := let s := d.fld STORAGE_PORT_STATUS.STATE [n]; s = 2 || s = 3

/-- Queue pairs 16t to 16t + 15 belong to target t. -/
def qpTarget (r : Nat) : Nat := r / 16
def Dev.qp (d : Dev) (r : Nat) : QpSt := tget {} d.stg.qps r
def Dev.setQp (d : Dev) (r : Nat) (v : QpSt) : Dev := { d with stg := { d.stg with qps := tset {} d.stg.qps r v } }

/-- Commands in flight of a queue pair, and of a target. -/
def Dev.qpInflight (d : Dev) (r : Nat) : Nat := ((d.qp r).cmds.filter fun e => !e.2.late).length
def Dev.tgtOutstanding (d : Dev) (t : Nat) : Nat := ((List.range 16).map fun q => d.qpInflight (16 * t + q)).foldl (· + ·) 0

/-- The counts and stopped indications that follow the commands in flight (R601, R608, R631). -/
def Dev.qpSettle (d : Dev) (r : Nat) : Dev :=
  let t := qpTarget r
  let d := d.setFld STORAGE_QP_STATUS.INFLIGHT (d.qpInflight r) [r]
  let d := d.setFld STORAGE_QP_CTL.STOPPED (b2n (!d.flag STORAGE_QP_CTL.RUN [r] && d.qpInflight r = 0)) [r]
  let d := d.setFld STORAGE_TGT_STATUS.OUTSTANDING (d.tgtOutstanding t) [t]
  d.setFld STORAGE_TGT_CTL.STOPPED (b2n (!d.flag STORAGE_TGT_CTL.VALID [t] && d.tgtOutstanding t = 0)) [t]

/-- PRESENT follows VALID and the port; a fall sets DOWN_EV (R601), and the target's label is to be read again. -/
def Dev.tgtPresence (d : Dev) (t : Nat) : Dev :=
  let now := d.flag STORAGE_TGT_CTL.VALID [t] && d.portUp (d.fld STORAGE_TGT_BIND.PORT [t])
  let d' := (d.setFld STORAGE_TGT_STATUS.PRESENT (b2n now) [t]).qpSettle (16 * t)
  if d.targetPresent t && !now then
    { d' with stg := { d'.stg with labels := tdel d'.stg.labels t } }.setFld STORAGE_TGT_STATUS.DOWN_EV 1 [t]
  else d'

/-- Targets bound to a port. -/
def Dev.targetsOf (d : Dev) (n : Nat) : List Nat :=
  (List.range 4096).filter fun t => d.flag STORAGE_TGT_CTL.VALID [t] && d.fld STORAGE_TGT_BIND.PORT [t] = n

/-! ### DMA channels: state and completions (R609 to R620) -/

def Dev.dmaCh (d : Dev) (p c : Nat) : DmaCh := tget {} d.dma (64 * p + c)
def Dev.setDma (d : Dev) (p c : Nat) (v : DmaCh) : Dev := { d with dma := tset {} d.dma (64 * p + c) v }
def Dev.dmaActive (d : Dev) (p c : Nat) : Bool := d.flag DMA_STATUS.ACTIVE [p, c]
def Dev.dmaHalted (d : Dev) (p c : Nat) : Bool := d.flag DMA_STATUS.HALTED [p, c]

/-- The 64 bytes of a descriptor set. -/
def Dev.dmaSet (d : Dev) (r : RegName) (p c : Nat) : List Byte := (List.range 8).flatMap fun i => leBytes 8 (d.reg r [p, c, i]).toNat

/-- The channel promotes nothing: its block is gated, or it has failed (R620). -/
def Dev.dmaOff (d : Dev) (p c : Nat) : Bool := d.gatedBlock p 2 || (d.dmaCh p c).failed

/-- A completion goes to the channel's endpoint, or is held while 16 wait there (R611). -/
def Dev.dmaPut (d : Dev) (p c : Nat) (x : Msg) : Dev :=
  let ep := epKey 3 (64 * p + c)
  if (d.queue ep).length < 16 && (d.dmaCh p c).held = [] then d.transmit.post ep x
  else d.setDma p c { d.dmaCh p c with held := (d.dmaCh p c).held ++ [x] }

/-- The active set ends with a result (R618, R619): its completion, unless its WORKID is stale (R359). -/
def Dev.dmaEnd (d : Dev) (p c result info : Nat) : Dev :=
  let b := d.dmaSet .DMA_ACTIVE p c
  let ch := d.dmaCh p c
  let d := (d.setFld DMA_STATUS.ACTIVE 0 [p, c]).setFld DMA_STATUS.TRIES 0 [p, c]
  let d := d.setDma p c { ch with cid := none, barrier := false }
  if d.stale ch.wid then d.discardStale
  else
    let v := leAt b 0 1 + result * 2 ^ 8 + leAt b 2 2 * 2 ^ 16 + info % 2 ^ 32 * 2 ^ 32
    (d.count .DMA_DESCS [p, c]).dmaPut p c { workid := ch.wid, sender := tagDma p c, data := BitVec.ofNat 512 v }

/-- A write of DMA_CTL (R609, R611, R617). A GO of work that is void starts no descriptor (R364). -/
def Dev.dmaCtlWrite (d : Dev) (p c : Nat) (w : Wr) : Dev :=
  if !w.accepted .DMA_CTL then d.regWrite .DMA_CTL [p, c] w
  else
    let go := bit w.value.toNat 0
    let d :=
      if go && !d.flag DMA_CTL.GO [p, c] then
        let wid := if w.master < 0x1000 then (d.strand w.master).regs.workid else 0
        if w.master < 0x1000 && (d.strand w.master).regs.wvoid then d.discardStale
        else ((d.setFld DMA_CTL.GO 1 [p, c]).setFld DMA_STATUS.SHEMPTY 0 [p, c]).setDma p c { d.dmaCh p c with shadowWid := wid }
      else d
    let action := bits w.value.toNat 1 2
    if !d.dmaHalted p c then d
    else if action = 1 then
      (d.setFld DMA_STATUS.TRIES 0 [p, c]).setFld DMA_STATUS.HALTED 0 [p, c]
    else if action = 2 then
      ((d.setFld DMA_STATUS.HALTED 0 [p, c]).setFld DMA_STATUS.ACTIVE 0 [p, c]).setFld DMA_STATUS.TRIES 0 [p, c]
    else if action = 3 then d.blame 0x0204 w.master (RegName.addr .DMA_CTL [p, c]) (RegName.off .DMA_CTL [p, c])
    else d

/-- DMA_GO (R609, R610): a write of DMA_CTL. -/
def execDmaGo (master p c size half : Nat) (value : Word) (s : State) : Res := s.run fun _ d =>
  d.pageWrite .DMA_CTL [p, c] size fun d => d.dmaCtlWrite p c ⟨master, size, half, value⟩

/-- DMA_RETRY (R617): a write of ACTION RETRY. -/
def execDmaRetry (master p c size : Nat) (s : State) : Res := s.run fun _ d =>
  d.pageWrite .DMA_CTL [p, c] size fun d => d.dmaCtlWrite p c ⟨master, size, 0, 2⟩

/-- DMA_DROP (R617): a write of ACTION DROP. -/
def execDmaDrop (master p c size : Nat) (s : State) : Res := s.run fun _ d =>
  d.pageWrite .DMA_CTL [p, c] size fun d => d.dmaCtlWrite p c ⟨master, size, 0, 4⟩

/-- DMA_PROMOTE (R359, R611): a held completion finds space, and an idle channel that is not halted takes its shadow set. -/
def execDmaPromote (p c : Nat) (s : State) : Res := s.run fun _ d =>
  let ch := d.dmaCh p c
  let room := (d.queue (epKey 3 (64 * p + c))).length < 16
  let d := match ch.held with
    | x :: t =>
      if !room then d
      else
        let d := d.setDma p c { ch with held := t }
        if d.stale x.workid then d.discardStale else d.transmit.post (epKey 3 (64 * p + c)) x
    | [] => d
  let ch := d.dmaCh p c
  let full := 16 ≤ (d.queue (epKey 3 (64 * p + c))).length
  if d.dmaActive p c || d.dmaHalted p c || !d.flag DMA_CTL.GO [p, c] || ch.held ≠ [] || full || d.dmaOff p c || d.flt.safe then d
  else
    let d := (List.range 8).foldl (fun d i => d.setReg .DMA_ACTIVE (d.reg .DMA_SHADOW [p, c, i]) [p, c, i]) d
    let d := ((d.setFld DMA_STATUS.ACTIVE 1 [p, c]).setFld DMA_STATUS.SHEMPTY 1 [p, c]).setFld DMA_STATUS.TRIES 0 [p, c]
    (d.setFld DMA_CTL.GO 0 [p, c]).setDma p c { d.dmaCh p c with wid := ch.shadowWid, since := d.now, barrier := false }

/-! ### COPY (R612, R613, R616) -/

/-- The active descriptor runs: one is active, not halted, and its completion is not held. -/
def Dev.dmaReady (d : Dev) (p c : Nat) : Bool :=
  d.dmaActive p c && !d.dmaHalted p c && (d.dmaCh p c).held = [] && !d.flt.safe

/-- BAD_CMD of R619 in a descriptor's own fields. -/
def dmaBadCmd (b : List Byte) : Bool :=
  let op := leAt b 0 1
  2 ≤ leAt b 1 1 || 16 ≤ leAt b 4 1 || leAt b 5 3 ≠ 0 || leAt b 28 4 ≠ 0 || leAt b 34 30 ≠ 0 ||
    (op ≠ 1 && op ≠ 2) ||
    (op = 1 && (leAt b 24 4 = 0 || 16777216 < leAt b 24 4 || leAt b 32 2 ≠ 0)) ||
    (op = 2 && (leAt b 24 4 ≠ 0 || bit (leAt b 1 1) 0 || leAt b 8 8 % 64 ≠ 0 || leAt b 16 8 % 16 ≠ 0))

/-- A range that a COPY may name (R613). -/
def Dev.copyRange (d : Dev) (a n : Nat) : Bool :=
  match d.region a with
  | .hole => false
  | .control => false
  | .host => aptOf a = aptOf (a + n - 1) && a + n ≤ 0x100000000000 && d.aptBound a
  | .storage => stgTarget a = stgTarget (a + n - 1) && a + n ≤ 0x200000000000 && d.targetPresent (stgTarget a)
  | _ => d.inMemory a n

/-- The function a host-window range of a COPY belongs to. -/
def Dev.copyFunc (d : Dev) (a : Nat) : Option Nat := if regionOf a = .host then some (d.aptFunc a) else none

/-- A function that a COPY needs and that may issue no request (R284). -/
def Dev.copyBlocked (d : Dev) (b : List Byte) : Option Nat :=
  ([leAt b 8 8, leAt b 16 8].filterMap d.copyFunc).find? fun f => !d.fnMaster f

/-- BARRIER asks for a read-back: the COPY writes to a window (R615). -/
def copyBarrier (b : List Byte) : Bool :=
  bit (leAt b 1 1) 0 && (regionOf (leAt b 16 8) = .host || regionOf (leAt b 16 8) = .storage)

/-- The last aligned 4 bytes that a COPY wrote; where it wrote no such 4 bytes whole, those that its last byte lies in
(DEDUCED, assumption 135). -/
def barrierAddr (b : List Byte) : Nat :=
  let dst := leAt b 16 8
  let e := dst + leAt b 24 4
  if dst + 4 ≤ e / 4 * 4 then e / 4 * 4 - 4 else (e - 1) / 4 * 4

/-- A COPY's bytes have been moved. -/
def Dev.copyDone (d : Dev) (p c n : Nat) : Dev := (d.count .DMA_BYTES [p, c] n).dmaEnd p c 0 n

/-- BARRIER's read-back is sent once every write has been transmitted (R615). -/
def Dev.barrierSend (d : Dev) (p c : Nat) (b : List Byte) : Dev :=
  let a := barrierAddr b
  let d := d.transmit
  let d := match regionOf a with
    | .host => d.aptAsk a 4
    | .storage => d.emit (.storageRead (stgTarget a) ((d.reg .STORAGE_TGT_BAR [stgTarget a]).toNat + stgOff a) 4)
    | _ => d
  d.setDma p c { d.dmaCh p c with barrier := true, since := d.now }

/-- COPY (R613, R615): the active descriptor of channel `c` of plot `p` moves its bytes; `ext` is what a window source
returns. A descriptor with a reserved OP ends here too. One with BARRIER into a window then reads back, and COPY again is
that read's completion, which ends it. -/
def execCopy (p c : Nat) (ext : List (BitVec 8)) (s : State) : Res := s.run fun m d =>
  let b := d.dmaSet .DMA_ACTIVE p c
  let op := leAt b 0 1
  let src := leAt b 8 8
  let dst := leAt b 16 8
  let n := leAt b 24 4
  if !d.dmaReady p c || op = 2 then d
  else if d.stale (d.dmaCh p c).wid then d.dmaEnd p c 0 0
  else if dmaBadCmd b then d.dmaEnd p c 1 0
  else if !d.copyRange src n || !d.copyRange dst n then d.dmaEnd p c 2 0
  else
    match d.copyBlocked b with
    | some f => (d.bmeDrop f).dmaEnd p c 7 0
    | none =>
      if (d.dmaCh p c).barrier then d.copyDone p c n
      else if (d.region src).isMemory && d.poisoned src n then
        (d.report { code := 0x0306, kind := 5, unit := p * 256 + 128 + c, master := tagDma p c, addr := src, detail := 3 }).dmaEnd p c 3 0
      else
        let (x, d) := d.engRead m (tagDma p c) src n ext
        let d := d.engWrite (tagDma p c) dst x
        if copyBarrier b then d.barrierSend p c b else d.copyDone p c n

/-- The active COPY has a read of the storage window that a reply may fail: of its source, or BARRIER's (R615, R616). -/
def Dev.copyStorage (d : Dev) (p c : Nat) : Bool :=
  let b := d.dmaSet .DMA_ACTIVE p c
  leAt b 0 1 = 1 && regionOf (leAt b (if (d.dmaCh p c).barrier then 16 else 8) 8) = .storage

/-- A bus error of the active COPY (R616, R617): `moved` bytes had been moved. -/
def Dev.dmaBusError (d : Dev) (p c moved : Nat) : Dev :=
  let b := d.dmaSet .DMA_ACTIVE p c
  let ch := d.dmaCh p c
  let tries := d.fld DMA_STATUS.TRIES [p, c] + 1
  let d := ((d.count .DMA_BUSERR [p, c]).setFld DMA_STATUS.TRIES tries [p, c]).setDma p c { ch with barrier := false, since := d.now }
  if tries ≤ leAt b 4 1 % 16 then d
  else
    let d := (d.setFld DMA_STATUS.HALTED 1 [p, c]).report
      { code := 0x0304, kind := 5, unit := p * 256 + 128 + c, master := tagDma p c }
    let v := leAt b 0 1 + 4 * 2 ^ 8 + leAt b 2 2 * 2 ^ 16 + moved % 2 ^ 32 * 2 ^ 32
    if d.stale ch.wid then d.discardStale
    else (d.count .DMA_DESCS [p, c]).dmaPut p c { workid := ch.wid, sender := tagDma p c, data := BitVec.ofNat 512 v }

/-- DMA_BUS_ERROR (R616, R617): a storage request of the active COPY fails, or (`hub`) the interconnect reports an error. -/
def execDmaBusError (p c moved : Nat) (hub : Bool) (s : State) : Res := s.run fun _ d =>
  let b := d.dmaSet .DMA_ACTIVE p c
  if !d.dmaReady p c || leAt b 0 1 ≠ 1 || !(hub || d.copyStorage p c) || dmaBadCmd b then d else d.dmaBusError p c moved

/-- A host request of the active COPY fails (R273): not a bus error. -/
def Dev.dmaHostFail (d : Dev) (p c result moved : Nat) : Dev :=
  let b := d.dmaSet .DMA_ACTIVE p c
  let host := regionOf (leAt b 8 8) = .host || regionOf (leAt b 16 8) = .host
  if d.dmaReady p c && leAt b 0 1 = 1 && host then d.dmaEnd p c result moved else d

/-! ### NVMe queue pairs (R602 to R608) -/

def Dev.qpSlots (d : Dev) (f : Fld) (r : Nat) : Nat := 2 ^ d.fld f [r]

/-- The doorbell write of a queue of a queue pair (R604): `cq` for its completion queue's head. -/
def Dev.qpDoorbell (d : Dev) (r value : Nat) (cq : Bool) : Dev :=
  let t := qpTarget r
  let off := 0x1000 + (2 * (r % 16) + b2n cq) * 4 * 2 ^ d.fld STORAGE_TGT_CTL.DSTRD [t]
  if d.flt.safe || !d.targetPresent t then d
  else d.postWrite { toHost := false, unit := t, addr := d.fld STORAGE_TGT_BAR.BASE [t] * 2 ^ 14 + off, data := leBytes 4 value }

def Dev.cmdTo (d : Dev) (t : Nat) : Nat := max 1 (d.fld STORAGE_TGT_CTL.CMD_TO [t]) * 1000000

/-- Submits the active NVME descriptor of a channel (R604): the lowest free command ID, the entry's copy, the tail. -/
def Dev.nvmeSubmit (d : Dev) (p c r : Nat) (entry : List Byte) : Dev :=
  let q := d.qp r
  let size := d.qpSlots STORAGE_QP_SQ.LOG2SIZE r
  match (List.range size).find? fun i => (tfind q.cmds i).isNone with
  | none => d
  | some cid =>
    let tail := d.fld STORAGE_QP_STATUS.SQ_TAIL [r]
    let slot := d.fld STORAGE_QP_SQ.BASE [r] * 4096 + 64 * tail
    let d := d.stBytes slot (putBytes entry 2 (leBytes 2 cid))
    let d := (d.setFld STORAGE_QP_STATUS.SQ_TAIL ((tail + 1) % size) [r]).qpDoorbell r ((tail + 1) % size) false
    let x : NvmeCmd := { plot := p, ch := c, due := d.now + d.cmdTo (qpTarget r), op := d.nvmeOp (qpTarget r) entry }
    let d := d.setQp r { q with cmds := tput q.cmds cid x }
    (d.setDma p c { d.dmaCh p c with cid := some cid }).qpSettle r

/-- NVME (R614): the active descriptor is submitted to its queue pair, or waits for room there; on a stopped queue pair it
ends QP_STOPPED (R608). `ext` is what a window returns of its entry; a host's window needs Bus Master Enable (R284). -/
def execNvme (p c : Nat) (ext : List (BitVec 8)) (s : State) : Res := s.run fun m d =>
  let b := d.dmaSet .DMA_ACTIVE p c
  let ch := d.dmaCh p c
  let r := leAt b 32 2
  let src := leAt b 8 8
  let dst := leAt b 16 8
  if !d.dmaReady p c || leAt b 0 1 ≠ 2 || ch.cid.isSome then d
  else if d.stale ch.wid then d.dmaEnd p c 0 0
  else if dmaBadCmd b || !d.targetPresent (qpTarget r) then d.dmaEnd p c 1 0
  else if !d.copyRange src 64 || (dst ≠ 0 && !d.copyRange dst 16) then d.dmaEnd p c 2 0
  else if (d.region src).isMemory && d.poisoned src 64 then
    (d.report { code := 0x0306, kind := 5, unit := p * 256 + 128 + c, master := tagDma p c, addr := src, detail := 3 }).dmaEnd p c 3 0
  else if !d.flag STORAGE_QP_CTL.RUN [r] then d.dmaEnd p c 12 0
  else if d.qpSlots STORAGE_QP_SQ.LOG2SIZE r ≤ d.qpInflight r + 1 then d
  else
    match d.copyBlocked b with
    | some f => (d.bmeDrop f).dmaEnd p c 7 0
    | none =>
      let (x, d) := d.engRead m (tagDma p c) src 64 ext
      d.nvmeSubmit p c r x

/-- A command ends for its channel; its descriptor's completion follows. -/
def Dev.nvmeEnd (d : Dev) (x : NvmeCmd) (result info : Nat) : Dev :=
  if x.late then d else d.dmaEnd x.plot x.ch result info

/-- What one completion entry does (R606, R614): `e` is the entry. -/
def Dev.nvmeTake (d : Dev) (r : Nat) (e : List Byte) : Dev :=
  let cid := leAt e 12 2
  let q := d.qp r
  match tfind q.cmds cid with
  | none => d.count .STORAGE_LATE
  | some x =>
    let d := d.setQp r { q with cmds := tdel q.cmds cid }
    if x.late then (d.count .STORAGE_LATE).qpSettle r
    else
      let dst := leAt (d.dmaSet .DMA_ACTIVE x.plot x.ch) 16 8
      let d := if dst = 0 || d.stale (d.dmaCh x.plot x.ch).wid then d else d.engWrite (tagDma x.plot x.ch) dst (slice e 0 16)
      let status := leAt e 14 2 / 2
      (d.nvmeEnd x (if status = 0 then 0 else 8) status).qpSettle r

/-- The batch that a wake takes from a completion queue (R603): entries from the head whose phase tag is the expected one.
The completion of a row's write tells whether the row is on media; that of a read of the label brings it. `notes` gives, for
each entry, where firmware places the row again if its write failed, and the label. -/
def cqTake (m : Mem) (r : Nat) : Nat → List (Option Place × List Byte) → Dev → Dev × Bool
  | 0, _, d => (d, false)
  | n + 1, notes, d =>
    let head := d.fld STORAGE_QP_STATUS.CQ_HEAD [r]
    let size := d.qpSlots STORAGE_QP_CQ.LOG2SIZE r
    let e := d.ldBytes m (d.fld STORAGE_QP_CQ.BASE [r] * 4096 + 16 * head) 16
    if b2n (bit (leAt e 14 2) 0) ≠ d.fld STORAGE_QP_STATUS.PHASE [r] then (d, false)
    else
      let op : NvmeOp := match tfind (d.qp r).cmds (leAt e 12 2) with
        | some x => if x.late then .other else x.op
        | none => .other
      let ok : Bool := leAt e 14 2 / 2 = 0
      let (alt, label) := notes.headD (none, [])
      let d := d.nvmeTake r e
      let next := (head + 1) % size
      let d := d.setFld STORAGE_QP_STATUS.CQ_HEAD next [r]
      let d := if next = 0 then d.setFld STORAGE_QP_STATUS.PHASE (1 - d.fld STORAGE_QP_STATUS.PHASE [r]) [r] else d
      let d := { d with glean := { d.glean with quietFrom := tput d.glean.quietFrom (qpTarget r) d.now } }
      let d := match op with
        | .row row => if ok then d.rowDone (d.node, qpTarget r, row) else d.rowFail (d.node, qpTarget r, row) true alt
        | .label => if ok then d.labelRead (qpTarget r) label else d
        | .other => d
      ((cqTake m r n notes.tail d).1, true)

/-- CQ_WAKE (R603, R606, R419, R422, R554): the queue engine takes the entries that stand in completion queue `r`, and writes
its head doorbell once. -/
def execCqWake (r : Nat) (notes : List (Option (Nat × Nat × Nat) × List (BitVec 8))) (s : State) : Res := s.run fun m d =>
  if d.flag STORAGE_QP_CTL.STOPPED [r] || d.fld STORAGE_QP_CQ.LOG2SIZE [r] = 0 then d
  else
    let (d, any) := cqTake m r (d.qpSlots STORAGE_QP_CQ.LOG2SIZE r) notes d
    if any then d.qpDoorbell r (d.fld STORAGE_QP_STATUS.CQ_HEAD [r]) true else d

/-- NVME_TIMEOUT (R607): CMD_TO passes for a command; its ID stays reserved. Where it wrote a row, firmware places the row
again, and the old one stays in use (R422). -/
def execNvmeTimeout (r cid : Nat) (alt : Option (Nat × Nat × Nat)) (s : State) : Res := s.run fun _ d =>
  match tfind (d.qp r).cmds cid with
  | none => d
  | some x =>
    if x.late then d
    else d.at x.due fun d =>
      let q := d.qp r
      let d := (d.setQp r { q with cmds := tput q.cmds cid { x with late := true } }).nvmeEnd x 9 0
      let d := d.qpSettle r
      match x.op with
      | .row row => d.rowFail (d.node, qpTarget r, row) false alt
      | _ => d

/-- Every channel whose active descriptor waits to be submitted to a queue pair. -/
def Dev.qpWaiters (d : Dev) (r : Nat) : List (Nat × Nat) :=
  (List.range 256).filterMap fun k =>
    let p := k / 64
    let c := k % 64
    let b := d.dmaSet .DMA_ACTIVE p c
    if d.dmaActive p c && !d.dmaHalted p c && leAt b 0 1 = 2 && leAt b 32 2 = r && (d.dmaCh p c).cid.isNone then some (p, c) else none

/-- A write of STORAGE_QP_CTL (R608, R632). -/
def Dev.qpCtlWrite (d : Dev) (r : Nat) (w : Wr) : Dev :=
  let was := d.flag STORAGE_QP_CTL.RUN [r]
  let d := d.regWrite .STORAGE_QP_CTL [r] w
  let now := d.flag STORAGE_QP_CTL.RUN [r]
  let d :=
    if was && !now then (d.qpWaiters r).foldl (fun d e => d.dmaEnd e.1 e.2 12 0) d
    else if !was && now && (d.qp r).changed then
      let d := ((d.setFld STORAGE_QP_STATUS.SQ_TAIL 0 [r]).setFld STORAGE_QP_STATUS.CQ_HEAD 0 [r]).setFld STORAGE_QP_STATUS.PHASE 1 [r]
      d.setQp r { d.qp r with changed := false }
    else d
  d.qpSettle r

/-- QP_STOP (R608): a write of STORAGE_QP_CTL. -/
def execQpStop (master r size half : Nat) (value : Word) (s : State) : Res := s.run fun _ d =>
  d.qpCtlWrite r ⟨master, size, half, value⟩

/-- A write of STORAGE_QP_SQ or STORAGE_QP_CQ (R632); the whole queue, of 64-byte or 16-byte entries, must lie in HBM
(R631, R866). -/
def Dev.qpBaseWrite (d : Dev) (reg : RegName) (r : Nat) (w : Wr) : Dev :=
  let entry := if reg = .STORAGE_QP_SQ then 64 else 16
  let n := bits (w.over (d.reg reg [r])).toNat 48 5
  let d' := d.regWrite reg [r] w (d.flag STORAGE_QP_CTL.STOPPED [r]) fun f v => inHbm (f.get v * 4096) (entry * 2 ^ min 16 n)
  if d'.reg reg [r] = d.reg reg [r] then d' else d'.setQp r { d'.qp r with changed := true }

/-! ### Ports (R595, R600, R631) -/

/-- A target's commands end TARGET_DOWN, and their IDs are free (R600); the rows being written to it have failed (R422). -/
def Dev.tgtDown (alts : List Place) (d : Dev) (t : Nat) : Dev :=
  let d := (List.range 16).foldl (fun d q =>
    let r := 16 * t + q
    let cs := (d.qp r).cmds
    let d := d.setQp r { d.qp r with cmds := [] }
    (cs.foldl (fun d e => d.nvmeEnd e.2 10 0) d).qpSettle r) d
  (d.tgtPresence t).targetRowsFail t alts

/-- A port goes down (R600): into the state given. `alts` is where firmware places the rows again that were being written to each
of its targets. -/
def Dev.portDown (d : Dev) (n state : Nat) (alts : List Place := []) : Dev :=
  let ts := d.targetsOf n
  let d := ((d.setFld STORAGE_PORT_STATUS.STATE state [n]).setFld STORAGE_PORT_STATUS.RATE 0 [n]).setFld STORAGE_PORT_STATUS.LANES 0 [n]
  let d := d.setFld STORAGE_PORT_STATUS.DOWN_EV 1 [n]
  let d := ts.foldl (Dev.tgtDown alts) d
  d.report { code := 0x0503, kind := 7, unit := n }

/-- STORAGE_PORT_UP (R595): port `n` completes training at a rate, on some lanes, into L0 or L0p. -/
def execStoragePortUp (n rate lanes : Nat) (l0p : Bool) (s : State) : Res := s.run fun _ d =>
  if !d.hasPort n || !d.flag STORAGE_PORT_CTL.ENABLE [n] || d.portUp n || !d.stripOn (4 + n / 64) then d
  else
    let d := d.setFld STORAGE_PORT_STATUS.STATE (if l0p then 3 else 2) [n]
    let d := d.setFld STORAGE_PORT_STATUS.RATE (min rate (d.fld STORAGE_PORT_PLAN.MAX_RATE [n])) [n]
    let d := d.setFld STORAGE_PORT_STATUS.LANES (min lanes (2 ^ d.fld STORAGE_PORT_PLAN.WIDTH [n])) [n]
    (d.targetsOf n).foldl Dev.tgtPresence d

/-- STORAGE_PORT_DOWN (R600). -/
def execStoragePortDown (n : Nat) (alts : List (Nat × Nat × Nat)) (s : State) : Res := s.run fun _ d =>
  if d.portUp n || d.fld STORAGE_PORT_STATUS.STATE [n] = 4 then d.portDown n 0 alts else d

/-- A write of STORAGE_PORT_CTL (R631): ENABLE 0 disables the link, HOTRST sends a hot reset and clears. -/
def Dev.portCtlWrite (d : Dev) (n : Nat) (w : Wr) : Dev :=
  let was := d.flag STORAGE_PORT_CTL.ENABLE [n]
  let up := d.portUp n
  let d := d.regWrite .STORAGE_PORT_CTL [n] w
  let d := if d.flag STORAGE_PORT_CTL.HOTRST [n] then (d.setFld STORAGE_PORT_CTL.HOTRST 0 [n]).emit (.portHotReset n) else d
  let now := d.flag STORAGE_PORT_CTL.ENABLE [n]
  if was && !now then if up then d.portDown n 5 else d.setFld STORAGE_PORT_STATUS.STATE 5 [n]
  else if !was && now then d.setFld STORAGE_PORT_STATUS.STATE 1 [n]
  else d

/-- PORT_HOT_RESET (R631): a write of STORAGE_PORT_CTL. -/
def execPortHotReset (master n size half : Nat) (value : Word) (s : State) : Res := s.run fun _ d =>
  d.portCtlWrite n ⟨master, size, half, value⟩

/-- STORAGE_ERROR_MESSAGE (R631). -/
def execStorageErrorMessage (n : Nat) (s : State) : Res := s.run fun _ d =>
  if d.hasPort n && d.portUp n then d.setFld STORAGE_PORT_STATUS.ERR_EV 1 [n] else d

/-- The stopped indication of port `n`'s windows: its link is down or disabled (R632). -/
def Dev.inwinStopped (d : Dev) (n : Nat) : Bool :=
  let st := d.fld STORAGE_PORT_STATUS.STATE [n]
  st = 0 || st = 5

/-- A write of STORAGE_TGT_CTL, and of a target's binding: PRESENT follows (R601, R632). -/
def Dev.tgtWrite (d : Dev) (reg : RegName) (t : Nat) (w : Wr) : Dev :=
  (d.regWrite reg [t] w (d.flag STORAGE_TGT_CTL.STOPPED [t])).tgtPresence t

/-! ### Configuration requests (R599) -/

/-- A write of STORAGE_CFG_CMD: discarded while a request runs, else it starts one, which 1 s ends. -/
def Dev.cfgCmdWrite (d : Dev) (w : Wr) : Dev :=
  if w.accepted .STORAGE_CFG_CMD && d.flag STORAGE_CFG_CMD.BUSY then d.refuse205 .STORAGE_CFG_CMD [] w
  else if !w.accepted .STORAGE_CFG_CMD then d.regWrite .STORAGE_CFG_CMD [] w
  else
    let d := ((d.regWrite .STORAGE_CFG_CMD [] w).setFld STORAGE_CFG_CMD.BUSY 1).setFld STORAGE_CFG_CMD.ERR 0
    let d := { d with stg := { d.stg with cfgDue := d.now + 1000000000 } }
    d.emit (.cfgRequest (d.reg .STORAGE_CFG_CMD) (d.reg .STORAGE_CFG_DATA))

/-- A write of STORAGE_CFG_DATA. -/
def Dev.cfgDataWrite (d : Dev) (w : Wr) : Dev :=
  if w.accepted .STORAGE_CFG_DATA && d.flag STORAGE_CFG_CMD.BUSY then d.refuse205 .STORAGE_CFG_DATA [] w
  else d.regWrite .STORAGE_CFG_DATA [] w

/-- CFG_REQUEST (R599): a write of STORAGE_CFG_CMD. -/
def execCfgRequest (master size half : Nat) (value : Word) (s : State) : Res := s.run fun _ d =>
  d.cfgCmdWrite ⟨master, size, half, value⟩

/-- A configuration request ends. -/
def Dev.cfgEnd (d : Dev) (err : Bool) (data : Nat) : Dev :=
  let read := !d.flag STORAGE_CFG_CMD.WRITE
  let d := (d.setFld STORAGE_CFG_CMD.BUSY 0).setFld STORAGE_CFG_CMD.ERR (b2n err)
  if read then d.setFld STORAGE_CFG_DATA.DATA (if err then 0xFFFFFFFF else data) else d

/-- CFG_COMPLETE (R599): `err` for Unsupported Request or Completer Abort. -/
def execCfgComplete (err : Bool) (data : Nat) (s : State) : Res := s.run fun _ d =>
  if d.flag STORAGE_CFG_CMD.BUSY then d.cfgEnd err data else d

/-- CFG_TIMEOUT (R599). -/
def execCfgTimeout (s : State) : Res := s.run fun _ d =>
  if d.flag STORAGE_CFG_CMD.BUSY then d.at d.stg.cfgDue fun d => d.cfgEnd true 0 else d

/-! ### Gating and failure of channels (R620) -/

/-- The active descriptor of a channel ends FALLOW; a command it has in flight keeps its ID, and
the row it wrote has failed with its outcome not known (R422). -/
def Dev.dmaFallow (d : Dev) (p c : Nat) : Dev :=
  let ch := d.dmaCh p c
  let b := d.dmaSet .DMA_ACTIVE p c
  let r := leAt b 32 2
  let d := match ch.cid with
    | some cid =>
      let q := d.qp r
      match tfind q.cmds cid with
      | some x =>
        let d := (d.setQp r { q with cmds := tput q.cmds cid { x with late := true } }).qpSettle r
        match x.op with
        | .row row => d.rowFail (d.node, qpTarget r, row) false none false
        | _ => d
      | none => d
    | none => d
  let d := if d.dmaActive p c && !d.dmaHalted p c then d.dmaEnd p c 11 0 else d
  if d.flag DMA_STATUS.SHEMPTY [p, c] then d
  else
    let s := d.dmaSet .DMA_SHADOW p c
    let wid := (d.dmaCh p c).shadowWid
    let d := (d.setFld DMA_STATUS.SHEMPTY 1 [p, c]).setFld DMA_CTL.GO 0 [p, c]
    if d.stale wid then d.discardStale
    else
      let v := leAt s 0 1 + 11 * 2 ^ 8 + leAt s 2 2 * 2 ^ 16
      (d.count .DMA_DESCS [p, c]).dmaPut p c { workid := wid, sender := tagDma p c, data := BitVec.ofNat 512 v }

/-- The cutoff of a gate request for a plot's channels. -/
def Dev.dmaCutoff (d : Dev) (p : Nat) : Dev := (List.range 64).foldl (fun d c => d.dmaFallow p c) d

/-- A channel fails. -/
def Dev.dmaChannelFail (d : Dev) (p c : Nat) : Dev :=
  if d.plots ≤ p || 64 ≤ c || (d.dmaCh p c).failed then d
  else
    let d := (d.dmaFallow p c).setFld DMA_STATUS.FALLOW 1 [p, c]
    let d := (d.setDma p c { d.dmaCh p c with failed := true }).report { code := 0x0305, kind := 5, unit := p * 256 + 128 + c }
    d.queueFallow

/-- DMA_CHANNEL_FAIL (R620). -/
def execDmaChannelFail (p c : Nat) (s : State) : Res := s.run fun _ d => d.dmaChannelFail p c

/-- DMA_STATUS as read (R634): FALLOW while gated or failed. -/
def Dev.dmaStatusView (d : Dev) (p c : Nat) : Word := DMA_STATUS.FALLOW.set (d.reg .DMA_STATUS [p, c]) (b2n (d.dmaOff p c))

/-! ### The buffer manager (R623 to R629) -/

def Dev.bufm (d : Dev) (p : Nat) : Bufm := tget {} d.stg.bufms p
def Dev.setBufm (d : Dev) (p : Nat) (v : Bufm) : Dev := { d with stg := { d.stg with bufms := tset {} d.stg.bufms p v } }
def Dev.bufmEn (d : Dev) (p : Nat) : Bool := d.flag BUFM_CFG.EN [p]
def Dev.bufmCells (d : Dev) (p : Nat) : Nat := min 393216 (d.fld BUFM_CFG.COUNT [p])
def Dev.cellAddr (d : Dev) (p i : Nat) : Nat := 0x20000000000 + p * 0x8000000 + d.fld BUFM_CFG.BASE [p] * 256 + 256 * i

/-- BUFM_STATUS (R634). -/
def Dev.bufmStatusView (d : Dev) (p : Nat) : Word :=
  let free := if d.bufmEn p then d.bufmCells p - (d.bufm p).owner.length else 0
  BUFM_STATUS.IDLE.set (BUFM_STATUS.FREE.set 0 free) (b2n (!d.bufmEn p))

/-- Allocates a cell (R625): the most recently freed, else the lowest never allocated. -/
def Dev.cellAlloc (d : Dev) (p owner : Nat) : Word × Dev :=
  let b := d.bufm p
  let give (i : Nat) (b : Bufm) : Word × Dev :=
    (BUFM_ALLOC.VALID.set (BitVec.ofNat 64 (d.cellAddr p i)) 1, d.setBufm p { b with owner := tput b.owner i (owner + 1) })
  if !d.bufmEn p then (0, d)
  else
    match b.freed with
    | i :: t => give i { b with freed := t }
    | [] => if b.fresh < d.bufmCells p then give b.fresh { b with fresh := b.fresh + 1 } else (0, d)

/-- BUFM_ALLOC (R625): a read of the register; only an aligned read of 8 bytes allocates, and none on a plot that the part
lacks (R4). -/
def execBufmAlloc (master p size : Nat) (s : State) : Res := s.run fun _ d =>
  if size = 8 && !d.absentPage (RegName.key .BUFM_ALLOC [p]) then
    let (v, d) := d.cellAlloc p master
    d.emit (.regRead master (RegName.off .BUFM_ALLOC [p]) v)
  else if size = 4 || size = 8 then d.emit (.regRead master (RegName.off .BUFM_ALLOC [p]) 0)
  else d.blame 0x0202 master (RegName.addr .BUFM_ALLOC [p]) (RegName.off .BUFM_ALLOC [p])

/-- An event of R626. -/
def Dev.cellEvent (d : Dev) (p kind cell master addr : Nat) : Dev :=
  let v := BUFM_LAST_EVENT.MASTER.set (BUFM_LAST_EVENT.KIND.set (BUFM_LAST_EVENT.CELL.set 0 cell) kind) master
  let d := (d.count .BUFM_EVENTS [p]).setReg .BUFM_LAST_EVENT v [p]
  d.report { code := 0x0209, kind := 4, unit := p, master := master, addr := addr }

/-- The cell at an address, and the event that a free or give by `master` meets there. -/
def Dev.cellAt (d : Dev) (p addr : Nat) : Option Nat :=
  let base := d.cellAddr p 0
  if d.bufmEn p && base ≤ addr && (addr - base) % 256 = 0 && (addr - base) / 256 < d.bufmCells p then some ((addr - base) / 256) else none

def Dev.cellCheck (d : Dev) (p addr master : Nat) : Sum Nat (Nat × Nat) :=
  match d.cellAt p addr with
  | none => .inr (3, 0x7FFFF)
  | some i =>
    match tfind (d.bufm p).owner i with
    | none => .inr (1, i)
    | some o => if o = master + 1 then .inl i else .inr (2, i)

/-- A free by a master (R626). -/
def Dev.cellFree (d : Dev) (p addr master : Nat) : Dev :=
  match d.cellCheck p addr master with
  | .inl i =>
    let b := d.bufm p
    d.setBufm p { b with owner := tdel b.owner i, freed := i :: b.freed }
  | .inr (kind, cell) => d.cellEvent p kind cell master addr

/-- BUFM_FREE (R626): a write of the register. -/
def execBufmFree (master p size : Nat) (value : Word) (s : State) : Res := s.run fun _ d => d.pageWrite .BUFM_FREE [p] size fun d =>
  if size = 8 then d.cellFree p (BUFM_FREE.ADDR.get value) master
  else d.blame 0x0202 master (RegName.addr .BUFM_FREE [p]) (RegName.off .BUFM_FREE [p])

/-- A give by a master (R626); tags from 0x8000 up are reserved (R624). -/
def Dev.cellGive (d : Dev) (p addr owner master : Nat) : Dev :=
  if 8 ≤ owner / 4096 then d.cellEvent p 3 0x7FFFF master addr
  else
    match d.cellCheck p addr master with
    | .inl i => d.setBufm p { d.bufm p with owner := tput (d.bufm p).owner i (owner + 1) }
    | .inr (kind, cell) => d.cellEvent p kind cell master addr

/-- BUFM_GIVE (R626): a write of the register. -/
def execBufmGive (master p size : Nat) (value : Word) (s : State) : Res := s.run fun _ d => d.pageWrite .BUFM_GIVE [p] size fun d =>
  if size = 8 then d.cellGive p (BUFM_GIVE.ADDR.get value) (BUFM_GIVE.OWNER.get value) master
  else d.blame 0x0202 master (RegName.addr .BUFM_GIVE [p]) (RegName.off .BUFM_GIVE [p])

/-- Frees every cell of an owner (R627), in increasing cell. -/
def Dev.cellReclaim (d : Dev) (p owner : Nat) : Dev :=
  let b := d.bufm p
  let mine := (b.owner.filter fun e => e.2 = owner + 1).map Prod.fst
  (d.setBufm p { b with owner := b.owner.filter fun e => e.2 ≠ owner + 1, freed := mine.reverse ++ b.freed }).count
    .BUFM_RECLAIMED [p] mine.length

/-- BUFM_RECLAIM (R627): a write of the register. -/
def execBufmReclaim (master p size : Nat) (value : Word) (s : State) : Res := s.run fun _ d => d.pageWrite .BUFM_RECLAIM [p] size fun d =>
  if size = 8 then d.cellReclaim p (BUFM_RECLAIM.OWNER.get value)
  else d.blame 0x0202 master (RegName.addr .BUFM_RECLAIM [p]) (RegName.off .BUFM_RECLAIM [p])

/-- A write of BUFM_CFG (R628): EN 0 frees every cell. -/
def Dev.bufmCfgWrite (d : Dev) (p : Nat) (w : Wr) : Dev :=
  let d := d.regWrite .BUFM_CFG [p] w (!d.bufmEn p)
  if d.bufmEn p then d else d.setBufm p {}

/-- BUFM_DISABLE (R628): a write of BUFM_CFG. -/
def execBufmDisable (master p size half : Nat) (value : Word) (s : State) : Res := s.run fun _ d =>
  d.pageWrite .BUFM_CFG [p] size fun d => d.bufmCfgWrite p ⟨master, size, half, value⟩

end Sys2Proof.Machine
end

