-- ==== Sys2Proof/Machine/Harrow.lean ====
section
/-!
DEFINITION. Harrowing: the background sweep of the local targets, what it does with each row, its state records, and
the check of the ledgers homed here (R427, R534 to R541, R546, R556 to R559, R568, R580, R591).
-/

namespace Sys2Proof.Machine

def Dev.harrowTgt (d : Dev) (t : Nat) : HarrowTgt := tget {} d.glean.targets t
def Dev.setHarrowTgt (d : Dev) (t : Nat) (h : HarrowTgt) : Dev := d.setGlean { d.glean with targets := tset {} d.glean.targets t h }

/-! ### Budget and quiet (R537, R538) -/

/-- The budget as it stands now: RATE * 10 MB/s of bytes, at most 16 MiB in hand. -/
def Dev.harrowTokens (d : Dev) : Int :=
  min 16777216 (d.glean.tokens + ((d.now - d.glean.tokenAt) * max 1 (d.fld DEVICE_HARROW_CTL.RATE) / 100 : Nat))

/-- The next read fits the budget. -/
def Dev.harrowBudget (d : Dev) : Bool := 65536 ≤ d.harrowTokens

/-- No foreground command for a target waits, and none has completed within QUIET. -/
def Dev.targetQuiet (d : Dev) (t : Nat) : Bool :=
  (List.range 16).all (fun q => d.qpWaiters (16 * t + q) = []) &&
    match tfind d.glean.quietFrom t with
    | some at' => at' + d.fld DEVICE_HARROW_CTL.QUIET * 10000 ≤ d.now
    | none => true

/-- A harrowing repair runs (DEVICE_HARROW_STATUS.REPAIRING). -/
def Dev.harrowRepairing (d : Dev) : Bool := d.glean.repairs.any fun j => j.harrow.isSome

/-- DEVICE_HARROW_STATUS (R550). -/
def Dev.harrowStatusView (d : Dev) : Word :=
  let active := d.glean.listed.isSome || d.glean.targets.any fun e => e.2.reading.isSome
  let wait := d.flag DEVICE_HARROW_CTL.EN && !d.harrowBudget
  DEVICE_HARROW_STATUS.REPAIRING.set (DEVICE_HARROW_STATUS.BUDGET_WAIT.set
    (DEVICE_HARROW_STATUS.ACTIVE.set (d.reg .DEVICE_HARROW_STATUS) (b2n active)) (b2n wait)) (b2n d.harrowRepairing)

/-- Charges a read to the budget. -/
def Dev.harrowCharge (d : Dev) : Dev :=
  (d.setGlean { d.glean with tokens := d.harrowTokens - 65536, tokenAt := d.now }).count .DEVICE_HARROW_BYTES [] 65536

/-- The targets of a pass: those in service as it begins. -/
def Dev.passTargets (d : Dev) : List Nat := (List.range 4096).filter d.inService

/-- HARROW_READ_ISSUE (R535 to R538): a position of the repair list is read ahead of the sweep; otherwise row `row` of
target `t`, the next in use there, provided the target is quiet. -/
def execHarrowReadIssue (t row : Nat) (s : State) : Res := s.run fun _ d =>
  let d := if d.glean.pass = [] then d.setGlean { d.glean with pass := d.passTargets } else d
  if !d.flag DEVICE_HARROW_CTL.EN || !d.harrowBudget || d.flt.safe || !d.rootOk then d
  else
    match d.glean.repairList with
    | b :: rest =>
      if d.glean.listed.isSome || (b.place.1 = d.node && !d.targetQuiet b.place.2.1) then d
      else (d.harrowCharge.setGlean { d.harrowCharge.glean with listed := some b, repairList := rest }).sendFetch b.place
    | [] =>
      let h := d.harrowTgt t
      if !d.inService t || labelRows (d.label t) ≤ row || h.reading.isSome || h.swept || row < h.row || !d.targetQuiet t then d
      else (d.harrowCharge.setHarrowTgt t { h with reading := some row }).sendFetch (d.node, t, row)

/-! ### What is done with a row (R535, R536, R427, R534) -/

/-- Every row the device holds as allocated and not yet written (R559). -/
def Dev.allRows (d : Dev) : List RowW :=
  (d.sow.sess.flatMap fun e => e.2.allRows) ++ (d.sow.ledgers.flatMap fun e => e.2.rows ++ e.2.copies) ++
    d.glean.repairs.flatMap fun j => j.rows ++ j.descs

/-- Frees a row (R427, R534, R559). -/
def Dev.harrowFree (d : Dev) (p : Place) : Dev := (d.dropRow p).count .DEVICE_HARROW_FREED

/-- The row's header is older than IDLE. -/
def Dev.rowOld (d : Dev) (b : List Byte) : Bool := d.idleNs / 1000000000 < (d.todSec - leAt b 64 6).toNat

/-- A position that failed: counted, recorded, and repaired where CTL.REPAIR is 1; its HARROW record follows the repair,
or at once (R536). `node` and `target` are where the copy lies. -/
def Dev.harrowFailed (d : Dev) (o : ObjRef) (sheaf q fault : Nat) (p : Place) : Dev :=
  let d := d.count .DEVICE_HARROW_FAILED
  let d := d.report { code := 0x0403, kind := 14, unit := 0, object := o.obj, node := p.1,
                      addr := sheaf * 2 ^ 32 + q * 2 ^ 16 + p.2.1 }
  if d.flag DEVICE_HARROW_CTL.REPAIR then d.repairAsk { ref := o, harrow := some (sheaf, q, fault, p.2.1) }
  else d.handRecord { tenant := o.tenant, kind := 4, object := o.obj, origin := .nobody,
                      body := leBytes 4 sheaf ++ leBytes 1 q ++ leBytes 1 fault ++ leBytes 2 p.2.1 ++ leBytes 1 0 }

/-- An object ID of a ledger segment (R575). -/
def isSegment (obj : Nat) : Bool := bits obj 82 30 = 2 ^ 30 - 1

/-- An open segment as an object to verify (R577, R580). -/
def segmentRef (obj tenant : Nat) (descs : List (List Byte)) (sheaf : Nat) : ObjRef :=
  { obj := obj, tenant := tenant, label := 3, len := 2 ^ 32, prof := 0xFF, k := 1, m := 4, g := 0, hash := 0,
    descs := match bestDesc obj sheaf 0 descs with
      | some b => [(sheaf, b)]
      | none => [] }

/-- A grain row of an object whose descriptors are known: verified, freed, or a failure. The position at fault is the one
the descriptor gives the row, or the one the header names while no descriptor can be read (R535, R536, R871). -/
def Dev.harrowGrain (d : Dev) (o : ObjRef) (b : List Byte) (p : Place) : Dev :=
  let sheaf := leAt b 32 4
  let q := leAt b 44 1
  if (o.desc sheaf).isNone then (d.count .DEVICE_HARROW_ROWS).harrowFailed o sheaf q 3 p
  else
    match (List.range o.shape.w).find? fun x => o.place sheaf x = some p with
    | none => if d.rowOld b then d.harrowFree p else d
    | some x =>
      let d := d.count .DEVICE_HARROW_ROWS
      if x ≠ q then d.harrowFailed o sheaf x 4 p
      else if o.verifies sheaf q (rowPayload b) then d else d.harrowFailed o sheaf q 1 p

/-- A descriptor row: a copy that does not check, or is not of the highest VERSION, is rewritten (R568). -/
def Dev.harrowDesc (d : Dev) (o : ObjRef) (b : List Byte) (p : Place) : Dev :=
  let sheaf := leAt b 32 4
  let d := d.count .DEVICE_HARROW_ROWS
  match o.desc sheaf with
  | none => d
  | some best =>
    if descOk o.obj sheaf o.hash b && leAt best 60 4 ≤ leAt b 60 4 then d
    else d.storeRow p best

/-- What harrowing does with a row that was read at a placement. -/
def Dev.harrowRow (d : Dev) (p : Place) (b : List Byte) (ledger : LedgerRead) (descs : List (List Byte)) : Dev :=
  match rowChecks b with
  | none => d.laterRow (some p) b
  | some false => if d.allRows.any fun r => r.place = some p then d else d.harrowFree p
  | some true =>
    let obj := leAt b 16 16
    let tenant := leAt b 12 4
    let act (d : Dev) (o : ObjRef) : Dev := if leAt b 5 1 = 2 then d.harrowDesc o b p else d.harrowGrain o b p
    match d.findSeal tenant obj { ledger with old := [] } with
    | (.seal r, d) => act d (objRef r (b :: descs))
    | (.unknown, d) =>
      if isSegment obj then act d (segmentRef obj tenant (b :: descs) (leAt b 32 4))
      else if d.sow.sess.any fun e => e.2.obj = obj && e.2.phase ≠ .expired then d
      else if d.rowOld b then d.harrowFree p else d
    | (_, d) => d

/-- HARROW_PASS_END (R539). -/
def Dev.harrowPassEnd (d : Dev) : Dev :=
  if d.glean.pass = [] || !d.glean.pass.all (fun t => (d.harrowTgt t).swept || !d.inService t) then d
  else
    let d := d.setFld DEVICE_HARROW_STATUS.PASSES (d.fld DEVICE_HARROW_STATUS.PASSES + 1)
    let again (h : HarrowTgt) : HarrowTgt := { h with swept := false, row := 0, passes := (h.passes + 1) % 2 ^ 32 }
    let ts := d.glean.targets.map fun e => (e.1, if e.2.swept then again e.2 else e.2)
    d.setGlean { d.glean with targets := ts, pass := d.passTargets }

/-- HARROW_READ_DONE (R535, R536): the read outstanding returns `data` (empty when the target reports an error). `listed`
says it is the repair list's; `last` that no row in use follows on the target. `ledger` and `descs` are what the row's
object's ledger and descriptors show. -/
def execHarrowReadDone (t : Nat) (listed last : Bool) (data : List (BitVec 8)) (ledger : LedgerRead)
    (descs : List (List (BitVec 8))) (s : State) : Res := s.run fun _ d =>
  if listed then
    match d.glean.listed with
    | none => d
    | some b =>
      let d := d.setGlean { d.glean with listed := none }
      match d.findSeal b.tenant b.obj ledger with
      | (.seal r, d) =>
        let o := objRef r descs
        let d := d.laterRow (some b.place) data
        let fault := o.faultOf b.sheaf b.pos (if data = [] then 2 else 0, data)
        let d := d.count .DEVICE_HARROW_ROWS
        if fault = 0 then d else d.harrowFailed o b.sheaf b.pos fault b.place
      | (_, d) => d
  else
    let h := d.harrowTgt t
    match h.reading with
    | none => d
    | some row =>
      let d := d.setHarrowTgt t { h with reading := none, row := row + 1, swept := last }
      let d := if data = [] || d.flt.safe then d else d.harrowRow (d.node, t, row) data ledger descs
      d.harrowPassEnd

/-! ### State records (R539, R556, R557) -/

/-- HARROW_STATE_RECORD (R539, R556): the sweep position of a target goes to the state record that does not hold the
newer one. It is written every 60 s; a target that has left service may end the pass. -/
def execHarrowStateRecord (t : Nat) (s : State) : Res := s.run fun _ d =>
  let h := d.harrowTgt t
  if d.inService t && !d.flt.safe then
    let go (d : Dev) : Dev :=
      let st := d.stamp
      let seq := h.seq + 1
      let b := withCrc ([0x54, 0x47, 0x51, 0x33, 3] ++ leBytes 3 0 ++ leBytes 8 seq ++ leBytes 4 h.row ++ leBytes 4 h.passes ++
        leBytes 6 st.1 ++ leBytes 2 0 ++ leBytes 4 st.2.1 ++ leBytes 1 st.2.2 ++ leBytes 215 0)
      (d.setHarrowTgt t { h with seq := seq, recordedAt := d.now, recordedRow := h.row }).emit (.stateRecord t (2 - seq % 2) b)
    (d.at (h.recordedAt + 60000000000) go).harrowPassEnd
  else d.harrowPassEnd

/-! ### The ledger check (R540, R573) -/

/-- The sequence of the first record of a ledger that fails its chain or its MAC, and the device after the checks. -/
def ledgerBreak (d : Dev) : Nat → List Byte → List (List Byte) → Option Nat × Dev
  | _, _, [] => (none, d)
  | seq, prev, r :: rest =>
    let (ok, d) := d.recordOk r
    if leAt r 8 8 = seq && slice r 56 32 = slice prev 0 32 && ok then ledgerBreak d (seq + 1) (recordDigest r) rest
    else (some seq, d)

/-- LEDGER_CHECK (R540): once in a pass, a ledger homed here. -/
def execLedgerCheck (tenant : Nat) (s : State) : Res := s.run fun _ d =>
  match tfind d.sow.ledgers tenant with
  | none => d
  | some l =>
    let pass := d.fld DEVICE_HARROW_STATUS.PASSES + 1
    if !d.flag DEVICE_HARROW_CTL.LEDGER || !d.flag DEVICE_HARROW_CTL.EN || !d.rootOk || l.checked = pass then d
    else
      let d := d.putLedger tenant { l with checked := pass }
      match ledgerBreak d 1 [] (l.recs.take l.durable) with
      | (none, d) => d
      | (some seq, d) =>
        let d := (d.count .DEVICE_HARROW_BREAKS).report { code := 0x0404, kind := 15, unit := tenant, addr := seq }
        d.handRecord { tenant := tenant, kind := 6, origin := .nobody, body := leBytes 8 seq }

/-- HARROW_CLR (R550). -/
def execHarrowClr (master size : Nat) (value : Word) (s : State) : Res := s.run fun _ d =>
  d.clrWrite .DEVICE_HARROW_CLR [] ⟨master, size, 0, value⟩

end Sys2Proof.Machine
end

