-- ==== Sys2Proof/Machine/Parse.lean ====
section
/-!
DEFINITION. The fixed parser and its record, frame check sequences, and parse cells (R649 to R656).
-/

namespace Sys2Proof.Machine

/-! ### Frames as bytes -/

/-- The big-endian number in bytes `[off, off + n)`. -/
def beAt (l : List Byte) (off n : Nat) : Nat := beNat (slice l off n)

/-- Bytes `[off, off + v.length)` replaced. -/
def patch (l : List Byte) (off : Nat) (v : List Byte) : List Byte :=
  l.take off ++ (v ++ l.drop (off + v.length))

/-- One bit of IEEE 802.3's CRC-32. -/
def fcsStep (c : BitVec 32) : BitVec 32 := if c.getLsbD 0 then (c >>> 1) ^^^ 0xEDB88320 else c >>> 1

/-- The frame check sequence of a frame's bytes before it, in wire order. -/
def fcsOf (l : List Byte) : List Byte :=
  leBytes 4 (~~~(l.foldl (fun c b =>
    fcsStep (fcsStep (fcsStep (fcsStep (fcsStep (fcsStep (fcsStep (fcsStep (c ^^^ b.zeroExtend 32)))))))))
    (0xFFFFFFFF : BitVec 32))).toNat

/-- A frame's bytes without its FCS, and with one. -/
def bare (l : List Byte) : List Byte := l.take (l.length - 4)
def framed (l : List Byte) : List Byte := l ++ fcsOf l

/-- A frame's FCS checks. -/
def fcsOk (l : List Byte) : Bool := l.drop (l.length - 4) = fcsOf (bare l)

/-- 256-byte cells a frame fills (R641). -/
def cellsOf (l : List Byte) : Nat := (l.length + 255) / 256

/-- A TPID of R649. -/
def isTag (t : Nat) : Bool := t = 0x8100 || t = 0x88A8

/-- The PFC priority of a frame: PCP of its outer tag, or the port's default. -/
def framePri (defPcp : Nat) (l : List Byte) : Nat := if isTag (beAt l 12 2) then beAt l 14 1 / 32 else defPcp

/-- A frame's VID, 0 when untagged (R684). -/
def frameVid (l : List Byte) : Nat := if isTag (beAt l 12 2) then beAt l 14 2 % 4096 else 0

/-! ### The fixed parser (R649 to R651) -/

/-- What the parser has found. -/
structure Parsed where
  flags0 : Nat := 0
  flags1 : Nat := 0
  etherType : Nat := 0
  tci1 : Nat := 0
  tci2 : Nat := 0
  dmac : List Byte := []
  smac : List Byte := []
  proto : Nat := 0
  tos : Nat := 0
  src : List Byte := []
  dst : List Byte := []
  l4src : Nat := 0
  l4dst : Nat := 0
  vni : Nat := 0
  last : Nat := 0
  deriving DecidableEq, Repr

def Parsed.set0 (p : Parsed) (b : Nat) : Parsed := { p with flags0 := p.flags0 ||| 2 ^ b }
def Parsed.set1 (p : Parsed) (b : Nat) : Parsed := { p with flags1 := p.flags1 ||| 2 ^ b }

/-- Ethernet II and the tags from `off`: what follows, and where, if parsing goes on. -/
def parseEth (w : List Byte) (off : Nat) (p : Parsed) : Parsed × Option (Nat × Nat) :=
  if w.length < off + 14 then (p.set1 4, none)
  else
    let p := { p with dmac := slice w off 6, smac := slice w (off + 6) 6 }
    let t0 := beAt w (off + 12) 2
    if !isTag t0 then ({ p with etherType := t0, last := off + 14 }, some (t0, off + 14))
    else if w.length < off + 18 then ({ p.set1 4 with last := off + 14 }, none)
    else
      let p := { p.set0 0 with tci1 := beAt w (off + 14) 2 }
      let t1 := beAt w (off + 16) 2
      if !isTag t1 then ({ p with etherType := t1, last := off + 18 }, some (t1, off + 18))
      else if w.length < off + 22 then ({ p.set1 4 with last := off + 18 }, none)
      else
        let t2 := beAt w (off + 20) 2
        let p := { p.set0 1 with tci2 := beAt w (off + 18) 2, etherType := t2, last := off + 22 }
        if isTag t2 then (p.set1 5, none) else (p, some (t2, off + 22))

/-- The one's complement sum of 16-bit words, folded. -/
def onesSum (l : List Byte) : Nat :=
  let s := ((List.range ((l.length + 1) / 2)).map fun i => beAt l (2 * i) 2).foldl (· + ·) 0
  let s := s % 65536 + s / 65536
  s % 65536 + s / 65536

/-- IPv4 at `off`: the protocol and where it begins, if parsing goes on. -/
def parseV4 (w : List Byte) (off : Nat) (p : Parsed) : Parsed × Option (Nat × Nat) :=
  let hl := 4 * (beAt w off 1 % 16)
  if w.length < off + 20 || w.length < off + hl then (p.set1 4, none)
  else
    let frag := beAt w (off + 6) 2
    let p := { p.set0 2 with
      proto := beAt w (off + 9) 1, tos := beAt w (off + 1) 1, src := slice w (off + 12) 4,
      dst := slice w (off + 16) 4, last := off + max hl 20 }
    let p := if frag % 8192 ≠ 0 || bit frag 13 then p.set1 2 else p
    if hl < 20 then (p.set1 1, none)
    else
      let p := if onesSum (slice w off hl) = 0xFFFF then p else p.set1 1
      (p, if frag % 8192 = 0 then some (p.proto, off + hl) else none)

/-- IPv6 extension headers from `off`, of which `n` more may be parsed. -/
def parseExt (w : List Byte) : Nat → Nat → Nat → Parsed → Parsed × Option (Nat × Nat)
  | n, off, nh, p =>
    let p := { p with proto := nh, last := off }
    if !([0, 43, 44, 60].contains nh) then (p, some (nh, off))
    else
      match n with
      | 0 => (p.set1 3, none)
      | n + 1 =>
        let l := if nh = 44 then 8 else 8 * (beAt w (off + 1) 1 + 1)
        if w.length < off + 8 || w.length < off + l then (p.set1 4, none)
        else
          let frag := if nh = 44 then beAt w (off + 2) 2 else 0
          let p := if frag / 8 ≠ 0 || bit frag 0 then p.set1 2 else p
          if frag / 8 ≠ 0 then ({ p with proto := beAt w off 1, last := off + l }, none)
          else parseExt w n (off + l) (beAt w off 1) p

/-- IPv6 at `off`. -/
def parseV6 (w : List Byte) (off : Nat) (p : Parsed) : Parsed × Option (Nat × Nat) :=
  if w.length < off + 40 then (p.set1 4, none)
  else
    parseExt w 2 (off + 40) (beAt w (off + 6) 1)
      { p.set0 3 with tos := beAt w off 2 / 16 % 256, src := slice w (off + 8) 16, dst := slice w (off + 24) 16 }

/-- IPv4, IPv6 or PTP after Ethernet. -/
def parseL3 (w : List Byte) (ty off : Nat) (p : Parsed) : Parsed × Option (Nat × Nat) :=
  if ty = 0x0800 then parseV4 w off p
  else if ty = 0x86DD then parseV6 w off p
  else if ty = 0x88F7 then (p.set0 7, none)
  else (p, none)

/-- UDP or TCP at `off`: where an inner frame begins, if VXLAN is recognised. -/
def parseL4 (w : List Byte) (vxlan trd : Nat) (inner : Bool) (proto off : Nat) (p : Parsed) : Parsed × Option Nat :=
  if proto = 17 then
    if w.length < off + 8 then (p.set1 4, none)
    else
      let dst := beAt w (off + 2) 2
      let p := { p.set0 4 with l4src := beAt w off 2, l4dst := dst, last := off + 8 }
      if dst = vxlan && !inner then
        if w.length < off + 16 then (p.set1 4, none)
        else ({ p.set0 6 with vni := beAt w (off + 12) 3, last := off + 16 }, some (off + 16))
      else
        let p := if dst = 319 || dst = 320 then p.set0 7 else p
        (if dst = trd then p.set1 0 else p, none)
  else if proto = 6 then
    let hl := max 20 (4 * (beAt w (off + 12) 1 / 16))
    if w.length < off + hl then (p.set1 4, none)
    else ({ p.set0 5 with l4src := beAt w off 2, l4dst := beAt w (off + 2) 2, last := off + hl }, none)
  else (p, none)

/-- One frame from `off`: Ethernet, IP and what it carries. -/
def parseOne (w : List Byte) (vxlan trd : Nat) (inner : Bool) (off : Nat) (p : Parsed) : Parsed × Option Nat :=
  match parseEth w off p with
  | (p, none) => (p, none)
  | (p, some (ty, off)) =>
    match parseL3 w ty off p with
    | (p, none) => (p, none)
    | (p, some (proto, off)) => parseL4 w vxlan trd inner proto off p

/-- The whole of R649 for a frame. Inside VXLAN, bytes 4 to 59 and 63 of the record describe the inner frame (R650). -/
def parseFrame (vxlan trd : Nat) (l : List Byte) : Parsed :=
  let w := l.take 256
  match parseOne w vxlan trd false 0 {} with
  | (p, none) => p
  | (p, some off) =>
    (parseOne w vxlan trd true off { flags0 := p.flags0, flags1 := p.flags1, vni := p.vni, last := p.last }).1

/-- The parse record (R650). -/
def Parsed.record (p : Parsed) (port : Nat) : List Byte :=
  leBytes 2 port ++ leBytes 1 p.flags0 ++ leBytes 1 p.flags1 ++ beBytes 2 p.etherType ++ beBytes 2 p.tci1 ++
    beBytes 2 p.tci2 ++ slice p.dmac 0 6 ++ slice p.smac 0 6 ++ leBytes 1 p.proto ++ leBytes 1 p.tos ++
    slice p.src 0 16 ++ slice p.dst 0 16 ++ beBytes 2 p.l4src ++ beBytes 2 p.l4dst ++ beBytes 3 p.vni ++
    leBytes 1 (p.last / 2)

/-- Fields of a record. -/
def recFlags0 (r : List Byte) : Nat := leAt r 2 1
def recFlags1 (r : List Byte) : Nat := leAt r 3 1
def recEnd (r : List Byte) : Nat := 2 * leAt r 63 1

/-! ### Parse cells (R654 to R656) -/

/-- Where a cell's window and record stand while it runs: addresses that neither its code nor its table, both in plot
SRAM, can meet. The cell's run is made on a copy of the device of which only the record is kept. -/
def cellWindow : Nat := 0x3FFFFF0000
def cellRecord : Nat := 0x3FFFFF1000

/-- A cell executes this instruction (R655). HLD and HST of 64 bytes need a wide register, which a cell has not. -/
def cellRuns (w : BitVec 32) : Bool :=
  let op := (w.extractLsb' 26 6).toNat
  op ≤ 0x0B || ((op = 0x1E || op = 0x1F) && w.extractLsb' 10 3 ≠ 4) || (0x28 ≤ op && op ≤ 0x2F) || w = 0xC8000003

/-- A cell as it starts on a frame (R654): strand 0 of the copy, in drill context over its code bank. -/
def Dev.cellStart (d : Dev) (p : Nat) (f : Frame) : Dev :=
  let n := min f.data.length 256
  let bank := d.fld PARSE_STATUS.BANK [p]
  let code := d.fld PARSE_CODE.BASE [p, bank] * 4096
  let budget := min 1024 (max 1 (d.fld PARSE_CTL.BUDGET [p]))
  let ok (lim : Nat) (wr : Bool) : Word := BitVec.ofNat 64 (lim + 2 ^ 63 + (if wr then 2 ^ 62 else 0))
  let r : Regs := {
    pc := code, drill := true, dcode := BitVec.ofNat 64 code, dlen := 4096, dbudget := BitVec.ofNat 64 budget
    g := tset 0 (tset 0 [] 1 (BitVec.ofNat 64 f.port)) 2 (BitVec.ofNat 64 n)
    hbase := [(0, BitVec.ofNat 64 cellWindow), (1, BitVec.ofNat 64 cellRecord),
              (2, BitVec.ofNat 64 (d.fld PARSE_TABLE.BASE [p] * 4096))]
    hlim := [(0, ok n false), (1, ok 64 true), (2, ok (d.fld PARSE_TABLE.SIZE [p] * 4096) false)] }
  let d := d.alone 0 r
  ({ d with wlog := [] } |>.stBytes cellWindow (slice f.data 0 n)).stBytes cellRecord (slice f.record 0 64)

/-- Runs a cell: the record at DEXIT, or none at a parse fault. -/
def cellRun (m : Mem) : Nat → Dev → Option (List Byte)
  | 0, _ => none
  | n + 1, x =>
    let w := x.ldWord m (x.strand 0).regs.pc
    if !(x.strand 0).regs.inCode (x.strand 0).regs.pc || !cellRuns w then none
    else
      let y := drillInsn m 0 w x
      if (y.strand 0).cause ≠ 0 then none
      else if w = 0xC8000003 then some (y.ldBytes m cellRecord 64)
      else cellRun m n y

/-- The record a cell leaves for a frame, and whether it was a parse fault (R656). -/
def Dev.cellResult (d : Dev) (m : Mem) (p : Nat) (f : Frame) : List Byte × Bool :=
  match cellRun m 1025 (d.cellStart p f) with
  | some r => (leBytes 2 f.port ++ (slice r 2 1 ++ (leBytes 1 (leAt r 3 1 ||| 128) ++ r.drop 4)), false)
  | none => (patch f.record 3 (leBytes 1 (recFlags1 f.record ||| 64)), true)

end Sys2Proof.Machine
end

