-- ==== Sys2Proof/Machine/Tables.lean ====
section
/-!
DEFINITION. The hub tables and their command register: bridge, routes, peer expectation, send window cache and placement
cache (R693 to R700, R704).
-/

namespace Sys2Proof.Machine

/-- Entries, ways and entry bytes of a table (R693). -/
def tabEntries (t : Nat) : Nat :=
  match t with
  | 1 => 524288 | 2 => 64 | 3 => 4096 | 4 => 65536 | 5 => 16384 | 6 => 1048576 | _ => 0
def tabWays (t : Nat) : Nat := if t = 1 then 4 else if 4 ≤ t then 8 else 1
def tabBytes (t : Nat) : Nat := if t = 1 then 16 else if t = 2 || t = 3 then 32 else 64
def tabHashed (t : Nat) : Bool := t = 1 || (4 ≤ t && t ≤ 6)
def tabKeyLen (t : Nat) : Nat := if t = 6 then 20 else 8

/-- The set of a key (R694). -/
def tabSet (t : Nat) (e : List Byte) : Nat :=
  (crc32c (slice e 0 (tabKeyLen t))).toNat % (tabEntries t / tabWays t)

/-- VALID of an entry (R695). -/
def tabValid (t : Nat) (e : List Byte) : Bool :=
  if t = 1 then bit (leAt e 10 1) 0 else if t = 2 || t = 3 then bit (leAt e 22 1) 0 else bit (leAt e 63 1) 7

/-- An entry with VALID cleared. -/
def tabClear (t : Nat) (e : List Byte) : List Byte :=
  let o := if t = 1 then 10 else if t = 2 || t = 3 then 22 else 63
  let b := if t = 1 || t = 2 || t = 3 then 0 else 7
  patch e o (leBytes 1 (setBits (leAt e o 1) b 1 0))

/-- Where the placement cache's entry lies in HBM. -/
def Dev.plcAddr (d : Dev) (i : Nat) : Nat := d.fld TABLES_PLC.BASE * 67108864 + 64 * i

/-- An entry as stored. -/
def Dev.tabEnt (d : Dev) (m : Mem) (t i : Nat) : TabEnt :=
  if t = 6 then { data := d.ldBytes m (d.plcAddr i) 64 }
  else
    let e := tget {} (tget [] d.net.tables t) i
    { e with data := slice e.data 0 (tabBytes t) }

/-- Stores an entry. -/
def Dev.tabPut (d : Dev) (t i : Nat) (e : TabEnt) : Dev :=
  if t = 6 then d.stBytes (d.plcAddr i) (slice e.data 0 64)
  else
    let tb := tset {} (tget [] d.net.tables t) i e
    { d with net := { d.net with tables := tset [] d.net.tables t tb } }

/-- An entry is invalidated where it stands. -/
def Dev.tabDrop (d : Dev) (m : Mem) (t i : Nat) : Dev :=
  let e := d.tabEnt m t i
  d.tabPut t i { e with data := tabClear t e.data }

/-- PSNs are 24 bits. -/
def psn (n : Nat) : Nat := n % 2 ^ 24

/-- PET_HOLD in ns. -/
def Dev.petHold (d : Dev) : Nat := max 1 (d.fld TRD_TIMER.PET_HOLD) * 1000

/-- PINNED of an entry of the PET or the SWC (R734). A PET entry's `stamp` is the latest arrival of its flow. -/
def Dev.tabPinned (d : Dev) (t : Nat) (e : TabEnt) : Bool :=
  if t = 5 then tabValid 5 e.data && leAt e.data 12 3 ≠ leAt e.data 16 3
  else if t = 4 then
    tabValid 4 e.data && (psn (leAt e.data 16 3 + 1) ≠ leAt e.data 12 3 || d.now < e.stamp + d.petHold)
  else false

/-- The entry as READ returns it, with AGE and PINNED as they stand. -/
def Dev.tabShow (d : Dev) (t : Nat) (e : TabEnt) : List Byte :=
  if t = 1 then patch e.data 12 (leBytes 4 (if tabValid 1 e.data then (d.now - e.stamp) / 1000000000 else 0))
  else if t = 4 || t = 5 then patch e.data 63 (leBytes 1 (setBits (leAt e.data 63 1) 6 1 (b2n (d.tabPinned t e))))
  else e.data

/-- The index of the valid entry of a key. -/
def Dev.tabFind (d : Dev) (m : Mem) (t : Nat) (key : List Byte) : Option Nat :=
  let i0 := tabSet t key * tabWays t
  ((List.range (tabWays t)).map (i0 + ·)).find? fun i =>
    let e := (d.tabEnt m t i).data
    tabValid t e && slice e 0 (tabKeyLen t) = slice key 0 (tabKeyLen t)

/-- The occupant of a list that `worse` puts first; the earlier of two equals. -/
def pickBy (worse : TabEnt → TabEnt → Bool) : List (Nat × TabEnt) → Option (Nat × TabEnt)
  | [] => none
  | x :: t =>
    match pickBy worse t with
    | some y => if worse y.2 x.2 then some y else some x
    | none => some x

/-- The occupant that an insertion into a full set evicts (R693): the least recently refreshed bridge entry that is not
static, the least recently used SWC entry that is not pinned, or a random occupant of the PET that is not pinned or of
the placement cache, where the draw is a free value. -/
def Dev.tabVictim (d : Dev) (m : Mem) (t : Nat) (i0 : Nat) : Option Nat × Dev :=
  let occ := (List.range (tabWays t)).map fun w => (i0 + w, d.tabEnt m t (i0 + w))
  let occ := occ.filter fun x => !d.tabPinned t x.2 && !(t = 1 && bit (leAt x.2.data 10 1) 1)
  if t = 1 || t = 5 then ((pickBy (fun a b => a.stamp < b.stamp) occ).map Prod.fst, d)
  else if occ = [] then (none, d)
  else
    let (v, d) := d.draw
    ((occ[v.toNat % occ.length]?).map Prod.fst, d)

/-- What an insertion did. -/
inductive Ins where
  | placed (i : Nat) | replaced (i : Nat) | evicted (i : Nat) (old : List Byte) | full
  deriving DecidableEq, Repr

/-- Places an entry in the set of its key (R696). -/
def Dev.tabInsert (d : Dev) (m : Mem) (t : Nat) (e : TabEnt) : Ins × Dev :=
  let i0 := tabSet t e.data * tabWays t
  match d.tabFind m t e.data with
  | some i => (.replaced i, d.tabPut t i e)
  | none =>
    match ((List.range (tabWays t)).map (i0 + ·)).find? fun i => !tabValid t (d.tabEnt m t i).data with
    | some i => (.placed i, d.tabPut t i e)
    | none =>
      match d.tabVictim m t i0 with
      | (some i, d) => (.evicted i (d.tabShow t (d.tabEnt m t i)), d.tabPut t i e)
      | (none, d) => (.full, d)

/-- An access meets an entry that fails its check (R700). -/
def Dev.tabParity (d : Dev) (m : Mem) (t i : Nat) : Dev :=
  (((d.tabDrop m t i).count .TABLES_PARITY [t - 1])).report
    { code := 0x0107, kind := 12, unit := t, detail := i }

/-! ### The command register (R696 to R698) -/

/-- Lane `n` belongs to a strip whose personality is network (R30, R635, R670). -/
def Dev.netLane (d : Dev) (n : Nat) : Bool :=
  n < 320 && bits d.planWord.toNat (4 * (n / 64)) 4 = 1

/-- Every reserved bit of an entry is 0 and its port fields name ports. RO fields are not looked at. -/
def Dev.tabEntryOk (d : Dev) (t : Nat) (e : List Byte) : Bool :=
  let zero (o n : Nat) : Bool := leAt e o n = 0
  let hop (o : Nat) : Bool :=
    let h := leAt e o 2
    bits h 9 6 = 0 && (!bit h 15 || d.netLane (h % 512))
  match t with
  | 1 => bits (leAt e 6 2) 12 4 = 0 && bits (leAt e 8 2) 9 7 = 0 && bits (leAt e 10 1) 2 6 = 0 && zero 11 1 &&
      d.netLane (leAt e 8 2)
  | 2 | 3 => ((List.range 8).all fun j => hop (2 * j)) && bits (leAt e 22 1) 1 7 = 0 && zero 23 9
  | 4 => bits (leAt e 3 1) 5 3 = 0 && zero 4 4 && zero 10 2 && zero 15 1 && zero 19 1 && bits (leAt e 20 1) 2 6 = 0 &&
      zero 21 3 && zero 32 31 && bits (leAt e 63 1) 0 6 = 0
  | 5 => bits (leAt e 3 1) 5 3 = 0 && zero 4 4 && zero 10 2 && zero 15 1 && zero 19 1 && bits (leAt e 22 1) 1 7 = 0 &&
      zero 23 1 && zero 32 31 && bits (leAt e 63 1) 0 6 = 0
  | 6 => zero 37 26 && bits (leAt e 63 1) 0 7 = 0
  | _ => false

/-- RESULT and INDEX of an operation. -/
def Dev.tabResult (d : Dev) (result : Nat) (index : Option Nat := none) : Dev :=
  let d := d.setFld TABLES_CMD.RESULT result
  match index with
  | some i => d.setFld TABLES_CMD.INDEX i
  | none => d

/-- The entry in TABLES_DATA, and its replacement. -/
def Dev.tabData (d : Dev) : List Byte := (List.range 8).flatMap fun i => leBytes 8 (d.reg .TABLES_DATA [i]).toNat
def Dev.setTabData (d : Dev) (e : List Byte) : Dev :=
  (List.range 8).foldl (fun d i => d.setReg .TABLES_DATA (BitVec.ofNat 64 (leAt e (8 * i) 8)) [i]) d

/-- The bytes of an entry with its RO fields 0, as WRITE and INSERT store it. -/
def tabStored (t : Nat) (e : List Byte) : List Byte :=
  let e := slice e 0 (tabBytes t)
  if t = 1 then patch e 12 (leBytes 4 0)
  else if t = 4 || t = 5 then patch e 63 (leBytes 1 (setBits (leAt e 63 1) 6 1 0))
  else e

/-- The operation TABLES_CMD names (R696, R698); `bad` where the entry it reads or finds fails its check (R700). -/
def Dev.tablesRun (d : Dev) (m : Mem) (bad : Bool) : Dev :=
  let op := d.fld TABLES_CMD.OP
  let t := d.fld TABLES_CMD.TABLE
  let i := d.fld TABLES_CMD.INDEX
  let data := d.tabData
  let new : TabEnt := { data := tabStored t data, stamp := d.now }
  if op = 0 || 5 < op || t = 0 || 6 < t || (3 ≤ op && !tabHashed t) || (t = 6 && !d.flag TABLES_PLC.EN) then
    d.tabResult 6
  else if op ≤ 2 && tabEntries t ≤ i then d.tabResult 7
  else if op = 1 then
    if bad then ((d.tabParity m t i).setTabData []).tabResult 5
    else (d.setTabData (d.tabShow t (d.tabEnt m t i))).tabResult 0
  else if op = 2 then
    if !d.tabEntryOk t data then d.tabResult 8
    else if tabHashed t && tabValid t data && tabSet t data ≠ i / tabWays t then d.tabResult 7
    else if d.tabPinned t (d.tabEnt m t i) then d.tabResult 9
    else (d.tabPut t i new).tabResult 0
  else if op = 3 then
    if !d.tabEntryOk t data then d.tabResult 8
    else
      match d.tabInsert m t new with
      | (.placed j, d) => d.tabResult 0 j
      | (.replaced j, d) => d.tabResult 2 j
      | (.evicted j old, d) => (d.setTabData old).tabResult 3 j
      | (.full, d) => d.tabResult 4
  else
    match d.tabFind m t data with
    | none => (d.setTabData []).tabResult 1
    | some j =>
      if op = 4 then
        if d.tabPinned t (d.tabEnt m t j) then d.tabResult 9 j else (d.tabDrop m t j).tabResult 0 j
      else if bad then ((d.tabParity m t j).setTabData []).tabResult 5 j
      else (d.setTabData (d.tabShow t (d.tabEnt m t j))).tabResult 0 j

/-- A write of TABLES_CMD: OP nonzero starts the operation, which ends before any later command (R697, R699). -/
def Dev.tablesCmdWrite (d : Dev) (m : Mem) (w : Wr) (bad : Bool) : Dev :=
  let d := d.regWrite .TABLES_CMD [] w
  if w.accepted .TABLES_CMD && TABLES_CMD.OP.mask &&& w.mask ≠ 0 && d.fld TABLES_CMD.OP ≠ 0 then d.tablesRun m bad
  else d

/-- The command word of an operation. -/
def tablesWord (op t i : Nat) : Word := BitVec.ofNat 64 (op + 16 * (t % 16) + 256 * (i % 2 ^ 24))

/-- TABLE_READ (R696): master `m` has entry `i` of table `t` read into TABLES_DATA. -/
def execTableRead (master t i : Nat) (bad : Bool) (s : State) : Res := s.run fun m d =>
  d.tablesCmdWrite m ⟨master, 8, 0, tablesWord 1 t i⟩ bad

/-- TABLE_WRITE (R696): TABLES_DATA becomes entry `i`. -/
def execTableWrite (master t i : Nat) (s : State) : Res := s.run fun m d =>
  d.tablesCmdWrite m ⟨master, 8, 0, tablesWord 2 t i⟩ false

/-- TABLE_INSERT (R696). -/
def execTableInsert (master t : Nat) (s : State) : Res := s.run fun m d =>
  d.tablesCmdWrite m ⟨master, 8, 0, tablesWord 3 t 0⟩ false

/-- TABLE_DELETE (R696). -/
def execTableDelete (master t : Nat) (s : State) : Res := s.run fun m d =>
  d.tablesCmdWrite m ⟨master, 8, 0, tablesWord 4 t 0⟩ false

/-- TABLE_LOOKUP (R696). -/
def execTableLookup (master t : Nat) (bad : Bool) (s : State) : Res := s.run fun m d =>
  d.tablesCmdWrite m ⟨master, 8, 0, tablesWord 5 t 0⟩ bad

/-- Every entry of the placement cache becomes invalid: the bytes that hold a VALID bit and are not 0 (R704). -/
def Dev.plcInvalidate (d : Dev) (m : Mem) : Dev :=
  let lo := d.plcAddr 0
  let hit (a : Nat) : Bool := lo ≤ a && a < lo + 67108864 && (a - lo) % 64 = 63
  let d := (m.filter fun c => hit c.1).foldl (fun d c => d.st c.1 (d.ld m c.1 &&& 0x7F)) d
  d

/-- A write of TABLES_PLC: EN is the run control (R96 to R99), IDLE follows, and a start makes every entry invalid. The
base must lie in HBM. -/
def Dev.plcWrite (d : Dev) (m : Mem) (w : Wr) : Dev :=
  let was := d.flag TABLES_PLC.EN
  let d := d.regWrite .TABLES_PLC [] w (!was) fun f v => f ≠ TABLES_PLC.BASE || inHbm (f.get v * 67108864) 67108864
  let on := d.flag TABLES_PLC.EN
  let d := d.setFld TABLES_PLC.IDLE (b2n (!on))
  if on && !was then d.plcInvalidate m else d

/-- PLC_START (R704): a write of TABLES_PLC that starts the placement cache. -/
def execPlcStart (master size half : Nat) (value : Word) (s : State) : Res := s.run fun m d =>
  d.plcWrite m ⟨master, size, half, value⟩

end Sys2Proof.Machine
end

