-- ==== Sys2Proof/Machine/Sched.lean ====
section
/-!
DEFINITION. Egress queues, weighted fair queuing, policers, HBM reservations and queue telemetry (R705 to R726).
-/

namespace Sys2Proof.Machine

/-! ### Ports and queues -/

def portInit : PortSt := {}

def Dev.port (d : Dev) (n : Nat) : PortSt := tget portInit d.net.ports n
def Dev.setPort (d : Dev) (n : Nat) (p : PortSt) : Dev :=
  { d with net := { d.net with ports := tset portInit d.net.ports n p } }
def Dev.modPort (d : Dev) (n : Nat) (f : PortSt → PortSt) : Dev := d.setPort n (f (d.port n))

/-- The plot whose quarter a network lane attaches to (R30). -/
def plotOfLane (n : Nat) : Nat := if n < 256 then n / 64 else (n - 256) / 16

/-- A port's width in lanes and rate in Gbit/s, by MODE (R636). -/
def modeWidth (mode : Nat) : Nat := if mode = 3 then 2 else if mode = 4 then 4 else if mode = 5 then 8 else 1
def modeRate (mode : Nat) : Nat :=
  match mode with
  | 1 => 100 | 2 => 200 | 3 => 400 | 4 => 800 | 5 => 1600 | _ => 0

/-- A port starts on the lane, its link is up, and its plot's switch quarter is not fallow (R829). -/
def Dev.netUp (d : Dev) (n : Nat) : Bool :=
  d.netLane n && d.fld NET_PORT_STATUS.STATE [n] = 2 && !d.flt.safe && !d.plotOff (plotOfLane n)

/-- The frame at the head of an egress queue. -/
def Dev.qHead (d : Dev) (n q : Nat) : Option QEnt := d.net.ents.find? fun e => e.port = n && e.q = q

/-- The bytes of a queued frame. -/
def Dev.frame (d : Dev) (i : Nat) : Frame := (tfind d.net.frames i).getD { port := 0, pri := 0, data := [] }

/-- A queue is eligible (R706). A moved frame that its new plot has not admitted holds its queue back (R692). -/
def Dev.qReady (d : Dev) (n q : Nat) : Bool :=
  match d.qHead n q with
  | some e => d.netUp n && !bit (d.fld NET_PORT_PFC_STATUS.PAUSED [n]) (d.fld SCHED_Q_CTL.PRI [n, q]) && !e.away
  | none => false

/-! ### Weighted fair queuing (R708 to R711) -/

/-- The cost of a frame in a queue (R708). -/
def wfqCost (len weight : Nat) : Nat := (len + 20) * 256 / max 1 weight

/-- Sets F to S plus the head frame's cost. -/
def Dev.wfqFinish (d : Dev) (n q : Nat) (s : Word) : Dev :=
  match d.qHead n q with
  | some e =>
    let c := wfqCost (d.frame e.fr).data.length (d.fld SCHED_Q_CTL.WEIGHT [n, q])
    d.modPort n fun p => { p with
      startTag := tset 0 p.startTag q s, finishTag := tset 0 p.finishTag q (s + BitVec.ofNat 64 c) }
  | none => d

/-- Queue `q` of port `n` wakes if it has become eligible (R709), or is noted as no longer eligible. -/
def Dev.wfqTouch (d : Dev) (n q : Nat) : Dev :=
  let was := bit (d.port n).awake q
  let now := d.qReady n q
  if now && !was then
    (d.modPort n fun p => { p with awake := p.awake ||| 2 ^ q }).wfqFinish n q (d.reg .SCHED_PORT_VT [n])
  else if was && !now then d.modPort n fun p => { p with awake := setBits p.awake q 1 0 }
  else d

/-- The weighted queues of a port. -/
def weightedQs : List Nat := (List.range 14).map (· + 2)

/-- Every weighted queue of a port that has become, or ceased to be, eligible. -/
def Dev.wfqSync (d : Dev) (n : Nat) : Dev := weightedQs.foldl (fun d q => d.wfqTouch n q) d

/-- Every port's queues. -/
def Dev.wfqSyncAll (d : Dev) : Dev := d.net.ports.foldl (fun d p => d.wfqSync p.1) d

/-- Tag `a` is lower than tag `b`, by their signed difference (R708). -/
def tagBelow (a b : Word) : Bool := (a - b).toInt < 0

/-- The eligible weighted queue of lowest S, the lower-numbered of two equals (R710). -/
def Dev.wfqPick (d : Dev) (n : Nat) : Option Nat :=
  let s (q : Nat) : Word := tget 0 (d.port n).startTag q
  (weightedQs.filter fun q => d.qReady n q).foldl (fun best q =>
    match best with
    | some b => if tagBelow (s q) (s b) then some q else best
    | none => some q) none

/-- The queue R707 takes a frame from. -/
def Dev.pickQueue (d : Dev) (n : Nat) : Option Nat :=
  if d.qReady n 0 then some 0 else if d.qReady n 1 then some 1 else d.wfqPick n

/-! ### Policers (R713 to R715) -/

/-- A policer's bucket now, in units of 1/8000 byte: RATE Mbit/s is RATE such units per ns. -/
def Dev.bucket (d : Dev) (p k : Nat) : Nat :=
  let b := tget ({} : Bucket) d.net.buckets (16384 * p + k)
  min (d.fld SCHED_POL_CFG.BURST [p, k] * 8000) (b.level + d.fld SCHED_POL_CFG.RATE [p, k] * (d.now - b.stamp))

def Dev.setBucket (d : Dev) (p k level : Nat) : Dev :=
  { d with net := { d.net with buckets := tset {} d.net.buckets (16384 * p + k) { level := level, stamp := d.now } } }

/-- A frame of `len` bytes meets policer k of plot p: it conforms, or is excess. -/
def Dev.police (d : Dev) (p k len : Nat) : Bool × Dev :=
  let t := d.bucket p k
  if len * 8000 ≤ t then (true, (d.setBucket p k (t - len * 8000)).count .SCHED_POL_PASS [p, k] len)
  else (false, d.count .SCHED_POL_DROP [p, k])

/-- A write of SCHED_POL_CFG: it takes effect at once, and T becomes the new BURST (R715). -/
def Dev.polCfgWrite (d : Dev) (p k : Nat) (w : Wr) : Dev :=
  let d := d.regWrite .SCHED_POL_CFG [p, k] w
  if w.accepted .SCHED_POL_CFG then d.setBucket p k (d.fld SCHED_POL_CFG.BURST [p, k] * 8000) else d

/-- POLICER_CONFIG (R715). -/
def execPolicerConfig (master p k size half : Nat) (value : Word) (s : State) : Res := s.run fun _ d =>
  if p < 4 && k < 16384 then d.polCfgWrite p k ⟨master, size, half, value⟩ else d

/-! ### HBM reservations (R716 to R720, R726) -/

/-- The reservation slots in use. -/
def Dev.resvSlots (d : Dev) : List Nat := (List.range 256).filter fun r => d.flag SCHED_RESV.VALID [r]

/-- The sum of admitted RATE. -/
def Dev.resvSum (d : Dev) : Nat := (d.resvSlots.map fun r => d.fld SCHED_RESV.RATE [r]).foldl (· + ·) 0

/-- RESERVED, and DEVICE_PACE_DEADLINE.RESV (R719), follow the slots. -/
def Dev.resvSync (d : Dev) : Dev :=
  (d.setFld SCHED_RESV_STATUS.RESERVED d.resvSum).deadline DEVICE_PACE_DEADLINE.RESV (decide (d.resvSlots ≠ []))

def Dev.resvResult (d : Dev) (r : Nat) : Dev := d.setFld SCHED_RESV_CMD.RESULT r

/-- The lowest slot not in use: which slot ADMIT takes is the model's choice (assumption 11). -/
def Dev.resvFree (d : Dev) : Option Nat := (List.range 256).find? fun r => !d.flag SCHED_RESV.VALID [r]

/-- ADMIT (R718). -/
def Dev.resvAdmit (d : Dev) : Dev :=
  let cls := d.fld SCHED_RESV_CMD.CLASS
  let func := d.fld SCHED_RESV_CMD.FUNC
  let rate := d.fld SCHED_RESV_CMD.RATE
  if 4 < cls || rate = 0 || 6400 < rate || (cls ≠ 0 && func ≠ 0) then d.resvResult 3
  else if 6400 < d.resvSum + rate then d.resvResult 1
  else
    match d.resvFree with
    | none => d.resvResult 2
    | some r =>
      let d := (((d.setFld SCHED_RESV.CLASS cls [r]).setFld SCHED_RESV.FUNC func [r]).setFld SCHED_RESV.RATE rate [r])
      ((d.setFld SCHED_RESV.VALID 1 [r]).setFld SCHED_RESV_CMD.SLOT r).resvSync.resvResult 0

/-- RELEASE. -/
def Dev.resvRelease (d : Dev) : Dev :=
  let r := d.fld SCHED_RESV_CMD.SLOT
  if d.flag SCHED_RESV.VALID [r] then (d.setReg .SCHED_RESV 0 [r]).resvSync.resvResult 0 else d.resvResult 3

/-- A write of SCHED_RESV_CMD: OP nonzero starts the operation, which ends before any later command. -/
def Dev.resvCmdWrite (d : Dev) (w : Wr) : Dev :=
  let d := d.regWrite .SCHED_RESV_CMD [] w
  if w.accepted .SCHED_RESV_CMD && SCHED_RESV_CMD.OP.mask &&& w.mask ≠ 0 then
    match d.fld SCHED_RESV_CMD.OP with
    | 0 => d
    | 1 => d.resvAdmit
    | 2 => d.resvRelease
    | _ => d.resvResult 3
  else d

/-- RESV_ADMIT (R718). -/
def execResvAdmit (master cls func rate : Nat) (s : State) : Res := s.run fun _ d =>
  d.resvCmdWrite ⟨master, 8, 0, BitVec.ofNat 64 (1 + 4 * (cls % 8) + 32 * (func % 8192) + 2 ^ 18 * (rate % 8192))⟩

/-- RESV_RELEASE (R726). -/
def execResvRelease (master slot : Nat) (s : State) : Res := s.run fun _ d =>
  d.resvCmdWrite ⟨master, 8, 0, BitVec.ofNat 64 (2 + 2 ^ 32 * (slot % 256))⟩

/-! ### Telemetry (R721, R722) -/

/-- DEPTH and DELAY of a queue now. -/
def Dev.qSample (d : Dev) (n q : Nat) : Nat × Nat :=
  let es := d.net.ents.filter fun e => e.port = n && e.q = q
  let depth := (es.map fun e => cellsOf (d.frame e.fr).data).foldl (· + ·) 0
  let delay := match es with
    | [] => 0
    | e :: _ => min (d.now - e.since) (2 ^ 40 - 1)
  (depth, delay)

/-- Takes one queue's sample. -/
def Dev.sampleQueue (d : Dev) (n q : Nat) : Dev :=
  let x := d.qSample n q
  let d := (d.setFld SCHED_QTEL_LAST.DEPTH x.1 [n, q]).setFld SCHED_QTEL_LAST.DELAY x.2 [n, q]
  let d := d.setFld SCHED_QTEL_MAX.DEPTH (max (d.fld SCHED_QTEL_MAX.DEPTH [n, q]) (x.1 % 2 ^ 24)) [n, q]
  d.setFld SCHED_QTEL_MAX.DELAY (max (d.fld SCHED_QTEL_MAX.DELAY [n, q]) x.2) [n, q]

/-- PERIOD in ns as it acts. -/
def Dev.telPeriod (d : Dev) (n : Nat) : Nat := min 1000000 (max 1 (d.fld SCHED_PORT_TEL.PERIOD [n])) * 1000

/-- QUEUE_SAMPLE (R721): the next instant at which TIME_MONO is a multiple of the period and no sample has been taken. -/
def execQueueSample (n : Nat) (s : State) : Res := s.run fun _ d =>
  if d.netLane n && d.flag SCHED_PORT_TEL.EN [n] then
    let t := d.telPeriod n
    let from' := max d.now ((d.port n).sampleAt)
    d.at ((from' + t - 1) / t * t) fun d =>
      (List.range 16).foldl (fun d q => d.sampleQueue n q) (d.modPort n fun p => { p with sampleAt := d.now + 1 })
  else d

end Sys2Proof.Machine
end

