-- ==== Sys2Proof/Machine/Switch.lean ====
section
/-!
DEFINITION. The switch core: ingress accounts and PFC, output buffers, push-out and back-pressure, routes, the learning
bridge, mesh announces, and transmission (R641 to R646, R675 to R692, R707).
-/

namespace Sys2Proof.Machine

/-! ### What holds a frame (R641, R675) -/

/-- Frames being transmitted. -/
def Dev.sendingEnts (d : Dev) : List QEnt := d.net.ports.filterMap fun p =>
  match p.2.sending with
  | some (.frame e) => some e
  | _ => none

/-- Every place a frame has in an egress queue or on a wire. -/
def Dev.allEnts (d : Dev) : List QEnt := d.net.ents ++ d.sendingEnts

/-- Frames whose last holder has released them leave the buffers. -/
def Dev.gcFrames (d : Dev) : Dev :=
  let used := d.allEnts.map QEnt.fr
  { d with net := { d.net with frames := d.net.frames.filter fun f => used.contains f.1 } }

/-- Cells of the frames that a plot's output buffer holds, or its push-out store. -/
def Dev.plotCells (d : Dev) (p : Nat) (pushed : Bool) : Nat :=
  let frs := ((d.allEnts.filter fun e => e.plot = p && e.pushed = pushed).map QEnt.fr).eraseDups
  (frs.map fun i => cellsOf (d.frame i).data).foldl (· + ·) 0

/-- Free cells of a plot's output buffer. -/
def Dev.plotFree (d : Dev) (p : Nat) : Nat := d.fld SW_OB_STATUS.TOTAL [p] - d.plotCells p false

/-- A port's queued SRAM cells, and its queued frames in the push-out store (SW_PORT_STATUS). -/
def Dev.portCells (d : Dev) (n : Nat) : Nat :=
  ((d.net.ents.filter fun e => e.port = n && !e.pushed).map fun e => cellsOf (d.frame e.fr).data).foldl (· + ·) 0
def Dev.portPushed (d : Dev) (n : Nat) : Nat := (d.net.ents.filter fun e => e.port = n && e.pushed).length

/-- The ingress account of a port and priority (R641). A frame that only push-out stores hold does not count. -/
def Dev.account (d : Dev) (n i : Nat) : Nat :=
  let mine (f : Frame) : Bool := f.port = n && f.pri = i
  let inSram := (d.allEnts.filter fun e => !e.pushed).map QEnt.fr
  let fs := d.net.parse.map Prod.fst ++ d.net.dq.flatMap Prod.snd ++ d.net.trdIn.flatMap Prod.snd ++
    d.net.waits.map WaitF.frame ++ (d.net.frames.filter fun f => inSram.contains f.1).map Prod.snd
  ((fs.filter mine).map fun f => cellsOf f.data).foldl (· + ·) 0

/-! ### PFC (R642, R644, R645) -/

/-- REFRESH in ns. -/
def Dev.pfcRefresh (d : Dev) (n : Nat) : Nat := max 1 (d.fld NET_PORT_PFC.REFRESH [n]) * 100

/-- A priority's PFC frame is owed. -/
def Dev.oweP (d : Dev) (n i : Nat) : Dev := d.modPort n fun p => { p with pfcOwed := p.pfcOwed ||| 2 ^ i }

/-- One priority starts or stops pausing its partner as its account passes XOFF or falls to XON (R642). -/
def Dev.pfcTouch (d : Dev) (n i : Nat) : Dev :=
  let on := bit (d.fld NET_PORT_PFC_STATUS.PAUSING [n]) i
  let a := d.account n i
  let set (v : Nat) (d : Dev) : Dev :=
    d.setFld NET_PORT_PFC_STATUS.PAUSING (setBits (d.fld NET_PORT_PFC_STATUS.PAUSING [n]) i 1 v) [n]
  if !on && bit (d.fld NET_PORT_PFC.PFC_EN [n]) i && d.fld NET_PRI_THRESH.XOFF [n, i] < a then
    ((set 1 d).oweP n i).modPort n fun p => { p with refreshAt := d.now + d.pfcRefresh n }
  else if on && a ≤ d.fld NET_PRI_THRESH.XON [n, i] then (set 0 d).oweP n i
  else d

/-- Every priority of every port that has been up. -/
def Dev.pfcSync (d : Dev) : Dev :=
  d.net.ports.foldl (fun d p => (List.range 8).foldl (fun d i => d.pfcTouch p.1 i) d) d

/-- What follows whenever frames have moved: buffers free what nothing holds, accounts and queues are looked at. -/
def Dev.settle (d : Dev) : Dev := d.gcFrames.pfcSync.wfqSyncAll

/-- PFC_REFRESH (R642): the PFC frame of the priorities still pausing is owed again. -/
def execPfcRefresh (n : Nat) (s : State) : Res := s.run fun _ d =>
  let on := d.fld NET_PORT_PFC_STATUS.PAUSING [n]
  if d.netUp n && on ≠ 0 then
    d.at ((d.port n).refreshAt) fun d =>
      (d.modPort n fun p => { p with pfcOwed := p.pfcOwed ||| on, refreshAt := d.now + d.pfcRefresh n })
  else d

/-- A received PFC frame: the priorities of its enable vector and their quanta (R644). -/
def Dev.pfcTake (d : Dev) (n enable : Nat) (quanta : List Nat) : Dev :=
  let rate := max 1 (modeRate (d.fld NET_PORT_CTL.MODE [n]))
  let d := (List.range 8).foldl (fun d i =>
    if !bit enable i then d
    else
      let q := quanta.getD i 0
      let st := setBits (d.fld NET_PORT_PFC_STATUS.PAUSED [n]) i 1 (if q = 0 then 0 else 1)
      let d := d.setFld NET_PORT_PFC_STATUS.PAUSED st [n]
      d.modPort n fun p => { p with pauses := tset 0 p.pauses i (if q = 0 then 0 else d.now + (q * 512 + rate - 1) / rate) }) d
  d.wfqSync n

/-- PFC_RECEIVE (R644). -/
def execPfcReceive (n enable : Nat) (quanta : List Nat) (s : State) : Res := s.run fun _ d =>
  if d.netUp n then d.pfcTake n enable quanta else d

/-- PFC_PAUSE_EXPIRE (R644): a pause's quanta elapse. -/
def execPfcPauseExpire (n i : Nat) (s : State) : Res := s.run fun _ d =>
  if d.netLane n && i < 8 && bit (d.fld NET_PORT_PFC_STATUS.PAUSED [n]) i then
    d.at (tget 0 (d.port n).pauses i) fun d =>
      let d := d.setFld NET_PORT_PFC_STATUS.PAUSED (setBits (d.fld NET_PORT_PFC_STATUS.PAUSED [n]) i 1 0) [n]
      (d.modPort n fun p => { p with pauses := tset 0 p.pauses i 0 }).wfqSync n
  else d

/-- The device's address in wire order (R703). -/
def Dev.mac (d : Dev) : List Byte := beBytes 6 (d.fld SW_CTL.MAC)

/-- The PFC frame owed by a port (R642), laid out as IEEE 802.1Q gives it. -/
def Dev.pfcFrame (d : Dev) (n : Nat) : List Byte :=
  let owed := (d.port n).pfcOwed
  let on := d.fld NET_PORT_PFC_STATUS.PAUSING [n]
  let quanta (i : Nat) : Nat :=
    if bit owed i && bit on i then max 1 (d.fld NET_PORT_PFC.QUANTA [n]) else 0
  framed (slice ([0x01, 0x80, 0xC2, 0x00, 0x00, 0x01] ++ d.mac ++ [0x88, 0x08, 0x01, 0x01] ++ beBytes 2 owed ++
    (List.range 8).flatMap fun i => beBytes 2 (quanta i)) 0 60)

/-! ### Output buffers and push-out (R677 to R681) -/

/-- Plot `p` admits a frame of `cells` for those of its ports (R677). -/
def Dev.fits (d : Dev) (p : Nat) (ports : List (Nat × Nat)) (cells : Nat) : Bool :=
  cells ≤ d.plotFree p && ports.all fun e => d.portCells e.1 + cells ≤ d.fld SW_PORT_CTL.LIMIT [e.1]

/-- The candidate of R678 on port `e` for a frame of queue `q`. -/
def Dev.pushCandidate (d : Dev) (e q : Nat) : Option QEnt :=
  let started := d.sendingEnts
  let ok (x : QEnt) : Bool := x.port = e && q < x.q && !x.pushed && !x.away &&
    !started.any fun y => y.fr = x.fr && y.plot = x.plot
  (d.net.ents.filter ok).foldl (fun best x =>
    match best with
    | some y => if y.q ≤ x.q then some x else best
    | none => some x) none

/-- A plot's push-out store is enabled and has room for `cells` more. -/
def Dev.pushRoom (d : Dev) (p cells : Nat) : Bool :=
  d.flag SW_PUSH.EN [p] && (d.plotCells p true + cells) * 256 ≤ d.fld SW_PUSH.SIZE [p] * 2 ^ 30

/-- Pushes frames out until plot `p` admits the frame or no candidate remains (R678). -/
def Dev.makeRoom (p : Nat) (ports : List (Nat × Nat)) (cells : Nat) : Nat → Dev → Dev
  | 0, d => d
  | n + 1, d =>
    if d.fits p ports cells then d
    else
      let short := d.plotFree p < cells
      let cand := ports.findSome? fun e =>
        if short || d.fld SW_PORT_CTL.LIMIT [e.1] < d.portCells e.1 + cells then d.pushCandidate e.1 e.2 else none
      match cand with
      | none => d
      | some c =>
        if d.pushRoom p (cellsOf (d.frame c.fr).data) then
          let ents := d.net.ents.map fun (x : QEnt) => if x.fr = c.fr && x.plot = p then { x with pushed := true } else x
          Dev.makeRoom p ports cells n (({ d with net := { d.net with ents := ents } }).count .SW_PUSHOUT)
        else d

/-- The egress ports of a waiting frame as they stand: R690 chooses a routed frame's port anew, and a port that has left
up takes no newly forwarded frame (R681). -/
def Dev.nowPorts (d : Dev) (route : Option Nat) (w : WaitF) : List (Nat × Nat) :=
  match w.route, route with
  | some _, some n => (w.ports.take 1).map fun e => (n, e.2)
  | some _, none => []
  | none, _ => w.ports.filter fun e => d.netUp e.1

/-- Admits a frame to every plot it is bound for, if all of them do (R675, R680). -/
def Dev.enterQueue (d : Dev) (w : WaitF) (ports : List (Nat × Nat)) : Bool × Dev :=
  let cells := cellsOf w.frame.data
  let plots := (ports.map fun e => plotOfLane e.1).eraseDups
  let mine (p : Nat) : List (Nat × Nat) := ports.filter fun e => plotOfLane e.1 = p
  let d := plots.foldl (fun d p => Dev.makeRoom p (mine p) cells d.net.ents.length d) d
  if plots.all fun p => d.fits p (mine p) cells then
    let i := d.net.next
    let es := ports.map fun e =>
      ({ fr := i, port := e.1, q := e.2, plot := plotOfLane e.1, since := d.now, route := w.route } : QEnt)
    (true, { d with net := { d.net with frames := tput d.net.frames i w.frame, next := i + 1, ents := d.net.ents ++ es } })
  else (false, d)

/-! ### Routes (R689 to R691) -/

/-- The usable members of a route entry's set at byte `off`. -/
def Dev.usable (d : Dev) (e : List Byte) (off : Nat) : List Nat :=
  (List.range 4).filterMap fun j =>
    let h := leAt e (off + 2 * j) 2
    if bit h 15 && d.netLane (h % 512) && d.flag SW_PORT_STATUS.ROUTE_UP [h % 512] then some (h % 512) else none

/-- The port R690 chooses. -/
def Dev.routePort (d : Dev) (m : Mem) (k : RouteKey) : Option Nat :=
  let e := (d.tabEnt m k.table k.index).data
  if !tabValid k.table e then none
  else
    let us := if d.usable e 0 ≠ [] then d.usable e 0 else d.usable e 8
    us[k.src % max 1 us.length]?

/-- The route of a destination node, and the source's DEVICE field (R682, R690). -/
def Dev.routeOf (d : Dev) (dst src : Nat) : RouteKey :=
  let dev := bits src 6 6
  if dst / 4096 = d.fld DEVICE_PLACE.HOLDING then ⟨2, bits dst 6 6, dev⟩ else ⟨3, bits dst 12 12, dev⟩

/-- A routed frame as it leaves (R691). -/
def Dev.routedData (d : Dev) (m : Mem) (k : RouteKey) (l : List Byte) : List Byte :=
  framed (patch (bare l) 0 (slice (d.tabEnt m k.table k.index).data 16 6 ++ d.mac))

/-! ### Forwarding -/

/-- The queue a frame enters on a port (R705), or the one its classifier action names. -/
def Dev.queueFor (d : Dev) (n pri : Nat) (fixed : Option Nat) : Nat :=
  fixed.getD (bits (d.reg .SCHED_PORT_QMAP [n]).toNat (4 * pri) 4)

/-- Sends a decided frame to its egress ports, or makes it wait at its ingress (R677 to R680). -/
def Dev.forward (d : Dev) (m : Mem) (w : WaitF) : Dev :=
  let behind := d.net.waits.any fun x => x.frame.port = w.frame.port && x.frame.pri = w.frame.pri
  let hold (d : Dev) (w : WaitF) : Dev := { d with net := { d.net with waits := d.net.waits ++ [w] } }
  if behind then hold d w
  else
    let ports := d.nowPorts (w.route.bind (d.routePort m)) w
    if ports = [] then (if w.route.isSome then d.count .SW_ROUTE_DROP else d)
    else
      match d.enterQueue w ports with
      | (true, d) => d
      | (false, d) => hold (d.count .SW_WAITS) { w with frame := { w.frame with waited := true } }

/-- Routes a frame (R690, R691). -/
def Dev.forwardRouted (d : Dev) (m : Mem) (f : Frame) (k : RouteKey) (fixed : Option Nat) : Dev :=
  match d.routePort m k with
  | none => d.count .SW_ROUTE_DROP
  | some n =>
    d.forward m { frame := { f with data := d.routedData m k f.data }, ports := [(n, d.queueFor n f.pri fixed)], route := some k }

/-- Tries the first frame that waits at an ingress port and priority (R680). -/
def Dev.admitWaiting (d : Dev) (m : Mem) (n i : Nat) : Dev :=
  let mine (w : WaitF) : Bool := w.frame.port = n && w.frame.pri = i
  match d.net.waits.find? mine with
  | none => d
  | some w =>
    let drop (d : Dev) : Dev := { d with net := { d.net with waits := d.net.waits.eraseP mine } }
    let ports := d.nowPorts (w.route.bind (d.routePort m)) w
    if ports = [] then drop (if w.route.isSome then d.count .SW_ROUTE_DROP else d)
    else
      match d.enterQueue w ports with
      | (true, d) => drop d
      | (false, d) =>
        if w.frame.waited then d
        else
          let mark (x : WaitF) : WaitF := if x = w then { x with frame := { x.frame with waited := true } } else x
          ({ d with net := { d.net with waits := d.net.waits.map mark } }).count .SW_WAITS

/-- Tries to accept the moved frame at the head of an egress queue to its new plot (R692). -/
def Dev.admitMoved (d : Dev) (n q : Nat) : Dev :=
  match d.qHead n q with
  | some e =>
    if !e.away then d
    else
      let cells := cellsOf (d.frame e.fr).data
      let p := plotOfLane n
      let others (d : Dev) : Dev := { d with net := { d.net with ents := d.net.ents.filter (· ≠ e) } }
      let d' := Dev.makeRoom p [(n, q)] cells d.net.ents.length (others d)
      if d'.fits p [(n, q)] cells then
        let pushed := (d'.net.ents.filter (·.pushed)).map fun x => (x.fr, x.plot)
        let take (x : QEnt) : QEnt :=
          if x = e then { x with away := false, plot := p, pushed := false }
          else if pushed.contains (x.fr, x.plot) then { x with pushed := true } else x
        { d' with net := { d'.net with ents := d.net.ents.map take } }
      else d
  | none => d

/-- FRAME_ADMIT (R680, R692): the first frame waiting at ingress port `n` with priority `i`; where none waits, the moved
frame at the head of egress queue `i` of port `n`. -/
def execFrameAdmit (n i : Nat) (s : State) : Res := s.run fun m d =>
  if d.flt.safe then d
  else if d.net.waits.any fun w => w.frame.port = n && w.frame.pri = i then (d.admitWaiting m n i).settle
  else (d.admitMoved n i).settle

/-! ### The learning bridge (R684 to R688) -/

/-- A bridge entry's bytes. -/
def bridgeEntry (mac : List Byte) (vid port : Nat) : List Byte :=
  slice mac 0 6 ++ leBytes 2 vid ++ leBytes 2 port ++ leBytes 1 1 ++ leBytes 5 0

/-- The port and STATIC bit of a bridge entry. -/
def bridgePort (e : List Byte) : Nat := leAt e 8 2 % 512
def bridgeStatic (e : List Byte) : Bool := bit (leAt e 10 1) 1

def Dev.meshPort (d : Dev) (n : Nat) : Bool := d.flag SW_PORT_CTL.MESH [n]

/-- Places a station on a port: it inserts the entry, refreshes it, or moves it (R684); without `always`, never from one
mesh port to another (R685). -/
def Dev.place (d : Dev) (m : Mem) (mac : List Byte) (vid n : Nat) (always : Bool) : Dev :=
  let new : TabEnt := { data := bridgeEntry mac vid n, stamp := d.now }
  match d.tabFind m 1 new.data with
  | none => (d.tabInsert m 1 new).2
  | some i =>
    let e := d.tabEnt m 1 i
    if bridgePort e.data = n then d.tabPut 1 i { e with stamp := d.now }
    else if !always && d.meshPort (bridgePort e.data) && d.meshPort n then d
    else (d.tabPut 1 i { data := patch e.data 8 (leBytes 2 n), stamp := d.now }).count .SW_MOVES

/-- Learning (R684). -/
def Dev.learn (d : Dev) (m : Mem) (n : Nat) (l : List Byte) : Dev :=
  if d.flag SW_PORT_CTL.LEARN [n] && d.flag SW_BRIDGE_CTL.LEARN_EN && !bit (beAt l 6 1) 0 then
    d.place m (slice l 6 6) (frameVid l) n false
  else d

/-- The ports a bridged frame goes to (R688). -/
def Dev.bridgePorts (d : Dev) (m : Mem) (n : Nat) (l : List Byte) : List Nat :=
  let dmac := slice l 0 6
  let flood := (List.range 320).filter fun e =>
    e ≠ n && d.netUp e && d.flag SW_PORT_CTL.FLOOD [e] && !(d.meshPort n && d.meshPort e)
  if dmac = List.replicate 6 0xFF then flood
  else
    match d.tabFind m 1 (dmac ++ leBytes 2 (frameVid l)) with
    | none => flood
    | some i =>
      let e := bridgePort (d.tabEnt m 1 i).data
      if e = n then [] else if d.netUp e then [e] else flood

/-- Removes bridge entries that are not static. -/
def Dev.bridgeRemove (d : Dev) (p : TabEnt → Bool) : Dev :=
  let tb := (tget [] d.net.tables 1).map fun x =>
    if tabValid 1 x.2.data && !bridgeStatic x.2.data && p x.2 then (x.1, { x.2 with data := tabClear 1 x.2.data }) else x
  { d with net := { d.net with tables := tset [] d.net.tables 1 tb } }

/-- BRIDGE_AGE (R687): the earliest entry's age runs out, and every entry as old is removed. -/
def execBridgeAge (s : State) : Res := s.run fun _ d =>
  let age := d.fld SW_BRIDGE_CTL.AGE * 1000000000
  let live := (tget [] d.net.tables 1).filter fun x => tabValid 1 x.2.data && !bridgeStatic x.2.data
  match live with
  | [] => d
  | x :: t =>
    if age = 0 then d
    else
      let first := t.foldl (fun a y => min a y.2.stamp) x.2.stamp
      d.at (first + age) fun d => d.bridgeRemove fun e => e.stamp + age ≤ d.now

/-- The mesh announce (R686). -/
def Dev.announceFrame (d : Dev) : List Byte :=
  let node := if d.flag DEVICE_PLACE.LOCK then d.node else 0
  framed (slice (List.replicate 6 0xFF ++ d.mac ++ [0x88, 0xB5, 0x54, 0x47, 0x48, 0x41, 0x01] ++ beBytes 3 node) 0 60)

/-- An untagged frame with the announce's EtherType, TYPE and VERSION. -/
def isAnnounce (l : List Byte) : Bool := slice l 12 7 = [0x88, 0xB5, 0x54, 0x47, 0x48, 0x41, 0x01]

/-- A received announce (R685, R686). -/
def Dev.announceTake (d : Dev) (m : Mem) (n : Nat) (smac : List Byte) (node : Nat) : Dev :=
  if d.meshPort n then
    ((d.place m smac 0 n true).setFld SW_PORT_PEER.PEER_NODE node [n]).setFld SW_PORT_STATUS.PEER_SEEN 1 [n]
  else d

/-- MESH_ANNOUNCE_RX (R686): an announce from `smac` naming `node` arrives on port `n`. -/
def execMeshAnnounceRx (n : Nat) (smac : List Byte) (node : Nat) (s : State) : Res := s.run fun m d =>
  if d.netUp n then d.announceTake m n smac node else d

/-- MESH_ANNOUNCE (R686): 1 ms after the last, an announce is owed on an up mesh port. -/
def execMeshAnnounce (n : Nat) (s : State) : Res := s.run fun _ d =>
  if d.netUp n && d.meshPort n then
    d.at ((d.port n).announceAt) fun d =>
      d.modPort n fun p => { p with announce := true, announceAt := d.now + 1000000 }
  else d

/-! ### Transmission (R707) -/

/-- A frame carries a PTP event message, which holds `n` bytes (R63). -/
def ptpEvent (f : Frame) (n : Nat) : Bool :=
  let o := recEnd f.record
  bit (recFlags0 f.record) 7 && beAt f.data o 1 % 16 < 4 && o + n + 4 ≤ f.data.length

/-- A frame with bytes of its PTP message replaced from an even offset on, and its UDP checksum corrected (R63). -/
def ptpPatch (f : Frame) (off : Nat) (new : List Byte) : List Byte :=
  let o := recEnd f.record
  let b := bare f.data
  let inv := (slice b (o + off) new.length).map fun x => ~~~x
  let sum := beAt b (o - 2) 2
  let fixed := 65535 - onesSum (beBytes 2 (65535 - sum) ++ (inv ++ new))
  let b := patch b (o + off) new
  framed (if bit (recFlags0 f.record) 4 && sum ≠ 0 then patch b (o - 2) (beBytes 2 (if fixed = 0 then 65535 else fixed))
    else b)

/-- A transparent clock's one step: residence time is added to the correctionField, in 2^-16 ns. -/
def ptpResidence (f : Frame) (now : Nat) : List Byte :=
  if ptpEvent f 16 then
    ptpPatch f 8 (beBytes 8 ((beAt f.data (recEnd f.record + 8) 8 + (now - f.time) * 65536) % 2 ^ 64))
  else f.data

/-- An ordinary clock's one step: the origin stamp is the time of day. -/
def ptpOrigin (f : Frame) (sec ns : Nat) : List Byte :=
  if ptpEvent f 44 then ptpPatch f 34 (beBytes 6 sec ++ beBytes 4 ns) else f.data

/-- The bytes of a frame that port `n` starts to send: a PTP event message is stamped as its clock's kind has it, where two-step
changes nothing (R63, assumption 147). -/
def Dev.ptpForward (d : Dev) (n : Nat) (f : Frame) : List Byte :=
  match Config.ptpAct n d.now with
  | 0 => ptpResidence f d.now
  | 1 => ptpOrigin f d.stamp.1 d.stamp.2.1
  | _ => f.data

/-- The stamp of a PTP event message at port `n`. -/
def Dev.ptpStamp (d : Dev) (n : Nat) (f : Frame) (sent : Bool) : Dev :=
  if ptpEvent f 16 then d.emit (.ptpStamp n sent d.stamp.1 d.stamp.2.1) else d

/-- Port `n` starts the head frame of queue `q`. -/
def Dev.startFrame (d : Dev) (n q : Nat) : Dev :=
  match d.qHead n q with
  | none => d
  | some e =>
    let f := d.frame e.fr
    let d := { d with net := { d.net with ents := d.net.ents.erase e } }
    let d := ((d.ptpStamp n f true).modPort n fun p => { p with sending := some (.frame e) }).emit (.frameTx n (d.ptpForward n f))
    if q < 2 then d
    else
      let d := d.setReg .SCHED_PORT_VT (tget 0 (d.port n).startTag q) [n]
      if d.qReady n q then d.wfqFinish n q (tget 0 (d.port n).finishTag q) else d.wfqSync n

/-- FRAME_TRANSMIT (R707): a port that can start a frame starts the one R707 chooses. -/
def execFrameTransmit (n : Nat) (s : State) : Res := s.run fun _ d =>
  let p := d.port n
  if !d.netUp n || p.sending.isSome then d
  else if p.pfcOwed ≠ 0 then
    let d := d.emit (.frameTx n (d.pfcFrame n))
    d.modPort n fun p => { p with pfcOwed := 0, sending := some .control }
  else if p.announce then
    let d := d.emit (.frameTx n d.announceFrame)
    d.modPort n fun p => { p with announce := false, sending := some .control }
  else
    match d.pickQueue n with
    | some q => d.startFrame n q
    | none => d

/-- FRAME_TX_DONE (R675): the transmission ends; what nothing else holds is freed, and accounts fall. -/
def execFrameTxDone (n : Nat) (s : State) : Res := s.run fun _ d =>
  if (d.port n).sending.isSome then (d.modPort n fun p => { p with sending := none }).settle else d

/-! ### Links (R637, R640, R681, R687, R689, R692) -/

/-- Moves one routed frame that a port which left up had queued (R692). -/
def Dev.reroute (d : Dev) (m : Mem) (e : QEnt) (k : RouteKey) : Dev :=
  let rest := d.net.ents.erase e
  match d.routePort m k with
  | none => ({ d with net := { d.net with ents := rest } }).count .SW_REROUTE_DROP
  | some n =>
    let away := plotOfLane n ≠ e.plot
    let e' := { e with port := n, away := away }
    let d := ({ d with net := { d.net with ents := rest ++ [e'] } }).count .SW_REROUTE
    if away then
      let d := if d.qHead n e.q = some e' then d.admitMoved n e.q else d
      if d.net.ents.contains e' then d.count .SW_WAITS else d
    else d

/-- A port leaves up (R687, R689, R692). The frame it was transmitting is lost. -/
def Dev.leaveUp (d : Dev) (m : Mem) (n : Nat) : Dev :=
  let d := (d.setFld NET_PORT_STATUS.DOWN_EV 1 [n]).setFld SW_PORT_STATUS.ROUTE_UP 0 [n]
  let d := d.modPort n fun p => { p with sending := none, announce := false }
  let d := d.bridgeRemove fun e => bridgePort e.data = n
  let moves (d : Dev) : Dev := (d.net.ents.filter fun e => e.port = n && e.route.isSome).foldl (fun d e =>
    match e.route with
    | some k => d.reroute m e k
    | none => d) d
  if d.meshPort n then d.recovering fun d => moves (d.report { code := 0x0109, kind := 6, unit := n }) else moves d

/-- A port's link state becomes `st`. -/
def Dev.linkState (d : Dev) (m : Mem) (n st : Nat) : Dev :=
  let was := d.fld NET_PORT_STATUS.STATE [n]
  let d := d.setFld NET_PORT_STATUS.STATE st [n]
  (if was = 2 && st ≠ 2 then d.leaveUp m n else d).settle

/-- A port starts on lane `n`: a network lane with a MODE, which runs. -/
def Dev.portRuns (d : Dev) (n : Nat) : Bool :=
  d.netLane n && d.fld NET_PORT_CTL.MODE [n] ≠ 0 && d.flag NET_PORT_CTL.RUN [n] && !d.flt.safe && d.stripOn (n / 64)

/-- A running port whose link is down starts training, once its strip can (R32, R672). -/
def Dev.trainPort (d : Dev) (n : Nat) : Dev :=
  if d.portRuns n && d.fld NET_PORT_STATUS.STATE [n] = 0 then d.setFld NET_PORT_STATUS.STATE 1 [n] else d

/-- The ports of strip `s` start training. -/
def Dev.trainPorts (d : Dev) (s : Nat) : Dev := (List.range 64).foldl (fun d i => d.trainPort (64 * s + i)) d

/-- NET_LINK_UP (R637, R686, R689): a running port's link comes up. -/
def execNetLinkUp (n : Nat) (s : State) : Res := s.run fun m d =>
  if d.portRuns n && d.fld NET_PORT_STATUS.STATE [n] ≠ 2 then
    let d := (d.setFld NET_PORT_STATUS.UP_EV 1 [n]).setFld SW_PORT_STATUS.PEER_SEEN 0 [n]
    let d := d.modPort n fun p => { p with upAt := d.now, announce := d.meshPort n, announceAt := d.now + 1000000 }
    let d := if d.fld SW_ROUTE_CTL.HOLDOFF = 0 then d.setFld SW_PORT_STATUS.ROUTE_UP 1 [n] else d
    d.linkState m n 2
  else d

/-- ROUTE_HOLDOFF_EXPIRE (R689). -/
def execRouteHoldoffExpire (n : Nat) (s : State) : Res := s.run fun _ d =>
  if d.netUp n && !d.flag SW_PORT_STATUS.ROUTE_UP [n] then
    d.at ((d.port n).upAt + d.fld SW_ROUTE_CTL.HOLDOFF * 1000000) fun d => d.setFld SW_PORT_STATUS.ROUTE_UP 1 [n]
  else d

/-- Discards the frames queued for a port (R681). -/
def Dev.flushPort (d : Dev) (n : Nat) : Dev :=
  let k := (d.net.ents.filter fun e => e.port = n).length
  let d := { d with net := { d.net with ents := d.net.ents.filter fun e => e.port ≠ n } }
  (d.count .SW_FLUSHED [] k).settle

/-- A write of SW_PORT_CTL: FLUSH discards what is queued and clears (R703). -/
def Dev.swPortCtlWrite (d : Dev) (n : Nat) (w : Wr) : Dev :=
  let d := d.regWrite .SW_PORT_CTL [n] w
  if d.flag SW_PORT_CTL.FLUSH [n] then (d.setFld SW_PORT_CTL.FLUSH 0 [n]).flushPort n else d

/-- PORT_FLUSH (R703): a write of SW_PORT_CTL. -/
def execPortFlush (master n size half : Nat) (value : Word) (s : State) : Res := s.run fun _ d =>
  if n < 320 then d.swPortCtlWrite n ⟨master, size, half, value⟩ else d

/-- SW_CLR (R703): the eight counters become 0. -/
def execSwClr (master size : Nat) (value : Word) (s : State) : Res := s.run fun _ d =>
  d.clrWrite .SW_CLR [] ⟨master, size, 0, value⟩

/-- A write of SW_PUSH: EN is the run control, IDLE its stopped indication (R679); the store must lie in HBM. -/
def Dev.swPushWrite (d : Dev) (p : Nat) (w : Wr) : Dev :=
  let idle := !d.flag SW_PUSH.EN [p] && d.plotCells p true = 0
  let old := d.reg .SW_PUSH [p]
  let cand := w.over old
  let fits := inHbm (SW_PUSH.BASE.get cand * 2 ^ 30) (SW_PUSH.SIZE.get cand * 2 ^ 30)
  d.regWrite .SW_PUSH [p] w idle fun f _ => fits || (f ≠ SW_PUSH.BASE && f ≠ SW_PUSH.SIZE)

/-- What the SWITCH registers show of the core. -/
def Dev.switchView (d : Dev) (r : RegName) (i : List Nat) : Option Word :=
  match r, i with
  | .SW_OB_STATUS, [p] => some (SW_OB_STATUS.FREE.set (d.reg r i) (d.plotFree p))
  | .SW_PUSH, [p] => some (SW_PUSH.IDLE.set (d.reg r i) (b2n (!d.flag SW_PUSH.EN [p] && d.plotCells p true = 0)))
  | .SW_PORT_STATUS, [n] =>
    some (SW_PORT_STATUS.PUSHED.set (SW_PORT_STATUS.CELLS.set (d.reg r i) (d.portCells n)) (d.portPushed n))
  | _, _ => none

end Sys2Proof.Machine
end

