-- ==== Sys2Proof/Machine/Net.lean ====
section
/-!
DEFINITION. Network ports: reception, the parse stage, the classifier, delivery queues, and the NET, PARSE, CLS and DQ
registers (R635 to R674, R682, R683).
-/

namespace Sys2Proof.Machine

/-! ### The classifier (R661 to R667) -/

def rowInit : ClsRow := {}

def rowKey (p b r : Nat) : Nat := (2 * p + b) * 16384 + r

def Dev.clsRow (d : Dev) (p b r : Nat) : ClsRow := tget rowInit d.net.rows (rowKey p b r)
def Dev.setClsRow (d : Dev) (p b r : Nat) (x : ClsRow) : Dev :=
  { d with net := { d.net with rows := tset rowInit d.net.rows (rowKey p b r) x } }

/-- The row matches a record (R662). -/
def ClsRow.hit (x : ClsRow) (rec' : Nat) : Bool := x.valid && !x.bad && (rec' ^^^ x.key) &&& x.mask = 0

/-- The lowest-numbered matching row of plot `p`'s bank in use. -/
def Dev.clsFind (d : Dev) (p : Nat) (record : List Byte) : Option (Nat × ClsRow) :=
  let b := d.fld CLS_STATUS.BANK [p]
  let v := leNat (slice record 0 64)
  (d.net.rows.find? fun x => rowKey p b 0 ≤ x.1 && x.1 < rowKey p b 16384 && x.2.hit v).map fun x =>
    (x.1 - rowKey p b 0, x.2)

/-- Rows whose stored bits a lookup found to fail their check match nothing until written again (R666). -/
def Dev.clsFlaw (d : Dev) (p : Nat) (rows : List Nat) : Dev :=
  let b := d.fld CLS_STATUS.BANK [p]
  rows.foldl (fun d r =>
    let x := d.clsRow p b r
    if x.valid && !x.bad then
      ((d.setClsRow p b r { x with bad := true }).count .CLS_PARITY [p]).report
        { code := 0x0307, kind := 4, unit := p, detail := b * 16384 + r }
    else d) d

/-- The outcome of a lookup: KIND, DQ, the queue the action names, the policer it names (R662, R663). -/
structure Action where
  kind : Nat
  dq : Nat
  queue : Option Nat := none
  policer : Option Nat := none
  deriving DecidableEq, Repr

/-- A row's ACTION. -/
def actionOf (a : Nat) : Action :=
  { kind := bits a 0 2, dq := bits a 32 8,
    queue := if bit a 15 then some (bits a 8 4) else none,
    policer := if bit a 31 then some (bits a 16 14) else none }

/-- ACTION's reserved bits (R663). -/
def actionReserved (a : Nat) : Bool :=
  bits a 2 6 ≠ 0 || bits a 12 3 ≠ 0 || bit a 30 || bits a 40 88 ≠ 0

/-- Classifies a record: the action, with HITS or CLS_MISSES counted. -/
def Dev.classify (d : Dev) (p : Nat) (record : List Byte) : Action × Dev :=
  match d.clsFind p record with
  | some (r, x) => (actionOf x.action, d.setClsRow p (d.fld CLS_STATUS.BANK [p]) r { x with hits := x.hits + 1 })
  | none => ({ kind := d.fld CLS_CTL.MISS [p], dq := d.fld CLS_CTL.MISS_DQ [p] }, d.count .CLS_MISSES [p])

/-- A write within a rule row, `off` bytes into it (R661, R664, R665); rows of the bank not in use are written freely,
since no lookup is ever left running under it. -/
def Dev.clsRowWrite (d : Dev) (p b r off : Nat) (w : Wr) : Dev :=
  let addr := 0x40010000000 + p * 0x1000000 + 0x800000 + b * 0x400000 + r * 256 + off
  let x := d.clsRow p b r
  let live := x.valid && b = d.fld CLS_STATUS.BANK [p]
  let field (base lo : Nat) : Nat := leNat (patch (leBytes 64 base) lo (leBytes 8 (w.over (BitVec.ofNat 64 (leAt (leBytes 64 base) lo 8))).toNat))
  let off := off / 8 * 8
  if off < 144 then
    if live then d.blame 0x0206 w.master addr (addr - 0x40000000000)
    else
      let x := if off < 64 then { x with key := field x.key off } else if off < 128 then { x with mask := field x.mask (off - 64) }
        else { x with action := field x.action (off - 128) }
      d.setClsRow p b r { x with bad := false }
  else if off = 248 && (w.mask.getLsbD 63) then
    if bit w.placed.toNat 63 then
      if actionReserved x.action then d.blame 0x0204 w.master addr (addr - 0x40000000000)
      else d.setClsRow p b r { x with valid := true, hits := 0, bad := false }
    else d.setClsRow p b r { x with valid := false }
  else d

/-- What a rule row reads (R661). -/
def Dev.clsRowRead (d : Dev) (p b r off : Nat) : Word :=
  let x := d.clsRow p b r
  let off := off / 8 * 8
  if off < 64 then BitVec.ofNat 64 (leAt (leBytes 64 x.key) off 8)
  else if off < 128 then BitVec.ofNat 64 (leAt (leBytes 64 x.mask) (off - 64) 8)
  else if off < 144 then BitVec.ofNat 64 (leAt (leBytes 16 x.action) (off - 128) 8)
  else if off = 240 then x.hits
  else if off = 248 then BitVec.ofNat 64 (b2n x.valid * 2 ^ 63)
  else 0

/-- RULE_VALID_WRITE (R664): master `m` writes CTL of row `r` of bank `b` of plot `p`. -/
def execRuleValidWrite (master p b r : Nat) (valid : Bool) (s : State) : Res := s.run fun _ d =>
  if p < 4 && b < 2 && r < 16384 then
    if d.plots ≤ p then d else d.clsRowWrite p b r 248 ⟨master, 8, 0, BitVec.ofNat 64 (b2n valid * 2 ^ 63)⟩
  else d

/-- A write of CLS_SWAP or PARSE_SWAP: GO makes the other bank the bank in use. No lookup or cell is left running under
the old one, so OLD_BUSY reads 0 (R659, R665). -/
def Dev.swapWrite (d : Dev) (r : RegName) (bank : Fld) (p : Nat) (w : Wr) : Dev :=
  if !w.accepted r then d.blame 0x0202 w.master (r.addr [p]) (r.off [p])
  else if bit w.value.toNat 0 then d.setFld bank (1 - d.fld bank [p]) [p] else d

/-- CLS_SWAP (R665). -/
def execClsSwap (master p size : Nat) (value : Word) (s : State) : Res := s.run fun _ d =>
  if p < 4 then d.pageWrite .CLS_SWAP [p] size fun d => d.swapWrite .CLS_SWAP CLS_STATUS.BANK p ⟨master, size, 0, value⟩ else d

/-- PARSE_SWAP (R659); the T256 ignores it (R673). -/
def execParseSwap (master p size : Nat) (value : Word) (s : State) : Res := s.run fun _ d =>
  if p < 4 && d.part = .t512 then d.swapWrite .PARSE_SWAP PARSE_STATUS.BANK p ⟨master, size, 0, value⟩ else d

/-! ### The forwarding decision (R682, R683) -/

/-- Gives a frame to a plot's TRD engine. -/
def Dev.toTrd (d : Dev) (p : Nat) (f : Frame) : Dev :=
  { d with net := { d.net with trdIn := tmod [] d.net.trdIn p (· ++ [f]) } }

/-- Gives a frame to a delivery queue, where it waits. -/
def Dev.toDq (d : Dev) (p q : Nat) (f : Frame) : Dev :=
  { d with net := { d.net with dq := tmod [] d.net.dq (256 * p + q) (· ++ [f]) } }

/-- Where a SWITCH frame goes: its node's route or this plot's engine when steps 2 to 4 of R682 decide it. -/
def Dev.trdTarget (d : Dev) (f : Frame) : Option (Option RouteKey) :=
  if d.flag DEVICE_PLACE.LOCK && bit (recFlags1 f.record) 0 && slice f.data 0 6 = d.mac then
    let h := recEnd f.record
    let dst := beAt f.data (h + 9) 3
    some (if dst = d.node then none else some (d.routeOf dst (beAt f.data (h + 5) 3)))
  else none

/-- Carries out an action on a frame (R682). -/
def Dev.dispose (d : Dev) (m : Mem) (f : Frame) (a : Action) : Dev :=
  let p := plotOfLane f.port
  if a.kind = 1 then d.toDq p a.dq f
  else if a.kind = 2 then d.toTrd p f
  else if a.kind = 3 then d
  else
    match d.trdTarget f with
    | some none => d.toTrd p f
    | some (some k) => d.forwardRouted m f k a.queue
    | none =>
      let d := d.learn m f.port f.data
      if slice f.data 0 6 = d.mac then d.count .SW_LOCAL_DROP
      else
        let ports := (d.bridgePorts m f.port f.data).map fun n => (n, d.queueFor n f.pri a.queue)
        if ports = [] then d else d.forward m { frame := f, ports := ports }

/-- A frame leaves the parse stage: classified, policed and decided. -/
def Dev.process (d : Dev) (m : Mem) (f : Frame) : Dev :=
  let p := plotOfLane f.port
  let (a, d) := d.classify p f.record
  match a.policer with
  | none => d.dispose m f a
  | some k =>
    match d.police p k f.data.length with
    | (true, d) => d.dispose m f a
    | (false, d) => d

/-- Frames leave the parse stage in the order of their ports, each once it has been parsed (R657). -/
def Dev.leaveParse (m : Mem) : Nat → Dev → Dev
  | 0, d => d
  | n + 1, d =>
    let firstOf (x : Frame × Bool) : Bool := (d.net.parse.find? fun y => y.1.port = x.1.port) = some x
    match d.net.parse.find? fun x => x.2 && firstOf x with
    | some x => Dev.leaveParse m n (({ d with net := { d.net with parse := d.net.parse.erase x } }).process m x.1)
    | none => d

def Dev.drainParse (d : Dev) (m : Mem) : Dev := Dev.leaveParse m d.net.parse.length d

/-! ### Reception (R643, R645, R647 to R653) -/

/-- The ports to which a frame may be cutting through when it ends (R647). -/
def Dev.cutPorts (d : Dev) (m : Mem) (f : Frame) (want : List Nat) : List Nat :=
  let (a, _) := d.classify (plotOfLane f.port) f.record
  let dests : List Nat :=
    if a.policer.isSome || a.kind ≠ 0 then []
    else
      match d.trdTarget f with
      | some none => []
      | some (some k) => (d.routePort m k).toList
      | none => if slice f.data 0 6 = d.mac then [] else d.bridgePorts m f.port f.data
  let rate (n : Nat) : Nat := modeRate (d.fld NET_PORT_CTL.MODE [n])
  dests.filter fun e => want.contains e && d.flag NET_PORT_CTL.CUT [e] && rate e ≤ rate f.port

/-- A frame that ends badly (R648): where it was being cut through, transmission ends in error there; else it is
discarded and counted. -/
def Dev.badFrame (d : Dev) (m : Mem) (f : Frame) (want : List Nat) (r : RegName) : Dev :=
  let cut := if f.data.length < 64 || d.flag NET_PORT_CTL.PARSE [f.port] then [] else d.cutPorts m f want
  if cut = [] then d.count r [f.port]
  else
    let d := (d.classify (plotOfLane f.port) f.record).2
    cut.foldl (fun d e => (d.count .NET_TX_ABORT [e]).emit (.frameAbort e)) d

/-- MAX_FRAME as it acts (R672). -/
def Dev.maxFrame (d : Dev) (n : Nat) : Nat := max 1518 (d.fld NET_PORT_CTL.MAX_FRAME [n])

/-- A frame on its way in: its priority and fixed parse. -/
def Dev.arriving (d : Dev) (n : Nat) (l : List Byte) : Frame :=
  let p := parseFrame (d.fld NET_PARSE_CFG.VXLAN_PORT) (d.fld NET_PARSE_CFG.TRD_PORT) l
  { port := n, pri := framePri (d.fld NET_PORT_CTL.DEF_PCP [n]) l, data := l, record := p.record n, time := d.now }

/-- A MAC control frame (R645). -/
def Dev.macControl (d : Dev) (n : Nat) (l : List Byte) : Dev :=
  if beAt l 14 2 = 0x0101 then d.pfcTake n (beAt l 16 2) ((List.range 8).map fun i => beAt l (18 + 2 * i) 2)
  else d.count .NET_RX_MACCTL [n]

/-- A frame received whole. -/
def Dev.goodFrame (d : Dev) (m : Mem) (n : Nat) (l : List Byte) : Dev :=
  let d := (d.count .NET_RX_FRAMES [n]).count .NET_RX_BYTES [n] l.length
  if beAt l 12 2 = 0x8808 then d.macControl n l
  else if isAnnounce l then d.announceTake m n (slice l 6 6) (beAt l 19 3)
  else
    let p := plotOfLane n
    let cells := d.flag NET_PORT_CTL.PARSE [n] && d.flag PARSE_CTL.EN [p]
    let f := d.arriving n l
    let d := d.ptpStamp n f false
    let d := { d with net := { d.net with parse := d.net.parse ++ [(f, !cells)] } }
    d.drainParse m

/-- A frame ends at port `n`: `whole` where neither a code error nor the link's loss cut it short. `cut` names ports at
which its transmission had begun. The table of R648 is taken in the order in which the bytes meet its cases. -/
def Dev.receive (d : Dev) (m : Mem) (n : Nat) (l : List Byte) (whole : Bool) (cut : List Nat) : Dev :=
  let f := d.arriving n l
  let max' := d.maxFrame n
  let control := beAt l 12 2 = 0x8808 || isAnnounce l
  if l.length < 64 && whole then d.badFrame m f [] .NET_RX_RUNT
  else if !control && d.fld NET_PRI_THRESH.LIMIT [n, f.pri] < d.account n f.pri + cellsOf (l.take max') then
    (d.badFrame m f cut .NET_RX_OVERRUN).report { code := 0x0504, kind := 6, unit := n, detail := f.pri }
  else if max' < l.length then d.badFrame m f cut .NET_RX_OVERSIZE
  else if !whole || !fcsOk l then d.badFrame m f cut .NET_RX_BAD
  else d.goodFrame m n l

/-- RX_FRAME (R649): port `n` receives a frame, DMAC through FCS. `flaws` names classifier rows of the bank in use, and
`lost` entries of the hub tables, that its lookups find to fail their checks (R666, R700). -/
def execRxFrame (n : Nat) (l : List Byte) (whole : Bool) (cut flaws : List Nat) (lost : List (Nat × Nat)) (s : State) :
    Res := s.run fun m d =>
  if d.netUp n then
    let d := d.clsFlaw (plotOfLane n) flaws
    let d := lost.foldl (fun d e => if 1 ≤ e.1 && e.1 ≤ 5 && e.2 < tabEntries e.1 then d.tabParity m e.1 e.2 else d) d
    (d.receive m n l whole cut).settle
  else d

/-! ### Programmed parse (R653 to R660) -/

/-- The next cell in service after the one last used. -/
def Dev.nextCell (d : Dev) (p : Nat) : Option Nat :=
  let last := tget 63 d.net.lastCell p
  ((List.range 64).map fun i => (last + 1 + i) % 64).find? fun c => bit (d.fld PARSE_CELLS.CELLS [p]) c

/-- The oldest frame of a plot that waits for a cell, with the frames before and after it. -/
def splitWaiting (p : Nat) : List (Frame × Bool) → Option (List (Frame × Bool) × Frame × List (Frame × Bool))
  | [] => none
  | x :: t =>
    if !x.2 && plotOfLane x.1.port = p then some ([], x.1, t)
    else (splitWaiting p t).map fun r => (x :: r.1, r.2)

/-- PARSE_CELL_RUN (R653 to R656): a cell of plot `p` takes the oldest waiting frame and runs the program on it. -/
def execParseCellRun (p : Nat) (s : State) : Res := s.run fun m d =>
  if d.flt.safe || !d.flag PARSE_CTL.EN [p] || d.gatedBlock p 3 then d
  else
    match d.nextCell p, splitWaiting p d.net.parse with
    | some c, some (before, f, after) =>
      let r := d.cellResult m p f
      let d := { d with net := { d.net with
        lastCell := tset 63 d.net.lastCell p c
        parse := before ++ ({ f with record := r.1 }, true) :: after } }
      let d := d.count .PARSE_FRAMES [p]
      let d := if r.2 then d.count .PARSE_FAULTS [p] else d
      (d.drainParse m).settle
    | _, _ => d

/-- Frames that wait for a cell while EN is 0 take the record of R650 (R658). -/
def Dev.parseRelease (d : Dev) (m : Mem) (p : Nat) : Dev :=
  let go (x : Frame × Bool) : Frame × Bool := if plotOfLane x.1.port = p then (x.1, true) else x
  (({ d with net := { d.net with parse := d.net.parse.map go } }).drainParse m).settle

/-- The plot's SRAM holds a whole range (R673, R674). -/
def inPlotSram (p a n : Nat) : Bool := 0x20000000000 + p * 0x8000000 ≤ a && a + n ≤ 0x20000000000 + p * 0x8000000 + 0x6000000

/-- A write of PARSE_CTL: EN is the run control (R658, R674). -/
def Dev.parseCtlWrite (d : Dev) (m : Mem) (p : Nat) (w : Wr) : Dev :=
  let d := d.regWrite .PARSE_CTL [p] w (d.flag PARSE_STATUS.STOPPED [p])
  let on := d.flag PARSE_CTL.EN [p]
  let d := d.setFld PARSE_STATUS.STOPPED (b2n (!on)) [p]
  if on then d else d.parseRelease m p

/-- Writes of PARSE_TABLE and PARSE_CODE: both must lie in the plot's SRAM, and another area is refused as a reserved encoding
(DESIGN CHOICE, assumption 129). -/
def Dev.parseTableWrite (d : Dev) (p : Nat) (w : Wr) : Dev :=
  let cand := w.over (d.reg .PARSE_TABLE [p])
  let a := PARSE_TABLE.BASE.get cand * 4096
  let n := PARSE_TABLE.SIZE.get cand * 4096
  d.regWrite .PARSE_TABLE [p] w (d.flag PARSE_STATUS.STOPPED [p]) fun _ _ => inPlotSram p a n
def Dev.parseCodeWrite (d : Dev) (p b : Nat) (w : Wr) : Dev :=
  d.regWrite .PARSE_CODE [p, b] w true fun f v => inPlotSram p (f.get v * 4096) 4096

/-! ### Delivery queues (R668, R669) -/

/-- Slots of a delivery queue. -/
def Dev.dqSize (d : Dev) (p q : Nat) : Nat := 2 ^ min 16 (max 1 (d.fld DQ_BASE.LOG2SIZE [p, q]))

/-- The bytes of a slot (R668). -/
def dqSlot (f : Frame) (n : Nat) : List Byte :=
  (slice f.record 0 64 ++ leBytes 2 f.data.length ++ leBytes 1 (b2n (n < 128 + f.data.length)) ++ leBytes 5 0 ++
    leBytes 8 f.time ++ leBytes 48 0 ++ f.data).take n

/-- DQ_FRAME_DELIVER (R668, R669): the oldest frame that waits for queue `q` of plot `p`. It also waits while the mailbox
of the queue's strand is full (assumption 124). -/
def execDqFrameDeliver (p q : Nat) (s : State) : Res := s.run fun _ d =>
  match tget [] d.net.dq (256 * p + q) with
  | [] => d
  | f :: t =>
    let size := d.dqSize p q
    let tail := d.fld DQ_TAIL.INDEX [p, q]
    let next := (tail + 1) % size
    let box := epKey 0 (d.fld DQ_CTL.STRAND [p, q])
    if d.flt.safe || !d.flag DQ_CTL.RUN [p, q] || next = d.fld DQ_HEAD.INDEX [p, q] % size ||
        16 ≤ (d.queue box).length then d
    else
      let n := 2 ^ (d.fld DQ_CTL.SLOTLOG [p, q] + 8)
      let d := d.wrMem 0xFFFF (d.fld DQ_BASE.BASE [p, q] * 4096 + n * tail) (dqSlot f n)
      let d := d.setFld DQ_TAIL.INDEX next [p, q]
      let msg : Msg := { data := BitVec.ofNat 512 (q + p * 256 + next * 2 ^ 32) }
      let d := d.post box msg
      ({ d with net := { d.net with dq := tset [] d.net.dq (256 * p + q) t } }).settle

/-- A write of DQ_CTL: RUN is the run control; a restart after a change of DQ_BASE sets HEAD and TAIL to 0 (R674). -/
def Dev.dqCtlWrite (d : Dev) (p q : Nat) (w : Wr) : Dev :=
  let was := d.flag DQ_CTL.RUN [p, q]
  let d := d.regWrite .DQ_CTL [p, q] w (d.flag DQ_CTL.STOPPED [p, q])
  let on := d.flag DQ_CTL.RUN [p, q]
  let d := d.setFld DQ_CTL.STOPPED (b2n (!on)) [p, q]
  if on && !was && tget false d.net.dqChanged (256 * p + q) then
    let d := (d.setFld DQ_HEAD.INDEX 0 [p, q]).setFld DQ_TAIL.INDEX 0 [p, q]
    { d with net := { d.net with dqChanged := tset false d.net.dqChanged (256 * p + q) false } }
  else d

/-- A write of DQ_BASE: the ring must lie in a memory region, and another is refused as a reserved encoding (DESIGN CHOICE,
assumption 129). -/
def Dev.dqBaseWrite (d : Dev) (p q : Nat) (w : Wr) : Dev :=
  let old := d.reg .DQ_BASE [p, q]
  let cand := w.over old
  let n := 2 ^ DQ_BASE.LOG2SIZE.get cand * 2 ^ (d.fld DQ_CTL.SLOTLOG [p, q] + 8)
  let d' := d.regWrite .DQ_BASE [p, q] w (d.flag DQ_CTL.STOPPED [p, q]) fun f v => d.inMemory (f.get v * 4096) n
  if d'.reg .DQ_BASE [p, q] = old then d'
  else { d' with net := { d'.net with dqChanged := tset false d'.net.dqChanged (256 * p + q) true } }

/-! ### Ports (R635 to R640, R672) -/

/-- Another lane of the port's width has a MODE of its own or is not stopped (R638). -/
def Dev.lanesBusy (d : Dev) (n w : Nat) : Bool :=
  (List.range w).any fun j => j ≠ 0 && (d.fld NET_PORT_CTL.MODE [n + j] ≠ 0 || !d.flag NET_PORT_CTL.STOPPED [n + j])

/-- The port stops (R640): the frame it transmits is completed, one it is partway through receiving ends badly, and its
link goes down. -/
def Dev.portStop (d : Dev) (m : Mem) (n : Nat) (part : List Byte) (cut : List Nat) : Dev :=
  let d := if part = [] || !d.netUp n then d else d.receive m n part false cut
  let d := d.modPort n fun p => { p with sending := none }
  (d.linkState m n 5).setFld NET_PORT_CTL.STOPPED 1 [n]

/-- A write of NET_PORT_CTL. PARSE 1 is reserved on the T256; a MODE that R638 refuses names the writer. -/
def Dev.netPortCtlWrite (d : Dev) (m : Mem) (n : Nat) (w : Wr) (part : List Byte := []) (cut : List Nat := []) : Dev :=
  if !d.netLane n then d
  else
    let was := d.flag NET_PORT_CTL.RUN [n]
    let stopped := d.flag NET_PORT_CTL.STOPPED [n]
    let mode := d.fld NET_PORT_CTL.MODE [n]
    let cand := NET_PORT_CTL.MODE.get (w.over (d.reg .NET_PORT_CTL [n]))
    let wd := modeWidth cand
    let refused := stopped && cand ≠ mode && cand ≤ 5 && (n % wd ≠ 0 || d.lanesBusy n wd)
    let d := d.regWrite .NET_PORT_CTL [n] w stopped fun f v => f ≠ NET_PORT_CTL.PARSE || d.part = .t512 || f.get v = 0
    let d := if refused && w.accepted .NET_PORT_CTL then
        (d.setFld NET_PORT_CTL.MODE mode [n]).refuse206 .NET_PORT_CTL [n] w else d
    let on := d.flag NET_PORT_CTL.RUN [n]
    if was && !on then d.portStop m n part cut
    else if on && !was then ((d.setFld NET_PORT_CTL.STOPPED 0 [n]).setFld NET_PORT_STATUS.STATE 0 [n]).trainPort n
    else d

/-- PORT_STOP (R640): a write of NET_PORT_CTL; `part` is what has arrived of a frame that the port is receiving when the
write stops it. -/
def execPortStop (master n size half : Nat) (value : Word) (part : List Byte) (cut : List Nat) (s : State) : Res :=
  s.run fun m d => d.netPortCtlWrite m n ⟨master, size, half, value⟩ part cut

/-- NET_LINK_DOWN (R640, R648, R692): the link of port `n` leaves up for STATE `st`: 0 down, 1 training, 3 local fault,
4 remote fault. A frame partway in ends badly. -/
def execNetLinkDown (n st : Nat) (part : List Byte) (cut : List Nat) (s : State) : Res := s.run fun m d =>
  if d.portRuns n && (st = 0 || st = 1 || st = 3 || st = 4) then
    let d := if part = [] || !d.netUp n then d else d.receive m n part false cut
    d.linkState m n st
  else d

/-- A write of NET_PRI_THRESH: only while the port is stopped, and only in the order XON, XOFF, LIMIT (R646, R672). -/
def Dev.priThreshWrite (d : Dev) (n i : Nat) (w : Wr) : Dev :=
  if !d.netLane n then d
  else
    let cand := w.over (d.reg .NET_PRI_THRESH [n, i])
    let ok := NET_PRI_THRESH.XON.get cand ≤ NET_PRI_THRESH.XOFF.get cand &&
      NET_PRI_THRESH.XOFF.get cand ≤ NET_PRI_THRESH.LIMIT.get cand
    if d.flag NET_PORT_CTL.STOPPED [n] && !ok then
      d.blame 0x0204 w.master (RegName.NET_PRI_THRESH.addr [n, i]) (RegName.NET_PRI_THRESH.off [n, i])
    else d.regWrite .NET_PRI_THRESH [n, i] w (d.flag NET_PORT_CTL.STOPPED [n])

end Sys2Proof.Machine
end

