-- ==== Sys2Proof/Machine/TrdSend.lean ====
section
/-!
DEFINITION. Reliable datagram transport, the sending side: frames and headers, flows, commands, acknowledgements, timers
and peers lost (R727 to R744, R753, R754).
-/

namespace Sys2Proof.Machine

/-! ### Frames (R727 to R731) -/

/-- A flow's name (R733): the first four key bytes of its SWC or PET entry as a number. -/
def flowNum (node splot dplot cls : Nat) : Nat := node % 2 ^ 24 + splot % 4 * 2 ^ 24 + dplot % 4 * 2 ^ 26 + cls % 2 * 2 ^ 28
def flowNode (k : Nat) : Nat := bits k 0 24
def flowSplot (k : Nat) : Nat := bits k 24 2
def flowDplot (k : Nat) : Nat := bits k 26 2
def flowClass (k : Nat) : Nat := bits k 28 1
def flowKey (k : Nat) : List Byte := leBytes 8 k

/-- The flow that carries answers to a flow's packets: plots exchanged, same CLASS (R747). -/
def flowBack (k : Nat) : Nat := flowNum (flowNode k) (flowDplot k) (flowSplot k) (flowClass k)

/-- A TRD header's fields (R731). -/
structure TrdHead where
  typ : Nat
  sync : Bool := false
  first : Bool := false
  last : Bool := false
  cls : Nat := 0
  err : Bool := false
  splot : Nat := 0
  dplot : Nat := 0
  code : Nat := 0
  src : Nat := 0
  dst : Nat := 0
  inc : Nat := 0
  payLen : Nat := 0
  psn : Nat := 0
  apsn : Nat := 0
  key : Nat := 0
  msgLen : Nat := 0
  addr : Nat := 0
  deriving DecidableEq, Repr

/-- The 40 bytes of a header. -/
def TrdHead.bytes (h : TrdHead) : List Byte :=
  leBytes 1 (16 + h.typ) ++
  leBytes 1 (b2n h.sync * 128 + b2n h.first * 64 + b2n h.last * 32 + h.cls * 16 + b2n h.err * 8) ++
  leBytes 1 (h.splot * 64 + h.dplot * 16) ++ leBytes 1 h.code ++ beBytes 4 h.src ++ beBytes 4 h.dst ++ beBytes 2 h.inc ++
  beBytes 2 h.payLen ++ beBytes 4 h.psn ++ beBytes 4 h.apsn ++ beBytes 4 h.key ++ beBytes 4 h.msgLen ++ beBytes 8 h.addr

/-- The header in bytes. -/
def trdHead (b : List Byte) : TrdHead :=
  let f := beAt b 1 1
  let p := beAt b 2 1
  { typ := beAt b 0 1 % 16, sync := bit f 7, first := bit f 6, last := bit f 5, cls := bits f 4 1, err := bit f 3,
    splot := bits p 6 2, dplot := bits p 4 2, code := beAt b 3 1, src := beAt b 5 3, dst := beAt b 9 3, inc := beAt b 12 2,
    payLen := beAt b 14 2, psn := beAt b 17 3, apsn := beAt b 21 3, key := beAt b 24 4, msgLen := beAt b 28 4,
    addr := beAt b 32 8 }

/-- The UDP checksum of a datagram over a pseudo-header of the addresses and length (RFC 768 and RFC 8200). -/
def udpSum (src dst udp : List Byte) : Nat :=
  let s := 65535 - onesSum (src ++ (dst ++ (beBytes 4 udp.length ++ (beBytes 4 17 ++ udp))))
  if s = 0 then 65535 else s

/-- A device's address in the family it sends. -/
def Dev.trdIp (d : Dev) (v6 : Bool) (node : Nat) : List Byte :=
  if v6 then beBytes 8 (d.reg .TRD_PREFIX6).toNat ++ beBytes 8 node
  else leBytes 1 (d.fld TRD_ADDR.PREFIX4) ++ beBytes 3 node

/-- A TRD frame (R728). The FCS and both addresses of Ethernet are set as it is routed (R691). -/
def Dev.trdFrame (d : Dev) (h : TrdHead) (payload : List Byte) (pcp : Nat) : List Byte :=
  let v6 := d.flag TRD_ADDR.IPV6
  let body := h.bytes ++ payload
  let trd := body ++ beBytes 4 (crc32c body).toNat
  let ports := beBytes 2 (d.fld TRD_ADDR.SPORT) ++ beBytes 2 (d.fld NET_PARSE_CFG.TRD_PORT) ++ beBytes 2 (8 + trd.length)
  let src := d.trdIp v6 d.node
  let dst := d.trdIp v6 h.dst
  let udp := ports ++ (if v6 then beBytes 2 (udpSum src dst (ports ++ (beBytes 2 0 ++ trd))) else beBytes 2 0) ++ trd
  let ip :=
    if v6 then beBytes 4 (6 * 2 ^ 28 + 32 * pcp * 2 ^ 20) ++ beBytes 2 udp.length ++ [17, 64] ++ src ++ dst
    else
      let b := [0x45] ++ leBytes 1 (32 * pcp) ++ beBytes 2 (20 + udp.length) ++ [0, 0, 0x40, 0, 64, 17, 0, 0] ++ src ++ dst
      patch b 10 (beBytes 2 (65535 - onesSum b))
  List.replicate 12 0 ++ ([0x81, 0x00] ++ beBytes 2 (pcp * 8192 + d.fld TRD_CTL.VID) ++
    (if v6 then [0x86, 0xDD] else [0x08, 0x00]) ++ (ip ++ (udp ++ List.replicate 4 0)))

/-- Hands a packet of plot `p`'s engine to the switch core: class 1, ACK and NAK carry CTL_PCP (R730). While LOCK is 0 none is
transmitted, and one owed then is lost (R21, assumption 148). -/
def Dev.trdEmit (d : Dev) (m : Mem) (p : Nat) (h : TrdHead) (payload : List Byte) : Dev :=
  if !d.flag DEVICE_PLACE.LOCK then d
  else
    let pcp := if h.cls = 1 || 8 ≤ h.typ then d.fld TRD_CTL.CTL_PCP else d.fld TRD_CTL.DATA_PCP
    d.forwardRouted m { port := 512 + p, pri := pcp, data := d.trdFrame h payload pcp, time := d.now }
      (d.routeOf h.dst d.node) none

/-! ### Deadline work (R47) -/

/-- A TRD packet is outstanding, or an acknowledgement is owed. -/
def Dev.trdBusy (d : Dev) : Bool :=
  ((tget [] d.net.tables 5).any fun e => d.tabPinned 5 e.2) ||
  ((tget [] d.net.tables 4).any fun e => tabValid 4 e.2.data && psn (leAt e.2.data 16 3 + 1) ≠ leAt e.2.data 12 3)

/-- A TRD packet has been sent or has arrived. -/
def Dev.trdActive (d : Dev) : Dev :=
  ({ d with pace := { d.pace with lastTrd := d.now } }).deadline DEVICE_PACE_DEADLINE.TRD true

/-- TRD_QUIET_EXPIRE (R47): 10 ms after the last packet arrived, with nothing outstanding. -/
def execTrdQuietExpire (s : State) : Res := s.run fun _ d =>
  if d.flag DEVICE_PACE_DEADLINE.TRD && !d.trdBusy then
    d.at (d.pace.lastTrd + 10000000) fun d => d.deadline DEVICE_PACE_DEADLINE.TRD false
  else d

/-! ### SWC entries (R734, R735, R740) -/

def flowInit : Flow := {}
def Dev.flow (d : Dev) (k : Nat) : Flow := tget flowInit d.trd.flows k
def Dev.setFlow (d : Dev) (k : Nat) (f : Flow) : Dev :=
  { d with trd := { d.trd with flows := tset flowInit d.trd.flows k f } }
def Dev.modFlow (d : Dev) (k : Nat) (g : Flow → Flow) : Dev := d.setFlow k (g (d.flow k))

/-- The index of a flow's entry in the SWC. -/
def Dev.swcFind (d : Dev) (m : Mem) (k : Nat) : Option Nat := d.tabFind m 5 (flowKey k)

/-- A field of a flow's SWC entry, and its replacement. -/
def Dev.swcGet (d : Dev) (m : Mem) (i off n : Nat) : Nat := leAt (d.tabEnt m 5 i).data off n
def Dev.swcPut (d : Dev) (m : Mem) (i off n v : Nat) : Dev :=
  let e := d.tabEnt m 5 i
  d.tabPut 5 i { e with data := patch e.data off (leBytes n v) }

/-- An entry is used, and so is no longer the least recently used (R693). -/
def Dev.swcUse (d : Dev) (m : Mem) (i : Nat) : Dev := d.tabPut 5 i { d.tabEnt m 5 i with stamp := d.now }

/-- RTO and RNR_DELAY in ns, WINDOW, and MAXPAY in bytes, as they act (R758). -/
def Dev.rto (d : Dev) : Nat := max 1 (d.fld TRD_TIMER.RTO) * 1000
def Dev.rnrDelay (d : Dev) : Nat := max 1 (d.fld TRD_TIMER.RNR_DELAY) * 1000
def Dev.trdWindow (d : Dev) : Nat := min 4096 (max 1 (d.fld TRD_CTL.WINDOW))
def Dev.maxPay (d : Dev) : Nat := min 32 (max 1 (d.fld TRD_CTL.MAXPAY)) * 256

/-- The flow's entry, inserted with the next incarnation if it has none (R735); `none` while every way of its set is
pinned. -/
def Dev.swcOpen (d : Dev) (m : Mem) (k : Nat) : Option Nat × Dev :=
  match d.swcFind m k with
  | some i => (some i, d.swcUse m i)
  | none =>
    let p := flowSplot k
    let inc := (tget 0 d.trd.inc p + 1) % 65536
    let e := slice (flowKey k ++ leBytes 2 inc) 0 63 ++ [0x80]
    match d.tabInsert m 5 { data := e, stamp := d.now } with
    | (.placed i, d) | (.replaced i, d) | (.evicted i _, d) =>
      (some i, { d with trd := { d.trd with inc := tset 0 d.trd.inc p inc } })
    | (.full, d) => (none, d)

/-! ### Sending packets (R739, R740) -/

/-- The payload of a packet as memory holds it now. -/
def Dev.pktData (d : Dev) (m : Mem) (x : TrdPkt) : List Byte :=
  match x.src with
  | some a => d.ldBytes m a x.len
  | none => x.data

/-- Transmits one packet of flow `k` under its entry `i`. -/
def Dev.sendPkt (d : Dev) (m : Mem) (k i : Nat) (x : TrdPkt) : Dev :=
  let pay := d.pktData m x
  let h : TrdHead := {
    typ := x.typ, sync := decide (d.swcGet m i 22 1 % 2 = 0), first := x.first, last := x.last, cls := flowClass k
    err := x.err, splot := flowSplot k, dplot := flowDplot k, code := if x.err then 4 else 0, src := d.node
    dst := flowNode k, inc := d.swcGet m i 8 2, payLen := pay.length, psn := x.psn, key := x.key, msgLen := x.msgLen
    addr := x.addr }
  let d := match x.src with
    | some a => d.noteAbsent (tagTrd (flowSplot k)) a x.len
    | none => d
  d.trdActive.trdEmit m (flowSplot k) h pay

/-- A command's packets have become stale: it produces no more output (R359, R744). -/
def Dev.flowPurge (d : Dev) (k : Nat) : Dev :=
  let f := d.flow k
  let gone := f.cmds.filter fun c => !c.dead && d.stale c.msg.workid
  if gone = [] then d
  else
    let nums := gone.map TrdCmd.num
    let mine (x : TrdPkt) : Bool := match x.cmd with | some n => nums.contains n | none => false
    let cmds := f.cmds.map fun (c : TrdCmd) => if nums.contains c.num then
        { c with dead := true, acked := c.acked || !f.sent.any mine } else c
    (d.setFlow k { f with todo := f.todo.filter fun x => !mine x, cmds := cmds }).count .TENANT_STALE_DISCARDS [] gone.length

/-- Sends new packets while the window allows (R740). -/
def Dev.pumpLoop (m : Mem) (k i : Nat) : Nat → Dev → Dev
  | 0, d => d
  | n + 1, d =>
    let f := d.flow k
    let next := d.swcGet m i 12 3
    let una := d.swcGet m i 16 3
    match f.todo with
    | [] => d
    | x :: t =>
      if d.trdWindow ≤ psn (next + 2 ^ 24 - una) then d
      else
        let x := { x with psn := next }
        let note (c : TrdCmd) : TrdCmd := if some c.num = x.cmd && x.last then { c with lastPsn := some next } else c
        let d := d.setFlow k { f with todo := t, sent := f.sent ++ [x], cmds := f.cmds.map note }
        let d := (d.swcPut m i 12 4 (psn (next + 1))).count .TRD_TX_PKTS
        let d := if d.swcGet m i 24 8 = 0 then d.swcPut m i 24 8 (d.now + d.rto) else d
        Dev.pumpLoop m k i n (d.sendPkt m k i x)

/-- Sends what a flow has to send. -/
def Dev.pump (d : Dev) (m : Mem) (k : Nat) : Dev :=
  let d := d.flowPurge k
  let f := d.flow k
  if f.todo = [] || f.rnrAt.isSome then d
  else
    match d.swcOpen m k with
    | (some i, d) => Dev.pumpLoop m k i f.todo.length d
    | (none, d) => d

/-- Retransmits every packet from UNA on (R741, R742). -/
def Dev.resend (d : Dev) (m : Mem) (k i : Nat) : Dev :=
  let d := (d.flow k).sent.foldl (fun d x => (d.sendPkt m k i x).count .TRD_RETX) d
  d.swcPut m i 24 8 (if (d.flow k).sent = [] then 0 else d.now + d.rto)

/-! ### Commands (R738, R743) -/

/-- The fields of a send command. -/
structure SendCmd where
  op : Nat
  cls : Nat
  ctag : Nat
  dst : Nat
  dplot : Nat
  key : Nat
  len : Nat
  loc : Nat
  remote : Nat
  deriving DecidableEq, Repr

def sendCmd (b : List Byte) : SendCmd :=
  { op := leAt b 0 1, cls := leAt b 1 1 % 2, ctag := leAt b 2 2, dst := leAt b 4 3, dplot := leAt b 7 1 % 4, key := leAt b 8 4,
    len := leAt b 12 4, loc := leAt b 16 8, remote := leAt b 24 8 }

/-- The flow of a command put on plot `p`'s endpoint. -/
def SendCmd.flow (c : SendCmd) (p : Nat) : Nat := flowNum c.dst p c.dplot c.cls

def trdOps : List Nat := [1, 2, 3]

/-- A DONE message (R743), unless the command is stale. -/
def Dev.doneMsg (d : Dev) (p : Nat) (x : Msg) (result info : Nat) : Dev :=
  if d.stale x.workid then d.discardStale
  else
    let b := leBytes 1 1 ++ leBytes 1 result ++ slice x.bytes 2 2 ++ leBytes 4 info
    d.post (epKey 0xB p) { workid := x.workid, sender := x.sender, data := bytesWide b }

/-- RESULT of a command's tests in this order: FALLOW, STOPPED, UNPLACED, BAD_CMD, BAD_ADDR, MEMFAULT (assumption 15). -/
def Dev.sendTest (d : Dev) (p : Nat) (x : Msg) : Nat :=
  let b := x.bytes
  let c := sendCmd b
  let max' := if c.op = 3 then 131072 else 16777216
  if d.gatedBlock p 4 then 10
  else if !d.flag TRD_CTL.EN then 6
  else if !d.flag DEVICE_PLACE.LOCK then 5
  else if !trdOps.contains c.op || leAt b 1 1 ≠ c.cls || leAt b 7 1 ≠ c.dplot || leAt b 32 32 ≠ 0 || c.len = 0 || max' < c.len ||
      (c.op = 3 && (63 < c.key || c.remote ≠ 0)) || d.plots ≤ c.dplot || c.dst = d.node then 7
  else if !d.inMemory c.loc c.len then 8
  else if c.op ≠ 2 && d.poisoned c.loc c.len then 9
  else 0

/-- The packets of a command (R739). -/
def SendCmd.pkts (c : SendCmd) (num maxPay : Nat) : List TrdPkt :=
  if c.op = 2 then
    [{ typ := 2, first := true, last := true, key := c.key, msgLen := c.len, addr := c.remote, cmd := some num }]
  else
    let n := (c.len + maxPay - 1) / maxPay
    (List.range n).map fun j =>
      { typ := if c.op = 1 then 1 else 4, first := decide (j = 0), last := decide (j + 1 = n), key := c.key, msgLen := c.len,
        addr := (if c.op = 1 then c.remote else 0) + j * maxPay, off := j * maxPay, src := some (c.loc + j * maxPay),
        len := min maxPay (c.len - j * maxPay), cmd := some num }

/-- Writes DONE for the commands at the front of a flow that have ended, in order (R739). -/
def Dev.endCmds (k : Nat) : Nat → Dev → Dev
  | 0, d => d
  | n + 1, d =>
    let f := d.flow k
    match f.cmds with
    | [] => d
    | c :: t =>
      let x := sendCmd c.msg.bytes
      let done := c.acked && (c.dead || c.fail.isSome || x.op ≠ 2 || c.arrived)
      if !done then d
      else
        let d := d.setFlow k { f with cmds := t }
        let d := if c.dead then d
          else match c.fail with
            | some (r, info) => d.doneMsg c.plot c.msg r info
            | none => d.doneMsg c.plot c.msg 0 x.len
        Dev.endCmds k n d

/-- A command that its flow's end cuts off ends with `result`, unless it had ended before. -/
def TrdCmd.endAs (c : TrdCmd) (result : Nat) : TrdCmd :=
  if c.acked && c.fail.isNone && ((sendCmd c.msg.bytes).op ≠ 2 || c.arrived) then c
  else { c with acked := true, fail := some (c.fail.getD (result, c.bytes)) }

def Dev.endFlow (d : Dev) (k : Nat) : Dev := Dev.endCmds k (d.flow k).cmds.length d

/-- Starts a command of plot `p` on its flow, which has an entry or can have one. -/
def Dev.startCmd (d : Dev) (m : Mem) (p : Nat) (x : Msg) : Dev :=
  let c := sendCmd x.bytes
  let k := c.flow p
  let r := d.sendTest p x
  let num := d.trd.next
  if r = 9 then
    let d := d.report { code := 0x0306, kind := 5, unit := p * 256 + 4 * 64, master := tagTrd p, addr := c.loc }
    (d.modFlow k fun f => { f with cmds := f.cmds ++ [{ num := num, plot := p, msg := x, acked := true, fail := some (9, 0) }] }).endFlow k
  else if r = 8 then
    (d.modFlow k fun f => { f with cmds := f.cmds ++ [{ num := num, plot := p, msg := x, acked := true, fail := some (8, 0) }] }).endFlow k
  else if r ≠ 0 then d.doneMsg p x r 0
  else
    let d := { d with trd := { d.trd with next := num + 1 } }
    (d.modFlow k fun f => { f with cmds := f.cmds ++ [{ num := num, plot := p, msg := x }]
                                   todo := f.todo ++ c.pkts num d.maxPay }).pump m k

/-- The flow can take a command now: it has an entry, or its set has a way that is not pinned. -/
def Dev.swcRoom (d : Dev) (m : Mem) (k : Nat) : Bool :=
  (d.swcFind m k).isSome ||
    (List.range 8).any fun w => !d.tabPinned 5 (d.tabEnt m 5 (tabSet 5 (flowKey k) * 8 + w))

/-- Takes a command off plot `p`'s send endpoint (R739, R753): it starts, or joins the plot's wait list. -/
def Dev.trdTake (d : Dev) (m : Mem) (p op : Nat) : Dev :=
  let ep := epKey 0xA p
  if d.flt.safe then d
  else
    match d.takeCmd ep trdOps op with
    | .none => d
    | .stale => (d.pop ep).discardStale
    | .unknown x => (d.pop ep).doneMsg p x 7 0
    | .cmd x =>
      let k := (sendCmd x.bytes).flow p
      let wait := d.queue (epKey 0xE p)
      let behind := wait.any fun y => (sendCmd y.bytes).flow p = k
      let d := d.pop ep
      if behind then d.post (epKey 0xE p) x
      else if d.sendTest p x = 0 && !d.swcRoom m k then (d.post (epKey 0xE p) x).count .TRD_SWC_WAITS
      else (d.startCmd m p x).settle

/-- TRD_WRITE (R738): plot `p`'s engine takes a WRITE. -/
def execTrdWrite (p : Nat) (s : State) : Res := s.run fun m d => if p < 4 then d.trdTake m p 1 else d

/-- TRD_READ (R738). -/
def execTrdRead (p : Nat) (s : State) : Res := s.run fun m d => if p < 4 then d.trdTake m p 2 else d

/-- TRD_SEND (R738). -/
def execTrdSend (p : Nat) (s : State) : Res := s.run fun m d => if p < 4 then d.trdTake m p 3 else d

/-- The first waiting command that can start, with those before and after it; a command never passes an earlier one of
its flow. -/
def pickWaiting (ok : Msg → Bool) (flow : Msg → Nat) : List Nat → List Msg → Option (List Msg × Msg × List Msg)
  | _, [] => none
  | seen, x :: t =>
    if ok x && !seen.contains (flow x) then some ([], x, t)
    else (pickWaiting ok flow (flow x :: seen) t).map fun r => (x :: r.1, r.2)

/-- SWC_WAIT_RESUME (R754): the oldest waiting command of plot `p` whose set has come to have an entry not pinned. -/
def execSwcWaitResume (p : Nat) (s : State) : Res := s.run fun m d =>
  let ok (x : Msg) : Bool := d.stale x.workid || d.sendTest p x ≠ 0 || d.swcRoom m ((sendCmd x.bytes).flow p)
  if d.flt.safe then d
  else
    match pickWaiting ok (fun x => (sendCmd x.bytes).flow p) [] (d.queue (epKey 0xE p)) with
    | some (before, x, after) =>
      let d := d.setQueue (epKey 0xE p) (before ++ after)
      if d.stale x.workid then d.discardStale else (d.startCmd m p x).settle
    | none =>
      -- Read responses that found no way of their set free (R747) go on as commands do.
      ((d.trd.flows.filter fun e => flowSplot e.1 = p && e.2.todo ≠ []).foldl (fun d e => d.pump m e.1) d).settle

/-! ### Acknowledgements (R742) -/

/-- A failure of the command that holds PSN `a`, if none came before. -/
def Flow.failAt (f : Flow) (a result : Nat) : Flow :=
  match f.sent.find? fun x => x.psn = a with
  | some x =>
    let mark (c : TrdCmd) : TrdCmd := if some c.num = x.cmd && c.fail.isNone then { c with fail := some (result, x.off) } else c
    { f with cmds := f.cmds.map mark }
  | none => f

/-- Packets up to PSN `a` are acknowledged: commands gain the bytes performed, and end with their last packet. -/
def Flow.ackTo (f : Flow) (a una : Nat) : Flow :=
  let n := psn (a + 1 + 2 ^ 24 - una)
  let gone := f.sent.take n
  let upd (c : TrdCmd) : TrdCmd :=
    let mine := gone.filter fun x => x.cmd = some c.num
    { c with bytes := c.bytes + (mine.map TrdPkt.len).foldl (· + ·) 0, acked := c.acked || mine.any (·.last) }
  let f := { f with sent := f.sent.drop n, cmds := f.cmds.map upd }
  -- A stale command ends once nothing of it is outstanding (R744).
  let idle (c : TrdCmd) : TrdCmd := if c.dead && !f.sent.any (fun x => x.cmd = some c.num) then { c with acked := true } else c
  { f with cmds := f.cmds.map idle }

/-- Moves UNA to APSN + 1 (R742). -/
def Dev.ackMove (d : Dev) (m : Mem) (k i a : Nat) : Dev :=
  let una := d.swcGet m i 16 3
  let d := d.modFlow k fun f => f.ackTo a una
  let d := ((d.swcPut m i 16 4 (psn (a + 1))).swcPut m i 20 2 0).swcPut m i 22 1 1
  d.swcPut m i 24 8 (if d.swcGet m i 12 3 = psn (a + 1) then 0 else d.now + d.rto)

/-- What a NAK's CODE makes the sender do (R742). -/
def Dev.nakAct (d : Dev) (m : Mem) (k i code : Nat) : Dev :=
  match code with
  | 1 => d.resend m k i
  | 2 => (d.swcPut m i 22 1 0).resend m k i
  | 5 => (d.swcPut m i 24 8 0).modFlow k fun f => { f with rnrAt := some (d.now + d.rnrDelay) }
  | _ => d

/-- An ACK, `code` 0, or a NAK arrives (R742). -/
def Dev.ackTake (d : Dev) (m : Mem) (h : TrdHead) (code : Nat) : Dev :=
  let k := flowNum h.src h.dplot h.splot h.cls
  match d.swcFind m k with
  | none => d.count .TRD_STALE_ACK
  | some i =>
    let una := d.swcGet m i 16 3
    let next := d.swcGet m i 12 3
    let live := d.swcGet m i 8 2 = h.inc
    let within := psn (h.apsn + 2 ^ 24 - una) < psn (next + 2 ^ 24 - una)
    let edge := (code = 2 || code = 5) && psn (h.apsn + 1) = una
    let fresh := code = 2 && una = 0 && d.swcGet m i 22 1 % 2 = 0
    if !live || 6 < code || !(within || edge || fresh) then d.count .TRD_STALE_ACK
    else
      let d := (if within then
          let d := if code = 3 || code = 4 || code = 6 then
              d.modFlow k fun f => f.failAt h.apsn (if code = 3 then 1 else if code = 4 then 2 else 3) else d
          d.ackMove m k i h.apsn
        else d)
      ((d.nakAct m k i code).endFlow k).pump m k

/-! ### Timers (R741, R742) -/

/-- RNR_DELAY_EXPIRE (R742): the wait of a flow ends, and it retransmits. -/
def execRnrDelayExpire (node splot dplot cls : Nat) (s : State) : Res := s.run fun m d =>
  let k := flowNum node splot dplot cls
  match (d.flow k).rnrAt, d.swcFind m k with
  | some t, some i =>
    if d.flt.safe then d
    else d.at t fun d => (((d.modFlow k fun f => { f with rnrAt := none }).resend m k i).pump m k).settle
  | _, _ => d

/-- The flow is lost (R741): every command ends PEER_LOST and the entry is removed. Rows being written to that node have
failed, with their outcome not known, and firmware places them anew (R422). -/
def Dev.peerLost (d : Dev) (m : Mem) (k i : Nat) (alts : List Place) : Dev :=
  let f := d.flow k
  let lose (c : TrdCmd) : TrdCmd := c.endAs 4
  let d := ((d.setFlow k { f with sent := [], todo := [], rnrAt := none, cmds := f.cmds.map lose }).endFlow k).tabDrop m 5 i
  let node := flowNode k
  let d := d.report { code := 0x0505, kind := 13, unit := node, node := node }
  ((d.rowsOn fun p => p.1 = node).zipIdx).foldl (fun d e => d.rowFail e.1 false alts[e.2]?) d

/-- RETX_TIMEOUT (R741): a flow's retransmit timer expires. `alts` are the placements firmware chooses for the rows that
were being written to a peer that is thereby lost. -/
def execRetxTimeout (node splot dplot cls : Nat) (alts : List (Nat × Nat × Nat)) (s : State) : Res := s.run fun m d =>
  let k := flowNum node splot dplot cls
  match d.swcFind m k with
  | none => d
  | some i =>
    let t := d.swcGet m i 24 8
    if t = 0 || d.flt.safe then d
    else d.at t fun d =>
      let tries := d.swcGet m i 20 2 + 1
      let d := d.swcPut m i 20 2 tries
      (if tries ≤ d.fld TRD_TIMER.RETRIES then d.resend m k i else d.peerLost m k i alts).settle

/-- Work of plot `p`'s engine ends FALLOW as its gate completes (R743, R830). Packets performed stay performed. -/
def Dev.trdFallow (d : Dev) (m : Mem) (p : Nat) : Dev :=
  let waiting := d.queue (epKey 0xA p) ++ d.queue (epKey 0xE p)
  let d := ((d.setQueue (epKey 0xA p) []).setQueue (epKey 0xE p) [])
  let d := (d.trd.flows.filter fun e => flowSplot e.1 = p).foldl (fun d e =>
    let ended := e.2.cmds.map fun (c : TrdCmd) => c.endAs 10
    let d := (d.setFlow e.1 { e.2 with sent := [], todo := [], rnrAt := none, cmds := ended }).endFlow e.1
    match d.swcFind m e.1 with
    | some i => d.tabDrop m 5 i
    | none => d) d
  (waiting.foldl (fun d x => d.doneMsg p x 10 0) d).settle

/-- TRD_CLR (R758): the twelve counters become 0. -/
def execTrdClr (master size : Nat) (value : Word) (s : State) : Res := s.run fun _ d =>
  d.clrWrite .TRD_CLR [] ⟨master, size, 0, value⟩

end Sys2Proof.Machine
end

