-- ==== Sys2Proof/Machine/TrdRecv.lean ====
section
/-!
DEFINITION. Reliable datagram transport, the receiving side: checks, the peer expectation table, reach keys and their
events, reads, receive rings, acknowledgements, and the TRD registers (R729, R745 to R758).
-/

namespace Sys2Proof.Machine

/-! ### A frame's checks (R729) -/

/-- The datagram of a frame: its UDP header and what it carries. -/
def trdUdp (f : Frame) : List Byte :=
  let o := recEnd f.record - 8
  slice f.data o (beAt f.data (o + 4) 2)

/-- The UDP checksum passes: computed over IPv6, and over IPv4 where it is not 0. -/
def trdSumOk (f : Frame) : Bool :=
  let v6 := bit (recFlags0 f.record) 3
  let udp := trdUdp f
  let n := if v6 then 16 else 4
  let sum := beAt udp 6 2
  if sum = 0 then !v6 else udpSum (slice f.record 24 n) (slice f.record 40 n) (patch udp 6 [0, 0]) = sum

/-- The checks of R729 on a frame, in its order. -/
def Dev.trdFrameOk (d : Dev) (f : Frame) : Bool :=
  let udp := trdUdp f
  let b := udp.drop 8
  let h := trdHead b
  let n := b.length - 44
  52 ≤ udp.length && recEnd f.record - 8 + udp.length + 4 ≤ f.data.length && trdSumOk f &&
    (crc32c (b.take (b.length - 4))).toNat = beAt b (b.length - 4) 4 && beAt b 0 1 / 16 = 1 &&
    [1, 2, 3, 4, 8, 9].contains h.typ && n = h.payLen && h.dplot < d.plots

/-- The header and payload of a frame. -/
def trdParts (f : Frame) : TrdHead × List Byte :=
  let b := (trdUdp f).drop 8
  (trdHead b, slice b 40 (b.length - 44))

/-! ### PET entries (R734, R736, R745) -/

def Dev.petGet (d : Dev) (m : Mem) (i off n : Nat) : Nat := leAt (d.tabEnt m 4 i).data off n
def Dev.petPut (d : Dev) (m : Mem) (i off n v : Nat) : Dev :=
  let e := d.tabEnt m 4 i
  d.tabPut 4 i { e with data := patch e.data off (leBytes n v) }

/-- PET_AGE in ns. -/
def Dev.petAge (d : Dev) : Nat := max 1 (d.fld TRD_TIMER.PET_AGE) * 1000000

/-- The entry of a flow, unless it has aged (R736). -/
def Dev.petFind (d : Dev) (m : Mem) (k : Nat) : Option Nat :=
  match d.tabFind m 4 (flowKey k) with
  | none => none
  | some i => if leAt (d.tabEnt m 4 i).data 24 8 + d.petAge < d.now && !d.tabPinned 4 (d.tabEnt m 4 i) then none else some i

/-- A sequenced packet of the flow has arrived and been accepted, or was a duplicate: its entry stays pinned for PET_HOLD. -/
def Dev.petTouch (d : Dev) (m : Mem) (i : Nat) : Dev := d.tabPut 4 i { d.tabEnt m 4 i with stamp := d.now }

/-- Sends an ACK, `code` 0, or a NAK for flow `k`. -/
def Dev.sendAck (d : Dev) (m : Mem) (k inc code apsn : Nat) : Dev :=
  let h : TrdHead := {
    typ := if code = 0 then 8 else 9, cls := flowClass k, splot := flowDplot k, dplot := flowSplot k, code := code
    src := d.node, dst := flowNode k, inc := inc, apsn := psn apsn }
  d.trdEmit m (flowDplot k) h []

/-- Acknowledges what entry `i` has accepted: ACKED becomes EPSN - 1 (R746). -/
def Dev.petAck (d : Dev) (m : Mem) (k i code : Nat) : Dev :=
  let a := psn (d.petGet m i 12 3 + 2 ^ 24 - 1)
  (d.petPut m i 16 4 a).sendAck m k (d.petGet m i 8 2) code a

/-! ### Reach keys (R750 to R752) -/

/-- An entry of the reach table. -/
structure Reach where
  addr : Nat
  valid : Bool
  read : Bool
  write : Bool
  pasid : Option Nat
  gen : Nat
  func : Nat
  fgen : Nat
  vector : Nat
  eqLog2 : Nat
  eqBase : Nat
  eqSeq : Nat
  deriving DecidableEq, Repr

def Dev.reach? (d : Dev) (m : Mem) (index : Nat) : Reach :=
  let a := d.fld TRD_REACH.BASE * 4096 + 32 * index
  let b := d.ldBytes m a 32
  let w := leAt b 0 4
  { addr := a, valid := bit w 0, read := bit w 1, write := bit w 2, pasid := if bit w 3 then some (leAt b 4 4 % 2 ^ 20) else none,
    gen := bits w 8 8, func := bits w 16 13, fgen := leAt b 8 2, vector := leAt b 10 2, eqLog2 := leAt b 12 1,
    eqBase := leAt b 16 8, eqSeq := leAt b 24 4 }

/-- The first check of R751 that an access of `n` bytes fails, 0 for none of codes 1 to 6, with the entry. -/
def Dev.reachCheck (d : Dev) (m : Mem) (h : TrdHead) (n : Nat) : Nat × Reach :=
  let index := h.key % 2 ^ 24
  let e := d.reach? m index
  let code :=
    if 2 ^ min 24 (d.fld TRD_REACH.LOG2) ≤ index || !d.flag TRD_REACH.VALID then 1
    else if !e.valid then 2
    else if e.gen ≠ h.key / 2 ^ 24 then 3
    else if e.fgen ≠ d.gen e.func || !d.fnExists e.func then 4
    else if (h.typ = 1 && !e.write) || (h.typ = 2 && !e.read) then 5
    else if 2 ^ 64 ≤ h.addr + n then 6
    else 0
  (code, e)

/-- REACH_CHECK_FAIL (R751, R752): the count, the fault, and from code 3 on the event. -/
def Dev.reachFail (d : Dev) (p : Nat) (h : TrdHead) (n code : Nat) (e : Reach) : Dev :=
  let d := (d.count .TRD_ACCESS).report
    { code := 0x0506, kind := 13, unit := h.src, master := tagTrd p, node := h.src, detail := h.key, addr := h.addr }
  if code < 3 then d
  else
    let phase := b2n (!bit e.eqSeq e.eqLog2)
    let ev := leBytes 4 e.eqSeq ++ leBytes 2 code ++ leBytes 2 0 ++ leBytes 3 h.src ++ leBytes 1 h.splot ++ leBytes 4 h.key ++
      leBytes 8 h.addr ++ leBytes 4 n ++ leBytes 3 0 ++ leBytes 1 phase
    let d := d.hostWrite e.func (tagTrd p) (e.eqBase + 32 * (e.eqSeq % 2 ^ e.eqLog2)) none ev
    (d.stBytes (e.addr + 24) (leBytes 4 (e.eqSeq + 1))).raiseVector e.func e.vector

/-- A write to the host needs a translation that the device does not hold (R271, R867). -/
def Dev.needsXlate (d : Dev) (e : Reach) (addr : Nat) : Bool :=
  (d.fn e.func).atsEn && !d.host.atc.contains { func := e.func, pasid := e.pasid, page := d.atcPage e.func addr }

/-! ### What an accepted packet does (R746 to R749) -/

/-- The outcome of performing a packet: done, or accepted unperformed with a NAK code, or not accepted at all. -/
inductive Perform where
  | done (d : Dev)
  | nak (code : Nat) (d : Dev)
  | full (d : Dev)

/-- A WRITE (R746, R751). `host` is `none` where the translation it needs is refused. -/
def Dev.doWrite (d : Dev) (m : Mem) (p : Nat) (h : TrdHead) (pay : List Byte) (host : Option (List Byte)) : Perform :=
  let c := d.reachCheck m h h.payLen
  if c.1 ≠ 0 then .nak 3 (d.reachFail p h h.payLen c.1 c.2)
  else if d.needsXlate c.2 h.addr && host = none then
    .nak 4 ((d.hostFail FN_HOST_ERR.XLATE c.2.func h.addr).reachFail p h h.payLen 7 c.2)
  else
    let d := if d.fnMaster c.2.func then d else d.count .TRD_DROPPED
    .done (d.hostWrite c.2.func (tagTrd p) h.addr c.2.pasid pay)

/-- The packets of a read's answer (R747). -/
def respPkts (tag : Nat) (data : List Byte) (maxPay : Nat) : List TrdPkt :=
  let n := (data.length + maxPay - 1) / maxPay
  (List.range n).map fun j =>
    let b := (data.drop (j * maxPay)).take maxPay
    { typ := 3, first := decide (j = 0), last := decide (j + 1 = n), key := tag, msgLen := data.length, addr := j * maxPay,
      len := b.length, data := b }

/-- READ_REQ_PERFORM (R747): `host` is what the host's memory holds, or `none` where the read fails there. The read tag
of the answer is the request's PSN. -/
def Dev.doReadReq (d : Dev) (m : Mem) (p k : Nat) (h : TrdHead) (host : Option (List Byte)) : Perform :=
  let c := d.reachCheck m h h.msgLen
  if c.1 ≠ 0 then .nak 3 (d.reachFail p h h.msgLen c.1 c.2)
  else
    let answer (d : Dev) (xs : List TrdPkt) : Dev := (d.modFlow (flowBack k) fun f => { f with todo := f.todo ++ xs })
    let err : TrdPkt := { typ := 3, first := true, last := true, err := true, key := h.psn, msgLen := h.msgLen }
    match host with
    | some b =>
      if d.fnMaster c.2.func then
        .done (answer (d.sendHostRead c.2.func h.addr h.msgLen c.2.pasid)
          (respPkts h.psn (slice b 0 h.msgLen) d.maxPay))
      else .done (answer (d.reachFail p h h.msgLen 7 c.2) [err])
    | none =>
      .done (answer (((d.hostFail FN_HOST_ERR.CPL_ABORT c.2.func h.addr)).reachFail p h h.msgLen 7 c.2) [err])

/-- A READ_RESP (R747): the data goes to LOCAL + ADDR of the command whose request had the PSN it names. -/
def Dev.doReadResp (d : Dev) (p k : Nat) (h : TrdHead) (pay : List Byte) : Dev :=
  let back := flowBack k
  let mine (c : TrdCmd) : Bool := (sendCmd c.msg.bytes).op = 2 && c.lastPsn = some h.key
  match (d.flow back).cmds.find? mine with
  | none => d
  | some c =>
    let x := sendCmd c.msg.bytes
    let gone := c.dead || d.stale c.msg.workid
    let d := if gone || h.err || x.len < h.addr + pay.length then d else d.wrMem (tagTrd p) (x.loc + h.addr) pay
    let upd (c' : TrdCmd) : TrdCmd :=
      if c'.num ≠ c.num then c'
      else if h.err then { c' with fail := some (c'.fail.getD (2, c'.bytes)), arrived := true }
      else { c' with bytes := c'.bytes + pay.length, arrived := c'.arrived || h.last }
    (d.modFlow back fun f => { f with cmds := f.cmds.map upd }).endFlow back

/-- Slots of a receive ring, and a slot's bytes. -/
def Dev.rxSize (d : Dev) (p r : Nat) : Nat := 2 ^ min 16 (max 1 (d.fld TRD_RING_BASE.LOG2 [p, r]))
def Dev.rxSlot (d : Dev) (p r : Nat) : Nat := 2 ^ (d.fld TRD_RING_CTL.SLOTLOG [p, r] + 12)

def rxInit : RxRing := {}
def Dev.rxRing (d : Dev) (p r : Nat) : RxRing := tget rxInit d.trd.rings (64 * p + r)
def Dev.setRxRing (d : Dev) (p r : Nat) (x : RxRing) : Dev :=
  { d with trd := { d.trd with rings := tset rxInit d.trd.rings (64 * p + r) x } }

/-- The slot of a flow's message in progress. -/
def Dev.rxMsg (d : Dev) (k : Nat) : Option RxMsg := tfind d.trd.rx k
def Dev.setRxMsg (d : Dev) (k : Nat) (x : Option RxMsg) : Dev :=
  { d with trd := { d.trd with rx := match x with | some v => tput d.trd.rx k v | none => tdel d.trd.rx k } }

/-- A message its sender will not finish gives its slot back. -/
def Dev.rxAbandon (d : Dev) (p k : Nat) : Dev :=
  match d.rxMsg k with
  | none => d
  | some x =>
    let r := d.rxRing p x.ring
    (d.setRxMsg k none).setRxRing p x.ring { r with taken := r.taken.filter fun t => t.1 ≠ x.slot || t.2 }

/-- TAIL moves past the slots at the front whose messages are complete. -/
def Dev.rxAdvance (p r : Nat) : Nat → Dev → Dev
  | 0, d => d
  | n + 1, d =>
    let x := d.rxRing p r
    match x.taken with
    | (s, true) :: t => Dev.rxAdvance p r n ((d.setRxRing p r { x with taken := t }).setFld TRD_RING_TAIL.INDEX ((s + 1) % d.rxSize p r) [p, r])
    | _ => d

/-- The first slot from TAIL on that no message has taken. -/
def Dev.rxNext (d : Dev) (p r : Nat) : Nat :=
  let tail := d.fld TRD_RING_TAIL.INDEX [p, r]
  match (d.rxRing p r).taken.getLast? with
  | some t => (t.1 + 1) % d.rxSize p r
  | none => tail

/-- A SEND packet (R748, R749). Messages of several flows may fill a ring at once: each takes the next slot. -/
def Dev.doSend (d : Dev) (p k : Nat) (h : TrdHead) (pay : List Byte) : Perform :=
  let r := h.key % 256
  let size := d.rxSize p r
  let place (d : Dev) (slot : Nat) : Perform :=
    let d := if h.addr + pay.length ≤ d.rxSlot p r then
        d.wrMem (tagTrd p) (d.fld TRD_RING_BASE.BASE [p, r] * 4096 + slot * d.rxSlot p r + h.addr) pay else d
    if !h.last then .done (d.setRxMsg k (some ⟨r, slot, h.inc⟩))
    else
      let x := d.rxRing p r
      let ring := { x with taken := x.taken.map fun t => if t.1 = slot then (t.1, true) else t }
      let d := Dev.rxAdvance p r ring.taken.length ((d.setRxMsg k none).setRxRing p r ring)
      let b := leBytes 1 2 ++ leBytes 1 r ++ leBytes 2 slot ++ leBytes 4 h.msgLen ++ leBytes 3 h.src ++
        leBytes 1 (h.splot + 4 * h.cls)
      .done (d.post (epKey 0xB p) { data := bytesWide b, sender := tagTrd p })
  if !h.first then
    match d.rxMsg k with
    | some x => if x.ring = r then place d x.slot else .done d
    | none => .done d
  else if 63 < r || !d.flag TRD_RING_CTL.RUN [p, r] || d.rxSlot p r < h.msgLen then .nak 6 d
  else
    let d := d.rxAbandon p k
    let slot := d.rxNext p r
    if (slot + 1) % size = d.fld TRD_RING_HEAD.INDEX [p, r] % size then .full d
    else
      let x := d.rxRing p r
      place (d.setRxRing p r { x with taken := x.taken ++ [(slot, false)] }) slot

/-- A packet in its place in the sequence (R746). -/
def Dev.petAccept (d : Dev) (m : Mem) (p k i : Nat) (h : TrdHead) (pay : List Byte) (host : Option (List Byte)) : Dev :=
  let failing := bit (d.petGet m i 20 1) 1
  let res : Perform :=
    if failing then .done d
    else
      match h.typ with
      | 1 => d.doWrite m p h pay host
      | 2 => d.doReadReq m p k h host
      | 3 => .done (d.doReadResp p k h pay)
      | _ => d.doSend p k h pay
  let step (d : Dev) (fail : Bool) : Dev :=
    let d := (d.petPut m i 12 4 (psn (h.psn + 1))).petPut m i 20 1 (if fail && !h.last then 2 else 0)
    ((d.petPut m i 24 8 d.now).petTouch m i)
  match res with
  | .full d => (d.count .TRD_RNR).petAck m k i 5
  | .done d => ((step d failing).endFlow (flowBack k)).pump m (flowBack k)
  | .nak code d => (step d true).petAck m k i code

/-- A sequenced packet against the PET (R745, R755). -/
def Dev.petTake (d : Dev) (m : Mem) (p : Nat) (h : TrdHead) (pay : List Byte) (host : Option (List Byte)) : Dev :=
  let k := flowNum h.src h.splot h.dplot h.cls
  let found := (d.petFind m k).filter fun i => d.petGet m i 8 2 = h.inc
  let before := psn (h.psn + 2 ^ 24 - 1)
  match found with
  | none =>
    if !h.sync then d.sendAck m k h.inc 2 before
    else
      let e := slice (slice (flowKey k ++ leBytes 2 h.inc) 0 12 ++ leBytes 4 h.psn ++ leBytes 4 before ++ leBytes 4 0 ++
        leBytes 8 d.now) 0 63 ++ [0x80]
      match d.tabInsert m 4 { data := e, stamp := d.now } with
      | (.placed i, d) | (.replaced i, d) | (.evicted i _, d) =>
        let d := if (d.rxMsg k).any fun x => x.inc ≠ h.inc then d.rxAbandon p k else d
        d.petAccept m p k i h pay host
      | (.full, d) => (d.count .TRD_PET_FULL).sendAck m k h.inc 5 before
  | some i =>
    let epsn := d.petGet m i 12 3
    if h.psn = epsn then d.petAccept m p k i h pay host
    else if psn (epsn + 2 ^ 24 - 1 - h.psn) < d.trdWindow then
      ((d.petTouch m i).count .TRD_DUP).petAck m k i 0
    else
      let flags := d.petGet m i 20 1
      let d := d.count .TRD_OOO
      if bit flags 0 then d
      else (d.petPut m i 20 1 (flags ||| 1)).petAck m k i 1

/-! ### The engine's input -/

/-- The frame at the front of plot `p`'s input, if `want` holds of a frame that passes R729. One that fails is discarded
whichever command meets it; so is every frame while EN is 0 (R758). -/
def Dev.trdInput (d : Dev) (p : Nat) (want : TrdHead → Bool) (f : Dev → TrdHead → List Byte → Dev) : Dev :=
  match tget [] d.net.trdIn p with
  | [] => d
  | x :: t =>
    let drop (d : Dev) : Dev := { d with net := { d.net with trdIn := tset [] d.net.trdIn p t } }
    if d.flt.safe then d
    else if !d.flag TRD_CTL.EN then (drop d).settle
    else if !d.trdFrameOk x then ((drop d).count .TRD_RX_BAD).settle
    else
      let (h, pay) := trdParts x
      if want h then (f (drop d).trdActive h pay).settle else d

/-- TRD_PACKET_RX (R745): the sequenced packet at the front of plot `p`'s input. `host` is what the host answers where
the packet reads host memory or needs a translation. -/
def execTrdPacketRx (p : Nat) (host : Option (List (BitVec 8))) (s : State) : Res := s.run fun m d =>
  d.trdInput p (fun h => h.typ ≤ 4) fun d h pay => (d.count .TRD_RX_PKTS).petTake m h.dplot h pay host

/-- ACK (R742): the ACK at the front of plot `p`'s input. -/
def execAck (p : Nat) (s : State) : Res := s.run fun m d =>
  d.trdInput p (fun h => h.typ = 8) fun d h _ => d.ackTake m h 0

/-- NAK_SEQ (R742). -/
def execNakSeq (p : Nat) (s : State) : Res := s.run fun m d =>
  d.trdInput p (fun h => h.typ = 9 && h.code = 1) fun d h _ => d.ackTake m h 1

/-- NAK_SYNC (R742). -/
def execNakSync (p : Nat) (s : State) : Res := s.run fun m d =>
  d.trdInput p (fun h => h.typ = 9 && h.code = 2) fun d h _ => d.ackTake m h 2

/-- NAK_ACCESS (R742). -/
def execNakAccess (p : Nat) (s : State) : Res := s.run fun m d =>
  d.trdInput p (fun h => h.typ = 9 && h.code = 3) fun d h _ => d.ackTake m h 3

/-- NAK_HOST (R742). -/
def execNakHost (p : Nat) (s : State) : Res := s.run fun m d =>
  d.trdInput p (fun h => h.typ = 9 && h.code = 4) fun d h _ => d.ackTake m h 4

/-- NAK_RNR (R742). -/
def execNakRnr (p : Nat) (s : State) : Res := s.run fun m d =>
  d.trdInput p (fun h => h.typ = 9 && h.code = 5) fun d h _ => d.ackTake m h 5

/-- NAK_MSG (R742). A NAK of a reserved code is discarded as stale by the same command. -/
def execNakMsg (p : Nat) (s : State) : Res := s.run fun m d =>
  d.trdInput p (fun h => h.typ = 9 && (h.code = 0 || 6 ≤ h.code)) fun d h _ => d.ackTake m h (if h.code = 6 then 6 else 7)

/-- ACK_TRANSMIT (R746): an owed acknowledgement of the flow from `node` is sent. -/
def execAckTransmit (node splot dplot cls : Nat) (s : State) : Res := s.run fun m d =>
  let k := flowNum node splot dplot cls
  match d.tabFind m 4 (flowKey k) with
  | some i =>
    if psn (d.petGet m i 16 3 + 1) = d.petGet m i 12 3 || d.flt.safe then d else (d.petAck m k i 0).settle
  | none => d

/-- PET_HOLD_EXPIRE (R734): PET_HOLD passes after the latest packet of a flow. -/
def execPetHoldExpire (node splot dplot cls : Nat) (s : State) : Res := s.run fun m d =>
  match d.tabFind m 4 (flowKey (flowNum node splot dplot cls)) with
  | some i =>
    let e := d.tabEnt m 4 i
    if psn (leAt e.data 16 3 + 1) = leAt e.data 12 3 then d.at (e.stamp + d.petHold) id else d
  | none => d

/-! ### Registers (R757, R758) -/

/-- No entry is pinned. -/
def Dev.trdUnpinned (d : Dev) : Bool :=
  !((tget [] d.net.tables 4).any fun e => d.tabPinned 4 e.2) && !((tget [] d.net.tables 5).any fun e => d.tabPinned 5 e.2)

/-- TRD is stopped. -/
def Dev.trdStopped (d : Dev) : Bool := !d.flag TRD_CTL.EN && d.trdUnpinned

/-- Writes of the TRD registers that change only while TRD is stopped. -/
def Dev.trdCtlWrite (d : Dev) (w : Wr) : Dev := d.regWrite .TRD_CTL [] w d.trdStopped
def Dev.trdReachWrite (d : Dev) (w : Wr) : Dev :=
  let cand := w.over (d.reg .TRD_REACH)
  let ok := inHbm (TRD_REACH.BASE.get cand * 4096) (32 * 2 ^ min 24 (TRD_REACH.LOG2.get cand))
  d.regWrite .TRD_REACH [] w d.trdStopped fun _ _ => ok

/-- A write of TRD_RING_CTL: RUN is the run control; a restart after a change of TRD_RING_BASE sets HEAD and TAIL to 0. -/
def Dev.trdRingCtlWrite (d : Dev) (p r : Nat) (w : Wr) : Dev :=
  let was := d.flag TRD_RING_CTL.RUN [p, r]
  let d := d.regWrite .TRD_RING_CTL [p, r] w (d.flag TRD_RING_CTL.STOPPED [p, r])
  let on := d.flag TRD_RING_CTL.RUN [p, r]
  let d := d.setFld TRD_RING_CTL.STOPPED (b2n (!on)) [p, r]
  if on && !was && (d.rxRing p r).changed then
    ((d.setFld TRD_RING_HEAD.INDEX 0 [p, r]).setFld TRD_RING_TAIL.INDEX 0 [p, r]).setRxRing p r {}
  else d

/-- A write of TRD_RING_BASE: the ring must lie in a memory region, and another is refused as a reserved encoding (DESIGN
CHOICE, assumption 129). -/
def Dev.trdRingBaseWrite (d : Dev) (p r : Nat) (w : Wr) : Dev :=
  let old := d.reg .TRD_RING_BASE [p, r]
  let n := 2 ^ TRD_RING_BASE.LOG2.get (w.over old) * d.rxSlot p r
  let d' := d.regWrite .TRD_RING_BASE [p, r] w (d.flag TRD_RING_CTL.STOPPED [p, r]) fun f v => d.inMemory (f.get v * 4096) n
  if d'.reg .TRD_RING_BASE [p, r] = old then d' else d'.setRxRing p r { d'.rxRing p r with changed := true }

/-- What TRD registers show. -/
def Dev.trdView (d : Dev) (r : RegName) (i : List Nat) : Option Word :=
  match r, i with
  | .TRD_CTL, _ => some (TRD_CTL.STOPPED.set (d.reg .TRD_CTL) (b2n d.trdStopped))
  | .TRD_PLOT_STATUS, [p] => some (BitVec.ofNat 64 (d.queue (epKey 0xE p)).length)
  | _, _ => none

end Sys2Proof.Machine
end

