-- ==== Sys2Proof/Machine/HostReset.lean ====
section
/-!
DEFINITION. Resets of functions and host links: what a reset does to a function's work wherever it is, the wrap guard,
function level resets, Bus Master Enable and D3hot, VF removal, PERST_N and the links (R257, R273, R277 to R291,
R357 to R364, R370).
-/

namespace Sys2Proof.Machine

/-! ### Items (R357, R358) -/

/-- A row is on its way to media. -/
def RowW.flying (w : RowW) : Bool := w.place.isSome && !w.durable

/-- The generations of requests that engines have outstanding for function `f` in serving its work: rows on their way to
media, fetches of gleaning, records at a ledger home, and a strand's reads of host memory. A session's requests carry the
present generation, since a reset ends its sessions. -/
def Dev.requestGens (d : Dev) (f : Nat) : List Nat :=
  let ofDrill (r n : Nat) : List Nat := match d.drill? r with
    | some x => if x.func = f then List.replicate n x.gen else []
    | none => []
  let rows (s : SowSess) : Nat := ((s.sheaves.flatMap SowSheaf.rows ++ (s.sealJob.map SealJob.descs).getD []).filter RowW.flying).length
  List.replicate (((d.sow.sess.filter fun e => sessFunc e.1 = f).map fun e => rows e.2).foldl (· + ·) 0) (d.gen f) ++
  (d.sow.reqs.flatMap fun q => match q.origin with
    | .sealOf k => if sessFunc k = f then [d.gen f] else []
    | .entry r _ => ofDrill r 1
    | _ => []) ++
  (d.glean.gleans.flatMap fun j =>
    ofDrill j.drill ((j.fetches.filter GFetch.inFlight).length + (j.recons.map fun c => c.asked.length).foldl (· + ·) 0)) ++
  (d.glean.repairs.flatMap fun j => match j.drill with
    | some (r, _) => ofDrill r ((j.rows ++ j.descs).filter RowW.flying).length
    | none => []) ++
  d.host.reads.flatMap fun x => match x.requester with
    | .strand k => let w := (d.strand k).regs.workid; if widTenant w && widFunc w = f then [widGen w] else []
    | .entry r _ => ofDrill r 1
    | _ => []

/-- The generations that the work of function `f` inside the device carries, one for each item: dispatched drills,
messages, what the engines hold, and the requests they have outstanding for it. A drill's waiting dispatch message is that
drill, not a further item. -/
def Dev.items (d : Dev) (f : Nat) : List Nat :=
  let wids (l : List Word) : List Nat := (l.filter fun w => widTenant w && widFunc w = f).map widGen
  ((d.ring.drills.filter fun e => e.2.func = f && e.2.phase = .dispatched).map fun e => e.2.gen) ++
  wids ((d.tine.queues.filter fun q => q.1 / 4096 ≠ 1).flatMap fun q => q.2.map Msg.workid) ++
  d.requestGens f ++
  wids ((d.dma.filter fun e => d.dmaActive (e.1 / 64) (e.1 % 64)).map fun e => e.2.wid) ++
  wids ((d.dma.filter fun e => !d.flag DMA_STATUS.SHEMPTY [e.1 / 64, e.1 % 64]).map fun e => e.2.shadowWid) ++
  wids (d.dma.flatMap fun e => e.2.held.map Msg.workid) ++
  wids (d.cipher.flatMap fun c => (c.2.job.map fun j => j.msg.workid).toList ++ c.2.releases.map fun r => r.2.workid) ++
  wids (d.fold.filterMap fun u => u.2.job.map fun j => j.msg.workid) ++
  wids (d.trd.flows.flatMap fun t => (t.2.cmds.filter fun c => !c.dead).map fun c => c.msg.workid)

/-- LIVE and STALE of TENANT_ITEMS. -/
def Dev.liveItems (d : Dev) (f : Nat) : Nat := ((d.items f).filter fun g => d.fnExists f && g = d.gen f).length
def Dev.staleItems (d : Dev) (f : Nat) : Nat := ((d.items f).filter fun g => !(d.fnExists f && g = d.gen f)).length

/-- OLDEST: the generation furthest behind GEN that some item carries (R358). -/
def Dev.oldestGen (d : Dev) (f : Nat) : Nat :=
  let gen := d.gen f
  let back (g : Nat) : Nat := (gen + 65536 - g) % 65536
  (gen + 65536 - ((d.items f).map back).foldl max 0) % 65536

/-! ### Work of a function that ends with its drill -/

/-- Nothing inside the device waits for the drill in record `r` any more: its waits, its self-test, its reads and
repairs, and its records at a ledger home, which become durable for nobody. -/
def Dev.forgetWork (d : Dev) (r : Nat) : Dev :=
  let keys := (d.sow.waits.filter fun w => w.drill = r).map fun w => sessFunc w.key
  let mine (q : LedgerReq) : Bool := match q.origin with
    | .entry x _ => x = r
    | _ => false
  let d := d.setSow { d.sow with
    waits := d.sow.waits.filter fun w => w.drill ≠ r
    dry := d.sow.dry.filter fun e => e.1 ≠ r
    reqs := d.sow.reqs.map fun q => if mine q then { q with origin := .nobody } else q }
  let repairs := d.glean.repairs.filter fun j => j.drill.map Prod.fst = some r
  let d := repairs.foldl (fun d j =>
    if j.phase = 0 then (d.setRepairs (d.glean.repairs.filter fun x => x ≠ j)).emit (.repairLock j.ref.obj false)
    else d.dropRepair j.ref.obj) d
  let d := d.setGlean { d.glean with gleans := d.glean.gleans.filter fun j => j.drill ≠ r
                                     fixities := d.glean.fixities.filter fun j => j.drill ≠ r }
  let d := { d with ring := { d.ring with tests := d.ring.tests.filter fun t => t.drill ≠ r } }
  keys.foldl Dev.countWaits d

/-- A dispatched drill waits inside the device. -/
def Dev.insideDevice (d : Dev) (r : Nat) : Bool :=
  d.sow.waits.any (fun w => w.drill = r) || d.sow.dry.any (fun e => e.1 = r) ||
  d.glean.repairs.any (fun j => j.drill.map Prod.fst = some r) || d.glean.gleans.any (fun j => j.drill = r) ||
  d.glean.fixities.any (fun j => j.drill = r) || d.ring.tests.any (fun t => t.drill = r) ||
  d.sow.sess.any fun e => e.2.sealJob.any fun j => j.drill = r

/-- A function's drill ends without a trace: its record is freed. -/
def Dev.endDrill (d : Dev) (r : Nat) : Dev :=
  let x := d.drill r
  let d := d.modSq x.sq fun q =>
    { q with ready := q.ready.filter fun n => n ≠ r, held := q.held.filter fun h => h.drill ≠ r
             openDrill := if q.openDrill = some r then none else q.openDrill }
  (d.forgetWork r).freeDrill r

/-- A function's sessions close (R360): a seal handed to its ledger home stays, and every other object is lost. -/
def Dev.endSessions (d : Dev) (f : Nat) : Dev :=
  (d.sow.sess.filter fun e => sessFunc e.1 = f).foldl (fun d e =>
    match e.2.sealJob with
    | some j =>
      if j.step = 5 then
        let mine (q : LedgerReq) : Bool := match q.origin with
          | .sealOf k => k = e.1
          | _ => false
        let d := d.setSow { d.sow with reqs := d.sow.reqs.map fun q => if mine q then { q with origin := .nobody } else q }
        (d.freeSess f e.2).delSess e.1
      else
        (j.descs.foldl (fun (d : Dev) (w : RowW) => (w.place.map d.dropRow).getD d) d).sessEnd e.1
    | none => d.sessEnd e.1) d

/-- What a reset does to the function's work at step 1 of R277 (R360): its open, waiting and held drills and its
completions that wait are discarded, work that waits inside the device ends, its sessions close, and fetches return to
nobody. Dispatched drills in the hands of a strand end at their next output. -/
def Dev.endFnWork (d : Dev) (f : Nat) : Dev :=
  let drop := (d.ring.drills.filter fun e => e.2.func = f && (e.2.phase ≠ .dispatched || d.insideDevice e.1)).map Prod.fst
  let count := (drop.filter fun r => (d.drill r).won).length + (d.ring.cpls.filter fun c => c.func = f).length
  let d := { d with ring := { d.ring with cpls := d.ring.cpls.filter fun c => c.func ≠ f } }
  let d := d.endSessions f
  let rings := d.sqsWhere fun g => d.sqFunc g = f
  let d := { d with ring := { d.ring with waiters := d.ring.waiters.filter fun g => !rings.contains g } }
  let d := rings.foldl (fun d g => d.modSq g fun q => { q with fetch := none, asked := false, held := [], rejects := [] }) d
  (drop.foldl Dev.endDrill d).count .TENANT_STALE_DISCARDS [] count

/-! ### The wrap guard (R363) -/

/-- A WORKID names function `f`. -/
def widOf (f : Nat) (w : Word) : Bool := widTenant w && widFunc w = f

/-- A DMA channel's descriptors and held completion of function `f` end; an NVMe command's reply is void. -/
def Dev.purgeDma (d : Dev) (f p c : Nat) : Dev :=
  let ch := d.dmaCh p c
  let d :=
    if d.dmaActive p c && widOf f ch.wid then
      let mark (x : NvmeCmd) : NvmeCmd := if x.plot = p && x.ch = c then { x with late := true } else x
      let qps := d.stg.qps.map fun (q : Nat × QpSt) =>
        (q.1, ({ q.2 with cmds := q.2.cmds.map fun (x : Nat × NvmeCmd) => (x.1, mark x.2) } : QpSt))
      let d := (d.setFld DMA_STATUS.ACTIVE 0 [p, c]).setDma p c { ch with cid := none }
      { d with stg := { d.stg with qps := qps } }
    else d
  let d :=
    if !d.flag DMA_STATUS.SHEMPTY [p, c] && widOf f ch.shadowWid then
      (d.setFld DMA_STATUS.SHEMPTY 1 [p, c]).setFld DMA_CTL.GO 0 [p, c]
    else d
  d.setDma p c { d.dmaCh p c with held := ch.held.filter fun x => !widOf f x.workid }

/-- A cipher scheduler's job and release entries of function `f` end. -/
def Dev.purgeCipher (d : Dev) (f p : Nat) : Dev :=
  let c := d.ciph p
  d.setCiph p { c with job := c.job.filter fun j => !widOf f j.msg.workid
                       releases := c.releases.filter fun r => !widOf f r.2.workid }

/-- A fold unit's waiting command of function `f` ends. -/
def FoldU.purge (f : Nat) (u : FoldU) : FoldU := { u with job := u.job.filter fun j => !widOf f j.msg.workid }

/-- A flow's commands of function `f` produce nothing more. -/
def Flow.purge (f : Nat) (t : Flow) : Flow :=
  { t with cmds := t.cmds.map fun c => if widOf f c.msg.workid then { c with dead := true } else c }

/-- A strand's WORKID that names function `f` is void from now on (R364). -/
def Regs.purge (f : Nat) (r : Regs) : Regs := if widOf f r.workid then { r with wvoid := true } else r
def Strand.purge (f : Nat) (s : Strand) : Strand :=
  { s with regs := s.regs.purge f, spec := s.spec.map fun c => { c with saved := c.saved.purge f } }

/-- GEN_WRAP_PURGE: every item of the function ends, and every reply it awaits is void. A strand that still carries one of
its WORKIDs puts nothing more under it, whatever GEN becomes (R364). -/
def Dev.purge (d : Dev) (f : Nat) : Dev :=
  let d := ((d.ring.drills.filter fun e => e.2.func = f).map Prod.fst).foldl Dev.endDrill d
  let qs := d.tine.queues.map fun (q : Nat × List Msg) => (q.1, q.2.filter fun x => !widOf f x.workid)
  let d := { d with tine := { d.tine with queues := qs.filter fun q => q.2 ≠ []
                                          strands := d.tine.strands.map fun (e : Nat × Strand) => (e.1, e.2.purge f) } }
  let d := (d.dma.map Prod.fst).foldl (fun d k => d.purgeDma f (k / 64) (k % 64)) d
  let d := (d.cipher.map Prod.fst).foldl (fun d p => d.purgeCipher f p) d
  let d := { d with fold := (d.fold.map fun (u : Nat × FoldU) => (u.1, u.2.purge f)).filter fun u => u.2 ≠ ({} : FoldU)
                    trd := { d.trd with flows := d.trd.flows.map fun (t : Nat × Flow) => (t.1, t.2.purge f) }
                    host := { d.host with reads := d.host.reads.filter fun r => r.func ≠ f } }
  (d.count .TENANT_PURGES).report { code := 0x0105, kind := 10, unit := f, func := f }

/-- The generation increments (R362, R363). -/
def Dev.nextGen (d : Dev) (f : Nat) : Dev :=
  let g := (d.gen f + 1) % 65536
  let d := if (d.items f).contains g then d.purge f else d
  d.setFld TENANT_STATE.GEN g [f]

/-! ### The reset of a function (R277 to R281, R361, R370) -/

/-- A function's mailbox pair in HBM (R365). -/
def Dev.mbAddr (d : Dev) (f : Nat) : Nat := d.fld TENANT_MB_BASE.BASE * 2 ^ 26 + f * 0x2000

/-- A SAVE or RESTORE ends with its RESULT (R372, R373). -/
def Dev.migEnd (d : Dev) (result : Nat) : Dev := (d.setFld TENANT_MIG_CTL.RESULT result).setFld TENANT_MIG_CTL.GO 0

/-- Step 1 of R277: `ev` is the event bit it sets, and `sticky` that the event came from the link (R281). -/
def Dev.resetStart (d : Dev) (f : Nat) (ev : Fld) (sticky : Bool) : Dev :=
  let d := (d.nextGen f).endFnWork f
  let d := if d.flag TENANT_MIG_CTL.GO && d.fld TENANT_MIG_CTL.FUNC = f then d.migEnd 9 else d
  let d := ((d.stBytes (d.mbAddr f) (List.replicate 0x2000 0)).setFld TENANT_CTL.SAVED 0 [f]).setFld HOST_FN_STATE.FLR_BUSY 1 [f]
  let d := d.modFn f fun n =>
    { n with flrAt := d.now, flrStep := 2, sticky := sticky && (n.flrStep = 0 || n.sticky) }
  d.fnEvent ev f

/-- Step 2 of R277: the function is silent, what it had queued is dropped, and its apertures unbind. -/
def Dev.resetSilence (d : Dev) (f : Nat) : Dev :=
  let d := d.setFld HOST_FN_STATE.SILENCED 1 [f]
  let d := { d with posted := d.posted.filter fun w => !(w.toHost && w.unit = f)
                    host := { d.host with reads := d.host.reads.filter fun r => r.func ≠ f } }
  (d.clearApts f).modFn f fun n => { n with flrStep := 3 }

/-- The registers a function's reset returns to their reset values: its own page, its error log's, its rings'. -/
def Dev.resetRings (d : Dev) (f : Nat) : Dev :=
  let sqs := d.sqsWhere fun g => d.sqFunc g = f
  let d := sqs.foldl (fun d g => (d.resetRegs [.RINGS_SQ_BASE, .RINGS_SQ_CTL] [g]).setSq g sqInit) d
  let lo := RegName.RINGS_CQ_BIND.key [0]
  let cqs := (d.regs.filter fun e => lo ≤ e.1 && e.1 ≤ RegName.RINGS_CQ_BIND.key [65535] && bit e.2.toNat 63 &&
    bits e.2.toNat 0 13 = f).map fun e => (e.1 - lo) / 8
  let d := cqs.foldl (fun d g => (d.resetRegs [.RINGS_CQ_BASE, .RINGS_CQ_CTL] [g]).setCq g cqInit) d
  d.resetRegs [.RINGS_ERRLOG_HEAD, .RINGS_ERRLOG_ACK, .RINGS_ERRLOG_LOST] [f]

/-- What a function keeps of its configuration across a reset: all of it that is sticky, where the reset came from the link
(R281). -/
def Fn.afterReset (n : Fn) : Fn :=
  if n.sticky then
    { pmeEn := n.pmeEn, pmeStatus := n.pmeStatus, aerStatus := n.aerStatus, aerMask := n.aerMask, aerSeverity := n.aerSeverity
      aerCorStatus := n.aerCorStatus, aerCorMask := n.aerCorMask }
  else {}

/-- A field of HOST_FN_STATE returns to 0; a change of it sets its event bit (R294). -/
def Dev.fnClear (d : Dev) (fl ev : Fld) (f : Nat) : Dev :=
  if d.flag fl [f] then (d.setFld fl 0 [f]).fnEvent ev f else d

/-- Step 3 of R277. While PERST_N stays asserted, a function that was in D3 remains there, in D3cold (R289, R290). -/
def Dev.resetFinish (d : Dev) (f : Nat) : Dev :=
  let cold := d.flag HOST_LINK_STATUS.PERST [d.linkOf f] && (d.fn f).sticky
  let d := (d.resetRings f).resetRegs [.FN_HOST_ERR, .FN_HOST_ERR_ADDR, .FN_BUF_SLOT, .FN_BUF_BASE, .FN_BUF_LEN, .FN_BUF_ATTR] [f]
  let d := ((d.setFld HOST_FN_STATE.MSE 0 [f]).fnClear HOST_FN_STATE.BME HOST_FN_STATE.BME_EV f).setFld HOST_FN_STATE.SILENCED 0 [f]
  let d := if cold then d else d.fnClear HOST_FN_STATE.DSTATE HOST_FN_STATE.DSTATE_EV f
  let d := if (d.fn f).numVfs = 0 then d else d.fnEvent HOST_FN_STATE.VF_EV f
  let d := (d.setFld HOST_FN_STATE.FLR_BUSY 0 [f]).modFn f Fn.afterReset
  { d with host := { d.host with atc := d.host.atc.filter fun e => e.func ≠ f
                                 invals := d.host.invals.filter fun v => v.func ≠ f } }

/-- VF Enable of a PF clears: its VFs cease to exist, each with the effects of R277 (R257, R278). -/
def Dev.dropVfs (d : Dev) (p : Nat) (ev : Fld) (sticky : Bool) : Dev :=
  if !(d.fn p).vfEnable then d
  else
    let vfs := (d.vfsOf p (d.fld HOST_FN_STATE.NUM_VFS [p])).filter d.fnExists
    let d := (d.modFn p fun n => { n with vfEnable := false }).setFld HOST_FN_STATE.NUM_VFS 0 [p]
    let d := d.fnEvent HOST_FN_STATE.VF_EV p
    vfs.foldl (fun d f => (d.resetStart f ev sticky).setFld HOST_FN_STATE.ENABLED 0 [f]) d

/-- FLR (R277, R278, R362): the host writes Initiate Function Level Reset. -/
def execFlr (f : Nat) (s : State) : Res := s.manage fun _ d =>
  if d.fnExists f && d.linkUp (d.linkOf f) then
    ((d.dropVfs f HOST_FN_STATE.FLR_EV false).resetStart f HOST_FN_STATE.FLR_EV false).hostRstSync
  else d

/-- FLR_SILENCED (R277 step 2). -/
def execFlrSilenced (f : Nat) (s : State) : Res := s.manage fun _ d =>
  if (d.fn f).flrStep = 2 then d.resetSilence f else d

/-- FLR_COMPLETE (R277 step 3), after step 2. -/
def execFlrComplete (f : Nat) (s : State) : Res := s.manage fun _ d =>
  if (d.fn f).flrStep = 3 then (d.resetFinish f).hostRstSync else d

/-- VF_ENABLE_CLEAR (R257). -/
def execVfEnableClear (p : Nat) (s : State) : Res := s.manage fun _ d =>
  if d.cfgOk p && p < 256 then (d.dropVfs p HOST_FN_STATE.FLR_EV false).hostRstSync else d

/-! ### Bus Master Enable and D3hot (R283 to R287) -/

/-- OWN clears of ring `g` among writes that are dropped: RESUME writes them anew (R334). -/
def Dev.noteOwn (d : Dev) (dropped : List Posted) (g : Nat) : Dev :=
  let own (w : Posted) : Bool := w.master = tagRing && w.data.length = 1 && d.sqBase g ≤ w.addr && w.addr < d.sqBase g + 64 * d.sqSize g
  match (dropped.filter own).map Posted.addr with
  | [] => d
  | as => d.modSq g fun q => { q with ownDropped := q.ownDropped ++ as }

/-- The function may not issue requests any more: its queued writes are dropped and its rings halt. Read data that returns
is dropped when it comes (`Dev.loadData`, `execRingFetchReturn`, `execCopy`). -/
def Dev.quiesce (d : Dev) (f : Nat) : Dev :=
  let mine (w : Posted) : Bool := w.toHost && w.unit = f
  let dropped := d.posted.filter mine
  let d := { d with posted := d.posted.filter fun w => !mine w }
  let rings := d.sqsWhere fun g => d.sqFunc g = f
  let d := rings.foldl (fun d g => (d.noteOwn dropped g).sqHalt g) d
  if dropped = [] then d else d.bmeDrop f

/-- Bus Master Enable becomes 1 at the moment at which a RESUME of ring `g` was written: the ring runs (R286). -/
def Dev.resumeNow (d : Dev) (g : Nat) : Dev :=
  if (d.sq g).state = 4 && (d.sq g).resumeAt = some d.now then d.restartResume g else d

/-- BME_SET (R285): requests are allowed, and nothing restarts but what R286 has at the same moment. -/
def execBmeSet (f : Nat) (s : State) : Res := s.manage fun _ d =>
  if d.cfgOk f && !d.flag HOST_FN_STATE.BME [f] then
    let d := (d.setFld HOST_FN_STATE.BME 1 [f]).fnEvent HOST_FN_STATE.BME_EV f
    if d.fld HOST_FN_STATE.DSTATE [f] = 0 then (d.sqsWhere fun g => d.sqFunc g = f).foldl Dev.resumeNow d else d
  else d

/-- BME_CLEAR (R283). -/
def execBmeClear (f : Nat) (s : State) : Res := s.manage fun _ d =>
  if d.cfgOk f && d.flag HOST_FN_STATE.BME [f] then
    ((d.setFld HOST_FN_STATE.BME 0 [f]).fnEvent HOST_FN_STATE.BME_EV f).quiesce f
  else d

/-- D3HOT_ENTER (R287). The spec does not say what the VFs of a PF in D3hot do, nor whether a VF, which has no Power
Management capability (R259), can enter it: a PF's VFs run on, and a VF that is told to enters it (DESIGN CHOICE, assumption
133). -/
def execD3hotEnter (f : Nat) (s : State) : Res := s.manage fun _ d =>
  if d.cfgOk f && d.fld HOST_FN_STATE.DSTATE [f] = 0 then
    (((d.setFld HOST_FN_STATE.DSTATE 3 [f]).setFld HOST_FN_STATE.SILENCED 1 [f]).fnEvent HOST_FN_STATE.DSTATE_EV f).quiesce f
  else d

/-! ### Links (R280 to R282, R291) -/

/-- R280 reaches every function of a link. -/
def Dev.linkReset (d : Dev) (l : Nat) : Dev :=
  let d := (d.pfsOf l).foldl (fun d p =>
    if d.fnExists p then (d.dropVfs p HOST_FN_STATE.LINKRST_EV true).resetStart p HOST_FN_STATE.LINKRST_EV true else d) d
  d.hostRstSync

/-- A link's state, with no rate or lanes while it carries nothing. -/
def Dev.linkSet (d : Dev) (l state rate lanes : Nat) : Dev :=
  ((d.setFld HOST_LINK_STATUS.STATE state [l]).setFld HOST_LINK_STATUS.RATE rate [l]).setFld HOST_LINK_STATUS.LANES lanes [l]

/-- The link is planned and S7 has left electrical idle (R32, R250). -/
def Dev.canTrain (d : Dev) (l : Nat) : Bool :=
  d.pw.strips && d.clk.refclk && d.flag HOST_LINK_PLAN.PRESENT [l]

/-- Training begins, with the bound of R282; `perst` says that PERST_N's deassertion began it. -/
def Dev.trainLink (d : Dev) (l : Nat) (perst : Bool := false) : Dev :=
  if d.canTrain l && !d.flag HOST_LINK_STATUS.PERST [l] then
    { (d.linkSet l 1 0 0) with host := { d.host with
        trainFrom := tput d.host.trainFrom l d.now
        perstTrain := if perst then l :: d.host.perstTrain.filter (· ≠ l) else d.host.perstTrain.filter (· ≠ l) } }
  else d.linkSet l (if d.flag HOST_LINK_STATUS.PERST [l] then 7 else 0) 0 0

/-- Notes a link's fall and resets its functions. -/
def Dev.linkFall (d : Dev) (l : Nat) : Dev :=
  let up := d.linkUp l
  let d := (d.linkSet l 0 0 0).linkReset l
  if up then d.linkEvent HOST_LINK_STATUS.DOWN_EV l else d

/-- A function loses its link's power or reference clock, and is in D3cold (R289). -/
def Dev.fnCold (d : Dev) (f : Nat) : Dev :=
  if d.fld HOST_FN_STATE.DSTATE [f] = 3 then d
  else (d.setFld HOST_FN_STATE.DSTATE 3 [f]).fnEvent HOST_FN_STATE.DSTATE_EV f

/-- PERST_ASSERT (R280): the pin of link `l` goes low; `cold` where the host removed the link's power or clock, which puts
the functions of its PFs in D3cold (R289; its VFs cease to exist). -/
def Dev.perstAssert (d : Dev) (l : Nat) (cold : Bool) : Dev :=
  let d := { (d.linkFall l) with host := { (d.linkFall l).host with trainFrom := tdel d.host.trainFrom l } }
  let d := ((d.linkSet l 7 0 0).setFld HOST_LINK_STATUS.PERST 1 [l]).linkEvent HOST_LINK_STATUS.PERST_EV l
  if cold then ((d.pfsOf l).filter d.fnExists).foldl Dev.fnCold d else d

/-- PERST_DEASSERT (R282, R291). -/
def Dev.perstDeassert (d : Dev) (l : Nat) : Dev :=
  let d := ((d.setFld HOST_LINK_STATUS.PERST 0 [l]).setWake l false).trainLink l true
  let d := (d.fnsOf l).foldl (fun d f =>
    if d.flag HOST_FN_STATE.FLR_BUSY [f] then d else d.fnClear HOST_FN_STATE.DSTATE HOST_FN_STATE.DSTATE_EV f) d
  d.hostRstSync

/-- HOT_RESET (R280, R282): the host sends a hot reset on link `l`. -/
def execHotReset (l : Nat) (s : State) : Res := s.manage fun _ d =>
  if l < 64 && d.linkUp l then
    (((d.linkSet l 0 0 0).linkReset l).linkEvent HOST_LINK_STATUS.HOTRST_EV l).trainLink l
  else d

/-- HOST_LINK_DOWN (R280, R282): link `l` goes down and trains again; with `l2` it goes to L2, which it leaves when PERST_N
deasserts (assumption 134). -/
def execHostLinkDown (l : Nat) (l2 : Bool) (s : State) : Res := s.manage fun _ d =>
  if l < 64 && d.linkUp l then
    if l2 then (d.linkFall l).linkSet l 6 0 0 else (d.linkFall l).trainLink l
  else d

/-- HOST_LINK_UP (R249, R282, R294): link `l` completes training, into L0 or L0p, at a rate, coded as MAX_RATE, on some
lanes; or, once it is up, passes to `state`: 2 L0, 3 L0p, 4 recovery or 5 L1 (assumption 134). -/
def execHostLinkUp (l state rate lanes : Nat) (s : State) : Res := s.manage fun _ d =>
  let st := d.fld HOST_LINK_STATUS.STATE [l]
  if l < 64 && 1 ≤ st && st ≤ 5 && 2 ≤ state && state ≤ (if st = 1 then 3 else 5) && d.flag HOST_LINK_PLAN.PRESENT [l] &&
      1 ≤ rate && rate ≤ d.fld HOST_LINK_PLAN.MAX_RATE [l] && 1 ≤ lanes && lanes ≤ 2 ^ d.fld HOST_LINK_PLAN.WIDTH [l] then
    { (d.linkSet l state rate lanes) with host := { d.host with trainFrom := tdel d.host.trainFrom l } }.hostRstSync
  else d

/-- The link runs in Flit mode: it is up, at 64 or 128 GT/s (R249). -/
def Dev.flitMode (d : Dev) (l : Nat) : Bool := d.linkUp l && 6 ≤ d.fld HOST_LINK_STATUS.RATE [l]

/-! ### Host requests that fail (R273) -/

/-- The address of the active COPY's request to a host that a reply may fail, `moved` bytes on (R867): its read of a source
there, BARRIER's read-back, or with `err` 3 the translation of a write. -/
def Dev.dmaReply (d : Dev) (p c moved err : Nat) : Option Nat :=
  let x := d.dmaSet .DMA_ACTIVE p c
  let src := leAt x 8 8
  let dst := leAt x 16 8
  if !d.dmaActive p c || leAt x 0 1 ≠ 1 then none
  else if (d.dmaCh p c).barrier then (if regionOf dst = .host then some (barrierAddr x) else none)
  else if regionOf src = .host then some (src + moved)
  else if regionOf dst = .host && err = 3 && (d.fn (d.aptFunc dst)).atsEn then some (dst + moved)
  else none

/-- Whom a failed or late completion answers: `kind` 0 strand `a`, 1 channel `b` of plot `a`, 2 entry `b` of the drill
in record `a`. `moved` is what a channel, or the entry, had moved; `err` is as `hostErrFld` codes it. A strand's load then
returns 0 with no exception. An entry ends where it makes the request that the answer is for (`Dev.hostAsk`). -/
def Dev.hostReadFail (d : Dev) (kind a b moved err : Nat) : Dev :=
  let who : ReadFor := match kind with
    | 0 => .strand a
    | 1 => .dma a b
    | _ => .entry a b
  match kind with
  | 0 =>
    match d.host.reads.find? fun r => r.requester = who, (d.strand a).wait with
    | some r, some (.load kind dst _ _) =>
      let d := (d.dropReads who).hostFail (hostErrFld err) r.func r.addr
      let regs := (d.strand a).regs
      let regs := match kind with
        | .wide => regs.wrW dst 0
        | .general _ _ => regs.wr dst 0
        | .atomic _ _ _ => regs.wr dst 0
      d.finish a (.done d regs.next)
    | _, _ => d
  | 1 =>
    if !d.dmaActive a b then d
    else
      match d.dmaReply a b moved err with
      | none => d
      | some addr =>
        (d.hostFail (hostErrFld err) (d.aptFunc addr) (d.aptAddr addr)).dmaHostFail a b (if err = 0 then 6 else 5) moved
  | _ =>
    match d.drill? a with
    | none => d
    | some x =>
      if x.phase = .dispatched && x.next = b && b < x.count then
        d.modDrill a fun x => { x with answer := some (moved, err) }
      else d

/-- HOST_CPL_TIMEOUT (R260, R273): the request has had no completion by its due time. -/
def execHostCplTimeout (kind a b moved : Nat) (s : State) : Res := s.run fun _ d =>
  match d.host.reads.find? fun r => kind = 0 && r.requester = .strand a with
  | some r => d.at r.due fun d => d.hostReadFail kind a b moved 0
  | none =>
    if kind = 0 then d
    else if kind = 1 then
      match d.dmaReply a b moved 0 with
      | none => d
      | some addr => d.at ((d.dmaCh a b).since + cplTimeoutNs (d.fn (d.aptFunc addr)).cplTo) fun d => d.hostReadFail kind a b moved 0
    else d.at (d.now + cplTimeoutNs (d.fn (d.drill a).func).cplTo) fun d => d.hostReadFail kind a b moved 0

/-- HOST_CPL_ERROR (R273): 1 an abort or Unsupported Request, 2 a poisoned completion, 3 a refused translation. -/
def execHostCplError (kind a b moved err : Nat) (s : State) : Res := s.run fun _ d =>
  d.hostReadFail kind a b moved (max 1 (min 3 err))

end Sys2Proof.Machine
end

