-- ==== Sys2Proof/Machine/Tenant.lean ====
section
/-!
DEFINITION. Tenant instances: the TENANT block, grain pool reserves, the mailbox pair, freezing, and the tenant state
record with its SAVE and RESTORE (R347 to R356, R365 to R378).
-/

namespace Sys2Proof.Machine

/-! ### The TENANT block (R350 to R352) -/

/-- FROZEN: the function does not exist; or FREEZE is 1, no drill of it is open, waiting for dispatch or dispatched, and
no item is live (R371). -/
def Dev.frozen (d : Dev) (f : Nat) : Bool :=
  !d.fnExists f || (d.freezing f && d.liveItems f = 0 &&
    !d.ring.drills.any fun e => e.2.func = f &&
      [DrillPhase.opened, .accepted, .abortReady, .dispatched].contains e.2.phase)

def Dev.tenantCtlView (d : Dev) (f : Nat) : Word := TENANT_CTL.FROZEN.set (d.reg .TENANT_CTL [f]) (b2n (d.frozen f))
def Dev.tenantStateView (d : Dev) (f : Nat) : Word := TENANT_STATE.OLDEST.set (d.reg .TENANT_STATE [f]) (d.oldestGen f)
def Dev.tenantItemsView (d : Dev) (f : Nat) : Word :=
  BitVec.ofNat 64 (d.liveItems f % 2 ^ 24 + d.staleItems f % 2 ^ 24 * 2 ^ 24)

/-- A function's idle times stop, or run again (R371). -/
def Dev.pauseIdle (d : Dev) (f : Nat) (stop : Bool) : Dev :=
  (d.sow.sess.filter fun e => sessFunc e.1 = f).foldl (fun d e => d.modSess e.1 fun s =>
    if stop then { s with idle := if d.sessBusy e.1 then s.idle else s.idle + (d.now - s.idleFrom) }
    else { s with idleFrom := d.now }) d

/-- A write of TENANT_CTL: a FREEZE = 0 while SAVED is 1 is discarded (R374). -/
def Dev.tenantCtlWrite (d : Dev) (f : Nat) (w : Wr) : Dev :=
  let was := d.freezing f
  let on := TENANT_CTL.FREEZE.get (w.over (d.reg .TENANT_CTL [f])) ≠ 0
  if w.accepted .TENANT_CTL && d.flag TENANT_CTL.SAVED [f] && was && !on then d.refuse206 .TENANT_CTL [f] w
  else
    let d := if w.accepted .TENANT_CTL && !was && on then (d.pauseIdle f true).freezeWaits f else d
    let d := d.regWrite .TENANT_CTL [f] w
    if was && !d.freezing f then (d.pauseIdle f false).kickAsked f else d

/-- FREEZE (R371): a write of TENANT_CTL with FREEZE 1. -/
def execFreeze (master f size half : Nat) (value : Word) (s : State) : Res := s.run fun _ d =>
  let w : Wr := ⟨master, size, half, value⟩
  if w.placed.getLsbD 0 then d.tenantCtlWrite f w else d

/-- THAW (R374, R375): a write of TENANT_CTL with FREEZE 0. -/
def execThaw (master f size half : Nat) (value : Word) (s : State) : Res := s.run fun _ d =>
  let w : Wr := ⟨master, size, half, value⟩
  if w.placed.getLsbD 0 then d else d.tenantCtlWrite f w

/-- The sum of TENANT_POOL_RESV with a function's reserve changed (R356). -/
def Dev.poolResv (d : Dev) (f resv : Nat) : Nat := d.fld TENANT_POOL_RESV.COUNT - d.fld TENANT_POOL.RESV [f] + resv

/-- A write of TENANT_POOL (R356). -/
def Dev.tenantPoolWrite (d : Dev) (f : Nat) (w : Wr) : Dev :=
  let sum := d.poolResv f (TENANT_POOL.RESV.get (w.over (d.reg .TENANT_POOL [f])))
  if !w.accepted .TENANT_POOL then d.regWrite .TENANT_POOL [f] w
  else if d.fld TENANT_POOL_RESV.COUNT < sum && d.fld TENANT_POOL_TOTAL.COUNT < sum then d.refuse206 .TENANT_POOL [f] w
  else (d.regWrite .TENANT_POOL [f] w).setFld TENANT_POOL_RESV.COUNT sum

/-- The sum of every function's SESSIONS but one's (R398). -/
def Dev.sessionsBut (d : Dev) (f : Nat) : Nat :=
  let lo := RegName.TENANT_TABLES.key [0]
  ((d.regs.filter fun e => lo ≤ e.1 && e.1 ≤ RegName.TENANT_TABLES.key [4351] && (e.1 - lo) % 0x40 = 0 &&
    e.1 ≠ RegName.TENANT_TABLES.key [f]).map fun e => min 1048576 (TENANT_TABLES.SESSIONS.get e.2)).foldl (· + ·) 0

/-- A write of TENANT_TABLES: refused whole if it raises the sum of SESSIONS above DEVICE_SOW_SESS.TOTAL (R398). -/
def Dev.tenantTablesWrite (d : Dev) (f : Nat) (w : Wr) : Dev :=
  let old := min 1048576 (d.fld TENANT_TABLES.SESSIONS [f])
  let new := min 1048576 (TENANT_TABLES.SESSIONS.get (w.over (d.reg .TENANT_TABLES [f])))
  if w.accepted .TENANT_TABLES && d.frozen f && old < new && d.fld DEVICE_SOW_SESS.TOTAL < d.sessionsBut f + new then
    d.refuse206 .TENANT_TABLES [f] w
  else d.regWrite .TENANT_TABLES [f] w (d.frozen f)

/-- FROZEN reads 1 for every function (R352). -/
def Dev.allFrozen (d : Dev) : Bool :=
  let lo := RegName.HOST_FN_STATE.key [0]
  (d.regs.filter fun e => lo ≤ e.1 && e.1 ≤ RegName.HOST_FN_STATE.key [4351]).all fun e => d.frozen ((e.1 - lo) / 16)

/-! ### The mailbox pair (R365 to R370) -/

/-- Puts a notice in a strand's mailbox, or holds it while that is full. -/
def Dev.mbNotice (d : Dev) (k : Nat) (x : Word) : Dev :=
  let ep := epKey 0 k
  if (d.queue ep).length < 16 && !d.ten.notices.any (fun n => n.1 = k) then d.post ep { data := x.zeroExtend 512, sender := tagRing }
  else { d with ten := { d.ten with notices := d.ten.notices ++ [(k, x)] } }

/-- MB_HOST_SEND (R366, R367): the host of function `f` writes a payload and then bytes 0 to 7 of its box. -/
def execMbHostSend (f : Nat) (header : Word) (payload : List (BitVec 8)) (s : State) : Res := s.run fun m d =>
  let a := d.mbAddr f
  if !d.barOk f || bit (d.ld m (a + 7)).toNat 7 then d
  else
    let d := (d.stBytes (a + 64) (payload.take 4032)).stBytes a (leBytes 8 header.toNat)
    if header.getLsbD 63 then
      d.mbNotice (d.fld TENANT_POLICY.MB_STRAND [f])
        (BitVec.ofNat 64 (f + d.gen f * 2 ^ 16 + bits header.toNat 0 32 * 2 ^ 32))
    else d

/-- MB_NOTICE_DELIVER (R366): the oldest held notice whose mailbox has space is delivered. -/
def execMbNoticeDeliver (s : State) : Res := s.run fun _ d =>
  match takeFirst (fun n : Nat × Word => (d.queue (epKey 0 n.1)).length < 16) d.ten.notices with
  | (none, _) => d
  | (some n, rest) =>
    { d with ten := { d.ten with notices := rest } }.post (epKey 0 n.1) { data := n.2.zeroExtend 512, sender := tagRing }

/-- A write of TENANT_MB_RAISE (R368). -/
def Dev.mbRaise (d : Dev) (w : Wr) : Dev :=
  if !w.accepted .TENANT_MB_RAISE then d.regWrite .TENANT_MB_RAISE [] w
  else
    let f := TENANT_MB_RAISE.FUNC.get w.value
    if TENANT_MB_RAISE.GEN.get w.value = d.gen f && d.fnExists f then d.raiseVector f 0
    else d.count .TENANT_STALE_DISCARDS

/-- MB_RAISE (R368). -/
def execMbRaise (master size : Nat) (value : Word) (s : State) : Res := s.run fun _ d =>
  d.mbRaise ⟨master, size, 0, value⟩

/-- MB_HOST_FREE (R369): the host writes bytes 0 to 7 of the manager-to-host box, with FULL clear. -/
def execMbHostFree (f : Nat) (header : Word) (s : State) : Res := s.run fun _ d =>
  if d.barOk f && !header.getLsbD 63 then d.stBytes (d.mbAddr f + 0x1000) (leBytes 8 header.toNat) else d

/-! ### The tenant state record (R376) -/

/-- A section: its head and its body. Empty sections are omitted. -/
def recSection (typ : Nat) (body : List Byte) : List (List Byte) :=
  if body = [] then [] else [leBytes 2 typ ++ leBytes 2 1 ++ leBytes 4 body.length ++ body]

/-- The rings of a kind bound to a function, as (local, global), in local order. -/
def Dev.localRings (d : Dev) (bind : RegName) (f : Nat) : List (Nat × Nat) :=
  let lo := bind.key [0]
  let l := (d.regs.filter fun e => lo ≤ e.1 && e.1 ≤ bind.key [65535] && bit e.2.toNat 63 && bits e.2.toNat 0 13 = f).map
    fun e => (bits e.2.toNat 16 16, (e.1 - lo) / 8)
  l.mergeSort fun a b => decide (a.1 ≤ b.1)

/-- The completion message of a held failure (R320). -/
def Dev.heldMsg (d : Dev) (h : HeldFail) : List Byte :=
  let x := d.drill h.drill
  slice (leBytes 16 h.out.result ++ leBytes 4 h.out.detail ++ leBytes 2 h.out.status ++ leBytes 1 h.entry ++ leBytes 1 1 ++
    leBytes 8 x.workid.toNat ++ leBytes 8 (d.drillAddr h.drill) ++ leBytes 2 x.sq) 0 64

/-- The sections but DROPPED. -/
def Dev.saveSections (d : Dev) (m : Mem) (f : Nat) : List (List Byte) :=
  let word (w : Word) : List Byte := leBytes 8 w.toNat
  let sqs := d.localRings .RINGS_SQ_BIND f
  let cqs := d.localRings .RINGS_CQ_BIND f
  let held := sqs.flatMap fun r => (d.sq r.2).held
  let vec (v : Nat) : List Byte :=
    let x := d.vec f v
    leBytes 8 x.addr ++ leBytes 4 x.data ++ leBytes 4 (b2n x.masked)
  recSection 1 (word (d.reg .TENANT_LIMITS [f]) ++ word (d.reg .TENANT_TABLES [f]) ++ word (d.reg .TENANT_POLICY [f]) ++
    word (d.reg .TENANT_POOL [f]) ++ leBytes 16 0) ++
  recSection 2 (sqs.flatMap fun r => leBytes 2 r.1 ++ leBytes 6 0 ++ word (d.reg .RINGS_SQ_BASE [r.2]) ++
    word (d.sqCtlView r.2) ++ word (d.sqStatusView r.2)) ++
  recSection 3 (cqs.flatMap fun r => leBytes 2 r.1 ++ leBytes 6 0 ++ word (d.reg .RINGS_CQ_BASE [r.2]) ++
    word (d.cqCtlView r.2) ++ word (d.cqStatusView r.2)) ++
  recSection 4 (((d.fn f).bufs.filter fun b => b.2.valid).flatMap fun b =>
    leBytes 4 b.1 ++ leBytes 4 b.2.attr.toNat ++ leBytes 8 b.2.base ++ leBytes 8 b.2.len) ++
  recSection 5 ((List.range (vecCount f)).flatMap vec ++
    (List.range (vecCount f / 64)).flatMap fun i => word (d.pbaWord f i)) ++
  recSection 6 ((List.range 64).flatMap (fun i => slice (tget [] (d.fn f).errlog i) 0 64) ++
    word (d.reg .RINGS_ERRLOG_HEAD [f]) ++ word (d.reg .RINGS_ERRLOG_ACK [f]) ++ word (d.reg .RINGS_ERRLOG_LOST [f])) ++
  recSection 7 (d.ldBytes m (d.mbAddr f) 0x2000) ++
  recSection 8 (held.flatMap fun h => d.ldBytes m (d.drillAddr h.drill) 8192 ++
    (match (d.drill h.drill).code with
      | some c => d.ldBytes m (d.codeBase + 1024 * c) 1024
      | none => leBytes 1024 0) ++ d.heldMsg h)

/-- The open sessions a SAVE closes, as its DROPPED section. -/
def Dev.saveDropped (d : Dev) (f : Nat) : List (List Byte) :=
  recSection 9 ((d.sow.sess.filter fun e => sessFunc e.1 = f && e.2.phase = .opened).flatMap fun e =>
    leBytes 4 (e.1 % 2 ^ 20) ++ leBytes 4 0 ++ leBytes 16 e.2.obj ++ leBytes 8 e.2.fr)

/-- The ledger head the device holds for a tenant: of the ledger homed here, or one that a RESTORE installed. -/
def Dev.headOf (d : Dev) (tenant : Nat) : Option (Nat × List Byte) :=
  match tfind d.sow.ledgers tenant with
  | some l => l.recs.getLast?.map fun r => (l.recs.length, recordDigest r)
  | none => tfind d.ten.heads tenant

/-- The record's header. `newest` is the tenant's newest ledger record as its home elsewhere returns it. -/
def Dev.saveHeader (d : Dev) (f sections len : Nat) (newest : List Byte) : List Byte :=
  let t := d.stamp
  let tenant := d.fld TENANT_ID.TENANT [f]
  let head : Nat × List Byte := match d.headOf tenant with
    | some h => h
    | none => if newest = [] then (0, []) else (leAt newest 8 8, recordDigest newest)
  slice ([0x54, 0x47, 0x54, 0x52] ++ leBytes 2 1 ++ leBytes 2 sections ++ leBytes 4 len ++ leBytes 4 0 ++ leBytes 4 tenant ++
    leBytes 2 (d.fld TENANT_ID.EPOCH [f]) ++ leBytes 2 (d.gen f) ++ leBytes 4 d.node ++ leBytes 2 f ++ leBytes 2 0 ++
    leBytes 6 t.1 ++ leBytes 4 t.2.1 ++ leBytes 1 t.2.2 ++ leBytes 5 0 ++ leBytes 8 head.1 ++ slice head.2 0 32) 0 128

/-- The MAC of a record (R376). With no root for the device's estate the spec gives no key, and the MAC is free. -/
def Dev.recordMac (d : Dev) (tenant epoch : Nat) (body : List Byte) : List Byte × Dev :=
  if d.rootOk then
    let ((k, _), d) := d.deriveKey 0x04 tenant 0 epoch
    (hmac256 (macKey 0x04 k) body, d)
  else ((List.range 32).map (Config.freeByte d.free), { d with free := d.free + 1 })

/-- SAVE's work (R373, R374). -/
def Dev.migSave (d : Dev) (m : Mem) (f : Nat) (newest : List Byte) : Dev :=
  if !d.frozen f || 4352 ≤ f then d.migEnd 1
  else
    let secs := d.saveSections m f ++ d.saveDropped f
    let len := 128 + secs.flatten.length + 32
    let a := (d.reg .TENANT_MIG_ADDR).toNat
    if d.fld TENANT_MIG_LEN.LENGTH < len || !d.inMemory a len then (d.setFld TENANT_MIG_LEN.LENGTH len).migEnd 2
    else
      let body := d.saveHeader f secs.length len newest ++ secs.flatten
      let (mac, d) := d.recordMac (d.fld TENANT_ID.TENANT [f]) (d.fld TENANT_ID.EPOCH [f]) body
      let d := (d.endSessions f).wrMem 0xFFFF a (body ++ mac)
      ((d.setFld TENANT_MIG_LEN.LENGTH len).setFld TENANT_CTL.SAVED 1 [f]).migEnd 0

/-! ### RESTORE (R373, R375, R377) -/

/-- A record's sections by TYPE; `none` where R377 rejects them. `last` is the TYPE before. -/
def readSections : Nat → Nat → List Byte → Option (List (Nat × List Byte))
  | 0, _, _ => some []
  | n + 1, last, l =>
    let typ := leAt l 0 2
    let len := leAt l 4 4
    if l.length < 8 || l.length < 8 + len || len % 8 ≠ 0 || typ ≤ last || (typ ≤ 9 && leAt l 2 2 ≠ 1) ||
        (9 < typ && typ < 0x8000) then none
    else (readSections n typ (l.drop (8 + len))).map fun t => (typ, slice l 8 len) :: t

/-- Consecutive pieces of `n` bytes. -/
def pieces (n : Nat) : Nat → List Byte → List (List Byte)
  | 0, _ => []
  | k + 1, l => if l.length < n || n = 0 then [] else slice l 0 n :: pieces n k (l.drop n)

def piecesOf (n : Nat) (l : List Byte) : List (List Byte) := pieces n (l.length / max 1 n) l

/-- The body of a section of a record. -/
def bodyOf (secs : List (Nat × List Byte)) (typ : Nat) : List Byte :=
  ((secs.find? fun s => s.1 = typ).map Prod.snd).getD []

/-- Rings, vectors or buffer slots of the record lie beyond the function (R373), or its session slots beyond the
device (R398). -/
def Dev.restoreTooLarge (d : Dev) (f : Nat) (secs : List (Nat × List Byte)) : Bool :=
  let ctx := bodyOf secs 1
  let rings (typ lim : Nat) (find : Nat → Option Nat) : Bool :=
    (piecesOf 32 (bodyOf secs typ)).any fun p => lim ≤ leAt p 0 2 || (find (leAt p 0 2)).isNone
  rings 2 (if f < 256 then 65536 else 64) (d.findSq f) || rings 3 (if f < 256 then 65536 else 64) (d.findCq f) ||
  (vecCount f * 16 + vecCount f / 8 < (bodyOf secs 5).length) ||
  ((piecesOf 24 (bodyOf secs 4)).any fun p => min 1048576 (bits (leAt ctx 8 8) 0 21) ≤ leAt p 0 4) ||
  d.fld DEVICE_SOW_SESS.TOTAL < d.sessionsBut f + min 1048576 (bits (leAt ctx 8 8) 32 21) ||
  16384 < d.ring.drills.length + (piecesOf 9280 (bodyOf secs 8)).length

/-- Submission and completion rings as the record has them; a ring with TAIL ahead of HEAD fetches at THAW. -/
def Dev.restoreRings (d : Dev) (f : Nat) (secs : List (Nat × List Byte)) : Dev :=
  let word (p : List Byte) (i : Nat) : Word := BitVec.ofNat 64 (leAt p i 8)
  let d := (piecesOf 32 (bodyOf secs 2)).foldl (fun d p =>
    match d.findSq f (leAt p 0 2) with
    | none => d
    | some g =>
      let st := leAt p 24 8
      let d := d.setReg .RINGS_SQ_BASE (word p 8) [g]
      let d := d.setReg .RINGS_SQ_CTL (RINGS_SQ_CTL.STOPPED.set (word p 16) (RINGS_SQ_CTL.STOPPED.get (d.reg .RINGS_SQ_CTL [g]))) [g]
      d.setSq g { head := bits st 0 16, tail := bits st 16 16, state := bits st 32 4, cause := bits st 48 16, asked := true }) d
  (piecesOf 32 (bodyOf secs 3)).foldl (fun d p =>
    match d.findCq f (leAt p 0 2) with
    | none => d
    | some g =>
      let st := leAt p 24 8
      let d := d.setReg .RINGS_CQ_BASE (word p 8) [g]
      let d := d.setReg .RINGS_CQ_CTL (RINGS_CQ_CTL.STOPPED.set (word p 16) (RINGS_CQ_CTL.STOPPED.get (d.reg .RINGS_CQ_CTL [g]))) [g]
      d.setCq g { tail := bits st 0 16, head := bits st 16 16, phase := bit st 32, config := bit st 34,
                  running := bit (leAt p 16 8) 0 && !bit st 34 }) d

/-- One held drill is installed in ring `g`; where its first entry lay in the ring the record does not say. -/
def Dev.restoreDrill (d : Dev) (f g : Nat) (b : List Byte) : Dev :=
  match d.freeRecord with
  | none => d
  | some r =>
    let es := chunk64 64 b
    let n := (es.takeWhile fun e => !Entry.isLast e).length + 1
    let es := es.take n
    let msg := slice b 9216 64
    let i := leAt msg 22 1
    let done : Tbl Nat := (List.range (min i n)).foldl (fun t j =>
      let v := leAt b (4608 + 2 * j) 2
      if v = 0xFFFF then t else tput t j v) []
    let (w, d) := d.draw
    let x : Drill := { func := f, gen := d.gen f, sq := g, index0 := w.toNat % d.sqSize g, entries := es, phase := .held,
                       won := true, next := i + 1, written := i, done := done, start := i }
    let d := ((d.putDrill r x).stBytes (d.drillAddr r) (slice b 0 8192)).takeCode r
    let out : Outcome16 := { status := leAt msg 20 2, detail := leAt msg 16 4, result := leAt msg 0 16 }
    d.modSq g fun q => { q with held := q.held ++ [⟨r, i, out⟩], dispatched := q.dispatched + 1
                                outstanding := q.outstanding + (n - i) }

/-- The held drills, which the record lists ring by ring: HELD of each ring's status says how many are its own. -/
def Dev.restoreHeld (f : Nat) : List (List Byte) → List (List Byte) → Dev → Dev
  | [], _, d => d
  | ring :: t, held, d =>
    let n := bits (leAt ring 24 8) 36 5
    let d := match d.findSq f (leAt ring 0 2) with
      | some g => (held.take n).foldl (fun d b => d.restoreDrill f g b) d
      | none => d
    Dev.restoreHeld f t (held.drop n) d

/-- MSI-X, error log, buffers and mailbox as the record has them. `src` is how many vectors the record holds: 16 bytes and a
pending bit for each. -/
def Dev.restoreTables (d : Dev) (f : Nat) (secs : List (Nat × List Byte)) : Dev :=
  let x5 := bodyOf secs 5
  let src := 8 * x5.length / 129
  let nv := min (vecCount f) src
  let vec (v : Nat) : Vec :=
    let a := leAt x5 (16 * v) 8
    let w := leAt x5 (16 * v + 8) 4
    { addr := a, data := w, masked := bit (leAt x5 (16 * v + 12) 4) 0, upAddr := a, upData := w,
      pending := bit (leAt x5 (16 * src + v / 8) 1) (v % 8) }
  let x6 := bodyOf secs 6
  let log : Tbl (List Byte) := (List.range 64).foldl (fun t i =>
    let b := slice x6 (64 * i) 64
    if b.all fun y => y = 0 then t else tput t i b) []
  let bufs : Tbl Buf := (piecesOf 24 (bodyOf secs 4)).foldl (fun t p =>
    tset bufInit t (leAt p 0 4) (Sys2Proof.Machine.bufOf (leAt p 8 8) (leAt p 16 8) (BitVec.ofNat 64 (leAt p 4 4)))) []
  let msix : Tbl Vec := (List.range nv).foldl (fun t v => tset vecInit t v (vec v)) []
  let d := d.modFn f fun n => { n with msix := msix, errlog := log, bufs := bufs }
  let d := ((d.setReg .RINGS_ERRLOG_HEAD (BitVec.ofNat 64 (leAt x6 4096 8)) [f]).setReg .RINGS_ERRLOG_ACK
    (BitVec.ofNat 64 (leAt x6 4104 8)) [f]).setReg .RINGS_ERRLOG_LOST (BitVec.ofNat 64 (leAt x6 4112 8)) [f]
  if bodyOf secs 7 = [] then d else d.stBytes (d.mbAddr f) (slice (bodyOf secs 7) 0 0x2000)

/-- The function takes over a record that passed every check (R375). -/
def Dev.restoreInto (d : Dev) (f : Nat) (b : List Byte) (secs : List (Nat × List Byte)) : Dev :=
  let word (i : Nat) : Word := BitVec.ofNat 64 (leAt (bodyOf secs 1) i 8)
  let tenant := leAt b 16 4
  let resv := d.poolResv f (TENANT_POOL.RESV.get (word 24))
  let d := d.setReg .TENANT_ID (BitVec.ofNat 64 (tenant + leAt b 20 2 * 2 ^ 32)) [f]
  let d := ((d.setReg .TENANT_LIMITS (word 0) [f]).setReg .TENANT_TABLES (word 8) [f]).setReg .TENANT_POLICY (word 16) [f]
  let d := ((d.setReg .TENANT_POOL (word 24) [f]).setFld TENANT_POOL_RESV.COUNT resv).setFld TENANT_STATE.GEN (leAt b 22 2) [f]
  let d := (d.restoreRings f secs).restoreTables f secs
  let d := Dev.restoreHeld f (piecesOf 32 (bodyOf secs 2)) (piecesOf 9280 (bodyOf secs 8)) d
  if leAt b 48 8 = 0 || (d.headOf tenant).isSome then d
  else { d with ten := { d.ten with heads := tput d.ten.heads tenant (leAt b 48 8, slice b 56 32) } }

/-- RESTORE's work (R373, R375, R377). -/
def Dev.migRestore (d : Dev) (m : Mem) (f : Nat) : Dev :=
  let a := (d.reg .TENANT_MIG_ADDR).toNat
  let len := d.fld TENANT_MIG_LEN.LENGTH
  if 4352 ≤ f || (d.fnExists f && (!d.freezing f || !d.frozen f)) then d.migEnd 1
  else if len < 160 || !d.inMemory a len then d.migEnd 3
  else
    let (b, d) := d.rdMem m 0xFFFF a len
    let body := slice b 0 (len - 32)
    if slice b 0 4 ≠ [0x54, 0x47, 0x54, 0x52] || leAt b 4 2 ≠ 1 || leAt b 8 4 ≠ len then d.migEnd 3
    else
      match readSections (leAt b 6 2) 0 (body.drop 128) with
      | none => d.migEnd 3
      | some secs =>
        let tenant := leAt b 16 4
        let sum := d.poolResv f (bits (leAt (bodyOf secs 1) 24 8) 0 24)
        let good := d.rootOk
        let (mac, d) := if good then d.recordMac tenant (leAt b 20 2) body else ([], d)
        if !good || mac ≠ slice b (len - 32) 32 then d.migEnd 4
        else if !d.fnExists f || d.liveItems f ≠ 0 || d.staleItems f ≠ 0 || d.flag TENANT_CTL.SAVED [f] then d.migEnd 5
        else if d.restoreTooLarge f secs then d.migEnd 6
        else if d.fld TENANT_POOL_RESV.COUNT < sum && d.fld TENANT_POOL_TOTAL.COUNT < sum then d.migEnd 7
        else if (d.headOf tenant).any fun h => h ≠ (leAt b 48 8, slice b 56 32) then d.migEnd 8
        else (d.restoreInto f b secs).migEnd 0

/-- A write of TENANT_MIG_CTL (R372): GO starts the operation OP names; while GO reads 1 the write is ignored. -/
def Dev.migWrite (d : Dev) (w : Wr) : Dev :=
  if d.flag TENANT_MIG_CTL.GO then d
  else
    let d := d.regWrite .TENANT_MIG_CTL [] w
    let op := d.fld TENANT_MIG_CTL.OP
    if d.flag TENANT_MIG_CTL.GO && op ≠ 1 && op ≠ 2 then d.setFld TENANT_MIG_CTL.GO 0 else d

/-- The operation in progress does its work and ends. `newest` is the tenant's newest ledger record as a ledger home on
another device returns it. -/
def Dev.migRun (d : Dev) (m : Mem) (newest : List Byte) : Dev :=
  let f := d.fld TENANT_MIG_CTL.FUNC
  if !d.flag TENANT_MIG_CTL.GO then d
  else if d.fld TENANT_MIG_CTL.OP = 1 then d.migSave m f newest else d.migRestore m f

/-- SAVE or RESTORE, `op`: the operation that a write of TENANT_MIG_CTL has started ends; with none in progress, the command's
own write starts it first. -/
def Dev.migOp (d : Dev) (m : Mem) (op : Nat) (w : Wr) (newest : List Byte) : Dev :=
  if d.flag TENANT_MIG_CTL.GO then (if d.fld TENANT_MIG_CTL.OP = op then d.migRun m newest else d)
  else if TENANT_MIG_CTL.OP.get (w.over (d.reg .TENANT_MIG_CTL)) = op then (d.migWrite w).migRun m newest
  else d

/-- SAVE (R374): a write of TENANT_MIG_CTL with GO 1 and OP 1, and the operation's end. -/
def execSave (master size half : Nat) (value : Word) (newest : List (BitVec 8)) (s : State) : Res :=
  s.run fun m d => d.migOp m 1 ⟨master, size, half, value⟩ newest

/-- RESTORE (R375): a write of TENANT_MIG_CTL with GO 1 and OP 2, and the operation's end. -/
def execRestore (master size half : Nat) (value : Word) (s : State) : Res :=
  s.run fun m d => d.migOp m 2 ⟨master, size, half, value⟩ []

end Sys2Proof.Machine
end

