-- ==== Sys2Proof/Machine/TineCtl.lean ====
section
/-!
DEFINITION. Control of strands: the TINE blocks, run control, the speculation counters' clearing, and what happens to
the strands of a tine that fails (R166 to R179, R214 to R217).
-/

namespace Sys2Proof.Machine

/-! ### Stopping -/

/-- Strand k has lost its state, and stands stopped with zero registers (R830, R832). -/
def Dev.clearStrand (d : Dev) (k : Nat) : Dev :=
  let s := (d.strand k).discard
  (d.dropReads (.strand k)).setStrand k { mispred := s.mispred, squash := s.squash, lost := s.lost,
                                          regs := { retired := s.regs.retired } }

/-! ### TINE_STRAND_CTL (R169 to R171) -/

/-- Strand k's furrow accepts no work: it, or its plot, is gated (R830). -/
def Dev.strandGated (d : Dev) (k : Nat) : Bool := d.gateState (0x20 + k / 32) ≠ 0 || d.gateState (8 * (k / 128) + 5) ≠ 0

/-- Strand k starts: it runs from its PC (R170). -/
def Strand.start (s : Strand) : Strand := { s with run := true, stopped := false, double := false }

/-- Strand k may start: it is there and not lost, and its furrow accepts work. -/
def Dev.strandReady (d : Dev) (k : Nat) : Bool :=
  d.hasStrand k && !(d.strand k).lost && !d.strandGated k && !d.flt.safe

/-- A write of TINE_STRAND_CTL of strand k: STEP keeps what is written (R169). -/
def Dev.strandCtlWrite (d : Dev) (k : Nat) (w : Wr) : Dev :=
  if !w.accepted .TINE_STRAND_CTL then d.regWrite .TINE_STRAND_CTL [k / 4, k % 4] w
  else if !w.mask.getLsbD 0 || !d.hasStrand k then d
  else d.modStrand k fun s =>
    let s := { s with step := w.placed.getLsbD 2 }
    if w.placed.getLsbD 0 then (if d.strandReady k then s.start else s)
    else if s.run then s.halt else s

/-- STRAND_RUN (R170): RUN is written 1 and STEP 0. -/
def execStrandRun (master k size : Nat) (value : Word) (s : State) : Res := s.run fun _ d =>
  if value.getLsbD 0 && !value.getLsbD 2 then d.strandCtlWrite k ⟨master, size, 0, value⟩ else d

/-- STRAND_STEP (R169): RUN and STEP are written 1. -/
def execStrandStep (master k size : Nat) (value : Word) (s : State) : Res := s.run fun _ d =>
  if value.getLsbD 0 && value.getLsbD 2 then d.strandCtlWrite k ⟨master, size, 0, value⟩ else d

/-- STRAND_STOP (R171): RUN is written 0. -/
def execStrandStop (master k size : Nat) (value : Word) (s : State) : Res := s.run fun _ d =>
  if value.getLsbD 0 then d else d.strandCtlWrite k ⟨master, size, 0, value⟩

/-- STRAND_STOPPED (R171): what the stopping strand issued has completed. -/
def execStrandStopped (k : Nat) (s : State) : Res := s.run fun _ d =>
  let x := d.strand k
  if !x.run && x.wait = none && !x.stopped then d.setStrand k { x with stopped := true } else d

/-! ### The other registers of a TINE block (R166, R172) -/

/-- STATE of a context that holds strand k (R168). A wait beyond an unresolved branch does not show (R197). -/
def Dev.ctxState (d : Dev) (k : Nat) : Nat :=
  let s := d.strand k
  if s.lost then 4 else if s.double then 3 else if s.stopped then 0 else if s.wait.isSome && s.spec = [] then 2 else 1

/-- The registers of a strand as masters see them: those at its oldest unresolved branch (R197, R201). -/
def Strand.shown (s : Strand) : Regs :=
  match s.spec with
  | [] => s.regs
  | c :: _ => { c.saved with pc := c.at', retired := c.saved.retired - 1 }

/-- TINE_STATUS of tine t. CTX0 to CTX3 of a failed tine show the state of its own strands wherever they now run, as CTX4 of
their host tine does too (assumption 142). -/
def Dev.tineStatusView (d : Dev) (t : Nat) : Word :=
  let own := (List.range 4).foldl (fun a c => a + d.ctxState (4 * t + c) * 2 ^ (3 * c)) 0
  let spare := match (d.tineOf t).spare with
    | some k => d.ctxState k * 2 ^ 12 + k % 512 * 2 ^ 15 + 2 ^ 24
    | none => 0
  BitVec.ofNat 64 (own + spare + b2n (d.tineOf t).failed * 2 ^ 25)

/-- What a register of a TINE block reads; `i` holds its tine, strand and index. -/
def Dev.tineView (d : Dev) (r : RegName) (i : List Nat) : Option Word :=
  let k := 4 * i.headD 0 + (i.getD 1 0)
  let s := d.strand k
  match r with
  | .TINE_STATUS => some (d.tineStatusView (i.headD 0))
  | .TINE_STRAND_CTL => some (BitVec.ofNat 64 (b2n s.run + b2n s.stopped * 2 + b2n s.step * 4))
  | .TINE_STRAND_PC => some (BitVec.ofNat 64 s.shown.pc)
  | .TINE_STRAND_CAUSE =>
    some (BitVec.ofNat 64 (s.cause % 256 + b2n s.double * 2 ^ 8 + b2n s.lost * 2 ^ 9 + s.causePc % 2 ^ 48 * 2 ^ 16))
  | .TINE_STRAND_RETIRED => some s.shown.retired
  | .TINE_STRAND_G => some (s.shown.rd (i.getD 2 0))
  | .TINE_STRAND_W => some (BitVec.ofNat 64 (bits (s.shown.rdW (i.getD 2 0)).toNat (64 * i.getD 3 0) 64))
  | .TINE_STRAND_MISPRED => some s.mispred
  | .TINE_STRAND_SQUASH => some s.squash
  | _ => none

/-- A strand's registers with one of PC, g[n] or a lane of w[n] replaced. -/
def Regs.put (r : Regs) (reg : RegName) (n q : Nat) (v : Word) : Regs :=
  match reg with
  | .TINE_STRAND_PC => { r with pc := pcOf v.toNat }
  | .TINE_STRAND_G => r.wr n v
  | .TINE_STRAND_W => r.wrW n (BitVec.ofNat 512 (setBits (r.rdW n).toNat (64 * q) 64 v.toNat))
  | _ => r

/-- A write of PC, g[n] or a lane of w[n]: these change only while the strand is stopped (R172). A value for g0 other than the
0 that it reads is a change too, and refused while the strand runs (assumption 142). -/
def Dev.tineWrite (d : Dev) (r : RegName) (i : List Nat) (w : Wr) : Dev :=
  let k := 4 * i.headD 0 + (i.getD 1 0)
  let s := d.strand k
  let old := (d.tineView r i).getD 0
  let new := w.over old
  let new := if r = .TINE_STRAND_PC then BitVec.ofNat 64 (pcOf new.toNat) else new
  if !w.accepted r then d.regWrite r i w
  else if new = old then d
  else if !s.stopped then d.refuse205 r i w
  else d.setStrand k { s with regs := s.regs.put r (i.getD 2 0) (i.getD 3 0) new }

/-! ### Speculation counters (R217) -/

/-- The eight device counters become 0. -/
def Dev.clearSpec (d : Dev) : Dev :=
  d.zeroRegs [.DEVICE_SPEC_RING_FETCH, .DEVICE_SPEC_RING_DISCARD, .DEVICE_SPEC_RING_HOSTERR, .DEVICE_SPEC_HEDGE_START,
    .DEVICE_SPEC_HEDGE_WON, .DEVICE_SPEC_LOSER, .DEVICE_SPEC_DECRYPT_EARLY, .DEVICE_SPEC_DECRYPT_DISCARD]

/-- Every strand's counters become 0. -/
def Dev.clearTineSpec (d : Dev) : Dev :=
  d.tine.strands.foldl (fun d e => d.modStrand e.1 fun s => { s with mispred := 0, squash := 0 }) d

/-- A write of DEVICE_SPEC_CLR. -/
def Dev.specClrWrite (d : Dev) (w : Wr) : Dev :=
  if !w.accepted .DEVICE_SPEC_CLR then d.regWrite .DEVICE_SPEC_CLR [] w
  else
    let d := if w.value.getLsbD 0 then d.clearSpec else d
    if w.value.getLsbD 1 then d.clearTineSpec else d

/-- SPEC_CLR_DEVICE and SPEC_CLR_TINES (R217): DEVICE, or TINES, of DEVICE_SPEC_CLR is written 1. -/
def execSpecClrDevice (master size : Nat) (s : State) : Res := s.run fun _ d => d.specClrWrite ⟨master, size, 0, 1⟩
def execSpecClrTines (master size : Nat) (s : State) : Res := s.run fun _ d => d.specClrWrite ⟨master, size, 0, 2⟩

/-! ### A failed tine (R176 to R178) -/

/-- The lowest tine of tine t's furrow that has not failed and whose spare context is free. -/
def Dev.spareFor (d : Dev) (t : Nat) : Option Nat :=
  ((List.range 8).map fun i => t / 8 * 8 + i).find? fun u => !(d.tineOf u).failed && (d.tineOf u).spare = none

/-- The strand as it resumes in a spare context after tine `t` failed (R159, R177). Where its state could not be read, its
registers are 0 but those R177 has it keep or resume with: WORKID, the vector base and RETIRED (assumption 104). -/
def Strand.moved (s : Strand) (t : Nat) (readable : Bool) : Strand :=
  let s := { s.discard with wait := none, refetch := false }
  if readable then s
  else
    { s with cause := Exc.lost.code, causePc := 0
             regs := { evec := s.regs.evec, workid := s.regs.workid, wvoid := s.regs.wvoid, retired := s.regs.retired
                       inex := true, ecause := BitVec.ofNat 64 Exc.lost.code, eval := BitVec.ofNat 64 t
                       pc := pcOf (s.regs.evec.toNat + 64 * Exc.lost.code) } }

/-- Strand k of a failed tine moves, or is lost: STRAND_LOST (R178). -/
def Dev.moveStrand (d : Dev) (t k : Nat) (readable : Bool) : Dev :=
  let d := d.dropReads (.strand k)
  match d.spareFor t with
  | some u => (d.modTine u fun x => { x with spare := some k }).modStrand k fun s => s.moved t readable
  | none =>
    (d.modStrand k fun s => { s.discard with run := false, stopped := true, lost := true, wait := none }).report
      { code := 0x0302, kind := 1, unit := k, master := tagStrand k }

/-- Tine t fails: its own strands, then one its spare context holds, move in order. `readable` says of each whether its
state was read out without uncorrectable error. -/
def Dev.tineFail (d : Dev) (t : Nat) (readable : List Bool) : Dev :=
  if !d.hasTine t || (d.tineOf t).failed then d
  else d.recovering fun d =>
    let own := (List.range 4).map fun c => 4 * t + c
    let ks := (own.filter fun k => !(d.strand k).lost &&
      !(d.tine.tines.any fun e => e.2.spare = some k)) ++ (d.tineOf t).spare.toList
    let d := d.setTine t { failed := true }
    let d := ks.zipIdx.foldl (fun d e => d.moveStrand t e.1 (readable.getD e.2 true)) d
    d.report { code := 0x0108, kind := 2, unit := t }

/-- TINE_FAIL (R176). -/
def execTineFail (t : Nat) (readable : List Bool) (s : State) : Res := s.run fun _ d => d.tineFail t readable

end Sys2Proof.Machine
end

