-- ==== Sys2Proof/Machine/FaultReact.lean ====
section
/-!
DEFINITION. The device-wide reactions to faults: the fatal safe state, the pins that follow it, pseudo-channel sparing,
forced and injected faults (R772 to R781).
-/

namespace Sys2Proof.Machine

/-! ### GPIO pins (R838, R839) -/

/-- The level GPIO `i` drives by its function; `none` where it drives none. -/
def Dev.gpioLevel (d : Dev) (i : Nat) : Option Bool :=
  let out := d.flag POWER_GPIO_CFG.OUT [i]
  match d.fld POWER_GPIO_CFG.FUNC [i] with
  | 1 => some out
  | 2 => if out then some false else none
  | 4 => some false
  | 5 => some (!d.flt.safe)
  | _ => none

/-- The pin's driver follows its function, unless the pin parks. -/
def Dev.gpioUpdate (d : Dev) (i : Nat) : Dev :=
  let g := tget ({} : GpioSt) d.pw.gpio i
  let v := d.gpioLevel i
  if d.flag POWER_GPIO_CFG.PARKED [i] || v = g.drives then d
  else { (d.emit (.gpio i v)) with pw := { d.pw with gpio := tset {} d.pw.gpio i { g with drives := v } } }

/-- FATAL_N, and the pins that copy it, follow the safe state (R771). -/
def Dev.fatalPins (d : Dev) : Dev := (List.range 32).foldl Dev.gpioUpdate (d.emit (.pin "FATAL_N" 0 (!d.flt.safe)))

/-! ### The safe state (R772, R773) -/

/-- A strand stops at once. -/
def Strand.freeze (s : Strand) : Strand := { s.discard with run := false, stopped := true, step := false, wait := none }

/-- What is durable of a ledger homed here; every later record is lost. -/
def Ledger.crash (l : Ledger) : Ledger :=
  { l with recs := l.recs.take l.durable, writing := 0, rows := [], copies := [], spare := [] }

/-- Every slot becomes FREE, and what sowing held is lost (R403, R426). -/
def Dev.sowCrash (d : Dev) : Dev :=
  { d with sow := { area := d.sow.area, ledgers := d.sow.ledgers.map fun e => (e.1, e.2.crash) } }

/-- DMA, fold, cipher, parse and TRD engines end their work with no further output; completions of NVMe commands in
flight will be discarded. -/
def Dev.enginesEnd (d : Dev) : Dev :=
  let q := (tfind d.tine.queues (epKey 0xC 0)).getD []
  let late (e : Nat × NvmeCmd) : Nat × NvmeCmd := (e.1, { e.2 with late := true })
  let d := { d with
    tine := { d.tine with queues := tset [] [] (epKey 0xC 0) q }
    fold := []
    cipher := (d.cipher.map fun (e : Nat × CipherSt) =>
      (e.1, ({ coresDown := e.2.coresDown, g2Down := e.2.g2Down } : CipherSt))).filter fun e => e.2 ≠ cipherInit
    dma := (d.dma.map fun (e : Nat × DmaCh) => (e.1, ({ failed := e.2.failed } : DmaCh))).filter fun e => e.2 ≠ ({} : DmaCh)
    stg := { d.stg with qps := d.stg.qps.map fun (e : Nat × QpSt) => (e.1, { e.2 with cmds := e.2.cmds.map late }) }
    net := { d.net with parse := [], trdIn := [], dq := []
                        ports := d.net.ports.map fun (e : Nat × PortSt) => (e.1, { e.2 with sending := none }) }
    trd := { d.trd with flows := [], rx := [] } }
  (List.range 256).foldl (fun d k =>
    let i := [k / 64, k % 64]
    let d := if d.flag DMA_STATUS.ACTIVE i then d.setFld DMA_STATUS.ACTIVE 0 i else d
    if d.flag DMA_STATUS.SHEMPTY i then d else (d.setFld DMA_STATUS.SHEMPTY 1 i).setFld DMA_CTL.GO 0 i) d

/-- Each PF records an Uncorrectable Internal Error in AER (R773). -/
def Dev.aerAll (d : Dev) : Dev :=
  ((List.range 256).filter d.fnExists).foldl (fun d p => d.modFn p fun n => { n with aerStatus := n.aerStatus ||| 2 ^ 22 }) d

/-- The actions of R772, in its order. -/
def Dev.enterSafe (d : Dev) : Dev :=
  let d := { d with flt := { d.flt with safe := true } }.fatalPins
  let d := { d with posted := [], host := { d.host with reads := [] }
                    ring := { d.ring with cpls := [], drills := [], waiters := [], tests := [] }
                    tine := { d.tine with strands := d.tine.strands.map fun (e : Nat × Strand) => (e.1, e.2.freeze) }
                    glean := { d.glean with gleans := [], repairs := [], fixities := [], listed := none } }
  d.enginesEnd.emptyKeys.sowCrash.aerAll

/-- The retained record is that of the first class F fault since the last clear (R774). -/
def Dev.retain (d : Dev) (bytes : List Byte) : Dev :=
  if d.flt.retained then d
  else
    (List.range 8).foldl (fun d i => d.setReg .FAULT_FATAL (BitVec.ofNat 64 (leAt bytes (8 * i) 8)) [i])
      { d with flt := { d.flt with retained := true } }

/-- A class F fault reaches the reaction path: its record, then the safe state (R767, R769, R772, R774). -/
def Dev.goFatal (d : Dev) (r : Report) : Dev :=
  let r := { r with time := d.now, injected := d.flt.injecting }
  let seq := (d.reg .FAULT_RING_SEQ).toNat + 1
  let d := (d.retain (recordBytes seq 3 false false r)).writeRecord 3 false r
  if d.flt.safe then d else d.enterSafe

/-- The UNIT_KIND and UNIT of a class F code (R761, R762); 0x0F02 and the plots and pseudo-channels name a unit. -/
def fatalUnit (code unit : Nat) : Nat × Nat :=
  match code with
  | 0x0F01 => (12, 17)
  | 0x0F02 => (12, if unit = 20 then 20 else 18)
  | 0x0F03 => (12, 19)
  | 0x0F04 => (11, unit % 256)
  | 0x0F05 => (4, unit % 4)
  | 0x0F06 => (0, 0)
  | 0x0F07 => (12, 21)
  | _ => (0, 0)

/-- FATAL_DETECT (R772): a unit detects a class F fault of R761 other than one declared. -/
def execFatalDetect (code unit : Nat) (s : State) : Res := s.manage fun _ d =>
  if 0x0F01 ≤ code && code ≤ 0x0F07 then
    d.goFatal { code := code, kind := (fatalUnit code unit).1, unit := (fatalUnit code unit).2 }
  else d

/-- A write of FAULT_FORCE (R775). -/
def Dev.faultForceWrite (d : Dev) (w : Wr) : Dev :=
  if !w.accepted .FAULT_FORCE then d.regWrite .FAULT_FORCE [] w
  else if bit w.value.toNat 0 then d.goFatal { code := 0x0F08, kind := 0, unit := 0, detail := bits w.value.toNat 16 32 }
  else d

/-- FAULT_FORCE (R775). -/
def execFaultForce (master size : Nat) (value : Word) (s : State) : Res := s.manage fun _ d =>
  d.faultForceWrite ⟨master, size, 0, value⟩

/-! ### Pseudo-channels (R777) -/

/-- A pseudo-channel fails: a free spare of its stack takes its place, and those of its 64-byte lines named, which the copy
cannot read, are marked poisoned; with no spare left the fault is fatal. -/
def Dev.hbmFail (d : Dev) (stack pc : Nat) (badLines : List Nat) : Dev :=
  let key := stack * 64 + pc
  let used := tget 0 d.flt.sparesUsed stack
  if 4 ≤ stack || 64 ≤ pc || (tfind d.flt.pcFailed key).isSome then d
  else if used < 2 then
    let bad := badLines.filter fun l => l < 0x100000000 && l / 64 % 4 = stack && !d.flt.poisoned.contains l
    d.recovering fun d =>
      { d with flt := { d.flt with pcFailed := tput d.flt.pcFailed key true
                                   sparesUsed := tset 0 d.flt.sparesUsed stack (used + 1)
                                   poisoned := d.flt.poisoned ++ bad } }.report { code := 0x010A, kind := 11, unit := key }
  else { d with flt := { d.flt with pcFailed := tput d.flt.pcFailed key false } }.goFatal { code := 0x0F04, kind := 11, unit := key }

/-- HBM_PC_FAIL (R777). -/
def execHbmPcFail (stack pc : Nat) (badLines : List Nat) (s : State) : Res := s.run fun _ d => d.hbmFail stack pc badLines

/-! ### Injection (R780, R781) -/

/-- What the unit a class C or K fault names does about it; other faults are only reported. -/
def Dev.injectAct (d : Dev) (m : Mem) (code kind unit addr : Nat) : Dev :=
  let plain := d.report { code := code, kind := kind, unit := unit, addr := addr }
  let plot := unit / 256 % 4
  match code, kind with
  | 0x0108, 2 => if d.hasTine unit && !(d.tineOf unit).failed then d.tineFail unit [] else plain
  | 0x0109, 6 => if d.netUp unit && d.meshPort unit then d.linkState m unit 3 else plain
  | 0x010A, 11 => if unit < 256 && (tfind d.flt.pcFailed unit).isNone then d.hbmFail (unit / 64) (unit % 64) [] else plain
  | 0x010B, 5 =>
    if unit / 64 % 4 = 1 && unit % 64 < 16 && !(d.ciph plot).coresDown.contains (unit % 64) then
      d.cipherCoreFail plot (unit % 64) else plain
  | 0x0305, 5 =>
    match unit / 64 % 4 with
    | 0 => if unit % 64 < 4 && !d.flag FOLD_STATUS.FAILED [plot, unit % 64] then d.foldUnitFail plot (unit % 64) else plain
    | 1 => if (d.ciph plot).g2Down then plain else d.cipherCoreFail plot 16
    | 2 => if (d.dmaCh plot (unit % 64)).failed then plain else d.dmaChannelFail plot (unit % 64)
    | _ => plain
  | 0x0503, 7 => if d.portUp unit then d.portDown unit 0 else plain
  | _, _ => plain

/-- An injection: FAULT_INJ_CTL holds its code and UNIT_KIND. Every report of the reaction has INJECTED set. -/
def Dev.inject (d : Dev) (m : Mem) : Dev :=
  let code := d.fld FAULT_INJ_CTL.CODE
  let kind := d.fld FAULT_INJ_CTL.UNIT_KIND
  let unit := d.fld FAULT_INJ_UNIT.UNIT
  let addr := d.fld FAULT_INJ_ADDR.ADDR
  let d := { (d.setFld FAULT_INJ_CTL.GO 0) with flt := { d.flt with injecting := true } }
  let d := match faultClass code with
    | some 3 => d.goFatal { code := code, kind := kind, unit := unit, addr := addr }
    | some 1 | some 2 => d.injectAct m code kind unit addr
    | _ => d
  { d with flt := { d.flt with injecting := false } }

/-- A write of FAULT_INJ_CTL, FAULT_INJ_UNIT or FAULT_INJ_ADDR: ignored, unrecorded, while INJ_AVAIL is 0. -/
def Dev.injWrite (d : Dev) (m : Mem) (r : RegName) (w : Wr) : Dev :=
  if !d.injAvail d.boot.factory then d
  else
    let d := d.regWrite r [] w
    if d.flag FAULT_INJ_CTL.GO then d.inject m else d

/-- FAULT_INJECT (R781): a write of FAULT_INJ_CTL. -/
def execFaultInject (master size half : Nat) (value : Word) (s : State) : Res := s.manage fun m d =>
  d.injWrite m .FAULT_INJ_CTL ⟨master, size, half, value⟩

/-- TEST_MODE_CHANGE (R780): the pin's level. -/
def execTestModeChange (level : Bool) (s : State) : Res := s.always fun _ d =>
  { d with flt := { d.flt with testMode := level } }

end Sys2Proof.Machine
end

