-- ==== Sys2Proof/Machine/Felael.lean ====
section
/-!
DEFINITION. The Felael image: LMS signatures under RFC 8554, verification, and the plan (R792 to R796, R810).
-/

namespace Sys2Proof.Machine

/-! ### Results (R796) -/

def brOk : Nat := 0
def brBadFormat : Nat := 1
def brBadPart : Nat := 2
def brBadKey : Nat := 3
def brRevoked : Nat := 4
def brRollback : Nat := 5
def brBadDigest : Nat := 6
def brBadSignature : Nat := 7
def brBadPlan : Nat := 8
def brStalled : Nat := 9
def brRefused : Nat := 10
def brBadCmd : Nat := 11
def brFlashError : Nat := 12
def brLowSequence : Nat := 13
def brFuseError : Nat := 14
def brNoImage : Nat := 15

/-! ### LMS_SHA256_M32_H15 with LMOTS_SHA256_N32_W4 (RFC 8554) -/

/-- The 67 four-bit digits that a message digest signs: 64 of the digest, 3 of its checksum. -/
def otsDigits (q : List Byte) : List Nat :=
  let ds := q.flatMap fun b => [b.toNat / 16, b.toNat % 16]
  let sum := (ds.map fun x => 15 - x).foldl (· + ·) 0
  ds ++ [sum / 256 % 16, sum / 16 % 16, sum % 16]

/-- One hash chain, from step `a` for `n` steps. -/
def otsChain (pre : List Byte) : Nat → Nat → List Byte → List Byte
  | _, 0, t => t
  | a, n + 1, t => otsChain pre (a + 1) n (sha256 (pre ++ beBytes 1 a ++ t))

/-- The one-time public key that a signature of `msg` by leaf `q` implies; `c` is its randomizer, `ys` its 67 values. -/
def otsKey (ident msg c ys : List Byte) (q : Nat) : List Byte :=
  let pre := ident ++ beBytes 4 q
  let ds := otsDigits (sha256 (pre ++ beBytes 2 0x8181 ++ c ++ msg))
  let zs := ds.zipIdx.flatMap fun e => otsChain (pre ++ beBytes 2 e.2) e.1 (15 - e.1) (slice ys (32 * e.2) 32)
  sha256 (pre ++ beBytes 2 0x8080 ++ zs)

/-- The root reached from a node's hash along a path. -/
def lmsClimb (ident path : List Byte) : Nat → Nat → Nat → List Byte → List Byte
  | 0, _, _, t => t
  | n + 1, i, node, t =>
    let sib := slice path (32 * i) 32
    let pair := if node % 2 = 1 then sib ++ t else t ++ sib
    lmsClimb ident path n (i + 1) (node / 2) (sha256 (ident ++ beBytes 4 (node / 2) ++ beBytes 2 0x8383 ++ pair))

/-- A 2,668-byte signature verifies under a 56-byte public key. -/
def lmsVerify (pub sig msg : List Byte) : Bool :=
  let q := beNat (slice sig 0 4)
  let ident := slice pub 8 16
  let kc := otsKey ident msg (slice sig 8 32) (slice sig 40 2144) q
  let leaf := sha256 (ident ++ beBytes 4 (2 ^ 15 + q) ++ beBytes 2 0x8282 ++ kc)
  q < 2 ^ 15 && beNat (slice sig 4 4) = 3 && beNat (slice sig 2184 4) = 7 &&
    lmsClimb ident (slice sig 2188 480) 15 0 (2 ^ 15 + q) leaf = slice pub 24 32

/-! ### Image headers -/

/-- How an image's bytes are read: by offset and length. -/
abbrev ImageAt := Nat → Nat → List Byte

/-- A little-endian field of an image. -/
def imgNat (img : ImageAt) (off n : Nat) : Nat := leNat (img off n)

def imgLen (img : ImageAt) : Nat := imgNat img 8 4
def imgPlanOff (img : ImageAt) : Nat := imgNat img 12 4
def imgSequence (img : ImageAt) : Nat := imgNat img 16 8
def imgRollback (img : ImageAt) : Nat := imgNat img 24 2
def imgFlags (img : ImageAt) : Nat := imgNat img 26 2
def imgEntry (img : ImageAt) : Nat := imgNat img 32 8
def imgKey (img : ImageAt) : Nat := imgNat img 6 2

/-- Every byte of a range is 0. -/
def imgZero (img : ImageAt) (off n : Nat) : Bool := (img off n).all (· = 0)

/-- Check 1 of R793. `lenOk` says whether IMAGE_LEN is what was pushed, or fits the slot. -/
def imgFormat (img : ImageAt) (lenOk : Nat → Bool) : Bool :=
  let len := imgLen img
  let plan := imgPlanOff img
  let entry := imgEntry img
  img 0 4 = [0x46, 0x4C, 0x41, 0x45] && imgNat img 4 2 = 1 && 8192 ≤ len && len ≤ 0x4000000 && lenOk len &&
    plan % 4096 = 0 && 4096 ≤ plan && plan + 4608 ≤ len && entry % 4 = 0 && 4096 ≤ entry && entry + 4 ≤ len &&
    imgKey img ≤ 7 && imgFlags img < 8 && imgZero img 29 3 && imgZero img 40 8 && imgZero img 144 880 && imgZero img 3748 348 &&
    beNat (img 1024 4) = 7 && beNat (img 1028 4) = 3

/-! ### The plan (R794, R795) -/

/-- A plan's entries, each a word with the layout of its register. -/
def planSram (b : List Byte) (p : Nat) : Nat := leAt b (16 + 8 * p) 8
def planCells (b : List Byte) (p : Nat) : Nat := bits (planSram b p) 0 20
def planBufs (b : List Byte) (p : Nat) : Nat := bits (planSram b p) 32 16
def planWriteBuf (b : List Byte) : Nat := leAt b 48 8
def planSess (b : List Byte) : Nat := leAt b 56 8
def planPeer (b : List Byte) : Nat := leAt b 64 8
def planLink (b : List Byte) (l : Nat) : Word := BitVec.ofNat 64 (leAt b (512 + 8 * l) 8)
def planPf (b : List Byte) (p : Nat) : Word := BitVec.ofNat 64 (leAt b (1024 + 8 * p) 8)
def planPort (b : List Byte) (n : Nat) : Word := BitVec.ofNat 64 (leAt b (3072 + 8 * n) 8)

/-- Sowing grain buffers of all plots. -/
def planBufSum (b : List Byte) : Nat := planBufs b 0 + planBufs b 1 + planBufs b 2 + planBufs b 3

/-- MAGIC, VERSION and every reserved bit are as R794 lays them out. -/
def planLaidOut (b : List Byte) : Bool :=
  let z (v lo n : Nat) : Bool := bits v lo n = 0
  slice b 0 4 = [0x46, 0x4C, 0x50, 0x4E] && leAt b 4 2 = 1 && leAt b 7 1 = 0 && leAt b 12 4 = 0 &&
    ((List.range 4).all fun p => z (planSram b p) 20 12 && z (planSram b p) 48 16) &&
    z (planWriteBuf b) 24 2 && z (planWriteBuf b) 48 16 && z (planSess b) 21 5 && z (planSess b) 48 16 &&
    z (planPeer b) 24 40 && (slice b 72 440).all (· = 0) &&
    ((List.range 64).all fun l => z (planLink b l).toNat 27 37) &&
    ((List.range 256).all fun p => z (planPf b p).toNat 21 10 && z (planPf b p).toNat 44 4) &&
    (List.range 192).all fun n => z (planPort b n).toNat 7 57

/-- The PFs of a plan that lie on link `l`, lowest first. -/
def planPfs (b : List Byte) (l : Nat) : List Nat := (List.range 256).filter fun p =>
  HOST_PF_PLAN.PRESENT.get (planPf b p) = 1 && HOST_PF_PLAN.LINK.get (planPf b p) = l

/-- Lane ranges (first, count), each aligned to its width within one strip (R34), do not meet. -/
def lanesApart (l : List (Nat × Nat)) : Bool := decide (l.Pairwise fun a c => a.1 + a.2 ≤ c.1 ∨ c.1 + c.2 ≤ a.1)

/-- The link entries obey R34, R248, R250, R254 and R256. -/
def planLinksOk (b : List Byte) : Bool :=
  let there := (List.range 64).filter fun l => HOST_LINK_PLAN.PRESENT.get (planLink b l) = 1
  let width (l : Nat) : Nat := 2 ^ HOST_LINK_PLAN.WIDTH.get (planLink b l)
  let first (l : Nat) : Nat := HOST_LINK_PLAN.FIRST_LANE.get (planLink b l)
  let link (l : Nat) : Bool :=
    let n := HOST_LINK_PLAN.PF_COUNT.get (planLink b l)
    let p0 := HOST_LINK_PLAN.FIRST_PF.get (planLink b l)
    let vfs (i : Nat) : Nat := HOST_PF_PLAN.TOTAL_VFS.get (planPf b (p0 + i))
    width l ≤ 16 && first l % width l = 0 && n ≤ 4 && planPfs b l = (List.range n).map (p0 + ·) &&
      (List.range n).all fun i =>
        let w := planPf b (p0 + i)
        HOST_PF_PLAN.INDEX.get w = i &&
          (vfs i = 0 || HOST_PF_PLAN.VF_OFFSET.get w = n - i + ((List.range i).map vfs).foldl (· + ·) 0)
  let total := ((List.range 256).map fun p =>
    if HOST_PF_PLAN.PRESENT.get (planPf b p) = 1 then HOST_PF_PLAN.TOTAL_VFS.get (planPf b p) else 0).foldl (· + ·) 0
  there.all link && lanesApart (there.map fun l => (first l, width l)) && there.contains 0 && first 0 = 0 &&
    1 ≤ HOST_LINK_PLAN.PF_COUNT.get (planLink b 0) && total ≤ 4096 &&
    (List.range 256).all fun p => HOST_PF_PLAN.PRESENT.get (planPf b p) = 0 || there.contains (HOST_PF_PLAN.LINK.get (planPf b p))

/-- The storage entries obey R34, lie on storage strips, and on the T256 name no lane it lacks. -/
def planPortsOk (t256 : Bool) (b : List Byte) : Bool :=
  let width (n : Nat) : Nat := 2 ^ STORAGE_PORT_PLAN.WIDTH.get (planPort b n)
  let there := (List.range 192).filter fun n => STORAGE_PORT_PLAN.PRESENT.get (planPort b n) = 1
  (there.all fun n => width n ≤ 16 && n % width n = 0 && (64 ≤ n || leAt b 6 1 = 2)) &&
    lanesApart (there.map fun n => (n, width n)) &&
    (!t256 || (List.range 192).all fun n => planPort b n = 0 || (64 ≤ n && n < 128))

/-- The plan obeys R795. -/
def planOk (t256 : Bool) (b : List Byte) : Bool :=
  let s4 := leAt b 6 1
  let area (base n size limit : Nat) : Bool := n ≤ limit && base * 2 ^ 26 + n * size ≤ 2 ^ 38
  planLaidOut b && (if t256 then s4 = 0 && planSram b 2 = 0 && planSram b 3 = 0 else s4 = 1 || s4 = 2) &&
    ((List.range 4).all fun p => planCells b p * 256 + planBufs b p * 65536 ≤ 0x6000000) &&
    area (bits (planWriteBuf b) 26 22) (bits (planWriteBuf b) 0 24) 65536 3145728 &&
    area (bits (planSess b) 26 22) (bits (planSess b) 0 21) 512 1048576 &&
    planPeer b ≤ planBufSum b && planLinksOk b && planPortsOk t256 b

/-! ### Verification (R793) -/

/-- The rollback counter: one more than the number of its highest blown bit (R809). -/
def BootSt.counter (b : BootSt) : Nat := if b.blown % 2 ^ 256 = 0 then 0 else (b.blown % 2 ^ 256).log2 + 1

/-- IMAGE_VERIFY: the code of the first check that fails, or OK. -/
def Dev.imageVerify (d : Dev) (img : ImageAt) (lenOk : Nat → Bool) : Nat :=
  let t256 : Bool := d.part = .t256
  let pub := img 1024 56
  if !imgFormat img lenOk then brBadFormat
  else if !bit (imgFlags img) (if t256 then 2 else 1) || d.fld DEVICE_IDENT.STEPPING < imgNat img 28 1 then brBadPart
  else if tfind d.boot.keys (imgKey img) ≠ some (sha256 pub) then brBadKey
  else if bit d.boot.revoked (imgKey img) then brRevoked
  else if imgRollback img < d.boot.counter then brRollback
  else if img 48 32 ≠ sha256 (img 4096 (imgLen img - 4096)) then brBadDigest
  else if !lmsVerify pub (img 1080 2668) (img 0 1024) then brBadSignature
  else if !planOk t256 (img (imgPlanOff img) 4608) then brBadPlan
  else brOk

/-- The wake digest of an image (R810). -/
def wakeDigest (img : ImageAt) (len : Nat) : List Byte :=
  sha256 ((List.range ((len + 65535) / 65536)).flatMap fun i => sha256 (img (65536 * i) (min 65536 (len - 65536 * i))))

end Sys2Proof.Machine
end

