-- ==== Sys2Proof/Machine/Boot.lean ====
section
/-!
DEFINITION. The boot ROM: sources of an image, the mailbox, the Zencen loader, release, flash slots and their marks, flash
and fuse operations (R784 to R815).
-/

namespace Sys2Proof.Machine

/-- Where the image lies in HBM (R788). -/
def imageBase : Nat := 0x3F00000000

def Dev.setBoot (d : Dev) (b : BootSt) : Dev := { d with boot := b }
def Dev.phase (d : Dev) : Nat := d.fld BOOT_STATUS.PHASE
def Dev.setPhase (d : Dev) (p : Nat) : Dev := d.setFld BOOT_STATUS.PHASE p
def Dev.bootCode (d : Dev) (code : Nat) : Dev := d.setFld BOOT_RESULT.CODE code

/-- The image in HBM. -/
def Dev.hbmImage (d : Dev) (m : Mem) : ImageAt := fun off n => d.ldBytes m (imageBase + off) n

/-! ### Flash (R799 to R802) -/

/-- Bytes of the flash device; an erased byte reads 0xFF. -/
def Dev.flashRead (d : Dev) (off n : Nat) : List Byte := (List.range n).map fun i => tget 0xFF d.boot.flash (off + i)

/-- Programs bytes: a program clears bits and sets none. -/
def Dev.flashProgram (d : Dev) (off : Nat) (bs : List Byte) : Dev :=
  d.setBoot { d.boot with flash := (bs.zipIdx.foldl (fun t e => tmod 0xFF t (off + e.2) (· &&& e.1)) d.boot.flash) }

/-- Erases a range of whole sectors. -/
def Dev.flashErase (d : Dev) (off n : Nat) : Dev :=
  d.setBoot { d.boot with flash := d.boot.flash.filter fun e => !(off ≤ e.1 && e.1 < off + n) }

/-- Slot 0, A, and 1, B: the image and the state sector. -/
def slotBase (s : Nat) : Nat := s * 0x4000000
def slotState (s : Nat) : Nat := 0x8000000 + s * 0x10000
def Dev.slotImage (d : Dev) (s : Nat) : ImageAt := fun off n => d.flashRead (slotBase s + off) n

/-- Mark `i` of a slot reads set: four or more of its bits read 0 (R800). -/
def Dev.mark (d : Dev) (s i : Nat) : Bool :=
  let b := (d.flashRead (slotState s + i) 1).headD 0xFF
  4 ≤ ((List.range 8).filter fun j => !bit b.toNat j).length

/-- Programs mark `i` of a slot. -/
def Dev.setMark (d : Dev) (s i : Nat) : Dev := d.flashProgram (slotState s + i) [0]

/-- R801. -/
def Dev.candidate (d : Dev) (s : Nat) : Bool := d.mark s 0 && !d.mark s 6 && (d.mark s 5 || (d.mark s 1 && !d.mark s 4))
def Dev.slotPending (d : Dev) (s : Nat) : Bool := d.mark s 1 && !d.mark s 5
def Dev.slotSequence (d : Dev) (s : Nat) : Nat := imgSequence (d.slotImage s)

/-- FLASH_SLOT_SELECT (R784, R802): the exhausted slots are demoted, and the candidates stand in the order they are
tried, the higher SEQUENCE first; slot A wins a tie. -/
def Dev.slotSelect (d : Dev) : Dev :=
  let d := [0, 1].foldl (fun d s => if d.mark s 1 && d.mark s 4 && !d.mark s 5 then d.setMark s 6 else d) d
  let order := if d.slotSequence 0 < d.slotSequence 1 then [1, 0] else [0, 1]
  d.setBoot { d.boot with slots := order.filter d.candidate }

/-! ### Release (R797, R810) -/

/-- S4 takes its personality (R32, R33): network lanes start in MODE 0. -/
def Dev.planStrip (d : Dev) (s4 : Nat) : Dev :=
  let now := d.fld DEVICE_STRIP_PLAN.S4
  if d.part = .t256 then d
  else if now = 0xF then d.setFld DEVICE_STRIP_PLAN.S4 s4
  else if now = s4 then d
  else d.report { code := 0x0104, kind := 0, unit := 0 }

/-- The link plan differs from the one applied (R252). -/
def Dev.linkPlanDiffers (d : Dev) (b : List Byte) : Bool :=
  ((List.range 64).any fun l => d.reg .HOST_LINK_PLAN [l] ≠ planLink b l) ||
  (List.range 256).any fun p => d.reg .HOST_PF_PLAN [p] ≠ planPf b p

/-- The link plan takes effect, once between cold boots (R251, R252). The boot plan no longer is. 0x0104 has UNIT_KIND 0
(R761), so nothing in its record names S7, or S4 (DESIGN CHOICE, assumption 128). -/
def Dev.planLinks (d : Dev) (b : List Byte) : Dev :=
  if d.host.planApplied then
    if d.linkPlanDiffers b then d.report { code := 0x0104, kind := 0, unit := 0 } else d
  else
    let stays := HOST_LINK_PLAN.WIDTH.get (planLink b 0) = 4
    let d := if stays then d else d.linkFall 0
    let d := (List.range 64).foldl (fun d l => d.setReg .HOST_LINK_PLAN (planLink b l) [l]) d
    let d := (List.range 256).foldl (fun d p => d.setReg .HOST_PF_PLAN (planPf b p) [p]) d
    let d := { d with host := { d.host with planApplied := true } }
    let d := ((List.range 256).filter fun p => d.flag HOST_PF_PLAN.PRESENT [p]).foldl (fun d p => d.setFld HOST_FN_STATE.ENABLED 1 [p]) d
    ((List.range 64).filter fun l => d.flag HOST_LINK_PLAN.PRESENT [l] && (l ≠ 0 || !stays)).foldl (fun d l => d.trainLink l) d

/-- The storage plan takes effect, once between cold boots (R595): enabled ports train. -/
def Dev.planPorts (d : Dev) (b : List Byte) (applied : Bool) : Dev :=
  if applied then d
  else
    (List.range 192).foldl (fun d n =>
      let d := d.setReg .STORAGE_PORT_PLAN (planPort b n) [n]
      if d.hasPort n && d.flag STORAGE_PORT_CTL.ENABLE [n] && d.stripOn (4 + n / 64) then d.setFld STORAGE_PORT_STATUS.STATE 1 [n]
      else d) d

/-- Applies a plan. -/
def Dev.applyPlan (d : Dev) (b : List Byte) : Dev :=
  let applied := d.host.planApplied
  let d := ((d.planStrip (leAt b 6 1)).planPorts b applied).planLinks b
  let d := (List.range 4).foldl (fun d p =>
    let d := d.setFld SW_OB_STATUS.TOTAL (planCells b p) [p]
    d.setSow { d.sow with area := tset 0 d.sow.area p (planBufs b p) }) d
  let d := d.setReg .DEVICE_SOW_SESS (BitVec.ofNat 64 (planSess b))
  let d := d.setFld DEVICE_SOW_CTL.PEER_POOL (planPeer b)
  let pool := planBufSum b + bits (planWriteBuf b) 0 24 - planPeer b
  let d := d.setFld TENANT_POOL_TOTAL.COUNT pool
  { d with subsys := leAt b 8 4, boot := { d.boot with writeBuf := planWriteBuf b } }

/-- IMAGE_RELEASE (R797, R810): the image at IMAGE_BASE runs in strand 0, every other strand
stopped (R175), from `source`, and from flash slot `slot` - 1 if any. -/
def Dev.release (d : Dev) (m : Mem) (source slot : Nat) (pending : Bool) : Dev :=
  let img := d.hbmImage m
  let run : RunImage := { len := imgLen img, entry := imgEntry img, rollback := imgRollback img, key := imgKey img,
                          fuseOk := bit (imgFlags img) 0, slot := slot }
  let dig := wakeDigest img run.len
  let d := d.applyPlan (img (imgPlanOff img) 4608)
  let d := (List.range 4).foldl (fun d i => d.setReg .BOOT_WAKE_DIG (BitVec.ofNat 64 (leAt dig (8 * i) 8)) [i]) d
  let d := (((d.setPhase 6).setFld BOOT_STATUS.SOURCE source).setFld BOOT_STATUS.RUN_SLOT slot).setFld BOOT_STATUS.PENDING (b2n pending)
  let d := d.setBoot { d.boot with waiting := false, owner := none, pushed := 0, slots := [], run := some run }
  let d := (d.tine.strands.map Prod.fst).foldl (fun d k => if (d.strand k).run then d.modStrand k Strand.halt else d) d
  let d := d.modStrand 0 fun s =>
    { s with run := true, stopped := false, step := false, double := false, wait := none
             regs := (({ s.regs with pc := pcOf (imageBase + run.entry), drill := false }).wr 1 (BitVec.ofNat 64 imageBase)).wr 2
               (BitVec.ofNat 64 source) }
  d.deadline DEVICE_PACE_DEADLINE.BOOT false

/-! ### The order of sources (R784 to R786) -/

/-- No push and no wait: the next flash slot is loaded, or with none left the ROM waits for a push. -/
def Dev.toFlash (d : Dev) : Dev :=
  let d := d.setBoot { d.boot with waiting := false, owner := none, pushed := 0 }
  d.setPhase (if d.boot.slots = [] then 5 else 4)

/-- Slot `s`'s last verification of this boot. -/
def Dev.slotCode (d : Dev) (s code : Nat) : Dev := d.setFld (if s = 0 then BOOT_RESULT.A_CODE else BOOT_RESULT.B_CODE) code

/-- What the device sees once stores of the command in progress are made: the image just copied. -/
def Dev.copySlot (d : Dev) (s : Nat) : Dev := d.stBytes imageBase (d.slotImage s 0 (imgLen (d.slotImage s)))

/-- The ROM has loaded the slot it tries: `readBad` where a read of flash failed, `tryBad` where programming its TRY mark did.
It releases the image, or turns to the next source. -/
def Dev.slotLoaded (d : Dev) (m : Mem) (readBad tryBad : Bool) : Dev :=
  match d.boot.slots with
  | [] => d
  | s :: t =>
    let code := if readBad then brFlashError else d.imageVerify (d.slotImage s) (fun n => n ≤ 0x4000000)
    let d := (d.setBoot { d.boot with slots := t }).slotCode s code
    if code ≠ brOk then d.toFlash
    else
      let pending := d.slotPending s
      let d := if pending && !tryBad then d.setMark s (if !d.mark s 2 then 2 else if !d.mark s 3 then 3 else 4) else d
      if pending && tryBad then (d.slotCode s brFlashError).toFlash
      else (d.copySlot s).release m (3 + s) (s + 1) pending

/-- BOOT_MAILBOX_OPEN (R784, R785, R821): at 60 ms after supplies become valid, or when the ROM runs again after a warm
restart, the push wait starts. -/
def Dev.mailboxOpen (d : Dev) : Dev :=
  let d := (d.slotSelect).setPhase 1
  d.setBoot { d.boot with waiting := true, waitFrom := d.now, owner := none, pushed := 0 }

def execBootMailboxOpen (s : State) : Res := s.run fun _ d =>
  if d.phase = 0 && d.pw.hbm then
    d.at (if d.fld POWER_STATUS.LAST_RESET = 3 then 0 else d.pw.start + 60000000) Dev.mailboxOpen
  else d

/-- A command of a push path, MGMT_UART if `uart`, keeps its push from stalling. -/
def Dev.pathAlive (d : Dev) (uart : Bool) : Dev :=
  if d.boot.owner = some uart then d.setBoot { d.boot with lastCmd := d.now } else d

/-- A push from a path is allowed: the wait runs, or the ROM waits in Zencen, or the path owns the push (R784, R790, R813). -/
def Dev.mayPush (d : Dev) (uart : Bool) : Bool :=
  match d.boot.owner with
  | some o => o = uart
  | none => d.boot.waiting || d.phase = 5

/-- A chunk is accepted: `bytes` go to IMAGE_BASE + `off`. -/
def Dev.takePush (d : Dev) (uart : Bool) (off : Nat) (bytes : List Byte) : Dev :=
  let d := d.stBytes (imageBase + off) bytes
  (d.setBoot { d.boot with waiting := false, owner := some uart, pushed := max d.boot.pushed (off + bytes.length)
                           lastCmd := d.now }).setPhase 2

/-- PUSH from a path (R788, R790, R791). -/
def Dev.bootPush (d : Dev) (uart : Bool) (off align : Nat) (bytes : List Byte) : Nat × Dev :=
  let d := d.pathAlive uart
  if d.released || d.flt.safe || !d.mayPush uart then (brRefused, d)
  else if bytes = [] || off % align ≠ 0 || 0x4000000 < off + bytes.length then (brBadCmd, d)
  else (brOk, d.takePush uart off bytes)

/-- RELEASE from a path (R786, R789, R790): the pushed image runs, or the ROM turns to the next source. -/
def Dev.bootRelease (d : Dev) (m : Mem) (uart : Bool) : Nat × Dev :=
  let d := d.pathAlive uart
  if d.released || d.flt.safe || d.boot.owner ≠ some uart then (brRefused, d)
  else
    let n := d.boot.pushed
    let code := d.imageVerify (d.hbmImage m) (fun k => k = n)
    if code = brOk then (brOk, d.release m (if uart then 2 else 1) 0 false) else (code, d.toFlash)

/-- FLASH from a path (R785, R813): the push wait ends. -/
def Dev.bootFlash (d : Dev) (uart : Bool) : Nat × Dev :=
  let d := d.pathAlive uart
  if d.released || d.flt.safe || !d.boot.waiting then (brRefused, d) else (brOk, d.toFlash)

/-- A write of BOOT_CMD, by the host through PF0's BAR0 or by a master of control space: OP nonzero starts the
operation, which ends before any later command, so BUSY reads 0. A reserved OP changes no field and ends BAD_CMD. -/
def Dev.bootCmdWrite (d : Dev) (m : Mem) (w : Wr) : Dev :=
  let op := BOOT_CMD.OP.get (w.over (d.reg .BOOT_CMD))
  let starts := w.accepted .BOOT_CMD && BOOT_CMD.OP.mask &&& w.mask ≠ 0
  let d := d.regWrite .BOOT_CMD [] w
  if !starts || op = 0 then d
  else
    let len := d.fld BOOT_CMD.LENGTH
    let r := match op with
      | 1 =>
        if 0x400000 < len then (brBadCmd, d.pathAlive false)
        else d.bootPush false (d.fld BOOT_CMD.OFFSET) 4096 (d.ldBytes m 0x30000400000 len)
      | 2 => d.bootRelease m false
      | 3 => d.bootFlash false
      | _ => (if d.released then brRefused else brBadCmd, d)
    r.2.bootCode r.1

/-- The host of PF0 writes BOOT_CMD through the layout of R787. -/
def Dev.hostBootCmd (d : Dev) (m : Mem) (op off len : Nat) : Dev :=
  if d.barUp 0 && !d.released then
    d.bootCmdWrite m ⟨0x10000, 8, 0, BitVec.ofNat 64 (op + off % 2 ^ 26 * 2 ^ 8 + len % 2 ^ 23 * 2 ^ 34)⟩
  else d

/-- BOOT_PUSH (R788). -/
def execBootPush (off len : Nat) (s : State) : Res := s.run fun m d => d.hostBootCmd m 1 off len

/-- BOOT_RELEASE (R789). -/
def execBootRelease (s : State) : Res := s.run fun m d => d.hostBootCmd m 2 0 0

/-- BOOT_FLASH (R785). -/
def execBootFlash (s : State) : Res := s.run fun m d => d.hostBootCmd m 3 0 0

/-- PUSH_WAIT_EXPIRE (R785): 2 s after the mailbox opened, the slot that the ROM has loaded is released. -/
def execPushWaitExpire (readBad tryBad : Bool) (s : State) : Res := s.run fun m d =>
  if d.boot.waiting then
    d.at (d.boot.waitFrom + 2000000000) fun d => (d.toFlash).slotLoaded m readBad tryBad
  else d

/-- FLASH_SLOT_LOADED (R784, R785): the wait is over, and the ROM has loaded the slot it tries. -/
def execFlashSlotLoaded (readBad tryBad : Bool) (s : State) : Res := s.run fun m d =>
  if d.phase = 4 && !d.boot.waiting then d.slotLoaded m readBad tryBad else d

/-- PUSH_STALL (R786): 2 s without a command of the path that owns the push. -/
def execPushStall (s : State) : Res := s.run fun _ d =>
  if d.boot.owner.isSome && !d.released then
    d.at (d.boot.lastCmd + 2000000000) fun d => (d.bootCode brStalled).toFlash
  else d

/-! ### What the BOOT registers read (R815) -/

/-- BOOT_STATUS. -/
def Dev.bootStatusView (d : Dev) : Word :=
  let left := if d.boot.waiting then (d.boot.waitFrom + 2000000000 - d.now + 999999) / 1000000 else 0
  BOOT_STATUS.COUNTER.set (BOOT_STATUS.WAIT_MS.set (d.reg .BOOT_STATUS) left) d.boot.counter

/-- A slot's byte of BOOT_SLOT_STATE. -/
def Dev.slotMarks (d : Dev) (s : Nat) : Nat :=
  (List.range 7).foldl (fun a i => a + b2n (d.mark s i) * 2 ^ i) 0 + b2n (d.candidate s) * 2 ^ 7

/-- What the BOOT registers read; `none` where the stored word is read. -/
def Dev.bootView (d : Dev) (r : RegName) (i : List Nat) : Option Word :=
  match r with
  | .BOOT_STATUS => some d.bootStatusView
  | .BOOT_SLOT_STATE => some (BitVec.ofNat 64 (d.slotMarks 0 + d.slotMarks 1 * 2 ^ 8))
  | .BOOT_FUSE_STATUS =>
    let prog := (List.range 8).foldl (fun a k => a + b2n (tfind d.boot.keys k).isSome * 2 ^ k) 0
    let key := (d.boot.run.map RunImage.key).getD 0
    some (BitVec.ofNat 64 (prog + d.boot.revoked % 256 * 2 ^ 8 + key % 8 * 2 ^ 16 + d.boot.counter * 2 ^ 19 + b2n d.boot.factory * 2 ^ 28))
  | .BOOT_KEY_DIG => some (BitVec.ofNat 64 (leAt (tget [] d.boot.keys (i.headD 0)) (8 * i.getD 1 0) 8))
  | _ => none

/-! ### The Zencen loader (R791) -/

/-- A frame of the loader. -/
def zencenFrame (typ : Nat) (payload : List Byte) : List Byte :=
  let body := leBytes 1 typ ++ leBytes 2 payload.length ++ payload
  [0x5A, 0xA5] ++ withCrc body

/-- The answer to a frame. -/
def Dev.zencenAnswer (d : Dev) (typ code : Nat) (more : List Byte) : Dev :=
  d.emit (.zencen (zencenFrame typ (leBytes 1 code ++ leBytes 8 d.bootStatusView.toNat ++ more)))

/-- What HELLO's answer adds. -/
def Dev.zencenIdent (d : Dev) : List Byte :=
  leBytes 8 d.identWord.toNat ++ leBytes 8 Config.deviceSerial.toNat ++ sha256 enrolKeys.1

/-- A frame of type `typ` arrives, `crcGood` where its CRC checks. MGMT_UART carries frames until release. -/
def Dev.zencen (d : Dev) (m : Mem) (typ : Nat) (payload : List Byte) (crcGood : Bool) : Dev :=
  if d.released then d
  else if !crcGood || 4096 < payload.length then d.zencenAnswer 0xFF brBadCmd []
  else
    let bare := payload = []
    let r := match typ with
      | 1 => (if bare then brOk else brBadCmd, d.pathAlive true)
      | 2 => d.bootPush true (leAt payload 0 4) 4 (payload.drop 4)
      | 3 => if bare then d.bootRelease m true else (brBadCmd, d)
      | 4 => if bare then d.bootFlash true else (brBadCmd, d)
      | 5 => (if bare then brOk else brBadCmd, d.pathAlive true)
      | _ => (brBadCmd, d)
    let d := if 2 ≤ typ && typ ≤ 4 then r.2.bootCode r.1 else r.2
    d.zencenAnswer (typ % 128 + 0x80) r.1 (if typ = 1 && bare then d.zencenIdent else [])

/-- ZENCEN_HELLO, ZENCEN_PUSH, ZENCEN_RELEASE, ZENCEN_FLASH and ZENCEN_STATUS (R791). -/
def execZencenHello (payload : List Byte) (crcGood : Bool) (s : State) : Res := s.manage fun m d => d.zencen m 1 payload crcGood
def execZencenPush (payload : List Byte) (crcGood : Bool) (s : State) : Res := s.manage fun m d => d.zencen m 2 payload crcGood
def execZencenRelease (payload : List Byte) (crcGood : Bool) (s : State) : Res := s.manage fun m d => d.zencen m 3 payload crcGood
def execZencenFlash (payload : List Byte) (crcGood : Bool) (s : State) : Res := s.manage fun m d => d.zencen m 4 payload crcGood
def execZencenStatus (payload : List Byte) (crcGood : Bool) (s : State) : Res := s.manage fun m d => d.zencen m 5 payload crcGood

/-! ### Flash operations (R803 to R805) -/

/-- What a device does wrong in an operation: `flash` a read that failed, or a program or erase that did not verify; `fuse` a bit that does not read blown. -/
structure OpFlaw where
  flash : Bool := false
  fuse : Bool := false
  deriving DecidableEq, Repr

def Dev.runSlot (d : Dev) (s : Nat) : Bool := d.fld BOOT_STATUS.RUN_SLOT = s + 1
def Dev.runPending (d : Dev) : Bool := d.flag BOOT_STATUS.PENDING

/-- Programs bytes and verifies them. -/
def Dev.programVerify (d : Dev) (off : Nat) (bs : List Byte) (bad : Bool) : Nat × Dev :=
  let d := d.flashProgram off bs
  (if bad || d.flashRead off bs.length ≠ bs then brFlashError else brOk, d)

/-- Raises the counter to `v` (R809): bit v - 1 is blown. -/
def Dev.fuseRaise (d : Dev) (bad : Bool) : Nat × Dev :=
  match d.boot.run with
  | none => (brRefused, d)
  | some r =>
    if !r.fuseOk then (brRefused, d)
    else if r.rollback ≤ d.boot.counter || 256 < r.rollback then (brOk, d)
    else if bad then (brFuseError, d)
    else (brOk, d.setBoot { d.boot with blown := d.boot.blown ||| 2 ^ (r.rollback - 1) })

/-- CONFIRM: the running slot's mark when it is pending, then the raise. -/
def Dev.flashConfirm (d : Dev) (raise : Bool) (bad : OpFlaw) : Nat × Dev :=
  let slot := d.fld BOOT_STATUS.RUN_SLOT - 1
  let r := if d.runPending && d.fld BOOT_STATUS.RUN_SLOT ≠ 0 then d.programVerify (slotState slot + 5) [0] bad.flash else (brOk, d)
  if r.1 ≠ brOk then r
  else
    let d := r.2.setFld BOOT_STATUS.PENDING 0
    if raise then d.fuseRaise bad.fuse else (brOk, d)

/-- VERIFY: a slot whose header is erased holds no image that VERIFY can read. -/
def Dev.flashVerify (d : Dev) (slot : Nat) (bad : Bool) : Nat × Dev :=
  if bad then (brFlashError, d)
  else if (d.slotImage slot 0 4).all (· = 0xFF) then (brNoImage, d)
  else
    let code := d.imageVerify (d.slotImage slot) (fun n => n ≤ 0x4000000)
    if code = brOk then d.programVerify (slotState slot) [0] false else (code, d)

/-- ACTIVATE (R805). -/
def Dev.flashActivate (d : Dev) (slot : Nat) (bad : Bool) : Nat × Dev :=
  let other := 1 - slot
  if !d.mark slot 0 || d.mark slot 1 || d.runSlot slot then (brRefused, d)
  else if d.candidate other && d.slotSequence slot ≤ d.slotSequence other then (brLowSequence, d)
  else d.programVerify (slotState slot + 1) [0] bad

/-- The operation of BOOT_FLASH_CMD: its result, and its effect. -/
def Dev.flashRun (d : Dev) (m : Mem) (op : Nat) (bad : OpFlaw) : Nat × Dev :=
  let slot := d.fld BOOT_FLASH_CMD.SLOT
  let off := d.fld BOOT_FLASH_CMD.OFFSET
  let len := d.fld BOOT_FLASH_CMD.LENGTH
  let addr := d.fld BOOT_FLASH_ADDR.ADDR
  let source := d.ldBytes m addr len
  let limits (top : Nat) (memory : Bool) : Bool := len ≤ 0x400000 && off + len ≤ top && (!memory || d.inMemory addr len)
  match op with
  | 1 =>
    if d.runSlot slot || d.runPending then (brRefused, d)
    else if bad.flash then (brFlashError, d)
    else (brOk, (d.flashErase (slotBase slot) 0x4000000).flashErase (slotState slot) 0x10000)
  | 2 =>
    if d.runSlot slot || d.runPending || d.mark slot 0 then (brRefused, d)
    else if !limits 0x4000000 true then (brBadCmd, d)
    else (d.noteAbsent 0xFFFF addr len).programVerify (slotBase slot + off) source bad.flash
  | 3 => d.flashVerify slot bad.flash
  | 4 => d.flashActivate slot bad.flash
  | 5 => d.flashConfirm (d.flag BOOT_FLASH_CMD.RAISE) bad
  | 6 =>
    if !limits (2 ^ 28) true then (brBadCmd, d)
    else if bad.flash then (brFlashError, d)
    else (brOk, d.wrMem 0xFFFF addr (d.flashRead off len))
  | 7 =>
    if off < 0x8020000 then (brRefused, d)
    else if bad.flash then (brFlashError, d)
    else (brOk, d.flashErase (off / 0x10000 * 0x10000) 0x10000)
  | 8 =>
    if off < 0x8020000 then (brRefused, d)
    else if !limits (2 ^ 28) true then (brBadCmd, d)
    else (d.noteAbsent 0xFFFF addr len).programVerify off source bad.flash
  | _ => (brBadCmd, d)

/-- A write of BOOT_FLASH_CMD: OP nonzero starts the operation, which ends before any later command (R803). -/
def Dev.flashCmdWrite (d : Dev) (m : Mem) (w : Wr) (bad : OpFlaw) : Dev :=
  let op := BOOT_FLASH_CMD.OP.get (w.over (d.reg .BOOT_FLASH_CMD))
  let starts := w.accepted .BOOT_FLASH_CMD && BOOT_FLASH_CMD.OP.mask &&& w.mask ≠ 0
  let d := d.regWrite .BOOT_FLASH_CMD [] w
  if !starts || op = 0 then d
  else
    let r := d.flashRun m op bad
    r.2.setFld BOOT_FLASH_CMD.RESULT r.1

/-- The command word of a flash operation. -/
def flashWord (op slot raise off len : Nat) : Word :=
  BitVec.ofNat 64 (op + slot % 2 * 2 ^ 4 + raise % 2 * 2 ^ 5 + off % 2 ^ 28 * 2 ^ 8 + len % 2 ^ 23 * 2 ^ 36)

/-- ERASE_SLOT (R803, R804). -/
def execEraseSlot (master slot : Nat) (bad : Bool) (s : State) : Res := s.run fun m d =>
  d.flashCmdWrite m ⟨master, 8, 0, flashWord 1 slot 0 0 0⟩ { flash := bad }

/-- FLASH_PROGRAM (R803, R804): the operation PROGRAM. -/
def execFlashProgram (master slot off len : Nat) (bad : Bool) (s : State) : Res := s.run fun m d =>
  d.flashCmdWrite m ⟨master, 8, 0, flashWord 2 slot 0 off len⟩ { flash := bad }

/-- FLASH_VERIFY (R793, R803): the operation VERIFY. -/
def execFlashVerify (master slot : Nat) (bad : Bool) (s : State) : Res := s.run fun m d =>
  d.flashCmdWrite m ⟨master, 8, 0, flashWord 3 slot 0 0 0⟩ { flash := bad }

/-- ACTIVATE (R803, R805). -/
def execActivate (master slot : Nat) (bad : Bool) (s : State) : Res := s.run fun m d =>
  d.flashCmdWrite m ⟨master, 8, 0, flashWord 4 slot 0 0 0⟩ { flash := bad }

/-- CONFIRM (R803, R805, R809). -/
def execConfirm (master raise : Nat) (flashBad fuseBad : Bool) (s : State) : Res := s.run fun m d =>
  d.flashCmdWrite m ⟨master, 8, 0, flashWord 5 0 raise 0 0⟩ { flash := flashBad, fuse := fuseBad }

/-- FLASH_READ (R803): the operation READ. -/
def execFlashRead (master off len : Nat) (bad : Bool) (s : State) : Res := s.run fun m d =>
  d.flashCmdWrite m ⟨master, 8, 0, flashWord 6 0 0 off len⟩ { flash := bad }

/-- ERASE_RAW (R803, R804). -/
def execEraseRaw (master off : Nat) (bad : Bool) (s : State) : Res := s.run fun m d =>
  d.flashCmdWrite m ⟨master, 8, 0, flashWord 7 0 0 off 0⟩ { flash := bad }

/-- PROGRAM_RAW (R803, R804). -/
def execProgramRaw (master off len : Nat) (bad : Bool) (s : State) : Res := s.run fun m d =>
  d.flashCmdWrite m ⟨master, 8, 0, flashWord 8 0 0 off len⟩ { flash := bad }

/-! ### Fuse operations (R807, R808) -/

/-- The operation of BOOT_FUSE_CMD. A key whose bits do not all read blown leaves a slot that holds a free value. -/
def Dev.fuseRun (d : Dev) (m : Mem) (op : Nat) (bad : Bool) : Nat × Dev :=
  let k := d.fld BOOT_FUSE_CMD.SLOT
  let addr := d.fld BOOT_FLASH_ADDR.ADDR
  if !d.boot.run.any RunImage.fuseOk then (brRefused, d)
  else if op = 1 then
    if (tfind d.boot.keys k).isSome then (brRefused, d)
    else if !d.inMemory addr 32 then (brBadCmd, d)
    else if bad then
      let r := d.drawBytes 32
      (brFuseError, r.2.setBoot { r.2.boot with keys := tput r.2.boot.keys k r.1 })
    else
      let r := d.rdMem m 0xFFFF addr 32
      (brOk, r.2.setBoot { r.2.boot with keys := tput r.2.boot.keys k r.1 })
  else
    let good := (List.range 8).filter fun j => (tfind d.boot.keys j).isSome && !bit d.boot.revoked j
    if d.boot.run.any (fun r => r.key = k) || good = [k] then (brRefused, d)
    else if bad then (brFuseError, d)
    else (brOk, d.setBoot { d.boot with revoked := d.boot.revoked ||| 2 ^ k })

/-- A write of BOOT_FUSE_CMD (R803, R807). -/
def Dev.fuseCmdWrite (d : Dev) (m : Mem) (w : Wr) (bad : Bool) : Dev :=
  let starts := w.accepted .BOOT_FUSE_CMD && BOOT_FUSE_CMD.OP.mask &&& w.mask ≠ 0
  let d := d.regWrite .BOOT_FUSE_CMD [] w
  let op := d.fld BOOT_FUSE_CMD.OP
  if starts && (op = 1 || op = 2) then
    let r := d.fuseRun m op bad
    r.2.setFld BOOT_FUSE_CMD.RESULT r.1
  else d

/-- PROGRAM_KEY (R808). -/
def execProgramKey (master slot : Nat) (bad : Bool) (s : State) : Res := s.run fun m d =>
  d.fuseCmdWrite m ⟨master, 8, 0, BitVec.ofNat 64 (1 + slot % 8 * 4)⟩ bad

/-- REVOKE (R808). -/
def execRevoke (master slot : Nat) (bad : Bool) (s : State) : Res := s.run fun m d =>
  d.fuseCmdWrite m ⟨master, 8, 0, BitVec.ofNat 64 (2 + slot % 8 * 4)⟩ bad

end Sys2Proof.Machine
end

