-- ==== Sys2Proof/Machine/ConfigSpace.lean ====
section
/-!
DEFINITION. What a function's configuration space shows the host: its identity, its capabilities, and the fields of them that
follow the device's state (R79, R251, R256 to R260, R287). No command reads it: a configuration request is answered while
`Dev.cfgOk` holds, and changes nothing.
-/

namespace Sys2Proof.Machine

/-! ### Identity (R258) -/

/-- Who a function says it is. -/
structure CfgIdent where
  vendor : BitVec 16
  device : BitVec 16
  classCode : BitVec 24
  revision : BitVec 8
  subsystem : BitVec 32
  deriving DecidableEq, Repr

/-- The identity of function `f`. A VF's own Device ID is the VF Device ID of its PF's SR-IOV capability. -/
def Dev.cfgIdent (d : Dev) (f : Nat) : CfgIdent :=
  { vendor := Config.vendorId
    device := match d.part, decide (f < 256) with
      | .t512, true => 0x0512
      | .t512, false => 0x1512
      | .t256, true => 0x0256
      | .t256, false => 0x1256
    classCode := 0x120000
    revision := 0xB0
    subsystem := BitVec.ofNat 32 d.subsys }

/-! ### Capabilities (R259) -/

inductive Cap where
  | pciExpress | powerManagement | msix | aer | ari | sriov | ats | pasid | serialNumber | physical16 | physical32
  | physical64 | physical128 | laneMargining | dataLinkFeature | flitLogging
  deriving DecidableEq, Repr

/-- The capabilities that only the PF at ARI function 0 of a link carries. -/
def linkCaps : List Cap :=
  [.physical16, .physical32, .physical64, .physical128, .laneMargining, .dataLinkFeature, .flitLogging]

/-- The capabilities of function `f`. A VF uses its PF's PASID capability. -/
def Dev.capList (d : Dev) (f : Nat) : List Cap :=
  if 256 ≤ f then [.pciExpress, .msix, .ari, .ats]
  else [.pciExpress, .powerManagement, .msix, .aer, .ari, .sriov, .ats, .pasid, .serialNumber] ++
    if d.fld HOST_PF_PLAN.INDEX [f] = 0 then linkCaps else []

/-- Settings of the capabilities that are the same in every function that has them. -/
structure CfgSettings where
  /-- PCI Express. -/
  flr : Bool := true
  cplTimeoutRanges : List Char := ['A', 'B', 'C', 'D']
  cplTimeoutDisable : Bool := false
  /-- Power Management. -/
  d1 : Bool := false
  d2 : Bool := false
  pmeFromD0 : Bool := true
  pmeFromD3hot : Bool := true
  pmeFromD3cold : Bool := true
  noSoftReset : Bool := true
  /-- SR-IOV: VF Stride (R256) and the size of VF BAR0 (R79). -/
  vfStride : Nat := 1
  vfBar0 : Nat := 0x10000
  /-- ATS: Invalidate Queue Depth, 0 for 32. -/
  invalidateQueueDepth : Nat := 0
  /-- PASID. -/
  maxPasidWidth : Nat := 20
  executePermission : Bool := false
  privilegedMode : Bool := false
  deriving DecidableEq, Repr

def cfgSettings : CfgSettings := {}

/-- Device Serial Number. -/
def cfgSerial : BitVec 64 := Config.deviceSerial

/-- MSI-X Table Size: vectors of the function. -/
def cfgVectors (f : Nat) : Nat := vecCount f

/-- SR-IOV of a PF: TotalVFs, NumVFs, VF Enable and First VF Offset (R256, R257). -/
structure CfgSriov where
  totalVfs : Nat
  numVfs : Nat
  vfEnable : Bool
  firstVfOffset : Nat
  deriving DecidableEq, Repr

def Dev.cfgSriov (d : Dev) (p : Nat) : CfgSriov :=
  { totalVfs := d.fld HOST_PF_PLAN.TOTAL_VFS [p], numVfs := (d.fn p).numVfs, vfEnable := (d.fn p).vfEnable
    firstVfOffset := d.fld HOST_PF_PLAN.VF_OFFSET [p] }

/-- The Multi-Function bit: 1 from the first configuration request onward, though before release there is only PF0 (R251). -/
def cfgMultiFunction : Bool := true

/-- The Power State field of a PF's Power Management capability (R287, R289). -/
def Dev.cfgPowerState (d : Dev) (p : Nat) : Nat := d.fld HOST_FN_STATE.DSTATE [p]

end Sys2Proof.Machine
end

