-- ==== Sys2Proof/Machine/Power.lean ====
section
/-!
DEFINITION. Gating of blocks and GPIO pins: the POWER block (R829 to R835, R838 to R840).
-/

namespace Sys2Proof.Machine

/-! ### What a gate reaches (R829) -/

/-- The part has gate `g`. -/
def Dev.hasGate (d : Dev) (g : Nat) : Bool :=
  ((g < 32 && g % 8 ≤ 5) || (0x20 ≤ g && g ≤ 0x36)) && !(d.part = .t256 && absentGate g)

/-- The plot blocks (plot, block), the furrows and the strips behind gate `g`. -/
def gateBlocks (g : Nat) : List (Nat × Nat) :=
  if 32 ≤ g then [] else if g % 8 = 5 then (List.range 5).map (g / 8, ·) else [(g / 8, g % 8)]
def gateFurrows (g : Nat) : List Nat :=
  if g < 32 then (if g % 8 = 5 then (List.range 4).map (4 * (g / 8) + ·) else []) else if g < 0x30 then [g - 0x20] else []
def gatePlot (g : Nat) : Option Nat := if g < 32 && g % 8 = 5 then some (g / 8) else none

/-- Strands of a furrow. -/
def furrowStrands (f : Nat) : List Nat := (List.range 32).map (32 * f + ·)

/-! ### Draining (R830) -/

/-- A plot's block still holds work. -/
def Dev.blockBusy (d : Dev) (p b : Nat) : Bool :=
  match b with
  | 0 => (List.range 4).any fun u => (d.foldU p u).job.isSome || d.queue (epKey 0x4 (4 * p + u)) ≠ []
  | 1 => (d.ciph p).job.isSome || d.queue (epKey 0x6 p) ≠ []
  | 2 => (List.range 64).any fun c => d.dmaActive p c || !d.flag DMA_STATUS.SHEMPTY [p, c] || (d.dmaCh p c).held ≠ []
  | 3 => d.net.parse.any fun x => !x.2 && plotOfLane x.1.port = p
  | _ => d.queue (epKey 0xA p) ≠ [] || d.trd.flows.any fun e => flowSplot e.1 = p && e.2.cmds.any fun c => !c.dead

/-- Gate `g`'s block still holds work. -/
def Dev.gateBusy (d : Dev) (g : Nat) : Bool :=
  (gateBlocks g).any (fun e => d.blockBusy e.1 e.2) || (gateFurrows g).any fun f => (furrowStrands f).any fun k => !(d.strand k).stopped

/-- What a fold, cipher or DMA block does 80 µs after its gate request: commands it still holds end FALLOW (R414, R466,
R511, R620). -/
def Dev.blockCutoff (d : Dev) (p b : Nat) : Dev :=
  match b with
  | 0 => ((d.foldCutoff p).sowGated p).gleanGated p
  | 1 => ((d.cipherCutoff p).sowGated p).gleanGated p
  | 2 => d.dmaCutoff p
  | _ => d

/-- The end of a plot block's drain: whatever work is left ends FALLOW. -/
def Dev.blockEnd (d : Dev) (m : Mem) (p b : Nat) : Dev :=
  match b with
  | 3 => d.parseRelease m p
  | 4 => d.trdFallow m p
  | _ => d.blockCutoff p b

/-- A whole plot's switch quarter, delivery queues and buffer manager lose what they hold. -/
def Dev.plotLost (d : Dev) (p : Nat) : Dev :=
  let mine (n : Nat) : Bool := n < 320 && plotOfLane n = p
  let d := { d with net := { d.net with
    parse := d.net.parse.filter fun x => !mine x.1.port
    waits := d.net.waits.filter fun w => !mine w.frame.port
    ents := d.net.ents.filter fun e => e.plot ≠ p
    dq := d.net.dq.filter fun e => e.1 / 256 ≠ p
    trdIn := d.net.trdIn.filter fun e => e.1 ≠ p
    ports := d.net.ports.map fun (e : Nat × PortSt) => if mine e.1 then (e.1, { e.2 with sending := none }) else e } }
  ((d.sowBuffersLost p).setBufm p {}).settle

/-- The drain of gate `g`'s block ends (R830, R831). -/
def Dev.gateEnd (d : Dev) (m : Mem) (g : Nat) : Dev :=
  let d := (gateBlocks g).foldl (fun d e => d.blockEnd m e.1 e.2) d
  let d := ((gateFurrows g).flatMap furrowStrands).foldl Dev.clearStrand d
  match gatePlot g with
  | some p => d.plotLost p
  | none => d

/-- A strip's ports go down (R600, R640, R830). -/
def Dev.stripDown (d : Dev) (m : Mem) (s : Nat) : Dev :=
  let lanes := (List.range 64).map (64 * s + ·)
  let d := (lanes.filter fun n => d.netLane n && d.fld NET_PORT_STATUS.STATE [n] ≠ 0 && d.fld NET_PORT_STATUS.STATE [n] ≠ 5).foldl
    (fun d n => (d.modPort n fun p => { p with sending := none }).linkState m n 0) d
  if s < 4 then d else ((lanes.map (· - 256)).filter d.portUp).foldl (fun d n => d.portDown n 0) d

def Dev.setGate (d : Dev) (g state : Nat) (v : GateSt) : Dev :=
  { (d.setFld POWER_GATE.STATE state [g]) with pw := { d.pw with gates := tset {} d.pw.gates g v } }

/-- REQ = 1 takes effect on a block that is ON (R830): its strands stop, its ports go down, and strands that wait at its
endpoints raise FALLOW. -/
def Dev.gateStart (d : Dev) (m : Mem) (g : Nat) : Dev :=
  let d := d.setGate g 1 { since := d.now }
  let d := ((gateFurrows g).flatMap furrowStrands).foldl (fun d k =>
    if (d.strand k).run then d.modStrand k Strand.halt else d) d
  let d := if 0x30 ≤ g then d.stripDown m (g - 0x30) else d
  d.queueFallow

/-- The block returns with no work and no internal state, and its memory holds undefined values (R832). -/
def Dev.blockClear (d : Dev) (p b : Nat) : Dev :=
  match b with
  | 0 => (List.range 4).foldl (fun d u => if d.flag FOLD_STATUS.FAILED [p, u] then d else d.setFoldU p u {}) d
  | 1 => d.setCiph p { coresDown := (d.ciph p).coresDown, g2Down := (d.ciph p).g2Down }
  | _ => d

def Dev.gateWake (d : Dev) (g : Nat) : Dev :=
  let d := (gateBlocks g).foldl (fun d e => d.blockClear e.1 e.2) d
  let fs := gateFurrows g
  let d := (fs.flatMap furrowStrands).foldl Dev.clearStrand d
  let d := fs.foldl (fun d f => d.undefine (0x10000000000 + f * 0x400000) 0x400000) d
  let d := match gatePlot g with
    | some p => d.undefine (0x20000000000 + p * 0x8000000) 0x6000000
    | none => d
  d.setGate g 3 { since := d.now }

/-- A write of POWER_GATE of gate `g`. An absent block's gate ignores it (R831); one the fault collector has failed stays
fallow (R832). -/
def Dev.gateWrite (d : Dev) (m : Mem) (g : Nat) (w : Wr) : Dev :=
  if !d.hasGate g then d
  else
    let d := d.regWrite .POWER_GATE [g] w
    let req := d.flag POWER_GATE.REQ [g]
    match d.gateState g with
    | 0 => if req then d.gateStart m g else d
    | 2 => if req || d.flag POWER_GATE.FAILED [g] then d else d.gateWake g
    | _ => d

/-- POWER_GATE_REQUEST (R830): REQ is written 1. -/
def execPowerGateRequest (master g size half : Nat) (value : Word) (s : State) : Res := s.run fun m d =>
  if value.getLsbD 0 then d.gateWrite m g ⟨master, size, half, value⟩ else d

/-- POWER_GATE_RELEASE (R832): REQ is written 0. -/
def execPowerGateRelease (master g size half : Nat) (value : Word) (s : State) : Res := s.run fun m d =>
  if value.getLsbD 0 then d else d.gateWrite m g ⟨master, size, half, value⟩

/-- GATE_DRAIN_CUTOFF (R466, R511, R620): 80 µs after the request. -/
def execGateDrainCutoff (g : Nat) (s : State) : Res := s.run fun _ d =>
  let v := tget ({} : GateSt) d.pw.gates g
  if d.hasGate g && d.gateState g = 1 && !v.cut then
    d.at (v.since + 80000) fun d =>
      (gateBlocks g).foldl (fun d e => d.blockCutoff e.1 e.2) (d.setGate g 1 { v with cut := true })
  else d

/-- The drain ends and STATE reads FALLOW; with REQ 0 by then the block turns to WAKING at once (R832). -/
def Dev.gateDrained (d : Dev) (m : Mem) (g : Nat) : Dev :=
  let d := ((d.gateEnd m g).setGate g 2 {}).queueFallow
  if d.flag POWER_GATE.REQ [g] then d else d.gateWake g

/-- GATE_DRAIN_END (R830): the block has drained, or 100 µs have passed and what is left ends FALLOW with FORCED set. -/
def execGateDrainEnd (g : Nat) (s : State) : Res := s.run fun m d =>
  if !d.hasGate g || d.gateState g ≠ 1 then d
  else if !d.gateBusy g then d.gateDrained m g
  else d.at ((tget ({} : GateSt) d.pw.gates g).since + 100000) fun d => (d.setFld POWER_GATE.FORCED 1 [g]).gateDrained m g

/-- The ports of strip `s` start training: network ports, and storage ports that are enabled (R32, R601). -/
def Dev.stripTrains (d : Dev) (s : Nat) : Dev :=
  if s < 4 then d.trainPorts s
  else
    ((List.range 64).map (64 * (s - 4) + ·)).foldl (fun d n =>
      if n < 192 && d.hasPort n && d.flag STORAGE_PORT_CTL.ENABLE [n] && d.stripOn s then d.setFld STORAGE_PORT_STATUS.STATE 1 [n] else d)
      (d.trainPorts s)

/-- GATE_WAKE_DONE (R832): within 50 µs the block is ON; a REQ of 1 written meanwhile then gates it. -/
def execGateWakeDone (g : Nat) (s : State) : Res := s.run fun m d =>
  if d.hasGate g && d.gateState g = 3 then
    let d := d.setGate g 0 {}
    if d.flag POWER_GATE.REQ [g] then d.gateStart m g else if 0x30 ≤ g then d.stripTrains (g - 0x30) else d
  else d

/-! ### GPIO pins (R838 to R840) -/

/-- A write of POWER_GPIO_CFG: a change of FUNC parks the pin; during parking later values only wait. -/
def Dev.gpioWrite (d : Dev) (i : Nat) (w : Wr) : Dev :=
  let old := d.fld POWER_GPIO_CFG.FUNC [i]
  let d := d.regWrite .POWER_GPIO_CFG [i] w
  if d.flag POWER_GPIO_CFG.PARKED [i] then d
  else if d.fld POWER_GPIO_CFG.FUNC [i] = old then d.gpioUpdate i
  else
    let g := tget ({} : GpioSt) d.pw.gpio i
    let up := g.drives.getD (d.fld POWER_GPIO_CFG.PULL [i] = 2)
    let d := { (d.setFld POWER_GPIO_CFG.PARKED 1 [i]) with pw := { d.pw with gpio := tset {} d.pw.gpio i { drives := none, pullUp := up } } }
    if g.drives.isSome then d.emit (.gpio i none) else d

/-- GPIO_CONFIG (R839): a write of POWER_GPIO_CFG. -/
def execGpioConfig (master i size half : Nat) (value : Word) (s : State) : Res := s.run fun _ d =>
  if i < 32 then d.gpioWrite i ⟨master, size, half, value⟩ else d

/-- GPIO_PARK_END (R839): the pin takes its function. -/
def execGpioParkEnd (i : Nat) (s : State) : Res := s.run fun _ d =>
  if i < 32 && d.flag POWER_GPIO_CFG.PARKED [i] then
    let d := d.setFld POWER_GPIO_CFG.PARKED 0 [i]
    let d := { d with pw := { d.pw with gpio := tmod {} d.pw.gpio i fun g => { g with pullUp := false } } }
    d.gpioUpdate i
  else d

end Sys2Proof.Machine
end

