-- ==== Sys2Proof/Machine/Resets.lean ====
section
/-!
DEFINITION. Supplies and start-up, the resets of the whole device and what each keeps, deep sleep and wake, REFCLK, PERST_N
and the SMBus target (R280 to R282, R816 to R828, R837, R850).
-/

namespace Sys2Proof.Machine

/-! ### What a reset keeps (R823) -/

/-- `k` is the key of an instance of the register. -/
def RegName.hasKey (r : RegName) (k : Nat) : Bool := r.base ≤ k && (splitIndex r.dims (k - r.base)).isSome

/-- A key in the 16 MiB block of control space numbered `b` (R74). -/
def inBlock (b k : Nat) : Bool := b * 0x1000000 ≤ k && k < (b + 1) * 0x1000000

/-- The fault ring and counters, and the retained record. -/
def faultKept : List RegName := [.FAULT_STATUS, .FAULT_RING_BASE, .FAULT_RING_SEQ, .FAULT_RING_ACK, .FAULT_RING_LOST,
  .FAULT_NOTICE_LOST, .FAULT_COALESCED, .FAULT_FATAL]

/-- Strip, link and storage plans. -/
def plansKept : List RegName := [.DEVICE_STRIP_PLAN, .HOST_LINK_PLAN, .HOST_PF_PLAN, .STORAGE_PORT_PLAN]

/-- Across a warm restart. -/
def keptWarm (k : Nat) : Bool :=
  [3, 7, 8, 9, 10].any (inBlock · k) ||
  (faultKept ++ plansKept ++ [RegName.DEVICE_PLACE, .DEVICE_SOW_EPOCH, .DEVICE_SOW_ISSUED, .DEVICE_PACE_STATUS, .DEVICE_PACE_DEADLINE,
    .DEVICE_VAULT_STATUS, .DEVICE_VAULT_CHECK, .BOOT_WAKE_DIG, .POWER_GPIO_CFG, .HOST_LINK_STATUS, .HOST_FN_STATE,
    .FOLD_STATUS, .TENANT_STATE]).any fun r => r.hasKey k

/-- Across deep sleep and wake. -/
def keptWake (k : Nat) : Bool :=
  inBlock 3 k || (faultKept ++ plansKept ++ [RegName.DEVICE_VAULT_STATUS, .DEVICE_VAULT_CHECK, .BOOT_WAKE_DIG,
    .FOLD_STATUS]).any fun r => r.hasKey k

/-- Across a cold boot: the retained record (R774), and by command the retained wake digest until release replaces it. -/
def keptCold (sram : Bool) (k : Nat) : Bool := !sram && [RegName.FAULT_FATAL, .BOOT_WAKE_DIG].any fun r => r.hasKey k

/-- What the fuses and the flash device hold. -/
def BootSt.lasting (b : BootSt) : BootSt :=
  { flash := b.flash, keys := b.keys, revoked := b.revoked, blown := b.blown, factory := b.factory }

/-- Harrowing resumes each target at its recorded position (R539). -/
def HarrowTgt.resume (h : HarrowTgt) : HarrowTgt :=
  { row := h.recordedRow, recordedRow := h.recordedRow, recordedAt := h.recordedAt, seq := h.seq, passes := h.passes }

/-- A device in which everything but the registers `keep` names, and what outlives every reset, has its reset value. -/
def Dev.bare (d : Dev) (keep : Nat → Bool) : Dev :=
  { part := d.part, regs := d.regs.filter fun e => keep e.1, boot := d.boot.lasting
    flt := { testMode := d.flt.testMode }
    clk := { refclk := d.clk.refclk }
    sow := { ledgers := d.sow.ledgers.map fun e => (e.1, { e.2.crash with checked := 0 }) }
    glean := { targets := d.glean.targets.map fun e => (e.1, e.2.resume) }
    out := d.out, pads := d.pads, free := d.free, wlog := d.wlog }

/-- Blocks that the collector has failed stay so until the next cold boot (R176, R178, R467, R512, R620, R777). -/
def Dev.keepFailures (d old : Dev) : Dev :=
  let lost := (old.tine.strands.filter fun e => e.2.lost).map fun (e : Nat × Strand) => (e.1, ({ lost := true } : Strand))
  let d := { d with
    tine := { strands := lost, tines := old.tine.tines }
    cipher := (old.cipher.map fun (e : Nat × CipherSt) =>
      (e.1, ({ coresDown := e.2.coresDown, g2Down := e.2.g2Down } : CipherSt))).filter fun e => e.2 ≠ cipherInit
    dma := (old.dma.filter fun (e : Nat × DmaCh) => e.2.failed).map fun (e : Nat × DmaCh) => (e.1, ({ failed := true } : DmaCh))
    flt := { old.flt with safe := false, injecting := false } }
  d.dma.foldl (fun (d : Dev) (e : Nat × DmaCh) => d.setFld DMA_STATUS.FALLOW 1 [e.1 / 64, e.1 % 64]) d

/-- Contents of furrow stores, plot SRAM, boot SRAM and, with `hbm`, HBM become undefined. -/
def Dev.memoryLost (d : Dev) (hbm : Bool) : Dev :=
  let d := (List.range 4).foldl (fun d p => d.undefine (0x20000000000 + p * 0x8000000) 0x6000000) d
  let d := (d.undefine 0x10000000000 0x4000000).undefine 0x30000000000 0x800000
  if hbm then d.undefine 0 0x4000000000 else d

/-- The collector's ring as FAULT_CTL's reset value finds it (R764, R771). -/
def Dev.ringRestart (d old : Dev) : Dev :=
  let d := if old.flag FAULT_CTL.RING_EN then d else { d with flt := { d.flt with slots := [] } }
  d.alertUpdate

/-- The levels of the PERST_N pins, which no reset changes. -/
def Dev.keepPerst (d old : Dev) : Dev :=
  ((List.range 64).filter fun l => old.flag HOST_LINK_STATUS.PERST [l]).foldl (fun d l =>
    (d.setFld HOST_LINK_STATUS.STATE 7 [l]).setFld HOST_LINK_STATUS.PERST 1 [l]) d

/-- GPIO pins return to their reset state, which drives none (R836). -/
def Dev.releaseGpio (d old : Dev) : Dev :=
  (old.pw.gpio.filter fun e => e.2.drives.isSome).foldl (fun d e => d.emit (.gpio e.1 none)) d

/-- The WAKE_N pins that are asserted are released, as no link's wake is pending any more (R291). -/
def Dev.releaseWake (d old : Dev) : Dev :=
  ((List.range 4).filter old.wakeAsserted).foldl (fun d k => d.emit (.pin "WAKE_N" k true)) d

/-- FATAL_N and ALERT_N are released (R821 step 1, R836). -/
def Dev.releasePins (d old : Dev) : Dev :=
  let d := if old.flt.safe then d.emit (.pin "FATAL_N" 0 true) else d
  let d := if old.flag FAULT_STATUS.ALERT then d.emit (.pin "ALERT_N" 0 true) else d
  d.releaseGpio old

/-- Each plot's incarnation counter takes a value from the entropy source (R735). -/
def Dev.drawIncs (d : Dev) : Dev :=
  [0, 1, 2, 3].foldl (fun d p =>
    let r := d.draw
    { r.2 with trd := { r.2.trd with inc := tset 0 r.2.trd.inc p (bits r.1.toNat 0 16) } }) d

/-! ### Cold boot and start-up (R820 to R823) -/

/-- The device as a cold boot leaves it. -/
def Dev.coldState (d : Dev) (on sram : Bool) (cause : Nat) : Dev :=
  let n := d.bare (keptCold sram)
  let n := { n with pw := { on := on }, flt := { n.flt with retained := !sram && d.flt.retained } }
  let n := (((n.keepPerst d).releasePins d).releaseWake d).memoryLost true
  n.drawIncs.setFld POWER_STATUS.LAST_RESET cause

/-- POWER_LOSS (R820): PWR_OK falls, or with `sram` VDD_SRAM leaves its range, which loses the retained store. -/
def execPowerLoss (sram : Bool) (s : State) : Res := s.kept fun _ d => d.coldState false sram 1

/-- POWER_ON_RESET (R821 step 1): supplies become valid. -/
def execPowerOnReset (s : State) : Res := s.always fun _ d =>
  if d.pw.on then d else { d with pw := { on := true } }.harrowPassEnd

/-- FIRST_AVS_REQUEST (R819, R821 step 2). -/
def execFirstAvsRequest (s : State) : Res := s.run fun _ d =>
  if d.pw.avs then d
  else d.at (d.pw.start + 1000000) fun d => { d with pw := { d.pw with avs := true } }.avsRequest d.paceLow

/-- Strips leave electrical idle and train: PF0 answers on link 0 once it is up (R32, R250). -/
def Dev.startStrips (d : Dev) : Dev :=
  let d := { d with pw := { d.pw with strips := true } }
  let d := ((List.range 256).filter fun p => d.flag HOST_PF_PLAN.PRESENT [p]).foldl (fun d p => d.setFld HOST_FN_STATE.ENABLED 1 [p]) d
  let d := ((List.range 64).filter fun l => d.flag HOST_LINK_PLAN.PRESENT [l]).foldl (fun d l => d.trainLink l) d
  (List.range 7).foldl Dev.stripTrains d

/-- STRIP_TRAINING_START (R32, R821 step 3). -/
def execStripTrainingStart (s : State) : Res := s.run fun _ d =>
  if d.pw.strips then d else d.at (d.pw.start + 5000000) Dev.startStrips

/-- HBM_TRAINING_DONE (R821 step 4). -/
def execHbmTrainingDone (s : State) : Res := s.run fun _ d =>
  if d.pw.hbm then d else d.at (d.pw.start + 40000000) fun d => { d with pw := { d.pw with hbm := true } }

/-- RAIL_OUT_OF_RANGE (R820): 0 VDD_CORE, 1 VDD_SRAM, 2 VDD_LANE, 3 VDD_LANEH, 4 VDD_HBM, 5 VPP_HBM, 6 VDD_IO. R761 assigns
a fault to the two of HBM; VDD_SRAM is POWER_LOSS. -/
def execRailOutOfRange (rail : Nat) (s : State) : Res := s.manage fun _ d =>
  if rail = 4 || rail = 5 then d.goFatal { code := 0x0F07, kind := 12, unit := 21 } else d

/-! ### Warm restart (R823, R824) -/

/-- Every function of every link undergoes the effects of R277 as one event. -/
def Dev.resetAllFns (d : Dev) : Dev :=
  let d := ((List.range 256).filter d.fnExists).foldl (fun d p =>
    (d.dropVfs p HOST_FN_STATE.FLR_EV false).resetStart p HOST_FN_STATE.FLR_EV false) d
  d.hostRstSync

/-- DEVICE_PACE_DEADLINE's conditions that outlast a warm restart: a reservation, a reset in progress, and that no image
has been released since the last cold boot or wake (R47). -/
def Dev.paceWarm (d : Dev) : Dev :=
  ((d.setFld DEVICE_PACE_DEADLINE.TRD 0).setFld DEVICE_PACE_DEADLINE.RECOVERY 0).setFld DEVICE_PACE_DEADLINE.FORCE 0

def Dev.warmState (old : Dev) : Dev :=
  let d := old.resetAllFns
  let n := (d.bare keptWarm).keepFailures d
  let n := { n with
    clk := d.clk, pace := d.pace, subsys := d.subsys
    host := { d.host with reads := [] }
    vault := { root := d.vault.root, estate := d.vault.estate }
    net := { d.net with parse := [], rows := [], dq := [], dqChanged := [], trdIn := [], lastCell := []
                        tables := d.net.tables.filter fun e => e.1 ≤ 3 }
    trd := { inc := d.trd.inc }
    pw := { d.pw with gates := [], start := d.now } }
  let n := (n.regs.filter fun e => RegName.TENANT_STATE.hasKey e.1).foldl (fun n e =>
    n.setFld TENANT_STATE.GRAINS 0 [(e.1 - RegName.TENANT_STATE.base) / ((RegName.TENANT_STATE.dims.headD (1, 1)).2)]) n
  let n := ((n.memoryLost false).ringRestart old).paceWarm.setFld POWER_STATUS.LAST_RESET 3
  let n := ((List.range 192).filter fun p => n.hasPort p && n.stripOn (4 + p / 64)).foldl
    (fun n p => n.setFld STORAGE_PORT_STATUS.STATE 1 [p]) n
  (if old.flt.safe then n.fatalPins else n).sowLow.settle

/-- A write of POWER_RESET (R825, R834). -/
def Dev.resetWrite (d : Dev) (w : Wr) : Dev :=
  let kind := POWER_RESET.KIND.get w.value
  if !w.accepted .POWER_RESET then d.regWrite .POWER_RESET [] w
  else if POWER_RESET.KEY.get w.value ≠ 0xA5 || (kind ≠ 1 && kind ≠ 2) then
    d.blame 0x0204 w.master (RegName.POWER_RESET.addr []) (RegName.POWER_RESET.off [])
  else if kind = 1 then d.warmState else d.coldState true false 2

/-- WARM_RESTART and COLD_BOOT (R822): POWER_RESET is written with KIND WARM, or COLD, and some KEY. -/
def execWarmRestart (master size key : Nat) (s : State) : Res := s.manage fun _ d =>
  d.resetWrite ⟨master, size, 0, BitVec.ofNat 64 (1 + key % 256 * 256)⟩
def execColdBoot (master size key : Nat) (s : State) : Res := s.manage fun _ d =>
  d.resetWrite ⟨master, size, 0, BitVec.ofNat 64 (2 + key % 256 * 256)⟩

/-! ### Deep sleep and wake (R811, R812, R826 to R828) -/

/-- R826. -/
def Dev.deepSleep (d : Dev) (m : Mem) : Dev :=
  let gates := (List.range 4).map (8 * · + 5) ++ (List.range 16).map (0x20 + ·)
  let d := (gates.filter d.hasGate).foldl (fun d g => d.gateEnd m g) d
  let d := (List.range 7).foldl (fun d s => d.stripDown m s) d
  let d := ((List.range 64).filter d.linkUp).foldl Dev.linkFall d
  let d := ({ d with posted := [] }).sowCrash
  { (d.avsRequest 4) with pw := { d.pw with asleep := true } }

/-- A write of POWER_SLEEP (R825, R826, R828). -/
def Dev.sleepWrite (d : Dev) (m : Mem) (w : Wr) : Dev :=
  if !w.accepted .POWER_SLEEP then d.regWrite .POWER_SLEEP [] w
  else if POWER_SLEEP.KEY.get w.value ≠ 0xA5 || POWER_SLEEP.KIND.get w.value ≠ 1 || d.fld POWER_SLEEP_CTL.WAKE_EN = 0 then
    d.blame 0x0204 w.master (RegName.POWER_SLEEP.addr []) (RegName.POWER_SLEEP.off [])
  else d.deepSleep m

/-- DEEP_SLEEP (R826): POWER_SLEEP is written with some KIND and KEY. -/
def execDeepSleep (master size kind key : Nat) (s : State) : Res := s.manage fun m d =>
  d.sleepWrite m ⟨master, size, 0, BitVec.ofNat 64 (kind % 4 + key % 256 * 256)⟩

/-- The device as a wake leaves it before the ROM runs. -/
def Dev.wakeState (d : Dev) (causes : Nat) : Dev :=
  let n := (d.bare keptWake).keepFailures d
  let n := { n with clk := d.clk, subsys := d.subsys, host := { planApplied := d.host.planApplied }
                    vault := { root := d.vault.root, estate := d.vault.estate }
                    pw := { on := true, start := d.now, avs := true, hbm := true } }
  let n := ((((n.keepPerst d).releaseGpio d).releaseWake d).memoryLost false).ringRestart d
  let n := (n.drawIncs.setFld POWER_STATUS.LAST_RESET 4).setFld POWER_STATUS.WAKE_CAUSE causes
  n.startStrips.paceFloorRaise

/-- The retained image may run again without a check (R811). -/
def Dev.fastWake (d : Dev) (m : Mem) (r : RunImage) : Bool :=
  let dig := wakeDigest (d.hbmImage m) r.len
  (List.range 4).all (fun i => (d.reg .BOOT_WAKE_DIG [i]).toNat = leAt dig (8 * i) 8) && !bit d.boot.revoked r.key &&
    d.boot.counter ≤ r.rollback

/-- Enabled wake events arrive together. -/
def Dev.wake (d : Dev) (m : Mem) (mask : Nat) : Dev :=
  let causes := Nat.land mask (d.fld POWER_SLEEP_CTL.WAKE_EN)
  if !d.pw.asleep || causes = 0 then d
  else
    let n := (d.wakeState causes).harrowPassEnd
    match d.boot.run with
    | some r => if n.fastWake m r then n.release m 5 r.slot (r.slot ≠ 0 && n.slotPending (r.slot - 1)) else n.mailboxOpen
    | none => n.mailboxOpen

/-- PERST_N[l] deasserts while core logic is off; the link's wake pending clears (R291). -/
def Dev.perstHigh (d : Dev) (l : Nat) : Dev :=
  if d.flag HOST_LINK_STATUS.PERST [l] then
    ((d.setFld HOST_LINK_STATUS.PERST 0 [l]).setFld HOST_LINK_STATUS.STATE 0 [l]).setWake l false
  else d

/-- Events of R828 that can happen now: bit 0 needs a pin that deasserts, bit 3 a GPIO whose function is WAKE_IN, bit 4 that
TIME_MONO has reached POWER_WAKE_TIME. -/
def Dev.wakeEvents (d : Dev) (perst : List Nat) (mask : Nat) : Nat :=
  let edge := perst.any fun l => l < 64 && d.flag HOST_LINK_STATUS.PERST [l]
  let gpio := (List.range 32).any fun i => d.fld POWER_GPIO_CFG.FUNC [i] = 3
  let timer : Bool := (d.reg .POWER_WAKE_TIME).toNat ≤ d.now
  b2n edge + b2n (bit mask 1) * 2 + b2n (bit mask 2) * 4 + b2n (bit mask 3 && gpio) * 8 + b2n (bit mask 4 && timer) * 16

/-- WAKE (R811, R812, R828): events that arrive together in deep sleep. `perst` names links whose PERST_N deasserts;
`mask` the other events: bit 1 the SMBus command, bit 2 a start bit, bit 3 an edge, bit 4 the timer. -/
def execWake (perst : List Nat) (mask : Nat) (s : State) : Res := s.kept fun m d =>
  if d.pw.asleep then
    let events := d.wakeEvents perst mask
    ((perst.filter (· < 64)).foldl Dev.perstHigh d).wake m events
  else d

/-- WAKE_TIMER (R828): TIME_MONO reaches POWER_WAKE_TIME in deep sleep. -/
def execWakeTimer (s : State) : Res := s.kept fun m d =>
  if d.pw.asleep && bit (d.fld POWER_SLEEP_CTL.WAKE_EN) 4 then d.at (d.reg .POWER_WAKE_TIME).toNat fun d => d.wake m 16 else d

/-! ### PERST_N pins (R280, R282, R828) -/

/-- PERST_ASSERT (R280, R289). -/
def execPerstAssert (l : Nat) (cold : Bool) (s : State) : Res := s.always fun _ d =>
  if 64 ≤ l || d.flag HOST_LINK_STATUS.PERST [l] then d
  else if d.awake then d.perstAssert l cold
  else (d.setFld HOST_LINK_STATUS.PERST 1 [l]).setFld HOST_LINK_STATUS.STATE 7 [l]

/-- PERST_DEASSERT (R282); in deep sleep it is wake event bit 0. -/
def execPerstDeassert (l : Nat) (s : State) : Res := s.always fun m d =>
  if 64 ≤ l || !d.flag HOST_LINK_STATUS.PERST [l] then d
  else if d.awake then d.perstDeassert l
  else if d.pw.asleep then (d.perstHigh l).wake m 1
  else d.perstHigh l

/-! ### REFCLK (R850) -/

/-- REFCLK_LOSS (R850): every lane loses lock, and TIME_MONO stops. -/
def execRefclkLoss (s : State) : Res := s.always fun m d =>
  if !d.clk.refclk then d
  else
    let d := d.refclkStop
    if !d.awake then d
    else
      let d := (List.range 7).foldl (fun d s => d.stripDown m s) d
      ((List.range 64).filter fun l => d.linkUp l || d.fld HOST_LINK_STATUS.STATE [l] = 1).foldl Dev.linkFall d

/-- REFCLK_RETURN (R850): lanes can lock again, and links train. -/
def execRefclkReturn (s : State) : Res := s.always fun _ d =>
  if d.clk.refclk then d
  else
    let d := { d with clk := { d.clk with refclk := true } }
    if d.awake && d.pw.strips then d.startStrips else d

/-! ### The SMBus target (R837) -/

/-- SMB_IDENT. -/
def execSmbIdent (s : State) : Res := s.kept fun _ d =>
  d.emit (.smb true (leBytes 8 d.identWord.toNat ++ leBytes 8 Config.deviceSerial.toNat))

/-- SMB_HEALTH. -/
def execSmbHealth (s : State) : Res := s.kept fun _ d =>
  d.emit (.smb true (leBytes 8 (d.reg .POWER_STATUS).toNat ++ leBytes 8 (d.faultStatusView d.boot.factory).toNat ++
    leBytes 8 d.bootStatusView.toNat ++ leBytes 8 (d.reg .DEVICE_PACE_STATUS).toNat))

/-- A write command carries 0xA5, or is ignored and answered with a NACK. -/
def Dev.smbWrite (d : Dev) (byte : Byte) (f : Dev → Dev) : Dev :=
  if byte = 0xA5 then f (d.emit (.smb true [])) else d.emit (.smb false [])

/-- SMB_WARM, SMB_COLD and SMB_WAKE. In deep sleep a warm restart finds no core logic to reset. -/
def execSmbWarm (byte : Byte) (s : State) : Res := s.kept fun _ d => d.smbWrite byte fun d => if d.awake then d.warmState else d
def execSmbCold (byte : Byte) (s : State) : Res := s.kept fun _ d => d.smbWrite byte fun d => d.coldState true false 2
def execSmbWake (byte : Byte) (s : State) : Res := s.kept fun m d => d.smbWrite byte fun d => d.wake m 2

end Sys2Proof.Machine
end

