-- ==== Sys2Proof/Machine/CtlRead.lean ====
section
/-!
DEFINITION. Reads of control space and of a function's BAR0: what each register reads, the capture buffers of register
groups, and the bits that a read clears (R4, R73, R84 to R86, R89 to R93, R261 to R266, R298, R670, R673, R787).
-/

namespace Sys2Proof.Machine

/-- A NET register indexed by a lane (R670). -/
def RegName.ofNetLane : RegName → Bool
  | .NET_PORT_CTL | .NET_PORT_STATUS | .NET_PORT_PFC | .NET_PORT_PFC_STATUS | .NET_PRI_THRESH | .NET_RX_FRAMES
  | .NET_RX_BYTES | .NET_RX_BAD | .NET_RX_RUNT | .NET_RX_OVERSIZE | .NET_RX_OVERRUN | .NET_TX_ABORT
  | .NET_RX_MACCTL => true
  | _ => false

/-- A PARSE register of a plot (R673). -/
def RegName.ofParse : RegName → Bool
  | .PARSE_CTL | .PARSE_STATUS | .PARSE_SWAP | .PARSE_CODE | .PARSE_TABLE | .PARSE_CELLS | .PARSE_FRAMES
  | .PARSE_FAULTS => true
  | _ => false

/-- The fault injection registers (R780). -/
def RegName.ofInjection : RegName → Bool
  | .FAULT_INJ_CTL | .FAULT_INJ_UNIT | .FAULT_INJ_ADDR => true
  | _ => false

/-- The register reads 0 and ignores writes, with no record: R670, R673 and R780. -/
def Dev.regIdle (d : Dev) (r : RegName) (i : List Nat) : Bool :=
  (r.ofNetLane && !d.netLane (i.headD 0)) || (r.ofParse && d.part = .t256) ||
    (r.ofInjection && !d.injAvail d.boot.factory)

/-- An access through aperture `a` is in flight (R269). -/
def Dev.aptBusy (d : Dev) (a : Nat) : Bool :=
  d.host.reads.any (fun r => r.apt = some a) || d.posted.any fun w => w.toHost && w.apt = some a

/-- HOST_APT_CTL.IDLE (R269). -/
def Dev.aptIdle (d : Dev) (a : Nat) : Bool := !d.flag HOST_APT_CTL.VALID [a] && !d.aptBusy a

/-- What a register shows of its unit; `none` where its stored word is what it reads. -/
def Dev.unitView (d : Dev) (r : RegName) (i : List Nat) : Option Word :=
  let a := i.headD 0
  let b := i.getD 1 0
  match r with
  | .DEVICE_IDENT => some d.identWord
  | .DEVICE_STRIP_PLAN => some d.planWord
  | .FN_IDENT => some (d.fnIdentView a)
  | .FN_STATUS => some (d.fnStatusView a)
  | .HOST_APT_CTL => some (HOST_APT_CTL.IDLE.set (d.reg r i) (b2n (d.aptIdle a)))
  | .RINGS_FN_CAPS => some (d.fnCapsView a)
  | .RINGS_SQ_CTL => some (d.sqCtlView a)
  | .RINGS_SQ_STATUS => some (d.sqStatusView a)
  | .RINGS_SQ_COUNT => some (d.sqCountView a)
  | .RINGS_CQ_CTL => some (d.cqCtlView a)
  | .RINGS_CQ_STATUS => some (d.cqStatusView a)
  | .TENANT_CTL => some (d.tenantCtlView a)
  | .TENANT_STATE => some (d.tenantStateView a)
  | .TENANT_ITEMS => some (d.tenantItemsView a)
  | .DEVICE_PROFILE => some (d.profileView a)
  | .DEVICE_SOW_STATUS => some d.sowStatusView
  | .FOLD_STATUS => some (d.foldStatusView a b)
  | .FOLD_SLOT => some (d.foldSlotView a b (i.getD 2 0))
  | .DEVICE_VAULT_EKDIG => some (ekDigest a)
  | .CIPHER_STATUS => some (d.cipherStatusView a)
  | .DEVICE_HARROW_STATUS => some d.harrowStatusView
  | .DMA_STATUS => some (d.dmaStatusView a b)
  | .BUFM_STATUS => some (d.bufmStatusView a)
  | .FAULT_STATUS => some (d.faultStatusView d.boot.factory)
  | .POWER_GATE => some (POWER_GATE.STATE.set (d.reg r i) (d.gateState a))
  | _ => none

/-- What a register reads (R85). -/
def Dev.view (d : Dev) (r : RegName) (i : List Nat) : Word :=
  if d.regIdle r i then 0
  else
    match d.unitView r i <|> d.timeView r <|> d.tineView r i <|> d.switchView r i <|> d.trdView r i <|> d.bootView r i with
    | some v => v
    | none => d.reg r i

/-- The half that a 4-byte read returns, or the whole (R86). -/
def halfOf (off size : Nat) (v : Word) : Word :=
  if size = 8 then v else if off % 8 = 0 then v &&& 0xFFFFFFFF else v >>> 32

/-- The bits of the register that the read covers. -/
def coverOf (off size : Nat) : Word := (Wr.mk 0 size (off % 8 / 4) 0).mask

/-- A master with a capture buffer (R90, R93): a strand, the ring engine, the management port or a host function. -/
def hasCapture (master : Nat) : Bool := master < 512 || master = tagRing || master = tagMgmt || 0x10000 ≤ master

/-- The head's indices within a register group whose members are one array, or neighbours with the same indices. -/
def headIdx (r h : RegName) (i : List Nat) : List Nat :=
  if r = h && (r.dims.getLast?.map Prod.snd) = some 8 then i.dropLast ++ [0] else i

/-- The words of a group of `n` registers from key `k`. -/
def Dev.groupWords (d : Dev) (k n : Nat) : List Word :=
  (List.range n).map fun j => match locate (k + 8 * j) with
    | some (r, i) => d.view r i
    | none => 0

/-- A read of a register that a master with a capture buffer makes: the head's lower half or whole captures the group,
and another part of the group reads the capture while it holds (R90 to R92). -/
def Dev.groupRead (d : Dev) (master : Nat) (r : RegName) (i : List Nat) (off : Nat) : Word × Dev :=
  match r.group with
  | none => (d.view r i, d)
  | some (h, n) =>
    let k := h.key (headIdx r h i)
    let cap := tget ({} : Capture) d.caps master
    if !hasCapture master then (d.view r i, d)
    else if r.key i = k && off % 8 = 0 then
      (d.view r i, { d with caps := tput d.caps master { head := k, words := d.groupWords k n } })
    else if cap.head = k && cap.words ≠ [] then (cap.words.getD ((r.key i - k) / 8) 0, d)
    else (d.view r i, d)

/-- A read of POWER_GPIO_IN: a pin that the device drives reads its driver, and any other the level outside, which is
free. -/
def Dev.gpioInRead (d : Dev) : Word × Dev :=
  let r := d.draw
  let v := (List.range 32).foldl (fun a j =>
    let lev := match (tget ({} : GpioSt) d.pw.gpio j).drives with
      | some x => b2n x
      | none => bits r.1.toNat j 1
    a + lev * 2 ^ j) 0
  (BitVec.ofNat 64 v, r.2)

/-- A read of a register: its value, and what the read does (R85, R86, R90, R625). -/
def Dev.regRead (d : Dev) (master : Nat) (r : RegName) (i : List Nat) (off size : Nat) : Word × Dev :=
  match r with
  | .BUFM_ALLOC => if size = 8 then d.cellAlloc (i.headD 0) master else (0, d)
  | .POWER_GPIO_IN => d.gpioInRead
  | .SCHED_QTEL_MAX =>
    let v := d.reg r i
    (v, d.setReg r (v &&& ~~~coverOf off size) i)
  | _ => d.groupRead master r i off

/-- The rule row at a control-space offset: plot, bank, row and offset within it (R661). -/
def clsPlace (off : Nat) : Option (Nat × Nat × Nat × Nat) :=
  if 0x10000000 ≤ off && off < 0x14000000 && 0x800000 ≤ off % 0x1000000 then
    some ((off - 0x10000000) / 0x1000000, off % 0x800000 / 0x400000, off % 0x400000 / 256, off % 256)
  else none

/-- A read of control space by a master: the value in its low bits, and what the read does. -/
def Dev.ctlRead (d : Dev) (master off size : Nat) : Word × Dev :=
  if !ctlSized off size then (0, d.blame 0x0202 master (0x40000000000 + off) off)
  else if d.absentPage off then (0, d)
  else
    match clsPlace off with
    | some (p, b, r, o) => (halfOf off size (d.clsRowRead p b r o), d)
    | none =>
      match locate (off / 8 * 8) with
      | none => (0, d.blame 0x0201 master (0x40000000000 + off))
      | some (r, i) =>
        let v := d.regRead master r i off size
        (halfOf off size v.1, v.2)

/-! ### A function's BAR0 -/

/-- What an offset of a function's BAR0 reaches. -/
inductive BarPlace where
  | hole
  /-- A register of the function's own pages, or of a ring bound to it. -/
  | reg (r : RegName) (i : List Nat)
  /-- A ring register of a local number to which no ring is bound: it reads its reset value (R298). -/
  | unbound (r : RegName)
  | mailbox (off : Nat)
  | errlog (off : Nat)
  | vector (v part : Nat)
  | pba (i : Nat)
  /-- A submission or completion doorbell. -/
  | bell (n : Nat) (cq : Bool)
  /-- The push window (R787). -/
  | push (off : Nat)
  deriving DecidableEq, Repr

/-- A register of a ring's 0x40 block (R302, R308). -/
def ringReg (cq : Bool) (o : Nat) : Option RegName :=
  match cq, o / 8 with
  | false, 0 => some .RINGS_SQ_BASE
  | false, 1 => some .RINGS_SQ_CTL
  | false, 2 => some .RINGS_SQ_STATUS
  | false, 3 => some .RINGS_SQ_COUNT
  | false, 4 => some .RINGS_SQ_RESTART
  | true, 0 => some .RINGS_CQ_BASE
  | true, 1 => some .RINGS_CQ_CTL
  | true, 2 => some .RINGS_CQ_STATUS
  | _, _ => none

/-- Ring registers of a function by local number (R298). -/
def Dev.barRing (d : Dev) (f : Nat) (cq : Bool) (o : Nat) : BarPlace :=
  let n := o / 64
  if (if cq then d.cqMax f else d.sqMax f) ≤ n then .hole
  else
    match ringReg cq (o % 64), (if cq then d.findCq f n else d.findSq f n) with
    | none, _ => .hole
    | some r, some g => .reg r [g]
    | some r, none => .unbound r

/-- A register of the function ring page (R301). -/
def ringPage (f o : Nat) : BarPlace :=
  match o / 8 with
  | 0 => .reg .RINGS_FN_CAPS [f]
  | 1 => .reg .RINGS_ERRLOG_HEAD [f]
  | 2 => .reg .RINGS_ERRLOG_ACK [f]
  | 3 => .reg .RINGS_ERRLOG_LOST [f]
  | _ => .hole

/-- A function register (R264). -/
def fnPage (f o : Nat) : BarPlace :=
  match o / 8 with
  | 0 => .reg .FN_IDENT [f]
  | 1 => .reg .FN_STATUS [f]
  | 2 => .reg .FN_HOST_ERR [f]
  | 3 => .reg .FN_HOST_ERR_ADDR [f]
  | 4 => .reg .FN_BUF_SLOT [f]
  | 5 => .reg .FN_BUF_BASE [f]
  | 6 => .reg .FN_BUF_LEN [f]
  | 7 => .reg .FN_BUF_ATTR [f]
  | _ => .hole

/-- PF0's BAR0 until release (R787). -/
def bootPage (o : Nat) : BarPlace :=
  if o < 8 then .reg .BOOT_STATUS []
  else if o < 16 then .reg .BOOT_CMD []
  else if o < 24 then .reg .BOOT_RESULT []
  else if 0x400000 ≤ o && o < 0x800000 then .push (o - 0x400000)
  else .hole

/-- The layouts of R261, R262, R298 and R299. -/
def Dev.barPlace (d : Dev) (f o : Nat) : BarPlace :=
  if f = 0 && !d.released then bootPage o
  else if o < 0x1000 then fnPage f o
  else if 0x2000 ≤ o && o < 0x4000 then .mailbox (o - 0x2000)
  else if 0x4000 ≤ o && o < 0x5000 then .errlog (o - 0x4000)
  else if f < 256 then
    if 0x10000 ≤ o && o < 0x18000 then .vector ((o - 0x10000) / 16) (o % 16 / 4)
    else if 0x18000 ≤ o && o < 0x18100 then .pba ((o - 0x18000) / 8)
    else if 0x1000000 ≤ o && o < 0x1001000 then ringPage f (o - 0x1000000)
    else if 0x1010000 ≤ o && o < 0x1410000 then d.barRing f false (o - 0x1010000)
    else if 0x1800000 ≤ o && o < 0x1C00000 then d.barRing f true (o - 0x1800000)
    else .hole
  else if 0x5000 ≤ o && o < 0x5400 then .vector ((o - 0x5000) / 16) (o % 16 / 4)
  else if 0x5400 ≤ o && o < 0x5408 then .pba 0
  else if 0x8000 ≤ o && o < 0x9000 then ringPage f (o - 0x8000)
  else if 0x9000 ≤ o && o < 0xA000 then d.barRing f false (o - 0x9000)
  else if 0xA000 ≤ o && o < 0xB000 then d.barRing f true (o - 0xA000)
  else if 0xC000 ≤ o && o < 0xE000 then
    if d.sqMax f ≤ (o - 0xC000) / 8 then .hole else .bell ((o - 0xC000) / 8) false
  else if 0xE000 ≤ o && o < 0x10000 then
    if d.cqMax f ≤ (o - 0xE000) / 8 then .hole else .bell ((o - 0xE000) / 8) true
  else .hole

/-- An MSI-X table entry's words, the low one and, for 8 bytes, the next. -/
def Dev.vecRead (d : Dev) (f v part size : Nat) : Word :=
  let x := d.vec f v
  BitVec.ofNat 64 (x.word part + if size = 8 then x.word (part + 1) * 2 ^ 32 else 0)

/-- A host's read of a function's BAR0, aligned and of 4 or 8 bytes (R84, R263). -/
def Dev.barRead (d : Dev) (m : Mem) (f o size : Nat) : Word × Dev :=
  if !ctlSized o size then (0, (d.blame 0x0202 (0x10000 + f)).barHole f)
  else
    match d.barPlace f o with
    | .hole => (0, d.barHole f)
    | .reg r i =>
      let v := d.regRead (0x10000 + f) r i o size
      (halfOf o size v.1, v.2)
    | .unbound r => (halfOf o size (r.reset [0]), d)
    | .mailbox a => (BitVec.ofNat 64 (leNat (d.ldBytes m (d.mbAddr f + a) size)), d)
    | .errlog a => (BitVec.ofNat 64 (leAt (tget [] (d.fn f).errlog (a / 64)) (a % 64) size), d)
    | .vector v part => (d.vecRead f v part size, d)
    | .pba i => (halfOf o size (d.pbaWord f i), d)
    | .bell _ _ => (0, d)
    | .push a => (BitVec.ofNat 64 (leNat (d.ldBytes m (0x30000400000 + a) size)), d)

/-- A read by a master: `off` is an offset in control space, or in its BAR0 for a host function. -/
def Dev.masterRead (d : Dev) (m : Mem) (master off size : Nat) : Word × Dev :=
  if master < 0x10000 then (if off < 0x40000000 then d.ctlRead master off size else (0, d))
  else if d.barUp (master - 0x10000) then d.barRead m (master - 0x10000) off size
  else (BitVec.allOnes 64, d)

/-- A read, and the value returned to the master. -/
def Dev.readOut (d : Dev) (m : Mem) (master off size : Nat) : Dev :=
  let r := d.masterRead m master off size
  r.2.emit (.regRead master off r.1)

/-- SNAP_CAPTURE_READ (R90): a read of a register by a master; the head of a group is captured. -/
def execSnapCaptureRead (master off size : Nat) (s : State) : Res := s.manage fun m d => d.readOut m master off size

/-- RC_READ (R86): a read of a register by a master; it clears the RC bits it returns. -/
def execRcRead (master off size : Nat) (s : State) : Res := s.manage fun m d => d.readOut m master off size

end Sys2Proof.Machine
end

