-- ==== Sys2Proof/Machine/CtlWrite.lean ====
section
/-!
DEFINITION. Writes of control space and of a function's BAR0: which rule each register's write follows, and the rows
REGISTER_WRITE and PLACE_WRITE (R20 to R23, R73, R84, R87, R94 to R98, R263, R298, R367, R369, R382).
-/

namespace Sys2Proof.Machine

/-! ### Registers with a rule of their own and no unit's file -/

/-- A write of DEVICE_PLACE: refused whole while LOCK is 1 (R22); LOCK stays 0 while DEVICE_SOW_EPOCH.VALID is 0
(R382); the T256 has no bit 11 (R23). -/
def Dev.placeWrite (d : Dev) (w : Wr) : Dev :=
  if !w.accepted .DEVICE_PLACE then d.regWrite .DEVICE_PLACE [] w
  else if d.flag DEVICE_PLACE.LOCK then d.refuse206 .DEVICE_PLACE [] w
  else
    let d := d.regWrite .DEVICE_PLACE [] w
    let d := if d.part = .t256 then d.setFld DEVICE_PLACE.DEVICE (d.fld DEVICE_PLACE.DEVICE % 32) else d
    if d.flag DEVICE_PLACE.LOCK && !d.flag DEVICE_SOW_EPOCH.VALID then
      (d.setFld DEVICE_PLACE.LOCK 0).refuse206 .DEVICE_PLACE [] w
    else d

/-- A write of HOST_APT_BASE or HOST_APT_CTL: VALID is the run control and IDLE the stopped indication (R269). -/
def Dev.aptCtlWrite (d : Dev) (r : RegName) (a : Nat) (w : Wr) : Dev :=
  let d := d.regWrite r [a] w (d.aptIdle a)
  d.setFld HOST_APT_CTL.IDLE (b2n (d.aptIdle a)) [a]

/-- A write of RINGS_CODE_BASE or RINGS_DRILL_BASE: while every submission ring is stopped, to `n` bytes of HBM
(R343, R344). -/
def Dev.areaWrite (d : Dev) (r : RegName) (unit n : Nat) (w : Wr) : Dev :=
  d.regWrite r [] w ((d.sqsWhere fun _ => true).all d.sqStopped) fun f v => inHbm (f.get v * unit) n

/-- A write that starts nothing but frees, gives or reclaims cells: 8 bytes, since its fields are WO (R87). -/
def Dev.cellWrite (d : Dev) (r : RegName) (p : Nat) (w : Wr) (f : Dev → Dev) : Dev :=
  if w.accepted r then f d else d.regWrite r [p] w

/-! ### Which rule a register's write follows -/

/-- Writes of the DEVICE, TIME, TINE and HOST blocks. -/
def Dev.putFace (d : Dev) (r : RegName) (i : List Nat) (w : Wr) : Option Dev :=
  let a := i.headD 0
  match r with
  | .DEVICE_PLACE => some (d.placeWrite w)
  | .DEVICE_PACE_CTL => some (d.regWrite r i w).paceCtlWritten
  | .TIME_STATUS => some (d.timeStatusWrite w)
  | .TIME_RATE => some (d.regWrite r i w).timeRateClamp
  | .TIME_ADJ => some (if w.accepted r then d.timeAdj w.value.toInt else d.regWrite r i w)
  | .TIME_REF => some (d.timeRefWrite w)
  | .TINE_STRAND_CTL => some (d.strandCtlWrite (4 * a + i.getD 1 0) w)
  | .TINE_STRAND_PC => some (d.tineWrite r i w)
  | .TINE_STRAND_G => some (d.tineWrite r i w)
  | .TINE_STRAND_W => some (d.tineWrite r i w)
  | .DEVICE_SPEC_CLR => some (d.specClrWrite w)
  | .FN_BUF_SLOT => some (d.bufSlotWrite a w)
  | .FN_BUF_ATTR => some (d.bufCommit a w)
  | .HOST_APT_BASE => some (d.aptCtlWrite r a w)
  | .HOST_APT_CTL => some (d.aptCtlWrite r a w)
  | _ => none

/-- Writes of the RINGS and TENANT blocks. -/
def Dev.putRings (d : Dev) (m : Mem) (r : RegName) (i : List Nat) (w : Wr) : Option Dev :=
  let a := i.headD 0
  match r with
  | .RINGS_ERRLOG_ACK => some (d.errlogAckWrite a w)
  | .RINGS_SQ_BASE => some (d.sqBaseWrite a w)
  | .RINGS_SQ_CTL => some (d.sqCtlWrite a w)
  | .RINGS_SQ_RESTART => some (d.restartWrite a w)
  | .RINGS_CQ_BASE => some (d.cqBaseWrite a w)
  | .RINGS_CQ_CTL => some (d.cqCtlWrite a w)
  | .RINGS_SQ_BIND => some (d.regWrite r i w (d.sqStopped a))
  | .RINGS_CQ_BIND => some (d.regWrite r i w (d.cqStopped a))
  | .RINGS_CODE_BASE => some (d.areaWrite r (2 ^ 22) (2 ^ 22) w)
  | .RINGS_DRILL_BASE => some (d.areaWrite r (2 ^ 27) (2 ^ 27) w)
  | .TENANT_ID => some (d.regWrite r i w (d.frozen a))
  | .TENANT_LIMITS => some (d.regWrite r i w (d.frozen a))
  | .TENANT_TABLES => some (d.tenantTablesWrite a w)
  | .TENANT_POLICY => some (d.regWrite r i w (d.frozen a))
  | .TENANT_POOL => some (d.tenantPoolWrite a w)
  | .TENANT_CTL => some (d.tenantCtlWrite a w)
  | .TENANT_MB_BASE => some (d.regWrite r i w d.allFrozen fun f v => inHbm (f.get v * 2 ^ 26) (4352 * 0x2000))
  | .TENANT_MB_RAISE => some (d.mbRaise w)
  | .TENANT_MIG_CTL => some (d.migWrite w)
  | _ => none

/-- Writes of the sowing, fold, vault, cipher, gleaning, harrowing, storage, DMA and buffer manager registers. -/
def Dev.putStore (d : Dev) (r : RegName) (i : List Nat) (w : Wr) : Option Dev :=
  let a := i.headD 0
  let b := i.getD 1 0
  match r with
  | .DEVICE_PROFILE => some (d.profileWrite a w)
  | .DEVICE_SOW_EPOCH => some (d.sowEpochWrite w)
  | .DEVICE_SOW_NEXT => some (d.sowNextWrite w)
  | .FOLD_CLR => some (d.clrWrite r i w)
  | .DEVICE_VAULT_CLR => some (d.clrWrite r i w)
  | .CIPHER_CLR => some (d.clrWrite r i w)
  | .DEVICE_GLEAN_CLR => some (d.clrWrite r i w)
  | .DEVICE_HARROW_CLR => some (d.clrWrite r i w)
  | .STORAGE_PORT_CTL => some (d.portCtlWrite a w)
  | .STORAGE_INWIN_BASE => some (d.regWrite r i w (d.inwinStopped a))
  | .STORAGE_INWIN_LIM => some (d.regWrite r i w (d.inwinStopped a))
  | .STORAGE_CFG_CMD => some (d.cfgCmdWrite w)
  | .STORAGE_CFG_DATA => some (d.cfgDataWrite w)
  | .STORAGE_TGT_BIND => some (d.tgtWrite r a w)
  | .STORAGE_TGT_BAR => some (d.tgtWrite r a w)
  | .STORAGE_TGT_CTL => some (d.tgtWrite r a w)
  | .STORAGE_QP_SQ => some (d.qpBaseWrite r a w)
  | .STORAGE_QP_CQ => some (d.qpBaseWrite r a w)
  | .STORAGE_QP_CTL => some (d.qpCtlWrite a w)
  | .DMA_CTL => some (d.dmaCtlWrite a b w)
  | .DMA_SHADOW => some (d.regWrite r i w (d.flag DMA_STATUS.SHEMPTY [a, b]))
  | .BUFM_CFG => some (d.bufmCfgWrite a w)
  | .BUFM_FREE => some (d.cellWrite r a w fun d => d.cellFree a (BUFM_FREE.ADDR.get w.value) w.master)
  | .BUFM_GIVE =>
    some (d.cellWrite r a w fun d => d.cellGive a (BUFM_GIVE.ADDR.get w.value) (BUFM_GIVE.OWNER.get w.value) w.master)
  | .BUFM_RECLAIM => some (d.cellWrite r a w fun d => d.cellReclaim a (BUFM_RECLAIM.OWNER.get w.value))
  | _ => none

/-- Writes of the network, switch, table, scheduler and TRD registers. -/
def Dev.putNet (d : Dev) (m : Mem) (r : RegName) (i : List Nat) (w : Wr) : Option Dev :=
  let a := i.headD 0
  let b := i.getD 1 0
  match r with
  | .NET_PORT_CTL => some (d.netPortCtlWrite m a w)
  | .NET_PRI_THRESH => some (d.priThreshWrite a b w)
  | .PARSE_CTL => some (d.parseCtlWrite m a w)
  | .PARSE_SWAP => some (d.swapWrite r PARSE_STATUS.BANK a w)
  | .PARSE_CODE => some (d.parseCodeWrite a b w)
  | .PARSE_TABLE => some (d.parseTableWrite a w)
  | .CLS_SWAP => some (d.swapWrite r CLS_STATUS.BANK a w)
  | .DQ_BASE => some (d.dqBaseWrite a b w)
  | .DQ_CTL => some (d.dqCtlWrite a b w)
  | .SW_CLR => some (d.clrWrite r i w)
  | .SW_PUSH => some (d.swPushWrite a w)
  | .SW_PORT_CTL => some (d.swPortCtlWrite a w)
  | .TABLES_CMD => some (d.tablesCmdWrite m w false)
  | .TABLES_PLC => some (d.plcWrite m w)
  | .SCHED_Q_CTL => some (d.regWrite r i w (d.flag NET_PORT_CTL.STOPPED [a]) fun f v => b ≤ 1 || f.get v ≠ 0)
  | .SCHED_POL_CFG => some (d.polCfgWrite a b w)
  | .SCHED_RESV_CMD => some (d.resvCmdWrite w)
  | .TRD_CTL => some (d.trdCtlWrite w)
  | .TRD_ADDR => some (d.regWrite r i w d.trdStopped)
  | .TRD_PREFIX6 => some (d.regWrite r i w d.trdStopped)
  | .TRD_REACH => some (d.trdReachWrite w)
  | .TRD_CLR => some (d.clrWrite r i w)
  | .TRD_RING_BASE => some (d.trdRingBaseWrite a b w)
  | .TRD_RING_CTL => some (d.trdRingCtlWrite a b w)
  | _ => none

/-- Writes of the FAULT, BOOT and POWER blocks. -/
def Dev.putBoard (d : Dev) (m : Mem) (r : RegName) (i : List Nat) (w : Wr) : Option Dev :=
  let a := i.headD 0
  match r with
  | .FAULT_CTL => some (d.faultCtlWrite w)
  | .FAULT_STATUS => some (d.faultStatusWrite w)
  | .FAULT_RING_BASE =>
    some (d.regWrite r i w (!d.flag FAULT_CTL.RING_EN) fun f v => inHbm (f.get v * 2 ^ 18) (2 ^ 18))
  | .FAULT_RING_ACK => some (d.ringAckWrite w)
  | .FAULT_CLR => some (d.clrWrite r i w)
  | .FAULT_FORCE => some (d.faultForceWrite w)
  | .FAULT_FATAL_CLR => some (d.fatalClrWrite w)
  | .FAULT_INJ_CTL => some (d.injWrite m r w)
  | .FAULT_INJ_UNIT => some (d.injWrite m r w)
  | .FAULT_INJ_ADDR => some (d.injWrite m r w)
  | .BOOT_CMD => some (d.bootCmdWrite m w)
  | .BOOT_FLASH_CMD => some (d.flashCmdWrite m w {})
  | .BOOT_FUSE_CMD => some (d.fuseCmdWrite m w false)
  | .POWER_RESET => some (d.resetWrite w)
  | .POWER_SLEEP => some (d.sleepWrite m w)
  | .POWER_GATE => some (d.gateWrite m a w)
  | .POWER_GPIO_CFG => some (d.gpioWrite a w)
  | _ => none

/-- A write of a register: the rule of its own that it has, or R84 to R98 alone. -/
def Dev.regPut (d : Dev) (m : Mem) (r : RegName) (i : List Nat) (w : Wr) : Dev :=
  if d.regIdle r i then d
  else
    match d.putFace r i w <|> d.putRings m r i w <|> d.putStore r i w <|> d.putNet m r i w <|> d.putBoard m r i w with
    | some d' => d'
    | none => d.regWrite r i w

/-- A write of control space by a master. -/
def Dev.ctlWrite (d : Dev) (m : Mem) (master off size : Nat) (value : Word) : Dev :=
  let w : Wr := ⟨master, size, off % 8 / 4, value⟩
  if !ctlSized off size then d.blame 0x0202 master (0x40000000000 + off) off
  else if d.absentPage off then d
  else
    match clsPlace off with
    | some (p, b, r, o) => d.clsRowWrite p b r o w
    | none =>
      match locate (off / 8 * 8) with
      | none => d.blame 0x0201 master (0x40000000000 + off)
      | some (r, i) => d.regPut m r i w

/-! ### A function's BAR0 -/

/-- A host's write of the mailbox pair: the host-to-manager box takes writes while it is not full, and sends its notice
when FULL becomes 1; of the other box only bytes 0 to 7, with FULL clear (R366, R367, R369). -/
def Dev.mailboxWrite (d : Dev) (m : Mem) (f a size : Nat) (value : Word) : Dev :=
  let box := d.mbAddr f
  if a < 0x1000 then
    if bit (d.ld m (box + 7)).toNat 7 then d
    else
      let d := d.stBytes (box + a) (leBytes size value.toNat)
      let head := leNat (d.ldBytes m box 8)
      if bit head 63 then
        d.mbNotice (d.fld TENANT_POLICY.MB_STRAND [f]) (BitVec.ofNat 64 (f + d.gen f * 2 ^ 16 + bits head 0 32 * 2 ^ 32))
      else d
  else if a = 0x1000 && size = 8 && !value.getLsbD 63 then d.stBytes (box + 0x1000) (leBytes 8 value.toNat)
  else d

/-- A host's doorbell write (R300, R310, R327). -/
def Dev.bellWrite (d : Dev) (f n : Nat) (cq : Bool) (i : Nat) : Dev :=
  match cq, d.findSq f n, d.findCq f n with
  | false, some g, _ => if d.sqSize g ≤ i then d.ringFault f else d.sqBell g i
  | true, _, some g => if d.cqSize g ≤ i then d.ringFault f else d.modCq g fun q => { q with head := i }
  | _, _, _ => d

/-- A host's write of a function's BAR0, aligned and of 4 or 8 bytes (R84, R263). The error log and the pending bits
are read-only to it (R332, R273). -/
def Dev.barWrite (d : Dev) (m : Mem) (f o size : Nat) (value : Word) : Dev :=
  if !ctlSized o size then (d.blame 0x0202 (0x10000 + f)).barHole f
  else
    match d.barPlace f o with
    | .hole => d.barHole f
    | .reg r i => d.regPut m r i ⟨0x10000 + f, size, o % 8 / 4, value⟩
    | .unbound _ => d
    | .mailbox a => d.mailboxWrite m f a size value
    | .errlog _ => d.barHole f
    | .vector v part =>
      let d := d.msixTableWrite f v part (value.toNat % 2 ^ 32)
      if size = 8 then d.msixTableWrite f v (part + 1) (value.toNat / 2 ^ 32) else d
    | .pba _ => d
    | .bell n cq => if o % 8 = 0 then d.bellWrite f n cq (value.toNat % 65536) else d
    | .push a => d.stBytes (0x30000400000 + a) (leBytes size value.toNat)

/-- A write by a master: `off` is an offset in control space, or in its BAR0 for a host function. -/
def Dev.masterWrite (d : Dev) (m : Mem) (master off size : Nat) (value : Word) : Dev :=
  if master < 0x10000 then (if off < 0x40000000 then d.ctlWrite m master off size value else d)
  else if d.barUp (master - 0x10000) then d.barWrite m (master - 0x10000) off size value
  else d

/-- REGISTER_WRITE (R84, R87, R94 to R98): a write by a master. -/
def execRegisterWrite (master off size : Nat) (value : Word) (s : State) : Res := s.manage fun m d =>
  d.masterWrite m master off size value

/-- PLACE_WRITE (R20 to R23, R382): a write of DEVICE_PLACE. -/
def execPlaceWrite (master size half : Nat) (value : Word) (s : State) : Res := s.manage fun _ d =>
  d.placeWrite ⟨master, size, half, value⟩

end Sys2Proof.Machine
end

