-- ==== Sys2Proof/Machine/FoldRun.lean ====
section
/-!
DEFINITION. The fold commands that read a grain or a buffer: FOLD, HASH and VERIFY, at once or unit by unit as a chained
encryption writes it (R444, R445, R451, R452, R460, R461, R503). A VERIFY may release plaintext to any address of R72,
registers among them (R75), so these stand after the registers' own rules.
-/

namespace Sys2Proof.Machine

/-- A write of a register by a unit, as REGISTER_WRITE performs it. -/
def ctlPut (m : Mem) (d : Dev) (master off : Nat) (b : List Byte) : Dev :=
  d.ctlWrite m master off b.length (BitVec.ofNat 64 (leNat b))

/-- FOLD (R451, R452). -/
def execFold (p u : Nat) (s : State) : Res := s.run fun m d => d.foldRun p u 2 fun d x c =>
  let scx := leAt c 8 8
  let pos := leAt c 24 1
  let b := d.ldBytes m scx 256
  let r := d.scxTest p u 2 scx b
  let a := d.acc? p u scx
  let held := leAt b 4 1 = 1
  let k := if held then (a.map FoldAcc.k).getD 0 else leAt b 0 1
  let done := if held then (a.map FoldAcc.done).getD 0 else leAt b 8 8
  if r ≠ frOk then d.foldFail p u x r (some (leAt b 8 8))
  else if k ≤ pos then d.foldFail p u x frBadCmd (some done)
  else if bit done pos then d.foldFail p u x frDuplicate (some done)
  else (d.foldLoad m p u scx b).foldSource (ctlPut m) m p u x (leAt b 4 1 = 2) (leAt c 16 8) grainLen

/-- HASH (R440, R444). -/
def execHash (p u : Nat) (s : State) : Res := s.run fun m d => d.foldRun p u 4 fun d x c =>
  d.foldSource (ctlPut m) m p u x false (leAt c 8 8) (leAt c 16 4)

/-- VERIFY (R460, R461). -/
def execVerify (p u : Nat) (s : State) : Res := s.run fun m d => d.foldRun p u 7 fun d x c =>
  d.foldSource (ctlPut m) m p u x false (leAt c 8 8) grainLen

/-- FOLD_CHAIN_UNIT_READY (R503): a waiting command reads the units marked written since. -/
def execFoldChainUnitReady (p u : Nat) (s : State) : Res := s.run fun m d =>
  let f := d.foldU p u
  match f.job with
  | none => d
  | some j =>
    if j.lock then d
    else
      let src := leAt j.msg.bytes (if leAt j.msg.bytes 0 1 = 2 then 16 else 8) 8
      let d := d.setFoldU p u { f with job := none }
      if d.stale j.msg.workid then (d.foldUnclaim p u j).foldStale p j.msg
      else Dev.foldAbsorb (ctlPut m) m p u src (16 - j.read.length / 4096) j d

end Sys2Proof.Machine
end

