-- ==== Sys2Proof/Machine/Inbound.lean ====
section
/-!
DEFINITION. Requests from devices below storage ports, and storage-window reads that time out (R596 to R598).
-/

namespace Sys2Proof.Machine

/-- Window `i` of port `n` opens a range to a read, or to a write. -/
def Dev.windowOpens (d : Dev) (n addr len : Nat) (write : Bool) (i : Nat) : Bool :=
  d.flag STORAGE_INWIN_LIM.VALID [n, i] && (!write || d.flag STORAGE_INWIN_LIM.WRITE [n, i]) &&
    d.fld STORAGE_INWIN_BASE.BASE [n, i] * 4096 ≤ addr && addr + len ≤ (d.fld STORAGE_INWIN_LIM.LIMIT [n, i] + 1) * 4096

/-- An address at which an access meets a hole: R73's, those of a fallow block, an unbound aperture's (R80), and those of a
target that is not present (R81). -/
def Dev.holeAt (d : Dev) (a : Nat) : Bool :=
  match d.region a with
  | .hole => true
  | .host => !d.aptBound a
  | .storage => !d.targetPresent (stgTarget a)
  | _ => false

/-- Some byte of a range lies in a hole. Each region, furrow store, plot SRAM, aperture and slot is made of 4 MiB blocks. -/
def Dev.holeIn (d : Dev) (a n : Nat) : Bool := (cutRange 0x400000 a (max n 1)).any fun p => d.holeAt p.1

/-- An inbound read of the bytes at an internal address; `ext` is what a window's link brings. -/
def Dev.inboundRead (d : Dev) (m : Mem) (addr len : Nat) (ext : List Byte) : List Byte × Dev :=
  if d.region addr = .control then
    let r := d.ctlRead 0xFFFF (addr - 0x40000000000) len
    (leBytes len r.1.toNat, r.2)
  else d.engRead m 0xFFFF addr len ext

/-- An inbound write. -/
def Dev.inboundWrite (d : Dev) (m : Mem) (addr : Nat) (data : List Byte) : Dev :=
  if d.region addr = .control then
    d.ctlWrite m 0xFFFF (addr - 0x40000000000) data.length (BitVec.ofNat 64 (leNat data))
  else d.engWrite 0xFFFF addr data

/-- INBOUND_REQUEST (R596, R597): a device below port `n` reads `len` bytes at an internal address, or writes `data`
there. A read of data that is uncorrectable does not complete successfully, and an access that lies partly in a hole is one to
a hole (R865). -/
def execInboundRequest (n addr len : Nat) (write : Bool) (data : List (BitVec 8)) (s : State) : Res := s.run fun m d =>
  let len := if write then data.length else len
  if !(n < 192 && d.portUp n) then d
  else if !((List.range 4).any fun i => d.windowOpens n addr len write i) then
    (d.emit (.inboundCpl n false [])).report { code := 0x0502, kind := 7, unit := n, addr := addr }
  else if d.holeIn addr len then
    let d := d.blame 0x0201 0xFFFF addr
    if write then d else d.emit (.inboundCpl n true (List.replicate len 0))
  else if write then d.inboundWrite m addr data
  else
    let r := d.inboundRead m addr len data
    r.2.emit (.inboundCpl n (!((d.region addr).isMemory && d.poisoned addr len)) r.1)

/-- STORAGE_CPL_TIMEOUT (R598, R616): a read of the storage window by strand `a` (`kind` 0) or by channel `b` of plot
`a` (`kind` 1) has had no completion for CPL_TO. What the strand's load then returns is stated nowhere: it is free. -/
def execStorageCplTimeout (kind a b moved : Nat) (s : State) : Res := s.run fun _ d =>
  match kind with
  | 0 =>
    match tfind d.stg.loads a, (d.strand a).wait with
    | some due, some (.load (.general size signed) dst addr _) =>
      if d.region addr ≠ .storage then d
      else d.at due fun d =>
        let r := d.draw
        let d := { r.2 with stg := { r.2.stg with loads := tdel r.2.stg.loads a } }
        d.finish a (.done d ((d.strand a).regs.next.wr dst (extendLoad size signed (r.1.toNat % 2 ^ (8 * size)))))
    | _, _ => d
  | _ =>
    let x := d.dmaSet .DMA_ACTIVE a b
    let target := stgTarget (leAt x (if (d.dmaCh a b).barrier then 16 else 8) 8)
    if !d.dmaReady a b || !d.copyStorage a b || dmaBadCmd x then d
    else d.at ((d.dmaCh a b).since + d.cplTo target) fun d => d.dmaBusError a b moved

end Sys2Proof.Machine
end

