-- ==== Sys2Proof/Machine/TineMem.lean ====
section
/-!
DEFINITION. Loads, stores, handle accesses and atomics of a strand (R73, R80 to R84, R135 to R141, R180 to R184, R188,
R202 to R204). A load or an atomic waits for its data, which LOAD_DATA_RETURN brings; one that is not performed ends
at once with 0.
-/

namespace Sys2Proof.Machine

/-- The causes of R135 for an address, in the order of R161. -/
def addrCause (ea : Word) (size : Nat) : Option Exc :=
  if 2 ^ 48 ≤ ea.toNat then some .address else if ea.toNat % size ≠ 0 then some .align else none

/-- An access that may not be made, or not without a record, beyond an unresolved branch (R197, R203). -/
def Dev.mustResolve (x : Dev) (k addr : Nat) : Bool :=
  (x.strand k).spec ≠ [] && (!(x.region addr).isMemory || x.absent addr)

/-- The device as strand k reads memory: its own held stores come first (R181). -/
def Dev.withHeld (x : Dev) (k : Nat) : Dev :=
  { x with wlog := ((x.strand k).spec.reverse.flatMap fun c => c.stores) ++ x.wlog }

/-- A store of strand k to memory beyond an unresolved branch is held (R202). -/
def Dev.holdStore (x : Dev) (k addr : Nat) (b : List Byte) : Dev :=
  let log := (({ x with wlog := [] }).stBytes addr b).wlog
  x.modStrand k fun s => match s.spec.reverse with
    | [] => s
    | c :: t => { s with spec := (({ c with stores := log ++ c.stores } : Ckpt) :: t).reverse }

/-- A value of a load of general size, or of 64 bytes, reaches its register. -/
def Regs.landed (r : Regs) (kind : LoadKind) (dst : Nat) (b : List Byte) : Regs :=
  match kind with
  | .general size signed => r.wr dst (extendLoad size signed (leNat (slice b 0 size)))
  | .wide => r.wrW dst (bytesWide (slice b 0 64))
  | .atomic _ _ _ => r.wr dst (BitVec.ofNat 64 (leNat (slice b 0 8)))

def LoadKind.size : LoadKind → Nat
  | .general size _ => size
  | .wide => 64
  | .atomic _ _ _ => 8

def LoadKind.isAtomic : LoadKind → Bool
  | .general _ _ => false
  | .wide => false
  | .atomic _ _ _ => true

/-- A read through a window is sent to its link (R268, R598), after the writes issued before it
(R188): to a host only while its function may issue requests
(R283, R284). -/
def Dev.windowLoad (x : Dev) (k addr size : Nat) : Dev :=
  match x.region addr with
  | .host =>
    let f := x.aptFunc addr
    if x.fnMaster f then x.aptRead addr size (.strand k) else x.bmeDrop f
  | .storage =>
    let t := stgTarget addr
    let due := x.now + x.cplTo t
    let x := x.transmit.emit (.storageRead t ((x.reg .STORAGE_TGT_BAR [t]).toNat + stgOff addr) size)
    { x with stg := { x.stg with loads := tput x.stg.loads k due } }
  | _ => x

/-- Why a load or an atomic is not performed, as the code of its record; `none` if it is (R73, R80, R81, R83, R84,
R137). -/
def Dev.loadRefused (x : Dev) (kind : LoadKind) (addr : Nat) : Option Nat :=
  let wide := kind = .wide || kind.isAtomic
  match x.region addr with
  | .hole => some 0x0201
  | .control => if wide then some 0x0203 else if ctlSized (addr - 0x40000000000) kind.size then none else some 0x0202
  | .host => if wide then some 0x0203 else if x.aptBound addr then none else some 0x0201
  | .storage => if wide then some 0x0203 else if x.targetPresent (stgTarget addr) then none else some 0x0201
  | _ => if x.absent addr then some 0x0201 else none

/-- A refused access is recorded against the strand (R73, R83, R84, R137). -/
def Dev.blameAccess (x : Dev) (k code addr : Nat) : Dev :=
  x.blame code (tagStrand k) addr
    (if regionOf addr = .control && code = 0x0202 then addr - 0x40000000000 else 0)

/-- A load or an atomic whose address has passed its checks: it waits for its data, or ends at once with 0. -/
def Dev.startLoad (x : Dev) (k : Nat) (r : Regs) (kind : LoadKind) (dst addr : Nat) (eval : Word) : IRes :=
  if x.mustResolve k addr then .hold
  else
    match x.loadRefused kind addr with
    | some code => .done (x.blameAccess k code addr) (r.next.landed kind dst [])
    | none => .wait (.load kind dst addr eval)

/-- An absolute load (R135 to R137). -/
def Dev.load (x : Dev) (m : Mem) (k op : Nat) (d a : BitVec 5) (imm : BitVec 16) (kind : LoadKind) (illegal : Bool) :
    Dev :=
  let x' := x.issue m k (wordRI op d a imm) false illegal false fun r =>
    let ea := r.rd a.toNat + sx16 imm
    match addrCause ea kind.size with
    | some c => .exc c ea
    | none => x.startLoad k r kind d.toNat ea.toNat ea
  match (x.strand k).wait, (x'.strand k).wait with
  | none, some (.load _ _ addr _) => x'.windowLoad k addr kind.size
  | _, _ => x'

/-- A store of `b` by strand k, its address checked: to memory at once or held, to control space after it retires, to a
window as a posted write; a 64-byte store to a side-effect region is not performed (R137, R188, R202, R203). -/
def Dev.store (x : Dev) (m : Mem) (k : Nat) (r : Regs) (addr : Nat) (b : List Byte) : IRes :=
  if x.mustResolve k addr then .hold
  else
    match x.region addr with
    | .hole => .done (x.blameAccess k 0x0201 addr) r.next
    | .control =>
      if b.length = 64 then .done (x.blameAccess k 0x0203 addr) r.next
      else .after x r.next fun x => x.ctlWrite m (tagStrand k) (addr - 0x40000000000) b.length (BitVec.ofNat 64 (leNat b))
    | .host => .done (if b.length = 64 then x.blameAccess k 0x0203 addr else x.aptWrite (tagStrand k) addr b) r.next
    | .storage => .done (if b.length = 64 then x.blameAccess k 0x0203 addr else x.stgWrite (tagStrand k) addr b) r.next
    | _ =>
      if (x.strand k).spec ≠ [] then .done (x.holdStore k addr b) r.next
      else .done (x.wrMem (tagStrand k) addr b) r.next

/-- An absolute store (R135 to R137). -/
def Dev.storeAbs (x : Dev) (m : Mem) (k op : Nat) (d a : BitVec 5) (imm : BitVec 16) (size : Nat) (illegal : Bool) : Dev :=
  x.issue m k (wordRI op d a imm) false illegal false fun r =>
    let ea := r.rd a.toNat + sx16 imm
    match addrCause ea size with
    | some c => .exc c ea
    | none => x.store m k r ea.toNat (r.storeBytes d size)

/-! ### The absolute loads and stores (R136) -/

/-- LDB. -/
def execLdb (k : Nat) (d a : BitVec 5) (imm : BitVec 16) (s : State) : Res :=
  s.run fun m x => x.load m k 0x10 d a imm (.general 1 false) false
/-- LDH. -/
def execLdh (k : Nat) (d a : BitVec 5) (imm : BitVec 16) (s : State) : Res :=
  s.run fun m x => x.load m k 0x11 d a imm (.general 2 false) false
/-- LDW. -/
def execLdw (k : Nat) (d a : BitVec 5) (imm : BitVec 16) (s : State) : Res :=
  s.run fun m x => x.load m k 0x12 d a imm (.general 4 false) false
/-- LDD. -/
def execLdd (k : Nat) (d a : BitVec 5) (imm : BitVec 16) (s : State) : Res :=
  s.run fun m x => x.load m k 0x13 d a imm (.general 8 false) false
/-- LDBS. -/
def execLdbs (k : Nat) (d a : BitVec 5) (imm : BitVec 16) (s : State) : Res :=
  s.run fun m x => x.load m k 0x14 d a imm (.general 1 true) false
/-- LDHS. -/
def execLdhs (k : Nat) (d a : BitVec 5) (imm : BitVec 16) (s : State) : Res :=
  s.run fun m x => x.load m k 0x15 d a imm (.general 2 true) false
/-- LDWS. -/
def execLdws (k : Nat) (d a : BitVec 5) (imm : BitVec 16) (s : State) : Res :=
  s.run fun m x => x.load m k 0x16 d a imm (.general 4 true) false
/-- STB. -/
def execStb (k : Nat) (d a : BitVec 5) (imm : BitVec 16) (s : State) : Res :=
  s.run fun m x => x.storeAbs m k 0x18 d a imm 1 false
/-- STH. -/
def execSth (k : Nat) (d a : BitVec 5) (imm : BitVec 16) (s : State) : Res :=
  s.run fun m x => x.storeAbs m k 0x19 d a imm 2 false
/-- STW. -/
def execStw (k : Nat) (d a : BitVec 5) (imm : BitVec 16) (s : State) : Res :=
  s.run fun m x => x.storeAbs m k 0x1A d a imm 4 false
/-- STD. -/
def execStd (k : Nat) (d a : BitVec 5) (imm : BitVec 16) (s : State) : Res :=
  s.run fun m x => x.storeAbs m k 0x1B d a imm 8 false
/-- WLD: D names a wide register (R136). -/
def execWld (k : Nat) (d a : BitVec 5) (imm : BitVec 16) (s : State) : Res :=
  s.run fun m x => x.load m k 0x1C d a imm .wide (8 ≤ d.toNat)
/-- WST. -/
def execWst (k : Nat) (d a : BitVec 5) (imm : BitVec 16) (s : State) : Res :=
  s.run fun m x => x.storeAbs m k 0x1D d a imm 64 (8 ≤ d.toNat)

/-! ### HLD and HST (R139, R140) -/

/-- What an HLD waits for. -/
def handleLoad (sz : BitVec 3) (sx : BitVec 1) : LoadKind := if sz = 4 then .wide else .general (handleSize sz) (sx = 1)

/-- HLD. -/
def execHld (k : Nat) (d a : BitVec 5) (h sz : BitVec 3) (sx : BitVec 1) (off : BitVec 9) (s : State) : Res :=
  s.run fun m x => x.issue m k (wordH 0x1E d a h sz sx off) true (handleIllegal d sz sx) false fun r =>
    match x.handleAddr r a h sz off false with
    | .error (c, ev) => .exc c ev
    | .ok addr => x.startLoad k r (handleLoad sz sx) d.toNat addr (handleEval r a sz off addr)

/-- HST. -/
def execHst (k : Nat) (d a : BitVec 5) (h sz : BitVec 3) (sx : BitVec 1) (off : BitVec 9) (s : State) : Res :=
  s.run fun m x => x.issue m k (wordH 0x1F d a h sz sx off) true (handleIllegal d sz sx) false fun r =>
    match x.handleAddr r a h sz off true with
    | .error (c, ev) => .exc c ev
    | .ok addr => x.store m k r addr (r.storeBytes d (handleSize sz))

/-! ### Atomics (R83, R141, R187) -/

/-- The new value of the atomic with function FN: `b` is g[B] and `old` g[D] as the instruction began, `v` what memory
holds. -/
def atomicNew (fn : Nat) (b old v : Word) : Word :=
  match fn with
  | 0 => v + b
  | 1 => v &&& b
  | 2 => v ||| b
  | 3 => v ^^^ b
  | 4 => b
  | 5 => if v.ult b then v else b
  | 6 => if v.ult b then b else v
  | _ => if v = old then b else v

/-- An atomic: it waits until every earlier branch has resolved (R110), and then for its result. -/
def Dev.atomic (x : Dev) (m : Mem) (k fn : Nat) (d a b : BitVec 5) : Dev :=
  x.issue m k (wordRR 0x20 d a b (BitVec.ofNat 11 fn)) false false true fun r =>
    let ea := r.rd a.toNat
    match addrCause ea 8 with
    | some c => .exc c ea
    | none => x.startLoad k r (.atomic fn (r.rd b.toNat) (r.rd d.toNat)) d.toNat ea.toNat ea

/-- AADD. -/
def execAadd (k : Nat) (d a b : BitVec 5) (s : State) : Res := s.run fun m x => x.atomic m k 0 d a b
/-- AAND. -/
def execAand (k : Nat) (d a b : BitVec 5) (s : State) : Res := s.run fun m x => x.atomic m k 1 d a b
/-- AOR. -/
def execAor (k : Nat) (d a b : BitVec 5) (s : State) : Res := s.run fun m x => x.atomic m k 2 d a b
/-- AXOR. -/
def execAxor (k : Nat) (d a b : BitVec 5) (s : State) : Res := s.run fun m x => x.atomic m k 3 d a b
/-- ASWP. -/
def execAswp (k : Nat) (d a b : BitVec 5) (s : State) : Res := s.run fun m x => x.atomic m k 4 d a b
/-- AMINU. -/
def execAminu (k : Nat) (d a b : BitVec 5) (s : State) : Res := s.run fun m x => x.atomic m k 5 d a b
/-- AMAXU. -/
def execAmaxu (k : Nat) (d a b : BitVec 5) (s : State) : Res := s.run fun m x => x.atomic m k 6 d a b
/-- ACAS. -/
def execAcas (k : Nat) (d a b : BitVec 5) (s : State) : Res := s.run fun m x => x.atomic m k 8 d a b

/-! ### The data of a load (R138, R184, R204) -/

/-- The bytes a waiting load gets and what getting them does: memory behind the strand's held stores, a register, or
what a window's link brings. A host's data that was dropped is free (R283). -/
def Dev.loadData (x : Dev) (m : Mem) (k addr n : Nat) (ext : List Byte) : List Byte × Dev :=
  match x.region addr with
  | .control =>
    let r := x.ctlRead (tagStrand k) (addr - 0x40000000000) n
    (leBytes n r.1.toNat, r.2)
  | .host =>
    let lost (x : Dev) : List Byte × Dev := (leBytes n x.draw.1.toNat, x.draw.2)
    match x.host.reads.find? fun r => r.requester = .strand k with
    | none => lost x
    | some r =>
      let x := x.dropReads (.strand k)
      if x.fnMaster r.func then (slice ext 0 n, x) else lost (x.bmeDrop r.func)
  | .storage =>
    let x := { x with stg := { x.stg with loads := tdel x.stg.loads k } }
    if x.targetPresent (stgTarget addr) then (slice ext 0 n, x)
    else (List.replicate n 0, x.blameAccess k 0x0201 addr)
  | .hole => (List.replicate n 0, x.blameAccess k 0x0201 addr)
  | _ => if x.absent addr then (List.replicate n 0, x.blameAccess k 0x0201 addr)
    else ((x.withHeld k).ldBytes m addr n, x)

/-- The load's data: `bad` where it is uncorrectable, and the error stays in memory. Beyond an unresolved branch the load then
waits on; resolved, it raises MEMFAULT, and discarded, the next access to that address meets the error (R204). -/
def Dev.loadReturn (x : Dev) (m : Mem) (k : Nat) (ext : List Byte) (bad : Bool) : Dev :=
  match (x.strand k).wait with
  | some (.load kind dst addr eval) =>
    if x.mustResolve k addr then x
    else if (x.region addr).isMemory && !x.absent addr && (bad || x.poisoned addr kind.size) then
      let x := if x.poisoned addr kind.size then x
        else { x with flt := { x.flt with poisoned := x.flt.poisoned ++ [addr / 64] } }
      if (x.strand k).spec ≠ [] then x
      else
        (x.report { code := 0x0306, kind := 1, unit := k, master := tagStrand k, addr := addr }).finish k (.exc .memfault eval)
    else
      let r := x.loadData m k addr kind.size ext
      let x := r.2
      let regs := (x.strand k).regs.next.landed kind dst r.1
      match kind with
      | .atomic fn b old =>
        if (x.region addr).isMemory then
          let v := atomicNew fn b old (BitVec.ofNat 64 (leNat r.1))
          x.finish k (.done (x.stBytes addr (leBytes 8 v.toNat)) regs)
        else x.finish k (.done x regs)
      | .general _ _ => x.finish k (.done x regs)
      | .wide => x.finish k (.done x regs)
  | _ => x

/-- LOAD_DATA_RETURN (R138): the data that strand `k` waits for arrives. `ext` is what a window's link brings. -/
def execLoadDataReturn (k : Nat) (ext : List (BitVec 8)) (bad : Bool) (s : State) : Res :=
  s.run fun m x => x.loadReturn m k ext bad

end Sys2Proof.Machine
end

