-- ==== Sys2Proof/Machine/Dispatch.lean ====
section
/-! DEFINITION. One arm per command: a direct call of its meaning. -/

namespace Sys2Proof.Machine

def exec (i : Instr) (s : State) : Host.Outcome State Fault Refusal :=
  match i with
  | .powerOnReset => Sys2Proof.Machine.execPowerOnReset s
  | .firstAvsRequest => Sys2Proof.Machine.execFirstAvsRequest s
  | .stripTrainingStart => Sys2Proof.Machine.execStripTrainingStart s
  | .hbmTrainingDone => Sys2Proof.Machine.execHbmTrainingDone s
  | .bootMailboxOpen => Sys2Proof.Machine.execBootMailboxOpen s
  | .powerLoss sram => Sys2Proof.Machine.execPowerLoss sram s
  | .railOutOfRange rail => Sys2Proof.Machine.execRailOutOfRange rail s
  | .refclkLoss => Sys2Proof.Machine.execRefclkLoss s
  | .registerWrite master off size value => Sys2Proof.Machine.execRegisterWrite master off size value s
  | .snapCaptureRead master off size => Sys2Proof.Machine.execSnapCaptureRead master off size s
  | .rcRead master off size => Sys2Proof.Machine.execRcRead master off size s
  | .placeWrite master size half value => Sys2Proof.Machine.execPlaceWrite master size half value s
  | .paceInterval tj busy => Sys2Proof.Machine.execPaceInterval tj busy s
  | .avsReport code => Sys2Proof.Machine.execAvsReport code s
  | .avsRequestFail => Sys2Proof.Machine.execAvsRequestFail s
  | .belowFloorFault => Sys2Proof.Machine.execBelowFloorFault s
  | .trdQuietExpire => Sys2Proof.Machine.execTrdQuietExpire s
  | .timeAdjWrite master size value => Sys2Proof.Machine.execTimeAdjWrite master size value s
  | .slewComplete => Sys2Proof.Machine.execSlewComplete s
  | .stepPendClear master size half value => Sys2Proof.Machine.execStepPendClear master size half value s
  | .timeRefWrite master size half value => Sys2Proof.Machine.execTimeRefWrite master size half value s
  | .refTimeout => Sys2Proof.Machine.execRefTimeout s
  | .ppsInEdge => Sys2Proof.Machine.execPpsInEdge s
  | .ppsLost => Sys2Proof.Machine.execPpsLost s
  | .ppsOutPulse => Sys2Proof.Machine.execPpsOutPulse s
  | .holdoverQualityStep => Sys2Proof.Machine.execHoldoverQualityStep s
  | .add k d a b => Sys2Proof.Machine.execAdd k d a b s
  | .sub k d a b => Sys2Proof.Machine.execSub k d a b s
  | .and k d a b => Sys2Proof.Machine.execAnd k d a b s
  | .or k d a b => Sys2Proof.Machine.execOr k d a b s
  | .xor k d a b => Sys2Proof.Machine.execXor k d a b s
  | .andn k d a b => Sys2Proof.Machine.execAndn k d a b s
  | .shl k d a b => Sys2Proof.Machine.execShl k d a b s
  | .shr k d a b => Sys2Proof.Machine.execShr k d a b s
  | .sar k d a b => Sys2Proof.Machine.execSar k d a b s
  | .ror k d a b => Sys2Proof.Machine.execRor k d a b s
  | .mul k d a b => Sys2Proof.Machine.execMul k d a b s
  | .mulhu k d a b => Sys2Proof.Machine.execMulhu k d a b s
  | .divu k d a b => Sys2Proof.Machine.execDivu k d a b s
  | .remu k d a b => Sys2Proof.Machine.execRemu k d a b s
  | .slt k d a b => Sys2Proof.Machine.execSlt k d a b s
  | .sltu k d a b => Sys2Proof.Machine.execSltu k d a b s
  | .minu k d a b => Sys2Proof.Machine.execMinu k d a b s
  | .maxu k d a b => Sys2Proof.Machine.execMaxu k d a b s
  | .clz k d a b => Sys2Proof.Machine.execClz k d a b s
  | .ctz k d a b => Sys2Proof.Machine.execCtz k d a b s
  | .popc k d a b => Sys2Proof.Machine.execPopc k d a b s
  | .bswap k d a b => Sys2Proof.Machine.execBswap k d a b s
  | .addi k d a imm => Sys2Proof.Machine.execAddi k d a imm s
  | .andi k d a imm => Sys2Proof.Machine.execAndi k d a imm s
  | .ori k d a imm => Sys2Proof.Machine.execOri k d a imm s
  | .xori k d a imm => Sys2Proof.Machine.execXori k d a imm s
  | .shli k d a imm => Sys2Proof.Machine.execShli k d a imm s
  | .shri k d a imm => Sys2Proof.Machine.execShri k d a imm s
  | .sari k d a imm => Sys2Proof.Machine.execSari k d a imm s
  | .slti k d a imm => Sys2Proof.Machine.execSlti k d a imm s
  | .sltiu k d a imm => Sys2Proof.Machine.execSltiu k d a imm s
  | .movw k d hw keep z imm => Sys2Proof.Machine.execMovw k d hw keep z imm s
  | .addpc k d off => Sys2Proof.Machine.execAddpc k d off s
  | .ldb k d a imm => Sys2Proof.Machine.execLdb k d a imm s
  | .ldh k d a imm => Sys2Proof.Machine.execLdh k d a imm s
  | .ldw k d a imm => Sys2Proof.Machine.execLdw k d a imm s
  | .ldd k d a imm => Sys2Proof.Machine.execLdd k d a imm s
  | .ldbs k d a imm => Sys2Proof.Machine.execLdbs k d a imm s
  | .ldhs k d a imm => Sys2Proof.Machine.execLdhs k d a imm s
  | .ldws k d a imm => Sys2Proof.Machine.execLdws k d a imm s
  | .stb k d a imm => Sys2Proof.Machine.execStb k d a imm s
  | .sth k d a imm => Sys2Proof.Machine.execSth k d a imm s
  | .stw k d a imm => Sys2Proof.Machine.execStw k d a imm s
  | .std k d a imm => Sys2Proof.Machine.execStd k d a imm s
  | .wld k d a imm => Sys2Proof.Machine.execWld k d a imm s
  | .wst k d a imm => Sys2Proof.Machine.execWst k d a imm s
  | .loadDataReturn k ext bad => Sys2Proof.Machine.execLoadDataReturn k ext bad s
  | .hld k d a h sz sx off => Sys2Proof.Machine.execHld k d a h sz sx off s
  | .hst k d a h sz sx off => Sys2Proof.Machine.execHst k d a h sz sx off s
  | .aadd k d a b => Sys2Proof.Machine.execAadd k d a b s
  | .aand k d a b => Sys2Proof.Machine.execAand k d a b s
  | .aor k d a b => Sys2Proof.Machine.execAor k d a b s
  | .axor k d a b => Sys2Proof.Machine.execAxor k d a b s
  | .aswp k d a b => Sys2Proof.Machine.execAswp k d a b s
  | .aminu k d a b => Sys2Proof.Machine.execAminu k d a b s
  | .amaxu k d a b => Sys2Proof.Machine.execAmaxu k d a b s
  | .acas k d a b => Sys2Proof.Machine.execAcas k d a b s
  | .fence k d a b fn => Sys2Proof.Machine.execFence k d a b fn s
  | .fenceRelease k => Sys2Proof.Machine.execFenceRelease k s
  | .beq k a b off predict => Sys2Proof.Machine.execBeq k a b off predict s
  | .bne k a b off predict => Sys2Proof.Machine.execBne k a b off predict s
  | .blt k a b off predict => Sys2Proof.Machine.execBlt k a b off predict s
  | .bge k a b off predict => Sys2Proof.Machine.execBge k a b off predict s
  | .bltu k a b off predict => Sys2Proof.Machine.execBltu k a b off predict s
  | .bgeu k a b off predict => Sys2Proof.Machine.execBgeu k a b off predict s
  | .branchResolve k => Sys2Proof.Machine.execBranchResolve k s
  | .jal k d off => Sys2Proof.Machine.execJal k d off s
  | .jalr k d a imm => Sys2Proof.Machine.execJalr k d a imm s
  | .mfs k d a b fn => Sys2Proof.Machine.execMfs k d a b fn s
  | .mts k d a b fn => Sys2Proof.Machine.execMts k d a b fn s
  | .eret k d a b => Sys2Proof.Machine.execEret k d a b s
  | .denter k d a b => Sys2Proof.Machine.execDenter k d a b s
  | .dexit k d a b => Sys2Proof.Machine.execDexit k d a b s
  | .halt k d a b => Sys2Proof.Machine.execHalt k d a b s
  | .yield k d a b => Sys2Proof.Machine.execYield k d a b s
  | .iflush k d a b => Sys2Proof.Machine.execIflush k d a b s
  | .wcall k z1 z2 imm => Sys2Proof.Machine.execWcall k z1 z2 imm s
  | .brk k z1 z2 imm => Sys2Proof.Machine.execBrk k z1 z2 imm s
  | .staleException k => Sys2Proof.Machine.execStaleException k s
  | .qput k d a port fn => Sys2Proof.Machine.execQput k d a port fn s
  | .qget k d a port fn => Sys2Proof.Machine.execQget k d a port fn s
  | .qlen k d a port fn => Sys2Proof.Machine.execQlen k d a port fn s
  | .wait k d a b fn => Sys2Proof.Machine.execWait k d a b fn s
  | .queueWaitResume k => Sys2Proof.Machine.execQueueWaitResume k s
  | .waitDeadline k => Sys2Proof.Machine.execWaitDeadline k s
  | .wxor k d a b => Sys2Proof.Machine.execWxor k d a b s
  | .wmov k d a b => Sys2Proof.Machine.execWmov k d a b s
  | .wzero k d a b => Sys2Proof.Machine.execWzero k d a b s
  | .gfmac k d a b => Sys2Proof.Machine.execGfmac k d a b s
  | .gfmul k d a b => Sys2Proof.Machine.execGfmul k d a b s
  | .wget k d a b => Sys2Proof.Machine.execWget k d a b s
  | .wput k d a b => Sys2Proof.Machine.execWput k d a b s
  | .gfinv k d a b => Sys2Proof.Machine.execGfinv k d a b s
  | .gfmuls k d a b => Sys2Proof.Machine.execGfmuls k d a b s
  | .hs256i k d a b => Sys2Proof.Machine.execHs256i k d a b s
  | .hs256 k d a b => Sys2Proof.Machine.execHs256 k d a b s
  | .keccak k d a b => Sys2Proof.Machine.execKeccak k d a b s
  | .wcmp k d a b => Sys2Proof.Machine.execWcmp k d a b s
  | .strandRun master k size value => Sys2Proof.Machine.execStrandRun master k size value s
  | .strandStop master k size value => Sys2Proof.Machine.execStrandStop master k size value s
  | .strandStep master k size value => Sys2Proof.Machine.execStrandStep master k size value s
  | .strandStopped k => Sys2Proof.Machine.execStrandStopped k s
  | .tineFail t readable => Sys2Proof.Machine.execTineFail t readable s
  | .specClrDevice master size => Sys2Proof.Machine.execSpecClrDevice master size s
  | .specClrTines master size => Sys2Proof.Machine.execSpecClrTines master size s
  | .sqDoorbell f n value => Sys2Proof.Machine.execSqDoorbell f n value s
  | .ringFetchReturn g data => Sys2Proof.Machine.execRingFetchReturn g data s
  | .ringFetchFail g err => Sys2Proof.Machine.execRingFetchFail g err s
  | .drillGapExpire g => Sys2Proof.Machine.execDrillGapExpire g s
  | .drillDispatch q k => Sys2Proof.Machine.execDrillDispatch q k s
  | .nop r ix => Sys2Proof.Machine.execNop r ix s
  | .code r ix => Sys2Proof.Machine.execCode r ix s
  | .run r ix k stage data => Sys2Proof.Machine.execRun r ix k stage data s
  | .sowOpen r ix => Sys2Proof.Machine.execSowOpen r ix s
  | .sowWrite r ix data place => Sys2Proof.Machine.execSowWrite r ix data place s
  | .sowSeal r ix place => Sys2Proof.Machine.execSowSeal r ix place s
  | .sowDrop r ix => Sys2Proof.Machine.execSowDrop r ix s
  | .gleanRead r ix ledger descs => Sys2Proof.Machine.execGleanRead r ix ledger descs s
  | .objStat r ix ledger => Sys2Proof.Machine.execObjStat r ix ledger s
  | .ledgerRead r ix ledger => Sys2Proof.Machine.execLedgerRead r ix ledger s
  | .fixity r ix ledger descs rows => Sys2Proof.Machine.execFixity r ix ledger descs rows s
  | .repair r ix ledger descs => Sys2Proof.Machine.execRepair r ix ledger descs s
  | .selftest r ix checks bad n plots => Sys2Proof.Machine.execSelftest r ix checks bad n plots s
  | .selftestResume r n => Sys2Proof.Machine.execSelftestResume r n s
  | .abort r => Sys2Proof.Machine.execAbort r s
  | .completionMessage => Sys2Proof.Machine.execCompletionMessage s
  | .cqEntryWrite g => Sys2Proof.Machine.execCqEntryWrite g s
  | .cqDoorbell f n value => Sys2Proof.Machine.execCqDoorbell f n value s
  | .cqCoalTimer g => Sys2Proof.Machine.execCqCoalTimer g s
  | .sqRun master g size half value => Sys2Proof.Machine.execSqRun master g size half value s
  | .sqStop master g size half value => Sys2Proof.Machine.execSqStop master g size half value s
  | .cqRun master g size half value => Sys2Proof.Machine.execCqRun master g size half value s
  | .restartSkip master g size => Sys2Proof.Machine.execRestartSkip master g size s
  | .restartRetry master g size => Sys2Proof.Machine.execRestartRetry master g size s
  | .restartResume master g size => Sys2Proof.Machine.execRestartResume master g size s
  | .errlogAckWrite f size half value => Sys2Proof.Machine.execErrlogAckWrite f size half value s
  | .perstAssert l cold => Sys2Proof.Machine.execPerstAssert l cold s
  | .perstDeassert l => Sys2Proof.Machine.execPerstDeassert l s
  | .hotReset l => Sys2Proof.Machine.execHotReset l s
  | .hostLinkDown l l2 => Sys2Proof.Machine.execHostLinkDown l l2 s
  | .hostLinkUp l state rate lanes => Sys2Proof.Machine.execHostLinkUp l state rate lanes s
  | .flr f => Sys2Proof.Machine.execFlr f s
  | .flrSilenced f => Sys2Proof.Machine.execFlrSilenced f s
  | .flrComplete f => Sys2Proof.Machine.execFlrComplete f s
  | .bmeClear f => Sys2Proof.Machine.execBmeClear f s
  | .bmeSet f => Sys2Proof.Machine.execBmeSet f s
  | .d3hotEnter f => Sys2Proof.Machine.execD3hotEnter f s
  | .d0Return f => Sys2Proof.Machine.execD0Return f s
  | .vfEnableSet p => Sys2Proof.Machine.execVfEnableSet p s
  | .vfEnableClear p => Sys2Proof.Machine.execVfEnableClear p s
  | .numvfsWrite p n => Sys2Proof.Machine.execNumvfsWrite p n s
  | .bufSlotWrite f size half value => Sys2Proof.Machine.execBufSlotWrite f size half value s
  | .bufAttrCommit f size half value => Sys2Proof.Machine.execBufAttrCommit f size half value s
  | .barHoleAccess f => Sys2Proof.Machine.execBarHoleAccess f s
  | .atsInvalidate f pasid lo hi itag => Sys2Proof.Machine.execAtsInvalidate f pasid lo hi itag s
  | .atsInvalidateDone => Sys2Proof.Machine.execAtsInvalidateDone s
  | .hostCplTimeout kind a b moved => Sys2Proof.Machine.execHostCplTimeout kind a b moved s
  | .hostCplError kind a b moved err => Sys2Proof.Machine.execHostCplError kind a b moved err s
  | .msixUnmask f v => Sys2Proof.Machine.execMsixUnmask f v s
  | .freeze master f size half value => Sys2Proof.Machine.execFreeze master f size half value s
  | .thaw master f size half value => Sys2Proof.Machine.execThaw master f size half value s
  | .save master size half value newest => Sys2Proof.Machine.execSave master size half value newest s
  | .restore master size half value => Sys2Proof.Machine.execRestore master size half value s
  | .mbHostSend f header payload => Sys2Proof.Machine.execMbHostSend f header payload s
  | .mbNoticeDeliver => Sys2Proof.Machine.execMbNoticeDeliver s
  | .mbRaise master size value => Sys2Proof.Machine.execMbRaise master size value s
  | .mbHostFree f header => Sys2Proof.Machine.execMbHostFree f header s
  | .grainBufferGrant place => Sys2Proof.Machine.execGrainBufferGrant place s
  | .sowEpochWrite master size half value => Sys2Proof.Machine.execSowEpochWrite master size half value s
  | .sowNextWrite master size half value => Sys2Proof.Machine.execSowNextWrite master size half value s
  | .dryOpenResume => Sys2Proof.Machine.execDryOpenResume s
  | .profileWrite master n size half value => Sys2Proof.Machine.execProfileWrite master n size half value s
  | .sessionExpire f slot => Sys2Proof.Machine.execSessionExpire f slot s
  | .frontierWriteResume r ix data place => Sys2Proof.Machine.execFrontierWriteResume r ix data place s
  | .peerGrainReceive node target row data => Sys2Proof.Machine.execPeerGrainReceive node target row data s
  | .peerDurableReport node target row ok alt => Sys2Proof.Machine.execPeerDurableReport node target row ok alt s
  | .sealFullRedundancy f slot place => Sys2Proof.Machine.execSealFullRedundancy f slot place s
  | .ledgerRecordAppend tenant peer place => Sys2Proof.Machine.execLedgerRecordAppend tenant peer place s
  | .ledgerHomeReport tenant remote place => Sys2Proof.Machine.execLedgerHomeReport tenant remote place s
  | .init p u => Sys2Proof.Machine.execInit p u s
  | .fold p u => Sys2Proof.Machine.execFold p u s
  | .close p u => Sys2Proof.Machine.execClose p u s
  | .hash p u => Sys2Proof.Machine.execHash p u s
  | .tallyAppend p u => Sys2Proof.Machine.execTallyAppend p u s
  | .tallyFinal p u => Sys2Proof.Machine.execTallyFinal p u s
  | .verify p u => Sys2Proof.Machine.execVerify p u s
  | .recon p u => Sys2Proof.Machine.execRecon p u s
  | .tsbLockFree p u => Sys2Proof.Machine.execTsbLockFree p u s
  | .foldChainUnitReady p u => Sys2Proof.Machine.execFoldChainUnitReady p u s
  | .foldUnitFail p u => Sys2Proof.Machine.execFoldUnitFail p u s
  | .foldClr master p u size value => Sys2Proof.Machine.execFoldClr master p u size value s
  | .derive => Sys2Proof.Machine.execDerive s
  | .mac => Sys2Proof.Machine.execMac s
  | .macCheck => Sys2Proof.Machine.execMacCheck s
  | .exportEk => Sys2Proof.Machine.execExportEk s
  | .provision => Sys2Proof.Machine.execProvision s
  | .loadRoot => Sys2Proof.Machine.execLoadRoot s
  | .clearRoot => Sys2Proof.Machine.execClearRoot s
  | .flush => Sys2Proof.Machine.execFlush s
  | .vaultClr master size value => Sys2Proof.Machine.execVaultClr master size value s
  | .xtsEnc p ext => Sys2Proof.Machine.execXtsEnc p ext s
  | .xtsDec p ext => Sys2Proof.Machine.execXtsDec p ext s
  | .aesEnc p ext => Sys2Proof.Machine.execAesEnc p ext s
  | .aesDec p ext => Sys2Proof.Machine.execAesDec p ext s
  | .g2Enc p ext => Sys2Proof.Machine.execG2Enc p ext s
  | .g2Dec p ext => Sys2Proof.Machine.execG2Dec p ext s
  | .loadPlain p ext => Sys2Proof.Machine.execLoadPlain p ext s
  | .slotClear p => Sys2Proof.Machine.execSlotClear p s
  | .discard p => Sys2Proof.Machine.execDiscard p s
  | .chainUnitWritten p ext => Sys2Proof.Machine.execChainUnitWritten p ext s
  | .releaseEntryFree p ext => Sys2Proof.Machine.execReleaseEntryFree p ext s
  | .cipherCoreFail p core => Sys2Proof.Machine.execCipherCoreFail p core s
  | .cipherClr master p size value => Sys2Proof.Machine.execCipherClr master p size value s
  | .gleanFetchArrive r sheaf pos data => Sys2Proof.Machine.execGleanFetchArrive r sheaf pos data s
  | .gleanFetchTimeout r sheaf pos => Sys2Proof.Machine.execGleanFetchTimeout r sheaf pos s
  | .hedgeThreshold r sheaf pos => Sys2Proof.Machine.execHedgeThreshold r sheaf pos s
  | .survivorArrive r sheaf pos data => Sys2Proof.Machine.execSurvivorArrive r sheaf pos data s
  | .repairLockGrant obj rows place copies => Sys2Proof.Machine.execRepairLockGrant obj rows place copies s
  | .oldRowFree => Sys2Proof.Machine.execOldRowFree s
  | .harrowReadIssue t row => Sys2Proof.Machine.execHarrowReadIssue t row s
  | .harrowReadDone t listed last data ledger descs => Sys2Proof.Machine.execHarrowReadDone t listed last data ledger descs s
  | .harrowStateRecord t => Sys2Proof.Machine.execHarrowStateRecord t s
  | .ledgerCheck tenant => Sys2Proof.Machine.execLedgerCheck tenant s
  | .gleanClr master size value => Sys2Proof.Machine.execGleanClr master size value s
  | .harrowClr master size value => Sys2Proof.Machine.execHarrowClr master size value s
  | .storagePortUp n rate lanes l0p => Sys2Proof.Machine.execStoragePortUp n rate lanes l0p s
  | .storagePortDown n alts => Sys2Proof.Machine.execStoragePortDown n alts s
  | .portHotReset master n size half value => Sys2Proof.Machine.execPortHotReset master n size half value s
  | .cfgRequest master size half value => Sys2Proof.Machine.execCfgRequest master size half value s
  | .cfgComplete err data => Sys2Proof.Machine.execCfgComplete err data s
  | .cfgTimeout => Sys2Proof.Machine.execCfgTimeout s
  | .inboundRequest n addr len write data => Sys2Proof.Machine.execInboundRequest n addr len write data s
  | .cqWake r notes => Sys2Proof.Machine.execCqWake r notes s
  | .nvmeTimeout r cid alt => Sys2Proof.Machine.execNvmeTimeout r cid alt s
  | .storageCplTimeout kind a b moved => Sys2Proof.Machine.execStorageCplTimeout kind a b moved s
  | .qpStop master r size half value => Sys2Proof.Machine.execQpStop master r size half value s
  | .dmaGo master p c size half value => Sys2Proof.Machine.execDmaGo master p c size half value s
  | .dmaPromote p c => Sys2Proof.Machine.execDmaPromote p c s
  | .copy p c ext => Sys2Proof.Machine.execCopy p c ext s
  | .nvme p c ext => Sys2Proof.Machine.execNvme p c ext s
  | .dmaBusError p c moved hub => Sys2Proof.Machine.execDmaBusError p c moved hub s
  | .dmaRetry master p c size => Sys2Proof.Machine.execDmaRetry master p c size s
  | .dmaDrop master p c size => Sys2Proof.Machine.execDmaDrop master p c size s
  | .bufmAlloc master p size => Sys2Proof.Machine.execBufmAlloc master p size s
  | .bufmFree master p size value => Sys2Proof.Machine.execBufmFree master p size value s
  | .bufmGive master p size value => Sys2Proof.Machine.execBufmGive master p size value s
  | .bufmReclaim master p size value => Sys2Proof.Machine.execBufmReclaim master p size value s
  | .bufmDisable master p size half value => Sys2Proof.Machine.execBufmDisable master p size half value s
  | .netLinkUp n => Sys2Proof.Machine.execNetLinkUp n s
  | .netLinkDown n st part cut => Sys2Proof.Machine.execNetLinkDown n st part cut s
  | .portStop master n size half value part cut => Sys2Proof.Machine.execPortStop master n size half value part cut s
  | .rxFrame n l whole cut flaws lost => Sys2Proof.Machine.execRxFrame n l whole cut flaws lost s
  | .pfcRefresh n => Sys2Proof.Machine.execPfcRefresh n s
  | .pfcReceive n enable quanta => Sys2Proof.Machine.execPfcReceive n enable quanta s
  | .pfcPauseExpire n ix => Sys2Proof.Machine.execPfcPauseExpire n ix s
  | .parseCellRun p => Sys2Proof.Machine.execParseCellRun p s
  | .parseSwap master p size value => Sys2Proof.Machine.execParseSwap master p size value s
  | .clsSwap master p size value => Sys2Proof.Machine.execClsSwap master p size value s
  | .ruleValidWrite master p b r valid => Sys2Proof.Machine.execRuleValidWrite master p b r valid s
  | .dqFrameDeliver p q => Sys2Proof.Machine.execDqFrameDeliver p q s
  | .frameAdmit n ix => Sys2Proof.Machine.execFrameAdmit n ix s
  | .frameTransmit n => Sys2Proof.Machine.execFrameTransmit n s
  | .frameTxDone n => Sys2Proof.Machine.execFrameTxDone n s
  | .meshAnnounce n => Sys2Proof.Machine.execMeshAnnounce n s
  | .meshAnnounceRx n smac node => Sys2Proof.Machine.execMeshAnnounceRx n smac node s
  | .bridgeAge => Sys2Proof.Machine.execBridgeAge s
  | .routeHoldoffExpire n => Sys2Proof.Machine.execRouteHoldoffExpire n s
  | .portFlush master n size half value => Sys2Proof.Machine.execPortFlush master n size half value s
  | .tableRead master t ix bad => Sys2Proof.Machine.execTableRead master t ix bad s
  | .tableWrite master t ix => Sys2Proof.Machine.execTableWrite master t ix s
  | .tableInsert master t => Sys2Proof.Machine.execTableInsert master t s
  | .tableDelete master t => Sys2Proof.Machine.execTableDelete master t s
  | .tableLookup master t bad => Sys2Proof.Machine.execTableLookup master t bad s
  | .plcStart master size half value => Sys2Proof.Machine.execPlcStart master size half value s
  | .swClr master size value => Sys2Proof.Machine.execSwClr master size value s
  | .policerConfig master p k size half value => Sys2Proof.Machine.execPolicerConfig master p k size half value s
  | .resvAdmit master cls func rate => Sys2Proof.Machine.execResvAdmit master cls func rate s
  | .resvRelease master slot => Sys2Proof.Machine.execResvRelease master slot s
  | .queueSample n => Sys2Proof.Machine.execQueueSample n s
  | .trdWrite p => Sys2Proof.Machine.execTrdWrite p s
  | .trdRead p => Sys2Proof.Machine.execTrdRead p s
  | .trdSend p => Sys2Proof.Machine.execTrdSend p s
  | .trdPacketRx p host => Sys2Proof.Machine.execTrdPacketRx p host s
  | .ackTransmit node splot dplot cls => Sys2Proof.Machine.execAckTransmit node splot dplot cls s
  | .ack p => Sys2Proof.Machine.execAck p s
  | .nakSeq p => Sys2Proof.Machine.execNakSeq p s
  | .nakSync p => Sys2Proof.Machine.execNakSync p s
  | .nakAccess p => Sys2Proof.Machine.execNakAccess p s
  | .nakHost p => Sys2Proof.Machine.execNakHost p s
  | .nakRnr p => Sys2Proof.Machine.execNakRnr p s
  | .nakMsg p => Sys2Proof.Machine.execNakMsg p s
  | .rnrDelayExpire node splot dplot cls => Sys2Proof.Machine.execRnrDelayExpire node splot dplot cls s
  | .retxTimeout node splot dplot cls alts => Sys2Proof.Machine.execRetxTimeout node splot dplot cls alts s
  | .swcWaitResume p => Sys2Proof.Machine.execSwcWaitResume p s
  | .trdClr master size value => Sys2Proof.Machine.execTrdClr master size value s
  | .faultReport unit => Sys2Proof.Machine.execFaultReport unit s
  | .faultQueueDrain unit => Sys2Proof.Machine.execFaultQueueDrain unit s
  | .coalesceWindowClose => Sys2Proof.Machine.execCoalesceWindowClose s
  | .fatalDetect code unit => Sys2Proof.Machine.execFatalDetect code unit s
  | .hbmPcFail stack pc badLines => Sys2Proof.Machine.execHbmPcFail stack pc badLines s
  | .faultRingAckWrite master size half value => Sys2Proof.Machine.execFaultRingAckWrite master size half value s
  | .faultClr master size value => Sys2Proof.Machine.execFaultClr master size value s
  | .faultForce master size value => Sys2Proof.Machine.execFaultForce master size value s
  | .faultFatalClr master size value => Sys2Proof.Machine.execFaultFatalClr master size value s
  | .faultInject master size half value => Sys2Proof.Machine.execFaultInject master size half value s
  | .bootPush off len => Sys2Proof.Machine.execBootPush off len s
  | .bootRelease => Sys2Proof.Machine.execBootRelease s
  | .bootFlash => Sys2Proof.Machine.execBootFlash s
  | .pushWaitExpire readBad tryBad => Sys2Proof.Machine.execPushWaitExpire readBad tryBad s
  | .pushStall => Sys2Proof.Machine.execPushStall s
  | .zencenHello payload crcGood => Sys2Proof.Machine.execZencenHello payload crcGood s
  | .zencenPush payload crcGood => Sys2Proof.Machine.execZencenPush payload crcGood s
  | .zencenRelease payload crcGood => Sys2Proof.Machine.execZencenRelease payload crcGood s
  | .zencenFlash payload crcGood => Sys2Proof.Machine.execZencenFlash payload crcGood s
  | .zencenStatus payload crcGood => Sys2Proof.Machine.execZencenStatus payload crcGood s
  | .eraseSlot master slot bad => Sys2Proof.Machine.execEraseSlot master slot bad s
  | .flashProgram master slot off len bad => Sys2Proof.Machine.execFlashProgram master slot off len bad s
  | .flashVerify master slot bad => Sys2Proof.Machine.execFlashVerify master slot bad s
  | .activate master slot bad => Sys2Proof.Machine.execActivate master slot bad s
  | .confirm master raise flashBad fuseBad => Sys2Proof.Machine.execConfirm master raise flashBad fuseBad s
  | .flashRead master off len bad => Sys2Proof.Machine.execFlashRead master off len bad s
  | .eraseRaw master off bad => Sys2Proof.Machine.execEraseRaw master off bad s
  | .programRaw master off len bad => Sys2Proof.Machine.execProgramRaw master off len bad s
  | .programKey master slot bad => Sys2Proof.Machine.execProgramKey master slot bad s
  | .revoke master slot bad => Sys2Proof.Machine.execRevoke master slot bad s
  | .warmRestart master size key => Sys2Proof.Machine.execWarmRestart master size key s
  | .coldBoot master size key => Sys2Proof.Machine.execColdBoot master size key s
  | .deepSleep master size kind key => Sys2Proof.Machine.execDeepSleep master size kind key s
  | .wake perst mask => Sys2Proof.Machine.execWake perst mask s
  | .wakeTimer => Sys2Proof.Machine.execWakeTimer s
  | .powerGateRequest master g size half value => Sys2Proof.Machine.execPowerGateRequest master g size half value s
  | .gateDrainEnd g => Sys2Proof.Machine.execGateDrainEnd g s
  | .powerGateRelease master g size half value => Sys2Proof.Machine.execPowerGateRelease master g size half value s
  | .gateWakeDone g => Sys2Proof.Machine.execGateWakeDone g s
  | .gpioConfig master ix size half value => Sys2Proof.Machine.execGpioConfig master ix size half value s
  | .gpioParkEnd ix => Sys2Proof.Machine.execGpioParkEnd ix s
  | .smbIdent => Sys2Proof.Machine.execSmbIdent s
  | .smbHealth => Sys2Proof.Machine.execSmbHealth s
  | .smbWarm byte => Sys2Proof.Machine.execSmbWarm byte s
  | .smbCold byte => Sys2Proof.Machine.execSmbCold byte s
  | .smbWake byte => Sys2Proof.Machine.execSmbWake byte s
  | .slewQualityStep => Sys2Proof.Machine.execSlewQualityStep s
  | .refclkReturn => Sys2Proof.Machine.execRefclkReturn s
  | .petHoldExpire node splot dplot cls => Sys2Proof.Machine.execPetHoldExpire node splot dplot cls s
  | .gateDrainCutoff g => Sys2Proof.Machine.execGateDrainCutoff g s
  | .dmaChannelFail p c => Sys2Proof.Machine.execDmaChannelFail p c s
  | .flashSlotLoaded readBad tryBad => Sys2Proof.Machine.execFlashSlotLoaded readBad tryBad s
  | .storageErrorMessage n => Sys2Proof.Machine.execStorageErrorMessage n s
  | .hostConfigWrite f field value => Sys2Proof.Machine.execHostConfigWrite f field value s
  | .testModeChange level => Sys2Proof.Machine.execTestModeChange level s

end Sys2Proof.Machine
end

