-- ==== Sys2Proof/Machine/Idle.lean ====
section
/-!
DEFINITION. What the block does when no command waits: one cycle of REFCLK passes, and the writes that wait for a link
are transmitted (R59, R189, assumption 5).
-/

namespace Sys2Proof.Machine

/-- One idle cycle. -/
def idle (s : State) : Res := s.kept fun _ d => d.refclkTick.transmit

end Sys2Proof.Machine
end

