-- ==== Sys2Proof/Safety.lean ====
section
/-!
DEFINITION. The terms claims are stated in: what a command answers, the conditions under which one has its effect, the part
of the state it may change, and the invariant that every step keeps.
-/

namespace Sys2Proof.Machine

/-- The command answers a next state of which `p` holds. -/
def Answers (c : Instr) (s : State) (p : State → Prop) : Prop := ∃ t, exec c s = .next t ∧ p t

/-! ### When commands have their effect -/

/-- Between commands no store waits to be performed. -/
def State.Idle (s : State) : Prop := s.dev.wlog = []

/-- Supplies are valid (R820). -/
def State.On (s : State) : Prop := s.dev.pw.on = true ∧ s.Idle

/-- Core logic runs (R820, R826). -/
def State.Awake (s : State) : Prop := s.dev.awake = true ∧ s.Idle

/-- Core logic runs, outside the fatal safe state (R772). -/
def State.Live (s : State) : Prop := s.dev.live = true ∧ s.Idle

/-- What must hold for a command to have an effect. -/
inductive Need where
  /-- Nothing: it comes from outside the device. -/
  | nothing
  /-- Valid supplies: the logic that deep sleep leaves powered (R820, R827). -/
  | supplies
  /-- Core logic, which the fatal safe state leaves to what R773 names (R773, R826). -/
  | core
  /-- Core logic outside the fatal safe state (R772). -/
  | full
  deriving DecidableEq, Repr

/-- The need of each command. -/
def Need.of : Instr → Need
  | .powerOnReset | .refclkLoss | .perstAssert _ _ | .perstDeassert _ | .refclkReturn | .testModeChange _ => .nothing
  | .powerLoss _ | .slewComplete | .refTimeout | .ppsInEdge | .ppsLost | .ppsOutPulse | .holdoverQualityStep
  | .wake _ _ | .wakeTimer | .smbIdent | .smbHealth | .smbWarm _ | .smbCold _ | .smbWake _ | .slewQualityStep => .supplies
  | .railOutOfRange _ | .registerWrite _ _ _ _ | .snapCaptureRead _ _ _ | .rcRead _ _ _ | .placeWrite _ _ _ _
  | .timeAdjWrite _ _ _ | .stepPendClear _ _ _ _ | .timeRefWrite _ _ _ _ | .hotReset _ | .hostLinkDown _ _
  | .hostLinkUp _ _ _ _ | .flr _ | .flrSilenced _ | .flrComplete _ | .bmeClear _ | .bmeSet _ | .d3hotEnter _
  | .d0Return _ | .vfEnableSet _ | .vfEnableClear _ | .numvfsWrite _ _ | .faultReport _ | .faultQueueDrain _
  | .coalesceWindowClose | .fatalDetect _ _ | .faultRingAckWrite _ _ _ _ | .faultClr _ _ _ | .faultForce _ _ _
  | .faultFatalClr _ _ _ | .faultInject _ _ _ _ | .zencenHello _ _ | .zencenPush _ _ | .zencenRelease _ _
  | .zencenFlash _ _ | .zencenStatus _ _ | .warmRestart _ _ _ | .coldBoot _ _ _ | .deepSleep _ _ _ _
  | .hostConfigWrite _ _ _ => .core
  | _ => .full

/-- The invariant of the model: memory keeps its canonical form, and no store is left over between commands. -/
def State.Inv (s : State) : Prop := s.mem.wf = true ∧ s.Idle

/-! ### What a command may change -/

/-- The pieces of the state. -/
inductive Piece where
  | memory | part | regs | clock | pace | tines | captures | faults | posted | host | rings | vault | ciphers | dma
  | storage | folds | sowing | gleaning | net | trd | tenants | boot | power | subsys | outside | pads | free
  deriving DecidableEq, Repr

/-- Two states agree on a piece. -/
def Same (s t : State) : Piece → Prop
  | .memory => t.mem = s.mem
  | .part => t.dev.part = s.dev.part
  | .regs => t.dev.regs = s.dev.regs
  | .clock => t.dev.clk = s.dev.clk
  | .pace => t.dev.pace = s.dev.pace
  | .tines => t.dev.tine = s.dev.tine
  | .captures => t.dev.caps = s.dev.caps
  | .faults => t.dev.flt = s.dev.flt
  | .posted => t.dev.posted = s.dev.posted
  | .host => t.dev.host = s.dev.host
  | .rings => t.dev.ring = s.dev.ring
  | .vault => t.dev.vault = s.dev.vault
  | .ciphers => t.dev.cipher = s.dev.cipher
  | .dma => t.dev.dma = s.dev.dma
  | .storage => t.dev.stg = s.dev.stg
  | .folds => t.dev.fold = s.dev.fold
  | .sowing => t.dev.sow = s.dev.sow
  | .gleaning => t.dev.glean = s.dev.glean
  | .net => t.dev.net = s.dev.net
  | .trd => t.dev.trd = s.dev.trd
  | .tenants => t.dev.ten = s.dev.ten
  | .boot => t.dev.boot = s.dev.boot
  | .power => t.dev.pw = s.dev.pw
  | .subsys => t.dev.subsys = s.dev.subsys
  | .outside => t.dev.out = s.dev.out
  | .pads => t.dev.pads = s.dev.pads
  | .free => t.dev.free = s.dev.free

/-- Only the listed pieces may differ; the queue of commands does not, nor is a store left over. -/
def Only (ps : List Piece) (s t : State) : Prop :=
  t.pending = s.pending ∧ t.dev.wlog = [] ∧ ∀ p, p ∉ ps → Same s t p

/-- Every register of control space but those at the listed offsets keeps its word. -/
def RegsBut (keys : List Nat) (s t : State) : Prop := ∀ k, k ∉ keys → tfind t.dev.regs k = tfind s.dev.regs k

/-! ### Memory -/

/-- The byte that memory holds at an address, as a master reads it. -/
def State.byte (s : State) (a : Nat) : Byte := s.dev.ld s.mem a

/-- Memory has that range: the part lacks none of its bytes (R5). -/
def State.has (s : State) (a n : Nat) : Prop := ∀ i, i < n → s.dev.absent (a + i) = false

/-- The bytes `b` were stored from address `a`, and every byte of memory outside them reads as before. -/
def Stored (s t : State) (a : Nat) (b : List Byte) : Prop :=
  (∀ i x, b[i]? = some x → t.byte (a + i) = x) ∧ ∀ c, (c < a ∨ a + b.length ≤ c) → t.byte c = s.byte c

/-- The state in which the units are `d` and the stores that `d` still holds have been performed; the queue of commands is as it
was. A statement `exec c s = .next (s.did d)` says the whole next state: what `d` shares with `s.dev` is unchanged. -/
def State.did (s : State) (d : Dev) : State := { s with mem := s.mem.commit d.wlog, dev := { d with wlog := [] } }

/-! ### Fault reports -/

/-- A report waits last in its unit's queue at the collector, stamped with TIME_MONO, if the queue had room (R763, R769). -/
def Recorded (s t : State) (r : Report) : Prop :=
  tget [] s.dev.flt.held r.queueKey = [] → (tget [] s.dev.flt.queues r.queueKey).length < 1024 →
    tget [] t.dev.flt.queues r.queueKey =
      tget [] s.dev.flt.queues r.queueKey ++ [{ r with time := s.dev.clk.mono, injected := s.dev.flt.injecting }]

/-! ### Work entries -/

/-- Firmware takes up work entry `i`, of opcode `op`, of the dispatched drill in record `r`: it is the next entry, every earlier
one has completed, its condition holds, and the drill is not stale (R222, R223, R230, R359). -/
structure WorkTaken (s : State) (r i op : Nat) : Prop where
  live : s.Live
  ready : s.dev.workReady r i = true
  opcode : ((s.dev.drill r).entry i).opcode = op
  fresh : s.dev.stale (s.dev.drill r).workid = false
  cond : condHolds (s.dev.drill r).done (s.dev.drill r).nCode i ((s.dev.drill r).entry i) = true

/-! ### Strands -/

/-- Strand `k` executes its next instruction: it runs and waits for nothing, no branch of it is unresolved, an issue slot is
its own, its fetch finds readable memory, and in drill context its work is not stale, its budget is not spent and PC lies in its
code (R103 to R107, R110, R161, R168, R202). -/
structure Ready (s : State) (k : Nat) : Prop where
  live : s.Live
  present : s.dev.hasStrand k = true
  running : (s.dev.strand k).run = true
  free : (s.dev.strand k).wait = none
  kept : (s.dev.strand k).lost = false
  resolved : (s.dev.strand k).spec = []
  slot : s.dev.takesSlot s.mem k = true
  fresh : (s.dev.strand k).regs.drill = true → s.dev.staleIn (s.dev.strand k).regs = false
  budget : (s.dev.strand k).regs.drill = true → (s.dev.strand k).regs.dbudget ≠ 0
  inside : (s.dev.strand k).regs.drill = true → (s.dev.strand k).regs.inCode (s.dev.strand k).regs.pc = true
  memory : (s.dev.region (s.dev.strand k).regs.pc).isMemory = true
  there : s.dev.absent (s.dev.strand k).regs.pc = false
  clean : s.dev.poisoned (s.dev.strand k).regs.pc 4 = false

/-- Strand `k` executes its next instruction, and the word it fetches at its PC is `word` (R108). -/
structure Runs (s : State) (k : Nat) (word : BitVec 32) : Prop where
  ready : Ready s k
  word : s.dev.fetched s.mem k = word

/-- A strand after an instruction that completes and leaves its registers `r` (R123, R166, R169): RETIRED counts it, drill
context spends one of its budget, and a step stops it. -/
def Strand.completed (x : Strand) (r : Regs) : Strand :=
  { x with regs := { r with retired := x.regs.retired + 1, dbudget := if x.regs.drill then r.dbudget - 1 else r.dbudget }
           wait := none, refetch := false, run := x.run && !x.step, stopped := x.stopped || x.step, spec := [] }

/-- The state in which strand `k` alone differs. -/
def State.withStrand (s : State) (k : Nat) (x : Strand) : State := { s with dev := s.dev.setStrand k x }

/-- The state in which strand `k` has taken its issue slot and its word stands in its tine's instruction cache. -/
def State.issued (s : State) (k : Nat) : State := { s with dev := s.dev.slotted s.mem k }

/-- The state in which strand `k` has completed an instruction that leaves its registers `r`. -/
def State.completes (s : State) (k : Nat) (r : Regs) : State := (s.issued k).withStrand k ((s.dev.strand k).completed r)

/-- The units after an instruction of strand `k` that leaves its registers `r` and the rest as in `d`. -/
def State.retires (s : State) (k : Nat) (d : Dev) (r : Regs) : Dev :=
  (d.setTine (s.dev.homeOf k).1 (s.dev.issued s.mem k)).setStrand k ((s.dev.strand k).completed r)

/-- The state in which strand `k` waits within its instruction. -/
def State.waits (s : State) (k : Nat) (w : Wait) : State := (s.issued k).withStrand k { s.dev.strand k with wait := some w }

/-- The strand after an exception delivered while INEX is 0 (R162, R174): EPC, ECAUSE, EVAL and ECTX describe it, drill
context ends, INEX is set, and PC is EVEC plus 64 times the cause. -/
def Strand.excepted (x : Strand) (c : Exc) (eval : Word) : Strand :=
  { x with
    cause := c.code, causePc := x.regs.pc, wait := none, refetch := false, run := x.run && !x.step, stopped := x.step
    regs := { x.regs with epc := BitVec.ofNat 64 x.regs.pc, ecause := BitVec.ofNat 64 c.code, eval := eval
                          ectx := x.regs.drill, drill := false, inex := true
                          pc := pcOf (x.regs.evec.toNat + 64 * c.code) } }

/-- The state in which strand `k` has taken an exception. -/
def State.raises (s : State) (k : Nat) (c : Exc) (eval : Word) : State :=
  (s.issued k).withStrand k ((s.dev.strand k).excepted c eval)

end Sys2Proof.Machine
end

