-- ==== Sys2Proof/Certificates/Slice0/Obligations.lean ====
section
/-!
DEFINITION. The statements for the provers, by chapter of the spec.
-/

open Sys2Proof Sys2Proof.Machine

/-- One step takes the command at the front of the queue: it is `exec` of that command on the state with the queue's rest. -/
def Obligations.StepRunsTheFrontCommand : Prop :=
  ∀ (s : State) (c : Instr) (rest : List Instr), s.pending = c :: rest → step s = exec c { s with pending := rest }

/-- The model's choice (assumption 5): on an empty queue one period of REFCLK, 6.4 ns at rate 0, passes, and the writes that wait
for a link are transmitted in their order; without valid supplies nothing happens. -/
def Obligations.EmptyQueueLetsTimePass : Prop :=
  ∀ (s : State), s.pending = [] → s.Idle →
    (s.dev.pw.on = false → step s = .next s) ∧
    (s.dev.pw.on = true → s.dev.clk.refclk = true → s.dev.timeRate = 0 → ∃ t, step s = .next t ∧
      5 * (t.dev.clk.mono - s.dev.clk.mono) * 2 ^ 40 + t.dev.clk.frac = s.dev.clk.frac + 32 * 2 ^ 40 ∧
      s.dev.clk.mono ≤ t.dev.clk.mono ∧ t.dev.posted = [] ∧ t.dev.out = s.dev.out ++ s.dev.posted.map Out.linkWrite ∧
      Only [.clock, .posted, .outside] s t)

/-- R772, R820 and R826: in the fatal safe state and in deep sleep, a command that needs core logic changes nothing, nor in deep
sleep one that R773 lets run in the safe state, nor, without valid supplies, any command but those that come from outside. -/
def Obligations.CommandsNeedTheirPower : Prop :=
  ∀ (s : State) (c : Instr),
    (Need.of c = .full → s.dev.flt.safe = true ∨ s.dev.pw.asleep = true ∨ s.dev.pw.on = false → exec c s = .next s) ∧
    (Need.of c = .core → s.dev.pw.asleep = true ∨ s.dev.pw.on = false → exec c s = .next s) ∧
    (Need.of c = .supplies → s.dev.pw.on = false → exec c s = .next s)

/-- Every step from every state that meets the invariant answers a next state that meets it, in which the queue has lost its
front command and no other. -/
def Obligations.EveryStepKeepsTheInvariant : Prop :=
  ∀ (s : State), s.Inv → ∃ t, step s = .next t ∧ t.Inv ∧ t.pending = s.pending.tail

/-- The state after power-on reset meets the invariant, nothing waits, and registers of each block read the reset values that their
register maps state. -/
def Obligations.ResetState : Prop :=
  let d := State.reset.dev
  State.reset.Inv ∧ State.reset.pending = [] ∧ State.reset.mem = [] ∧ d.pw.on = true ∧ d.flt.safe = false ∧ d.clk.mono = 0 ∧
    (∀ e ∈ [(RegName.DEVICE_PLACE, [], 0), (.DEVICE_PACE_CTL, [], 0x4B00142C14), (.DEVICE_PACE_DEADLINE, [], 0x40),
        (.TIME_CTL, [], 0x114643E80), (.TIME_STATUS, [], 0xFF), (.TIME_RATE, [], 0), (.RINGS_SQ_CTL, [7], 0x63000001010042),
        (.RINGS_CQ_CTL, [7], 0x10042), (.RINGS_CQ_STATUS, [7], 0x100000000), (.RINGS_CODE_BASE, [], 0x3FFFC00000),
        (.RINGS_DRILL_BASE, [], 0x3FF0000000), (.TENANT_CTL, [3], 2), (.TENANT_MB_BASE, [], 0x3FF8000000),
        (.DEVICE_PROFILE, [0], 0x4000000000000000), (.TRD_CTL, [], 0x100020000632), (.TRD_TIMER, [], 0x4000064006470040),
        (.TRD_ADDR, [], 0xEDF2000A), (.TRD_RING_CTL, [0, 0], 2), (.FAULT_CTL, [], 0x166), (.FAULT_RING_BASE, [], 0x3FFFB00000),
        (.POWER_SLEEP_CTL, [], 1), (.POWER_GPIO_CFG, [0], 0x10)], d.view e.1 e.2.1 = e.2.2) ∧
    (∀ k, k < 512 → (d.strand k).run = false ∧ (d.strand k).regs.pc = 0 ∧ ∀ n, (d.strand k).regs.rd n = 0)

/-- R32, R819 and R821, start-up: supplies become valid, the first AVSBus request names the lower voltage limit 1 ms later, strips
leave electrical idle 5 ms later (functions the plan names exist; planned links, running network ports and enabled storage ports
train), and HBM is trained 40 ms later. Each changes nothing else. -/
def Obligations.StartUpFollowsItsSteps : Prop :=
  ∀ s : State,
    (s.Idle → (s.dev.pw.on = true → exec .powerOnReset s = .next s) ∧
      (s.dev.pw.on = false → Answers .powerOnReset s fun t => t.dev.pw = { on := true } ∧
        Only [.power, .gleaning, .regs] s t ∧ RegsBut [RegName.DEVICE_HARROW_STATUS.key []] s t)) ∧
    (s.Live → s.dev.pw.avs = false → s.dev.pw.start + 1000000 ≤ s.dev.clk.mono → Answers .firstAvsRequest s fun t =>
      t.dev.pw = { s.dev.pw with avs := true } ∧ t.dev.fld DEVICE_PACE_STATUS.VREQ = s.dev.paceLow ∧
      t.dev.out = s.dev.out ++ [.avs s.dev.paceLow] ∧
      t.dev.pace = { s.dev.pace with lastAttempt := s.dev.clk.mono, fails := 0 } ∧
      Only [.power, .regs, .pace, .outside] s t ∧ RegsBut [RegName.DEVICE_PACE_STATUS.key []] s t) ∧
    (s.Live → s.dev.pw.strips = false → s.dev.pw.start + 5000000 ≤ s.dev.clk.mono → Answers .stripTrainingStart s fun t =>
      t.dev.pw = { s.dev.pw with strips := true } ∧
      (∀ p, p < 256 → s.dev.flag HOST_PF_PLAN.PRESENT [p] = true → t.dev.fld HOST_FN_STATE.ENABLED [p] = 1) ∧
      (∀ l, l < 64 → s.dev.flag HOST_LINK_PLAN.PRESENT [l] = true → s.dev.clk.refclk = true →
        s.dev.flag HOST_LINK_STATUS.PERST [l] = false → t.dev.fld HOST_LINK_STATUS.STATE [l] = 1 ∧
          tfind t.dev.host.trainFrom l = some s.dev.clk.mono) ∧
      (∀ n, n < 192 → s.dev.hasPort n = true → s.dev.flag STORAGE_PORT_CTL.ENABLE [n] = true → s.dev.clk.refclk = true →
        s.dev.gateState (0x34 + n / 64) = 0 → t.dev.fld STORAGE_PORT_STATUS.STATE [n] = 1) ∧
      (∀ n, s.dev.netLane n = true → s.dev.fld NET_PORT_CTL.MODE [n] ≠ 0 → s.dev.flag NET_PORT_CTL.RUN [n] = true →
        s.dev.clk.refclk = true → s.dev.gateState (0x30 + n / 64) = 0 → s.dev.fld NET_PORT_STATUS.STATE [n] = 0 →
          t.dev.fld NET_PORT_STATUS.STATE [n] = 1) ∧
      Only [.power, .regs, .host] s t ∧
      RegsBut ((List.range 256).map (fun p => RegName.HOST_FN_STATE.key [p]) ++
        (List.range 64).map (fun l => RegName.HOST_LINK_STATUS.key [l]) ++
        (List.range 192).map (fun n => RegName.STORAGE_PORT_STATUS.key [n]) ++
        (List.range 320).map (fun n => RegName.NET_PORT_STATUS.key [n])) s t) ∧
    (s.Live → s.dev.pw.hbm = false → s.dev.pw.start + 40000000 ≤ s.dev.clk.mono →
      exec .hbmTrainingDone s = .next { s with dev := { s.dev with pw := { s.dev.pw with hbm := true } } })

/-- R820, R823 and R850, what a loss takes away: supplies lost return the device to its reset state (registers keep only the retained
record and wake digest, unless VDD_SRAM fell; LAST_RESET reads 1), and REFCLK stops TIME_MONO; with no lane, port or link up nothing
else changes, and its return lets lanes train again. -/
def Obligations.LossesTakeTheDeviceDown : Prop :=
  ∀ (s : State) (sram : Bool),
    (s.On → Answers (.powerLoss sram) s fun t =>
      t.dev.pw = { on := false } ∧ t.dev.fld POWER_STATUS.LAST_RESET = 1 ∧
      (∀ k, k ∉ RegName.POWER_STATUS.key [] :: (List.range 64).map (fun l => RegName.HOST_LINK_STATUS.key [l]) →
        tfind t.dev.regs k = if keptCold sram k then tfind s.dev.regs k else none) ∧
      t.dev.clk = { refclk := s.dev.clk.refclk } ∧ t.dev.tine = {} ∧ t.dev.pace = {} ∧ t.dev.caps = [] ∧ t.dev.posted = [] ∧
      t.dev.flt = { testMode := s.dev.flt.testMode, retained := !sram && s.dev.flt.retained } ∧
      t.dev.host = {} ∧ t.dev.ring = {} ∧ t.dev.vault = {} ∧ t.dev.cipher = [] ∧ t.dev.dma = [] ∧ t.dev.stg = {} ∧
      t.dev.fold = [] ∧ t.dev.net = {} ∧ t.dev.ten = {} ∧ t.dev.boot = s.dev.boot.lasting ∧ t.dev.part = s.dev.part ∧
      t.mem = s.mem ∧ t.pending = s.pending ∧
      ∃ n, s.dev.free ≤ n ∧ (∀ a, a < 0x4000000000 → t.byte a = s.mem.byte a ^^^ Config.freeByte n a)) ∧
    (s.Idle → s.dev.clk.refclk = true →
      (s.dev.awake = true → (∀ n, s.dev.fld NET_PORT_STATUS.STATE [n] = 0) ∧ (∀ n, s.dev.portUp n = false) ∧
        ∀ l, s.dev.linkUp l = false ∧ s.dev.fld HOST_LINK_STATUS.STATE [l] ≠ 1) →
      exec .refclkLoss s = .next { s with dev := { s.dev with clk := { s.dev.clk with refclk := false } } }) ∧
    (s.Idle → s.dev.clk.refclk = false →
      let clk := { s.dev.clk with refclk := true }
      ((s.dev.awake && s.dev.pw.strips) = false → exec .refclkReturn s = .next { s with dev := { s.dev with clk := clk } }) ∧
      (s.dev.awake = true → s.dev.pw.strips = true → Answers .refclkReturn s fun t => t.dev.clk = clk ∧ t.dev.pw = s.dev.pw ∧
        (∀ l, l < 64 → s.dev.flag HOST_LINK_PLAN.PRESENT [l] = true → s.dev.flag HOST_LINK_STATUS.PERST [l] = false →
          t.dev.fld HOST_LINK_STATUS.STATE [l] = 1) ∧ Only [.clock, .regs, .host] s t))

/-- R44 to R52 and R47, the pace governor: each interval moves the request by at most one code toward what the blocks need, within
its limits, or keeps the last acknowledged voltage while a failure stands; a report, a failed request, BELOW_FLOOR's fault and TRD's
quiet time have the effects these rules give. Nothing else changes. -/
def Obligations.PaceGovernorRequestsVoltage : Prop :=
  ∀ (s : State) (tj code : Nat) (busy : List Nat), s.Live →
    let d := s.dev
    let now := d.clk.mono
    let vreq := d.fld DEVICE_PACE_STATUS.VREQ
    let key := RegName.DEVICE_PACE_STATUS.key []
    let floor (t : State) : Prop := t.dev.flag DEVICE_PACE_STATUS.BELOW_FLOOR =
      (decide (t.dev.fld DEVICE_PACE_STATUS.VREP < 20) || decide (105 < t.dev.fld DEVICE_PACE_STATUS.TJ))
    (d.pace.lastInterval + 100000 ≤ now →
      let want := if busy.any (fun b => decide (d.headroom < b)) then vreq + 1
        else if busy.all (fun b => decide (b + 15 < d.headroom)) then vreq - 1 else vreq
      let next := if d.flag DEVICE_PACE_CTL.PIN then d.paceHigh else min d.paceHigh (max d.paceLow want)
      Answers (.paceInterval tj busy) s fun t =>
        t.dev.fld DEVICE_PACE_STATUS.TJ = min tj 255 ∧ floor t ∧ t.dev.pace.lastInterval = now ∧
        (d.pace.fails ≠ 3 → t.dev.fld DEVICE_PACE_STATUS.VREQ = next ∧
          t.dev.out = if next = vreq then d.out else d.out ++ [.avs next]) ∧
        (d.pace.fails = 3 → t.dev.fld DEVICE_PACE_STATUS.VREQ = vreq ∧ t.dev.out = d.out ++ [.avs d.pace.acked]) ∧
        Only [.pace, .regs, .outside] s t ∧ RegsBut [key] s t) ∧
    (Answers (.avsReport code) s fun t =>
      t.dev.fld DEVICE_PACE_STATUS.VREP = min code 255 ∧ floor t ∧ t.dev.pace.acked = vreq ∧ t.dev.pace.fails = 0 ∧
      t.dev.pace.waiting = (d.pace.waiting && decide (min code 255 < d.vfloor)) ∧
      (let next := if d.flag DEVICE_PACE_CTL.PIN then d.paceHigh else max d.paceLow vreq
       t.dev.fld DEVICE_PACE_STATUS.VREQ = next ∧ t.dev.out = if next = vreq then d.out else d.out ++ [.avs next]) ∧
      Only [.pace, .regs, .outside] s t ∧ RegsBut [key] s t) ∧
    (d.pace.fails < 2 → d.pace.lastAttempt + 100000 ≤ now → Answers .avsRequestFail s fun t =>
      t.dev.out = d.out ++ [.avs vreq] ∧ t.dev.pace = { d.pace with fails := d.pace.fails + 1, lastAttempt := now } ∧
      Only [.pace, .outside] s t) ∧
    (d.pace.fails = 2 → d.pace.acked < 256 → Answers .avsRequestFail s fun t =>
      t.dev.fld DEVICE_PACE_STATUS.AVS_ERR = 1 ∧ t.dev.fld DEVICE_PACE_STATUS.VREQ = d.pace.acked ∧
      t.dev.pace = { d.pace with fails := 3 } ∧ Recorded s t { code := 0x0103, kind := 12, unit := 21 } ∧
      Only [.pace, .regs, .faults] s t ∧ RegsBut [key, RegName.FAULT_COALESCED.key []] s t) ∧
    (d.reg .DEVICE_PACE_DEADLINE ≠ 0 → d.flag DEVICE_PACE_STATUS.BELOW_FLOOR = true → d.pace.lastBelow + 1000000 ≤ now →
      Answers .belowFloorFault s fun t =>
        t.dev.pace = { d.pace with lastBelow := now } ∧ Recorded s t { code := 0x0102, kind := 12, unit := 21 } ∧
        Only [.pace, .regs, .faults] s t ∧ RegsBut [RegName.FAULT_COALESCED.key []] s t) ∧
    (d.flag DEVICE_PACE_DEADLINE.TRD = true → d.trdBusy = false → d.pace.lastTrd + 10000000 ≤ now → Answers .trdQuietExpire s fun t =>
      t.dev.fld DEVICE_PACE_DEADLINE.TRD = 0 ∧ (∀ f ∈ [DEVICE_PACE_DEADLINE.RESV, DEVICE_PACE_DEADLINE.RECOVERY,
        DEVICE_PACE_DEADLINE.HOSTRST, DEVICE_PACE_DEADLINE.FORCE, DEVICE_PACE_DEADLINE.BOOT], t.dev.fld f = d.fld f) ∧
      Only [.pace, .regs, .outside] s t ∧ RegsBut [RegName.DEVICE_PACE_DEADLINE.key [], key] s t)

/-- R62 and R68 to R71, adjusting the time of day: TIME_ADJ steps it (the first time, or by more than 1 s) or slews it; a step sets
STEP_PEND, and clearing that sends the ledger records it held; a slew ends with the whole offset added, at SLEW_PPM; and a quality
step lets TIME_MONO reach the moment the code changes. A 4-byte write of TIME_ADJ is refused (R87). -/
def Obligations.TimeOfDayStepsAndSlews : Prop :=
  ∀ (s : State) (master : Nat) (value : Word),
    let clk := s.dev.clk
    let ns := value.toInt
    let ppm := min 100 (max 1 (s.dev.fld TIME_CTL.SLEW_PPM))
    (s.Awake →
      ((clk.set = false ∨ 1000000000 < ns.natAbs) → Answers (.timeAdjWrite master 8 value) s fun t =>
        t.dev.clk.tod = clk.tod + ns * 1000000 ∧ t.dev.clk.slew = 0 ∧ t.dev.clk.set = true ∧ t.dev.clk.mono = clk.mono ∧
        t.dev.fld TIME_STATUS.STEP_PEND = 1 ∧ Only [.clock, .regs] s t ∧ RegsBut [RegName.TIME_STATUS.key []] s t) ∧
      (clk.set = true → ns.natAbs ≤ 1000000000 → exec (.timeAdjWrite master 8 value) s =
        .next { s with dev := { s.dev with clk := { clk with slew := ns * 1000000 } } }) ∧
      (master < 0x10000 → Answers (.timeAdjWrite master 4 value) s fun t =>
        Recorded s t { code := 0x0202, kind := 0, unit := 0, master := master, addr := 0x40003000030, detail := 0x3000030 } ∧
        Only [.faults, .regs] s t ∧ RegsBut [RegName.FAULT_COALESCED.key []] s t) ∧
      (value.getLsbD 8 = true → Answers (.stepPendClear master 8 0 value) s fun t =>
        t.dev.fld TIME_STATUS.STEP_PEND = 0 ∧
        t.dev.fld TIME_STATUS.REF_LOST = (if value.getLsbD 9 then 0 else s.dev.fld TIME_STATUS.REF_LOST) ∧
        (∀ q ∈ t.dev.sow.reqs, q.sent = true) ∧
        t.dev.out = s.dev.out ++ (s.dev.sow.reqs.filter (fun q => !q.sent)).map (fun q => .ledgerHand { q with sent := true }) ∧
        Only [.regs, .faults, .sowing, .outside] s t ∧
        RegsBut [RegName.TIME_STATUS.key [], RegName.FAULT_COALESCED.key []] s t)) ∧
    (s.On →
      (clk.refclk = true → clk.slew ≠ 0 → Answers .slewComplete s fun t =>
        let n := (clk.slew.natAbs + ppm - 1) / ppm
        t.dev.clk.slew = 0 ∧ t.dev.clk.mono = clk.mono + n ∧ t.dev.clk.tod = clk.tod + n * 1000000 + clk.slew ∧ Only [.clock] s t) ∧
      (clk.refclk = false → clk.slew ≠ 0 → exec .slewComplete s = .next s) ∧
      (∀ i b, qualityBounds[i]? = some b → clk.refclk = true → clk.set = true → clk.everLocked = true →
        (clk.locked = false → clk.slew = 0 → s.dev.quality = 0x10 + i → clk.lastRef ≤ clk.mono →
          Answers .holdoverQualityStep s fun t =>
            clk.mono < t.dev.clk.mono ∧ s.dev.quality < t.dev.quality ∧ Only [.clock] s t) ∧
        (clk.slew ≠ 0 → s.dev.quality = 0x11 + i → s.dev.fld TIME_REF.BOUND_NS ≤ b →
          Answers .slewQualityStep s fun t =>
            clk.mono < t.dev.clk.mono ∧ t.dev.slewError ≤ b * 1000000 ∧ Only [.clock] s t)))

/-- R62 and R64 to R66, the reference: with SRC naming PTP a TIME_REF write is a heartbeat or, with LOCKED 0, a loss, and a missing
heartbeat is a loss; with SRC naming 1PPS_IN an edge is stamped, locks the time and slews out its offset from the nearest second,
and 1.5 s without one is a loss. 1PPS_OUT pulses at each second boundary, with a width that tells the quality. -/
def Obligations.ReferencesAndPulses : Prop :=
  ∀ (s : State) (master : Nat) (value : Word),
    let clk := s.dev.clk
    let lost (t : State) : Prop := t.dev.clk = { clk with locked := false } ∧ t.dev.fld TIME_STATUS.REF_LOST = 1
    (s.Awake → s.dev.fld TIME_CTL.SRC = 1 → Answers (.timeRefWrite master 8 0 value) s fun t =>
      (∀ f ∈ [TIME_REF.BOUND_NS, TIME_REF.LOCKED, TIME_REF.TRACEABLE], t.dev.fld f = f.get value) ∧
      (value.getLsbD 32 = true → t.dev.clk = { clk with locked := true, everLocked := true, lastRef := clk.mono }) ∧
      (value.getLsbD 32 = false → lost t) ∧ Only [.clock, .regs, .faults] s t ∧
      RegsBut [RegName.TIME_REF.key [], RegName.TIME_STATUS.key [], RegName.FAULT_COALESCED.key []] s t) ∧
    (s.On →
      (s.dev.fld TIME_CTL.SRC = 1 → clk.locked = true →
        clk.lastRef + max 1 (s.dev.fld TIME_CTL.REF_TIMEOUT) * 100000000 ≤ clk.mono → Answers .refTimeout s fun t =>
          lost t ∧ Only [.clock, .regs] s t ∧ RegsBut [RegName.TIME_STATUS.key []] s t) ∧
      (s.dev.fld TIME_CTL.SRC = 2 → Answers .ppsInEdge s fun t =>
        t.dev.reg .TIME_PPS_IN = BitVec.ofNat 64 clk.mono ∧
        (∃ off, t.dev.clk = { clk with locked := true, everLocked := true, lastRef := clk.mono, slew := off } ∧
          (clk.tod + off) % 1000000000000000 = 0 ∧ 2 * off.natAbs ≤ 1000000000000000) ∧
        Only [.clock, .regs] s t ∧ RegsBut [RegName.TIME_PPS_IN.key []] s t) ∧
      (s.dev.fld TIME_CTL.SRC = 2 → clk.locked = true → clk.lastRef + 1500000000 ≤ clk.mono → Answers .ppsLost s fun t =>
        lost t ∧ Only [.clock, .regs] s t ∧ RegsBut [RegName.TIME_STATUS.key []] s t) ∧
      (clk.lastPps < clk.tod / 1000000000000000 → Answers .ppsOutPulse s fun t =>
        t.dev.clk = { clk with lastPps := clk.tod / 1000000000000000 } ∧
        t.dev.out = (if s.dev.flag TIME_CTL.PPS_OUT_EN then
          let w := if s.dev.quality ≤ 1 then 1 else if s.dev.quality ≤ 0x13 then 2 else if s.dev.quality ≤ 0x17 then 3 else 4
          s.dev.out ++ .pps w :: ((List.range 32).filter fun i => s.dev.fld POWER_GPIO_CFG.FUNC [i] = 4 &&
            !s.dev.flag POWER_GPIO_CFG.PARKED [i]).map (fun i => .gpioPps i w) else s.dev.out) ∧ Only [.clock, .outside] s t) ∧
      (clk.tod / 1000000000000000 ≤ clk.lastPps → clk.refclk = true → clk.slew = 0 → Answers .ppsOutPulse s fun t =>
        t.dev.clk.lastPps = clk.tod / 1000000000000000 + 1 ∧ clk.mono < t.dev.clk.mono ∧
        (t.dev.clk.tod = clk.tod + (t.dev.clk.mono - clk.mono : Nat) * 1000000) ∧
        t.dev.clk.tod % 1000000000000000 < 1000000 ∧ Only [.clock, .outside] s t))

/-- R73, R84 and R87, writes of control space by a master: of a register whose fields hold any value and with no rule
of its own, each RW field takes its bits of the written word and each RO field keeps its value; a 4-byte write changes the
addressed half alone. A write of another size or alignment is
discarded with 0x0202, and one of a hole with 0x0201. Whatever the register, the size and the value, the write completes. -/
def Obligations.RegisterWritesFollowTheirFields : Prop :=
  ∀ (s : State) (master off size : Nat) (value : Word), s.Awake → master < 0x10000 →
    (∀ m, exec (.registerWrite m off size value) s = .next (s.did (s.dev.masterWrite s.mem m off size value))) ∧
    (∀ r ∈ [RegName.TIME_CTL, .TENANT_MIG_ADDR, .TENANT_MIG_LEN, .DEVICE_SOW_CTL, .TRD_TIMER, .BOOT_FLASH_ADDR, .POWER_SLEEP_CTL,
        .POWER_WAKE_TIME],
      Answers (.registerWrite master (r.key []) 8 value) s fun t =>
        (∀ fd ∈ r.fields, t.dev.fld fd.fld = if fd.acc = .rw then fd.fld.get value else s.dev.fld fd.fld) ∧
        Only [.regs] s t ∧ RegsBut [r.key []] s t) ∧
    (Answers (.registerWrite master (RegName.TIME_CTL.key []) 4 value) s fun t =>
      t.dev.fld TIME_CTL.HOLD_PPB = TIME_CTL.HOLD_PPB.get value ∧ t.dev.fld TIME_CTL.PPS_OUT_EN = s.dev.fld TIME_CTL.PPS_OUT_EN ∧
      Only [.regs] s t ∧ RegsBut [RegName.TIME_CTL.key []] s t) ∧
    (Answers (.registerWrite master (RegName.TIME_CTL.key [] + 4) 4 value) s fun t =>
      t.dev.fld TIME_CTL.HOLD_PPB = s.dev.fld TIME_CTL.HOLD_PPB ∧ t.dev.fld TIME_CTL.PPS_OUT_EN = value.toNat % 2 ∧
      Only [.regs] s t ∧ RegsBut [RegName.TIME_CTL.key []] s t) ∧
    (off < 0x40000000 → ¬ ((size = 4 ∨ size = 8) ∧ off % size = 0) →
      Answers (.registerWrite master off size value) s fun t =>
        Recorded s t { code := 0x0202, kind := 0, unit := 0, master := master, addr := 0x40000000000 + off, detail := off } ∧
        Only [.faults, .regs] s t ∧ RegsBut [RegName.FAULT_COALESCED.key []] s t) ∧
    (∀ off ∈ [0x20, 0x3000050, 0x3FFFFFF8], Answers (.registerWrite master off 8 value) s fun t =>
        Recorded s t { code := 0x0201, kind := 0, unit := 0, master := master, addr := 0x40000000000 + off } ∧
        Only [.faults, .regs] s t ∧ RegsBut [RegName.FAULT_COALESCED.key []] s t)

/-- R20 to R22 and R382, DEVICE_PLACE: once LOCK is 1 a write of 4 or 8 bytes changes nothing but the record of 0x0206; before, the place takes
the written bits, and LOCK too while DEVICE_SOW_EPOCH.VALID is 1, else LOCK stays 0 with that record. -/
def Obligations.PlaceLocks : Prop :=
  ∀ (s : State) (master : Nat) (value : Word), s.Awake → s.dev.part = .t512 → master < 0x10000 →
    let d := s.dev
    let refused (t : State) := Recorded s t { code := 0x0206, kind := 0, unit := 0, master := master
                                              addr := 0x40000000000 + RegName.DEVICE_PLACE.key []
                                              detail := RegName.DEVICE_PLACE.key [] }
    let place (t : State) := t.dev.fld DEVICE_PLACE.DEVICE = DEVICE_PLACE.DEVICE.get value ∧
      t.dev.fld DEVICE_PLACE.HOLDING = DEVICE_PLACE.HOLDING.get value ∧
      t.dev.fld DEVICE_PLACE.COMMON = DEVICE_PLACE.COMMON.get value ∧
      t.dev.fld DEVICE_PLACE.ESTATE = DEVICE_PLACE.ESTATE.get value
    (d.flag DEVICE_PLACE.LOCK = true → ∀ size ∈ [4, 8], ∀ half, Answers (.placeWrite master size half value) s fun t => refused t ∧
      Only [.faults, .regs] s t ∧ RegsBut [RegName.FAULT_COALESCED.key []] s t) ∧
    (d.flag DEVICE_PLACE.LOCK = false → value.getLsbD 63 = false → Answers (.placeWrite master 8 0 value) s fun t => place t ∧
      t.dev.flag DEVICE_PLACE.LOCK = false ∧ Only [.regs] s t ∧ RegsBut [RegName.DEVICE_PLACE.key []] s t) ∧
    (d.flag DEVICE_PLACE.LOCK = false → value.getLsbD 63 = true → d.flag DEVICE_SOW_EPOCH.VALID = true →
      Answers (.placeWrite master 8 0 value) s fun t => place t ∧
        t.dev.flag DEVICE_PLACE.LOCK = true ∧ Only [.regs] s t ∧ RegsBut [RegName.DEVICE_PLACE.key []] s t) ∧
    (d.flag DEVICE_PLACE.LOCK = false → value.getLsbD 63 = true → d.flag DEVICE_SOW_EPOCH.VALID = false →
      Answers (.placeWrite master 8 0 value) s fun t => place t ∧
        t.dev.flag DEVICE_PLACE.LOCK = false ∧ refused t ∧ Only [.faults, .regs] s t ∧
        RegsBut [RegName.DEVICE_PLACE.key [], RegName.FAULT_COALESCED.key []] s t)

/-- R84, R86, R90 and R91, reads of control space: the head of a group copies the group into the requester's capture buffer,
another member reads the capture while the buffer is tagged with the group and the live value otherwise; a read of
SCHED_QTEL_MAX, an RC register, clears the bits it returns and no other; a read of another size or alignment returns 0 with fault
0x0202. The value returned is what goes out to the master; every such read completes. -/
def Obligations.ReadsCaptureAndClear : Prop :=
  ∀ (s : State) (master off size : Nat), s.Awake → master < 0x10000 → hasCapture master = true →
    let d := s.dev
    let sec := RegName.TIME_NOW_SEC
    let ns := RegName.TIME_NOW_NS
    let max := RegName.SCHED_QTEL_MAX
    let cap := tget {} d.caps master
    (∀ m, exec (.snapCaptureRead m off size) s = .next (s.did (d.readOut s.mem m off size)) ∧
      exec (.rcRead m off size) s = .next (s.did (d.readOut s.mem m off size))) ∧
    (Answers (.snapCaptureRead master (sec.key []) 8) s fun t =>
      t.dev.out = d.out ++ [.regRead master (sec.key []) (d.view sec [])] ∧
      tget {} t.dev.caps master = { head := sec.key [], words := [d.view sec [], d.view ns []] } ∧
      (∀ m, m ≠ master → tget {} t.dev.caps m = tget {} d.caps m) ∧ Only [.captures, .outside] s t) ∧
    (cap.head = sec.key [] → cap.words ≠ [] → Answers (.snapCaptureRead master (ns.key []) 8) s fun t =>
      t.dev.out = d.out ++ [.regRead master (ns.key []) (cap.words.getD 1 0)] ∧ Only [.outside] s t) ∧
    (cap.head ≠ sec.key [] → Answers (.snapCaptureRead master (ns.key []) 8) s fun t =>
      t.dev.out = d.out ++ [.regRead master (ns.key []) (d.view ns [])] ∧ Only [.outside] s t) ∧
    (∀ n q, n < 320 → q < 16 → locate (max.key [n, q]) = some (max, [n, q]) →
      let v := d.reg max [n, q]
      let clears (off size : Nat) (read bits : Word) := Answers (.rcRead master off size) s fun t =>
        t.dev.out = d.out ++ [.regRead master off read] ∧ t.dev.reg max [n, q] = v &&& ~~~bits ∧
        Only [.regs, .outside] s t ∧ RegsBut [max.key [n, q]] s t
      clears (max.key [n, q]) 8 v (BitVec.allOnes 64) ∧
      clears (max.key [n, q]) 4 (v &&& 0xFFFFFFFF) 0xFFFFFFFF ∧
      clears (max.key [n, q] + 4) 4 (v >>> 32) 0xFFFFFFFF00000000) ∧
    (off < 0x40000000 → ¬ ((size = 4 ∨ size = 8) ∧ off % size = 0) → Answers (.snapCaptureRead master off size) s fun t =>
      t.dev.out = d.out ++ [.regRead master off 0] ∧
      Recorded s t { code := 0x0202, kind := 0, unit := 0, master := master, addr := 0x40000000000 + off, detail := off } ∧
      Only [.faults, .regs, .outside] s t ∧ RegsBut [RegName.FAULT_COALESCED.key []] s t)

/-- R205 to R207, R221, R300 and R310, how entries come in, with `n` entries of ring `g` named by the new tail: a doorbell sets the
tail and issues one read from HEAD, or lets the read in flight end first; a value beyond the ring is a fault of the function. A
read's entry with OWN set and FIRST opens a drill, its OWN mark is cleared in host memory and HEAD passes it; entries past the
tail with OWN clear are discarded and counted; a failed read of such entries is counted, any other is an error of the function;
a completion timeout of it is due when R260 says.
A drill left open for the ring's gap is closed as malformed 0x04. -/
def Obligations.RingEntriesComeIn : Prop :=
  ∀ (s : State) (f l g : Nat) (value : Word), s.Live →
    let d := s.dev
    let q := d.sq g
    let i := value.toNat % 65536
    let n := (i + d.sqSize g - q.head) % d.sqSize g
    let room := min (max (2 ^ d.fld RINGS_SQ_CTL.PREFETCH [g]) n) (d.sqSize g - q.head)
    (d.barOk f = true → l < d.sqMax f → d.findSq f l = some g → q.overtook = false → q.head < d.sqSize g → n ≠ 0 →
      (i < d.sqSize g → q.fetch = none → d.canFetch g = true → exec (.sqDoorbell f l value) s = .next (s.did
        (let h := d.sqFunc g
         let x : Fetch := { count := room, named := min n room, addr := d.sqBase g + 64 * q.head
                            due := d.now + cplTimeoutNs (d.fn h).cplTo, xlated := (d.fn h).atsEn }
         ((d.setSq g { q with tail := i, asked := false, owed := false, fetch := some x }).count
           .DEVICE_SPEC_RING_FETCH [] (room - min n room)).sendHostRead h (d.sqBase g + 64 * q.head) (64 * room) none))) ∧
      (i < d.sqSize g → q.fetch ≠ none → exec (.sqDoorbell f l value) s =
        .next (s.did (d.setSq g { q with tail := i, asked := true }))) ∧
      (d.sqSize g ≤ i → exec (.sqDoorbell f l value) s = .next (s.did (d.ringFault f)))) ∧
    (∀ x data, q.fetch = some x → x.stalled = [] → d.fnMaster (d.sqFunc g) = true → q.asked = false →
      (∀ e, d.freezing (d.sqFunc g) = false → e = data.take 64 → x.count = 1 → x.named = 1 → e.length = 64 → Entry.own e = true → Entry.isFirst e = true →
        Entry.isLast e = false → q.openDrill = none → q.overtook = false → q.head < d.sqSize g → (q.head + 1) % d.sqSize g = q.tail →
        q.head ≠ q.tail → ∀ r, d.freeRecord = some r → Answers (.ringFetchReturn g data) s fun t =>
          (let x : Drill := { func := d.sqFunc g, gen := d.gen (d.sqFunc g), sq := g, index0 := q.head, entries := [e]
                              gapFrom := d.now }
           let h := d.sqFunc g
           let own := d.sqBase g + 64 * q.head + 63
           let clear : Posted := { master := tagRing, toHost := true, unit := h, addr := own, pasid := none
                                   rid := d.routingId h, xlated := (d.fn h).atsEn, data := [0] }
           let y := { q with head := q.tail, outstanding := q.outstanding + 1, openDrill := some r, fetch := none }
           t.dev.ring = ((d.putDrill r x).setSq g y).ring ∧ t.dev.posted = d.posted ++ [clear] ∧
           t.dev.host = (d.translate h own 1 none).host ∧ t.dev.out = (d.translate h own 1 none).out ∧
           t.dev.reg .DEVICE_SPEC_RING_DISCARD = d.reg .DEVICE_SPEC_RING_DISCARD ∧
           Only [.rings, .posted, .regs, .host, .outside] s t ∧ RegsBut [RegName.DEVICE_SPEC_RING_DISCARD.key []] s t)) ∧
      (x.named = 0 → 0 < x.count → data = List.replicate (64 * x.count) 0 → exec (.ringFetchReturn g data) s = .next (s.did
        ((d.count .DEVICE_SPEC_RING_DISCARD [] x.count).setSq g { q with fetch := none }))) ∧
      (x.named = 0 → ∀ err, err ≠ 0 ∨ x.due ≤ d.now → exec (.ringFetchFail g err) s =
        .next (s.did ((d.setSq g { q with fetch := none }).count .DEVICE_SPEC_RING_HOSTERR))) ∧
      (x.named ≠ 0 → ∀ e ∈ [(0, FN_HOST_ERR.CPL_TIMEOUT), (1, FN_HOST_ERR.CPL_ABORT), (2, FN_HOST_ERR.POISONED),
          (3, FN_HOST_ERR.XLATE)],
        e.1 ≠ 0 ∨ x.due ≤ d.now → exec (.ringFetchFail g e.1) s = .next (s.did
          ((d.setSq g { q with fetch := none }).hostFail e.2 (d.sqFunc g) x.addr)))) ∧
    (∀ r detail, q.openDrill = some r → d.ring.waiters.contains g = false →
      (d.drill r).gapFrom + gapNs (d.fld RINGS_SQ_CTL.GAP [g]) ≤ d.now →
      d.checkDrill (d.drill r).func (d.drill r).entries (some 0x04) = some detail → exec (.drillGapExpire g) s = .next (s.did
        ((d.setSq g { q with openDrill := none }).reject g (d.drill r).index0 (d.drill r).entries (some r) detail)))

/-- R242, R312, R316 to R329, a drill's way out: once the writes before it are transmitted, dispatch puts the message of the ring's
first waiting drill on the dispatch queue, its 512 bytes of tickets 0 where it has no CODE, and the round ends with its last turn; a completion message for its next entry makes that entry's completion wait; a
completion entry is written at TAIL with the phase bit, and with the vector once COAL_COUNT entries or COAL_TIME call for it; the
head doorbell frees the ring's entries. -/
def Obligations.DrillsDispatchAndComplete : Prop :=
  ∀ (s : State) (f l g k u : Nat) (value : Word), s.Live →
    let d := s.dev
    let c := d.cq g
    (∀ r t, u < 64 → (d.queue (epKey 1 u)).length < 16 → tfind d.ring.turn u = none →
      nextRing (d.ringsOf u) 65536 (fun g => d.eligible g && (d.sq g).turns ≠ 0) = some g → (d.sq g).ready = r :: t →
      d.drill? r ≠ none → (d.drill r).code = none → (d.drill r).nCode = 0 → (d.drill r).won = false →
      Answers (.drillDispatch u k) s fun t' =>
        let x := { d.drill r with phase := .dispatched, won := true, strand := k }
        let q := d.sq g
        let d1 := { d.transmit with ring := { d.ring with drills := tput d.ring.drills r x
                                                          turn := tput d.ring.turn u (g, x.count) } }
        let d2 := d1.setSq g { q with ready := t, dispatched := q.dispatched + 1, turns := q.turns - 1 }
        let d3 := (d2.stBytes (d.drillAddr r + 4096) (List.replicate 512 0)).post (epKey 1 u) (d2.dispatchMsg r)
        t' = s.did (d3.endRound u)) ∧
    (∀ d : Dev, (d.ringsOf u).any (fun g => d.eligible g && decide ((d.sq g).turns ≠ 0)) = false → d.turnGoesOn u = false →
      (d.endRound u).turnOf u = (65536, 0) ∧
        ∀ g ∈ d.ringsOf u, ((d.endRound u).sq g).turns = d.fld RINGS_SQ_CTL.WEIGHT [g]) ∧
    (∀ m rest r, d.queue (epKey 0x10 0) = m :: rest → d.msgRecord m = some r →
      d.stale (BitVec.ofNat 64 (leAt (wideBytes m.data) 24 8)) = false → leAt (wideBytes m.data) 20 2 = 0 →
      exec .completionMessage s = .next (s.did
        (let i := leAt (wideBytes m.data) 22 1
         let x := d.drill r
         let o : Outcome16 := { status := 0, detail := leAt (wideBytes m.data) 16 4, result := leAt (wideBytes m.data) 0 16 }
         let d1 := (d.setQueue (epKey 0x10 0) rest).putDrill r { x with next := i + 1, done := tput x.done i 0, busy := false }
         let d2 := { d1 with ring := { d1.ring with cpls := d.ring.cpls ++ [d1.cplOf r i o false] } }
         if bit (leAt (wideBytes m.data) 23 1) 0 = true ∧ i + 1 < x.count then d2.redispatch r (i + 1) false else d2))) ∧
    (∀ x rest, d.flag RINGS_CQ_BIND.VALID [g] = true → d.ring.cpls = x :: rest → x.func = d.cqFunc g →
      x.cq = d.fld RINGS_CQ_BIND.LOCAL [g] → x.drop = false → x.record = none → d.fnMaster x.func = true → c.running = true →
      d.cqFull g = false → c.unsignalled + 1 < d.fld RINGS_CQ_CTL.COAL_COUNT [g] → exec (.cqEntryWrite g) s = .next (s.did
        (let wrap := c.tail + 1 = d.cqSize g
         let w : Posted := { master := tagRing, toHost := true, unit := x.func, addr := d.cqBase g + 32 * c.tail, pasid := none
                             rid := d.routingId x.func, xlated := (d.fn x.func).atsEn, data := d.cplBytes x c.phase }
         let y := d.translate x.func (d.cqBase g + 32 * c.tail) 32 none
         let d1 := { y with ring := { d.ring with cpls := rest }, posted := d.posted ++ [w] }
         let d2 := if x.out.status = 0x10 then d1.modSq x.sq fun q => { q with malformed := (q.malformed + 1) % 2 ^ 32 } else d1
         (d2.setCq g { c with tail := if wrap then 0 else c.tail + 1, phase := if wrap then !c.phase else c.phase
                              unsignalled := c.unsignalled + 1, oldest := if c.unsignalled = 0 then d.now else c.oldest }).modSq
           x.sq fun q => { q with outstanding := q.outstanding - 1 }))) ∧
    (c.unsignalled ≠ 0 → c.oldest + max 1 (d.fld RINGS_CQ_CTL.COAL_TIME [g]) * 1000 ≤ d.now → exec (.cqCoalTimer g) s = .next (s.did
      ((d.setCq g { c with unsignalled := 0 }).raiseVector (d.cqFunc g) (d.fld RINGS_CQ_CTL.VECTOR [g])))) ∧
    (d.barOk f = true → l < d.cqMax f → d.findCq f l = some g → value.toNat % 65536 < d.cqSize g →
      exec (.cqDoorbell f l value) s = .next (s.did (d.setCq g { c with head := value.toNat % 65536 })))

/-- R305 to R309 and R333 to R335, ring control by 8-byte writes that change nothing but RUN: RUN starts a usable ring and stops
one with nothing in flight; a restart leaves the frozen or halted state, completing the held failure (SKIP), running its entry
again (RETRY) or writing the OWN marks withheld (RESUME); and the error log's acknowledgement moves up to HEAD. -/
def Obligations.RingControls : Prop :=
  ∀ (s : State) (master f g : Nat) (value : Word), s.Live → g < 65536 →
    let d := s.dev
    let q := d.sq g
    let keeps (r : RegName) (run : Fld) := ∀ fd ∈ r.fields, fd.fld ≠ run → fd.acc = .rw → fd.fld.get value = d.fld fd.fld [g]
    (keeps .RINGS_SQ_CTL RINGS_SQ_CTL.RUN → 4 ≤ d.fld RINGS_SQ_CTL.LOG2SIZE [g] → d.fld RINGS_SQ_CTL.LOG2SIZE [g] ≤ 16 →
      1 ≤ d.fld RINGS_SQ_CTL.WEIGHT [g] → 1 ≤ d.fld RINGS_SQ_CTL.BURST [g] → d.fld RINGS_SQ_CTL.BURST [g] ≤ 64 →
      d.fld RINGS_SQ_CTL.PREFETCH [g] ≤ 5 →
      (value.getLsbD 0 = true → q.state = 0 → d.sqUsable g = true → q.changed = false → q.overtook = false → q.tail = q.head →
        q.owed = false →
        q.head < d.sqSize g → d.flag HOST_FN_STATE.BME [d.sqFunc g] = true → d.fld HOST_FN_STATE.DSTATE [d.sqFunc g] = 0 →
        Answers (.sqRun master g 8 0 value) s fun t => t.dev.flag RINGS_SQ_CTL.RUN [g] = true ∧
          t.dev.ring = (d.setSq g { q with state := 1 }).ring ∧ Only [.rings, .regs] s t ∧
          RegsBut [RegName.RINGS_SQ_CTL.key [g]] s t) ∧
      (value.getLsbD 0 = false → q.state = 1 → Answers (.sqStop master g 8 0 value) s fun t =>
        t.dev.flag RINGS_SQ_CTL.RUN [g] = false ∧
        t.dev.ring = (d.setSq g { q with state := if q.dispatched = 0 then 0 else 2, cause := 0 }).ring ∧
        Only [.rings, .regs] s t ∧ RegsBut [RegName.RINGS_SQ_CTL.key [g]] s t)) ∧
    (keeps .RINGS_CQ_CTL RINGS_CQ_CTL.RUN → 4 ≤ d.fld RINGS_CQ_CTL.LOG2SIZE [g] → d.fld RINGS_CQ_CTL.LOG2SIZE [g] ≤ 16 →
      1 ≤ d.fld RINGS_CQ_CTL.VECTOR [g] → d.fld RINGS_CQ_CTL.VECTOR [g] ≤ 2047 →
      value.getLsbD 0 = true → (d.cq g).running = false → (d.cq g).changed = false → d.cqUsable g = true →
      Answers (.cqRun master g 8 0 value) s fun t => t.dev.flag RINGS_CQ_CTL.RUN [g] = true ∧
        t.dev.ring = (d.setCq g { d.cq g with config := false, running := true }).ring ∧ Only [.rings, .regs] s t ∧
        RegsBut [RegName.RINGS_CQ_CTL.key [g]] s t) ∧
    (d.flag RINGS_SQ_CTL.RUN [g] = true → q.rejects = [] → d.sqNamed g = 0 → q.owed = false → q.changed = false →
      (∀ h, q.state = 3 → q.held = [h] → (d.drill h.drill).count = h.entry + 1 → d.drill? h.drill ≠ none →
        exec (.restartSkip master g 8) s = .next (s.did
          (((d.pushCpl (d.cplOf h.drill h.entry h.out false)).putDrill h.drill { d.drill h.drill with phase := .ended }).setSq g
            { q with state := 1, held := [] })) ∧
        ((d.drill h.drill).sq = g → exec (.restartRetry master g 8) s = .next (s.did
          ((d.putDrill h.drill { d.drill h.drill with done := tdel (d.drill h.drill).done h.entry, phase := .accepted
                                                      start := h.entry, next := h.entry, resumed := true, retry := true }).setSq g
            { q with state := 1, held := [], ready := h.drill :: q.ready })))) ∧
      (∀ a, q.state = 4 → q.ownDropped = [a] → q.held = [] → d.fnMaster (d.sqFunc g) = true →
        exec (.restartResume master g 8) s = .next (s.did
          (let h := d.sqFunc g
           let w : Posted := { master := tagRing, toHost := true, unit := h, addr := a, pasid := none
                               rid := d.routingId h, xlated := (d.fn h).atsEn, data := [0] }
           Dev.setSq { d.translate h a 1 none with posted := d.posted ++ [w] } g
             { q with state := 1, ownDropped := [], resumeAt := none })))) ∧
    (d.flag RINGS_SQ_CTL.RUN [g] = true → q.state = 4 → q.ownDropped = [] → q.rejects = [] → q.held = [] → q.changed = true →
      q.owed = false → d.fnMaster (d.sqFunc g) = true → exec (.restartResume master g 8) s =
        .next (s.did (d.setSq g { q with state := 1, resumeAt := none, head := 0, tail := 0, overtook := false, changed := false }))) ∧
    (d.barOk f = true → d.reg .RINGS_ERRLOG_ACK [f] ≤ value → value ≤ d.reg .RINGS_ERRLOG_HEAD [f] →
      exec (.errlogAckWrite f 8 0 value) s = .next (s.did (d.setReg .RINGS_ERRLOG_ACK value [f])))

/-- R232, R238 to R242, R320, R322, R338 and R342, the entries of drills: NOP and a self-test put their completion message; CODE
stores its instructions in the drill's code record; a RUN, whose ticket it uses up, with code that begins with DEXIT ends at once and
returns ARG1 and ARG2; a self-test pauses at a check boundary while its plots are in use, until 1 ms after they are free; an ABORT
takes back a waiting drill of its tag. The last line says what the completion message holds. -/
def Obligations.DrillEntriesExecute : Prop :=
  ∀ (s : State) (r i k checks bad n : Nat) (plots stage : List Nat) (data : List (List (BitVec 8))),
    let d := s.dev
    let x := d.drill r
    let e := x.entry i
    let all := max 1 checks
    (WorkTaken s r i 0x01 → exec (.nop r i) s = .next (s.did ((d.takeDispatch r).finishWork r i { status := 0 }))) ∧
    (∀ c, s.Live → d.drill? r ≠ none → x.code = some c → i < x.nCode → x.phase = .dispatched → exec (.code r i) s =
      .next (s.did (d.stBytes (d.codeBase + 1024 * c + 4 * codeBefore x.entries i) (slice e 8 (4 * leAt e 56 1))))) ∧
    (∀ c v t, WorkTaken s r i 0x03 → x.code = some c → d.handlesOk x.func e = true → (∀ h, h < 4 → leAt e (8 + 4 * h) 4 = 0) →
      0 < leAt e 48 4 → 4 ≤ 4 * (drillInsns x.entries).length → (drillInsns x.entries).length < 2 ^ 20 →
      d.codeBase + 1024 * c < 2 ^ 46 → (d.region (d.codeBase + 1024 * c)).isMemory = true →
      d.absent (d.codeBase + 1024 * c) = false → d.poisoned (d.codeBase + 1024 * c) 4 = false →
      d.ldWord s.mem (d.codeBase + 1024 * c) = 0xC8000003 → d.canIssue k = true → (d.strand k).regs.drill = false →
      d.ticketOf c i k = some (v, t) → t.dcode = BitVec.ofNat 64 (d.codeBase + 1024 * c) →
      t.dlen = BitVec.ofNat 64 (4 * (drillInsns x.entries).length) → t.workid = x.workid →
      exec (.run r i k stage data) s = .next (s.did
        (let d1 := d.takeDispatch r
         let d2 := { d1 with tine := { d1.tine with tickets := tput d.tine.tickets v { t with used := true } } }
         (d2.setStrand k { d.strand k with regs := { (d.strand k).regs with
            retired := (d.strand k).regs.retired + 1 } }).finishWork r i
          { status := 0, result := leAt e 24 8 + leAt e 32 8 * 2 ^ 64 }))) ∧
    (WorkTaken s r i 0x40 → (∀ t ∈ d.ring.tests, t.drill ≠ r) →
      let d1 := (d.takeDispatch r).putDrill r { x with busy := true }
      let t : SelfTest := { drill := r, entry := i, plots := plots, run := all, failed := min bad all, left := all, quietFrom := d.now }
      let stays (t : SelfTest) := s.did { d1 with ring := { d1.ring with tests := d.ring.tests ++ [t] } }
      (d.otherDrills r plots = false → all ≤ n → exec (.selftest r i checks bad n plots) s = .next (s.did (d1.finishWork r i
          { status := 0, result := all + min bad all * 2 ^ 64 }))) ∧
      (d.otherDrills r plots = false → n < all → exec (.selftest r i checks bad n plots) s =
          .next (stays { t with left := all - n })) ∧
      (d.otherDrills r plots = true → exec (.selftest r i checks bad n plots) s = .next (stays { t with paused := true }))) ∧
    (∀ t, s.Live → d.ring.tests = [t] → t.drill = r → (t.paused = true → t.quietFrom + 1000000 ≤ d.now) →
      let stays (t : SelfTest) := s.did { d with ring := { d.ring with tests := [t] } }
      (d.otherDrills r t.plots = false →
        (t.left ≤ n → exec (.selftestResume r n) s = .next (s.did
          (({ d with ring := { d.ring with tests := [] } }).finishWork r t.entry
            { status := 0, result := t.run + t.failed * 2 ^ 64 }))) ∧
        (n < t.left → exec (.selftestResume r n) s = .next (stays { t with paused := false, left := t.left - n }))) ∧
      (d.otherDrills r t.plots = true → exec (.selftestResume r n) s = .next (stays { t with paused := true }))) ∧
    (∀ v y, s.Live → x.phase = .abortReady → d.ring.drills = [(v, y), (r, x)] → v < r → y.func = x.func → y.phase = .accepted →
      y.won = false → y.matchesTag (leAt (x.entry 0) 8 2) = true → exec (.abort r) s = .next (s.did
        (let d1 := (d.catchDrill v).modDrill r fun x => { x with phase := .ended }
         d1.pushCpl (d1.cplOf r 0 { status := 2 } false)))) ∧
    (∀ (d : Dev) (o : Outcome16), d.drill? r = some x → d.stale x.workid = false → d.posted = [] →
      let fin := (d.sqMode x.sq = 0 ∧ 0x10 ≤ o.status ∧ claimed x.entries i = false) ∨ i + 1 = x.count
      d.finishWork r i o = (d.putDrill r { x with busy := true, answer := none }).post (epKey 0x10 0)
        { workid := x.workid
          data := bytesWide (leBytes 16 o.result ++ leBytes 4 o.detail ++ leBytes 2 o.status ++ leBytes 1 i ++
            leBytes 1 (if fin then 1 else 0) ++ leBytes 8 x.workid.toNat ++ leBytes 8 (d.drillAddr r) ++ leBytes 2 x.sq) })

/-- R250, R280, R282, R291 and R294, host links: PERST_N, a hot reset and a link going down reset the functions of the link and take it
down, each with its event bit and notice; while PERST_N is deasserted training begins again at once, but for a link that went to L2, and a link that completes
training is up at its rate and lanes. The last lines say what training and the reset of one physical function do. Nothing else
changes. -/
def Obligations.HostLinksTrainAndReset : Prop :=
  ∀ (s : State) (l state rate lanes : Nat), s.Awake → l < 64 →
    let d := s.dev
    let down := (d.linkSet l 0 0 0).linkReset l
    (d.flag HOST_LINK_STATUS.PERST [l] = false →
      let e := if d.linkUp l then down.linkEvent HOST_LINK_STATUS.DOWN_EV l else down
      let e := { e with host := { e.host with trainFrom := tdel d.host.trainFrom l } }
      let e := ((e.linkSet l 7 0 0).setFld HOST_LINK_STATUS.PERST 1 [l]).linkEvent HOST_LINK_STATUS.PERST_EV l
      exec (.perstAssert l false) s = .next (s.did e) ∧
      exec (.perstAssert l true) s = .next (s.did (((e.pfsOf l).filter e.fnExists).foldl Dev.fnCold e))) ∧
    (∀ p, p < 4352 → (d.fnCold p).fld HOST_FN_STATE.DSTATE [p] = 3 ∧ (d.fld HOST_FN_STATE.DSTATE [p] ≠ 3 →
      (d.fnCold p).fld HOST_FN_STATE.DSTATE_EV [p] = 1)) ∧
    (d.flag HOST_LINK_STATUS.PERST [l] = true → (∀ p, p < 256 → d.flag HOST_PF_PLAN.PRESENT [p] = true →
        d.fld HOST_PF_PLAN.LINK [p] ≠ l) → exec (.perstDeassert l) s =
      .next (s.did (((d.setFld HOST_LINK_STATUS.PERST 0 [l]).setWake l false).trainLink l true).hostRstSync)) ∧
    (d.linkUp l = true →
      exec (.hotReset l) s = .next (s.did ((down.linkEvent HOST_LINK_STATUS.HOTRST_EV l).trainLink l)) ∧
      exec (.hostLinkDown l false) s = .next (s.did ((down.linkEvent HOST_LINK_STATUS.DOWN_EV l).trainLink l)) ∧
      exec (.hostLinkDown l true) s = .next (s.did ((down.linkEvent HOST_LINK_STATUS.DOWN_EV l).linkSet l 6 0 0))) ∧
    (1 ≤ d.fld HOST_LINK_STATUS.STATE [l] → d.fld HOST_LINK_STATUS.STATE [l] ≤ 5 → d.flag HOST_LINK_PLAN.PRESENT [l] = true →
      2 ≤ state → state ≤ (if d.fld HOST_LINK_STATUS.STATE [l] = 1 then 3 else 5) →
      1 ≤ rate → rate ≤ d.fld HOST_LINK_PLAN.MAX_RATE [l] → 1 ≤ lanes → lanes ≤ 2 ^ d.fld HOST_LINK_PLAN.WIDTH [l] →
      exec (.hostLinkUp l state rate lanes) s = .next (s.did
        (let e := d.linkSet l state rate lanes
         Dev.hostRstSync { e with host := { e.host with trainFrom := tdel d.host.trainFrom l } })) ∧
      (d.linkSet l state rate lanes).fld HOST_LINK_STATUS.STATE [l] = state ∧ (rate < 8 →
        (d.linkSet l state rate lanes).fld HOST_LINK_STATUS.RATE [l] = rate)) ∧
    (d.pw.strips = true → d.clk.refclk = true → d.flag HOST_LINK_PLAN.PRESENT [l] = true →
      d.flag HOST_LINK_STATUS.PERST [l] = false → (d.trainLink l).fld HOST_LINK_STATUS.STATE [l] = 1 ∧
        tfind (d.trainLink l).host.trainFrom l = some d.now) ∧
    (∀ p, d.pfsOf l = [p] → d.fnExists p = true → (d.fn p).vfEnable = false →
      d.linkReset l = (d.resetStart p HOST_FN_STATE.LINKRST_EV true).hostRstSync)

/-- R257, R277 to R279, R283 to R288 and R362, functions: a function level reset increments the generation, closes the function to
requests, silences it and returns its state to reset, in three steps; Bus Master Enable, the power state and VF Enable change by the
host's configuration writes, each with its event bit and notice. What a reset does to the function's work is
`endFnWork`; a function without drills, completions, sessions and rings loses none. -/
def Obligations.FunctionsResetAndChange : Prop :=
  ∀ (s : State) (f n v : Nat), s.Awake → f < 4352 → v < 4352 →
    let d := s.dev
    (d.fnExists f = true → d.linkUp (d.linkOf f) = true → (d.fn f).vfEnable = false →
      (d.items f).contains ((d.gen f + 1) % 65536) = false → exec (.flr f) s = .next (s.did
        (let e := (d.setFld TENANT_STATE.GEN ((d.gen f + 1) % 65536) [f]).endFnWork f
         let e := if e.flag TENANT_MIG_CTL.GO = true ∧ e.fld TENANT_MIG_CTL.FUNC = f then
           (e.setFld TENANT_MIG_CTL.RESULT 9).setFld TENANT_MIG_CTL.GO 0 else e
         let e := ((e.stBytes (e.mbAddr f) (List.replicate 8192 0)).setFld TENANT_CTL.SAVED 0 [f]).setFld HOST_FN_STATE.FLR_BUSY 1 [f]
         let e := e.modFn f fun x => { x with flrAt := e.now, flrStep := 2, sticky := false }
         (e.fnEvent HOST_FN_STATE.FLR_EV f).hostRstSync))) ∧
    ((d.fn f).flrStep = 2 → exec (.flrSilenced f) s = .next (s.did
      (let e := d.setFld HOST_FN_STATE.SILENCED 1 [f]
       let e := { e with posted := d.posted.filter fun w => !(w.toHost && w.unit = f)
                         host := { d.host with reads := d.host.reads.filter fun r => r.func ≠ f } }
       (e.clearApts f).modFn f fun x => { x with flrStep := 3 }))) ∧
    ((d.fn f).flrStep = 3 → exec (.flrComplete f) s = .next (s.did (d.resetFinish f).hostRstSync) ∧
      ((d.fn f).sticky = false → (d.resetFinish f).fn f = {} ∧ (d.resetFinish f).fld HOST_FN_STATE.FLR_BUSY [f] = 0)) ∧
    (d.cfgOk f = true →
      (d.flag HOST_FN_STATE.BME [f] = false →
        let e := (d.setFld HOST_FN_STATE.BME 1 [f]).fnEvent HOST_FN_STATE.BME_EV f
        ((∀ g, d.sqFunc g = f → (d.sq g).resumeAt ≠ some d.now) → exec (.bmeSet f) s = .next (s.did e)) ∧
        (∀ g, d.sqsWhere (fun g => d.sqFunc g = f) = [g] → (d.sq g).state = 4 → (d.sq g).resumeAt = some d.now →
          d.fld HOST_FN_STATE.DSTATE [f] = 0 → exec (.bmeSet f) s = .next (s.did (e.restartResume g)))) ∧
      ((∀ w ∈ d.posted, w.toHost = true → w.unit ≠ f) → d.sqsWhere (fun g => d.sqFunc g = f) = [] →
        (d.flag HOST_FN_STATE.BME [f] = true → exec (.bmeClear f) s =
          .next (s.did ((d.setFld HOST_FN_STATE.BME 0 [f]).fnEvent HOST_FN_STATE.BME_EV f))) ∧
        (d.fld HOST_FN_STATE.DSTATE [f] = 0 → exec (.d3hotEnter f) s = .next (s.did
          (((d.setFld HOST_FN_STATE.DSTATE 3 [f]).setFld HOST_FN_STATE.SILENCED 1 [f]).fnEvent HOST_FN_STATE.DSTATE_EV f)))) ∧
      (d.fld HOST_FN_STATE.DSTATE [f] ≠ 0 → exec (.d0Return f) s = .next (s.did
        (((d.setFld HOST_FN_STATE.DSTATE 0 [f]).setFld HOST_FN_STATE.SILENCED 0 [f]).fnEvent HOST_FN_STATE.DSTATE_EV f))) ∧
      (f < 256 → (d.fn f).vfEnable = false →
        (n < 65536 → (d.fn f).numVfs ≠ n → exec (.numvfsWrite f n) s =
          .next (s.did ((d.modFn f fun x => { x with numVfs := n }).fnEvent HOST_FN_STATE.VF_EV f))) ∧
        ((d.fn f).numVfs = 1 → 1 ≤ d.fld HOST_PF_PLAN.TOTAL_VFS [f] → exec (.vfEnableSet f) s = .next (s.did
          (let e := (d.modFn f fun x => { x with vfEnable := true }).setFld HOST_FN_STATE.NUM_VFS 1 [f]
           (e.setFld HOST_FN_STATE.ENABLED 1 [256 + d.fld HOST_PF_PLAN.FIRST_VF [f]]).fnEvent HOST_FN_STATE.VF_EV f)))) ∧
      (f < 256 → (d.fn f).vfEnable = true → d.vfsOf f (d.fld HOST_FN_STATE.NUM_VFS [f]) = [v] → d.fnExists v = true →
        exec (.vfEnableClear f) s = .next (s.did
          (let e := (d.modFn f fun x => { x with vfEnable := false }).setFld HOST_FN_STATE.NUM_VFS 0 [f]
           let e := (e.fnEvent HOST_FN_STATE.VF_EV f).resetStart v HOST_FN_STATE.FLR_EV false
           (e.setFld HOST_FN_STATE.ENABLED 0 [v]).hostRstSync))) ∧
      (exec (.hostConfigWrite f 0 n) s = .next (s.did (d.setFld HOST_FN_STATE.MSE n [f])) ∧
        exec (.hostConfigWrite f 1 n) s = .next (s.did (d.modFn f fun x => { x with atsEn := n.testBit 0 })) ∧
        exec (.hostConfigWrite f 3 n) s = .next (s.did (d.modFn f fun x => { x with cplTo := n % 16 })) ∧
        (f < 256 → exec (.hostConfigWrite f 2 n) s = .next (s.did (d.modFn f fun x => { x with pasidEn := n.testBit 0 })) ∧
          exec (.hostConfigWrite f 4 n) s = .next (s.did (d.modFn f fun x => { x with pmeEn := n.testBit 0 }))) ∧
        (n.testBit 0 = true → exec (.hostConfigWrite f 5 n) s =
          .next (s.did (d.modFn f fun x => { x with pmeStatus := false }))) ∧
        exec (.hostConfigWrite f 8 n) s = .next (s.did (d.modFn f fun x => { x with stu := n % 32 })) ∧
        exec (.hostConfigWrite f 14 n) s =
          .next (s.did { d with host := { d.host with bus := tset 0 d.host.bus (d.linkOf f) (n % 256) } }) ∧
        (f < 256 → n < 2 ^ 32 →
          exec (.hostConfigWrite f 9 n) s =
            .next (s.did (d.modFn f fun x => { x with aerStatus := x.aerStatus - Nat.land x.aerStatus n })) ∧
          exec (.hostConfigWrite f 10 n) s = .next (s.did (d.modFn f fun x => { x with aerMask := n })) ∧
          exec (.hostConfigWrite f 11 n) s = .next (s.did (d.modFn f fun x => { x with aerSeverity := n })) ∧
          exec (.hostConfigWrite f 12 n) s =
            .next (s.did (d.modFn f fun x => { x with aerCorStatus := x.aerCorStatus - Nat.land x.aerCorStatus n })) ∧
          exec (.hostConfigWrite f 13 n) s = .next (s.did (d.modFn f fun x => { x with aerCorMask := n })))))

/-- R263, R265 to R267, R271 to R273, R275 and R276, what the host reaches: FN_BUF_SLOT brings a buffer table entry into the window,
FN_BUF_ATTR commits the window to it or is refused with BUF_REJECT; a request to a hole sets BAR_HOLE; clearing a vector's mask
takes up its address and data and sends what is pending; an invalidation drops translations, is noted on the requests that use them, and is answered once these
have drained; and a failed read of a strand answers 0, with the error recorded for its function. -/
def Obligations.HostFaceAnswersTheHost : Prop :=
  ∀ (s : State) (f v a b moved : Nat) (value : Word) (pasid : Option Nat) (lo hi itag : Nat), s.Live →
    let d := s.dev
    (d.barOk f = true → f < 4352 →
      (∀ i, i = value.toNat % 2 ^ 20 → value.toNat < 2 ^ 20 → Answers (.bufSlotWrite f 8 0 value) s fun t =>
        let e := if i < d.bufSlots f then d.buf f i else {}
        t.dev.fld FN_BUF_SLOT.SLOT [f] = i ∧ t.dev.reg .FN_BUF_BASE [f] = BitVec.ofNat 64 e.base ∧
        t.dev.reg .FN_BUF_LEN [f] = BitVec.ofNat 64 e.len ∧ t.dev.reg .FN_BUF_ATTR [f] = e.attr ∧ Only [.regs] s t ∧
        RegsBut [RegName.FN_BUF_SLOT.key [f], RegName.FN_BUF_BASE.key [f], RegName.FN_BUF_LEN.key [f],
          RegName.FN_BUF_ATTR.key [f]] s t) ∧
      (value.toNat < 2 ^ 32 → Answers (.bufAttrCommit f 8 0 value) s fun t =>
        let i := d.fld FN_BUF_SLOT.SLOT [f]
        let base := (d.reg .FN_BUF_BASE [f]).toNat
        let len := d.fld FN_BUF_LEN.LENGTH [f]
        t.dev.reg .FN_BUF_ATTR [f] = value ∧
        (i < d.bufSlots f → (value.getLsbD 20 = true → d.pasidEn f = true) → base + len < 2 ^ 64 →
          t.dev.buf f i = { base := base, len := len, pasid := value.toNat % 2 ^ 20, pasidEn := value.getLsbD 20
                            read := value.getLsbD 21, write := value.getLsbD 22, valid := value.getLsbD 23
                            gen := value.toNat / 2 ^ 24 } ∧
          (∀ j, j ≠ i → t.dev.buf f j = d.buf f j) ∧ Only [.regs, .host] s t ∧ RegsBut [RegName.FN_BUF_ATTR.key [f]] s t) ∧
        (d.bufSlots f ≤ i → (∀ j, t.dev.buf f j = d.buf f j) ∧ t.dev.flag FN_HOST_ERR.BUF_REJECT [f] = true)) ∧
      (v < vecCount f → (d.vec f v).masked = true → exec (.msixUnmask f v) s = .next (s.did
        (let x := d.vec f v
         let x := { x with masked := false, upAddr := x.addr, upData := x.data }
         if x.pending ∧ (d.fn f).msixEn = true ∧ (d.fn f).msixMask = false ∧ d.fnMaster f = true then
           let w : Posted := { master := tagRing, toHost := true, unit := f, addr := x.addr, pasid := none
                               rid := d.routingId f, xlated := (d.fn f).atsEn, data := leBytes 4 x.data }
           (({ (d.setVec f v x).translate f x.addr 4 none with posted := d.posted ++ [w] }).setVec f v { x with pending := false })
         else d.setVec f v x)))) ∧
    (d.barUp f = true → exec (.barHoleAccess f) s = .next (s.did (if d.flag FN_HOST_ERR.BAR_HOLE [f] then d
      else (d.setFld FN_HOST_ERR.BAR_HOLE 1 [f]).raiseVector f 0))) ∧
    (d.cfgOk f = true →
      let v : Inval := { func := f, pasid := pasid, lo := lo, hi := hi, itag := itag }
      let e := d.markInval v
      exec (.atsInvalidate f pasid lo hi itag) s = .next (s.did { e with host := { e.host with
        atc := d.host.atc.filter fun e => !(e.func = f && e.pasid = pasid && lo ≤ e.page && e.page < hi)
        invals := d.host.invals ++ [v] } }) ∧
      (∀ (i : Nat) r, d.host.reads[i]? = some r → e.host.reads[i]? = some { r with
        old := if r.xlated && d.invalMeets v r.func r.pasid r.addr r.len then itag :: r.old else r.old }) ∧
      (∀ (i : Nat) w, d.posted[i]? = some w → w.toHost = true → e.posted[i]? = some { w with
        old := if w.xlated && d.invalMeets v w.unit w.pasid w.addr w.data.length then itag :: w.old else w.old })) ∧
    (∀ x t, d.host.invals = x :: t → (∀ r ∈ d.host.reads, r.func = x.func → x.itag ∉ r.old) →
      (∀ w ∈ d.posted, w.toHost = true → w.unit = x.func → x.itag ∉ w.old) →
      (∀ q ∈ d.ring.sqs, ∀ y, q.2.fetch = some y → x.itag ∉ y.old) → exec .atsInvalidateDone s =
      .next (s.did { d with host := { d.host with invals := t }, out := d.out ++ [.invalidateDone x.func x.itag] })) ∧
    (∀ r size sx dst addr eval, d.host.reads = [r] → r.requester = .strand a →
      (d.strand a).wait = some (.load (.general size sx) dst addr eval) →
      let ends (e : Dev) (fl : Fld) := (({ e with host := { e.host with reads := [] } }).hostFail fl r.func r.addr).finish a
        (.done (({ e with host := { e.host with reads := [] } }).hostFail fl r.func r.addr) ((e.strand a).regs.wr dst 0).next)
      (r.due ≤ d.now → exec (.hostCplTimeout 0 a b moved) s = .next (s.did (ends d FN_HOST_ERR.CPL_TIMEOUT))) ∧
      exec (.hostCplError 0 a b moved 1) s = .next (s.did (ends d FN_HOST_ERR.CPL_ABORT)) ∧
      exec (.hostCplError 0 a b moved 2) s = .next (s.did (ends d FN_HOST_ERR.POISONED))) ∧
    (∀ x, d.drill? a = some x → x.phase = .dispatched → x.next = b → b < x.count → ∀ err, 1 ≤ err → err ≤ 3 →
      exec (.hostCplError 2 a b moved err) s = .next (s.did (d.putDrill a { x with answer := some (moved, err) })))

/-- R356, R366 to R369 and R371 to R377, tenants: FREEZE and its end, which a saved function refuses; SAVE closes the sessions of a frozen function and
stores its record, of the header, its sections and a MAC, where TENANT_MIG_ADDR says, or answers 2 with the length it needs;
RESTORE of a record that passes every check installs it, and what cannot be done answers its code; the mailbox pair carries messages
with a notice to the tenant's strand, held while its mailbox is full, or an interrupt to the host. -/
def Obligations.TenantsFreezeAndMigrate : Prop :=
  ∀ (s : State) (master f : Nat) (value header : Word) (payload newest : List Byte), s.Live → f < 4352 →
    let d := s.dev
    let c := RegName.TENANT_CTL.key [f]
    (d.sow.sess = [] → d.sow.waits = [] →
      (value.getLsbD 0 = true → d.flag TENANT_CTL.FREEZE [f] = false → Answers (.freeze master f 8 0 value) s fun t =>
        t.dev.flag TENANT_CTL.FREEZE [f] = true ∧ t.dev.flag TENANT_CTL.SAVED [f] = d.flag TENANT_CTL.SAVED [f] ∧
        t.dev.fn f = { d.fn f with sowWaits := 0 } ∧ Only [.regs, .host] s t ∧ RegsBut [c] s t) ∧
      (value.getLsbD 0 = false → d.flag TENANT_CTL.FREEZE [f] = true → d.flag TENANT_CTL.SAVED [f] = false → d.ring.sqs = [] →
        Answers (.thaw master f 8 0 value) s fun t => t.dev.flag TENANT_CTL.FREEZE [f] = false ∧ Only [.regs] s t ∧ RegsBut [c] s t)) ∧
    (value.getLsbD 0 = false → d.flag TENANT_CTL.FREEZE [f] = true → d.flag TENANT_CTL.SAVED [f] = true → master < 0x10000 →
      Answers (.thaw master f 8 0 value) s fun t =>
        Recorded s t { code := 0x0206, kind := 0, unit := 0, master := master, addr := 0x40000000000 + c, detail := c } ∧
        Only [.faults, .regs] s t ∧ RegsBut [RegName.FAULT_COALESCED.key []] s t) ∧
    (let e (op : Nat) := d.regWrite .TENANT_MIG_CTL [] ⟨master, 8, 0, BitVec.ofNat 64 (f + op * 2 ^ 16 + 2 ^ 24)⟩
     let go (op : Nat) : Word := BitVec.ofNat 64 (f + op * 2 ^ 16 + 2 ^ 24)
     let ends (x : Dev) (result : Nat) := (x.setFld TENANT_MIG_CTL.RESULT result).setFld TENANT_MIG_CTL.GO 0
     let a := (d.reg .TENANT_MIG_ADDR).toNat
     let x := e 1
     let secs := x.saveSections s.mem f
     let len := 128 + secs.flatten.length + 32
     (d.flag TENANT_MIG_CTL.GO = true → d.fld TENANT_MIG_CTL.OP = 1 → d.fld TENANT_MIG_CTL.FUNC = f → d.frozen f = false →
        exec (.save master 8 0 value newest) s = .next (s.did (ends d 1))) ∧
     (d.flag TENANT_MIG_CTL.GO = false → d.frozen f = false → exec (.save master 8 0 (go 1) newest) s = .next (s.did (ends x 1))) ∧
     (d.flag TENANT_MIG_CTL.GO = false → d.frozen f = true → d.sow.sess = [] →
        let r := x.recordMac (d.fld TENANT_ID.TENANT [f]) (d.fld TENANT_ID.EPOCH [f])
          (x.saveHeader f secs.length len newest ++ secs.flatten)
        exec (.save master 8 0 (go 1) newest) s = .next (s.did (
          if d.fld TENANT_MIG_LEN.LENGTH < len ∨ d.inMemory a len = false then ends (x.setFld TENANT_MIG_LEN.LENGTH len) 2
          else ends (((r.2.wrMem 0xFFFF a (x.saveHeader f secs.length len newest ++ secs.flatten ++ r.1)).setFld TENANT_MIG_LEN.LENGTH
            len).setFld TENANT_CTL.SAVED 1 [f]) 0))) ∧
     (let y := e 2
      let n := d.fld TENANT_MIG_LEN.LENGTH
      let b := d.ldBytes s.mem a n
      d.flag TENANT_MIG_CTL.GO = false →
      (d.fnExists f = true → d.freezing f = false → exec (.restore master 8 0 (go 2)) s = .next (s.did (ends y 1))) ∧
      (d.frozen f = true → d.freezing f = true → n < 160 → exec (.restore master 8 0 (go 2)) s = .next (s.did (ends y 3))) ∧
      (d.fnExists f = true → d.frozen f = true → d.freezing f = true → d.flag TENANT_CTL.SAVED [f] = false → d.liveItems f = 0 →
        d.staleItems f = 0 → 160 ≤ n → d.inMemory a n = true → slice b 0 4 = [0x54, 0x47, 0x54, 0x52] → leAt b 4 2 = 1 →
        leAt b 8 4 = n → d.rootOk = true → ∀ secs, readSections (leAt b 6 2) 0 ((slice b 0 (n - 32)).drop 128) = some secs →
        d.restoreTooLarge f secs = false →
        d.poolResv f (bits (leAt (bodyOf secs 1) 24 8) 0 24) ≤ d.fld TENANT_POOL_RESV.COUNT → d.headOf (leAt b 16 4) = none →
        let r := (y.noteAbsent 0xFFFF a n).recordMac (leAt b 16 4) (leAt b 20 2) (slice b 0 (n - 32))
        exec (.restore master 8 0 (go 2)) s = .next (s.did
          (if r.1 = slice b (n - 32) 32 then ends (r.2.restoreInto f b secs) 0 else ends r.2 4))))) ∧
    (d.barOk f = true →
      ((d.ld s.mem (d.mbAddr f + 7)).getLsbD 7 = false → header.getLsbD 63 = true → d.ten.notices = [] → payload.length ≤ 4032 →
        let k := d.fld TENANT_POLICY.MB_STRAND [f]
        let e := (d.stBytes (d.mbAddr f + 64) payload).stBytes (d.mbAddr f) (leBytes 8 header.toNat)
        let x : Word := BitVec.ofNat 64 (f + d.gen f * 2 ^ 16 + header.toNat % 2 ^ 32 * 2 ^ 32)
        ((d.queue (epKey 0 k)).length < 16 → exec (.mbHostSend f header payload) s =
          .next (s.did (e.post (epKey 0 k) { data := x.zeroExtend 512, sender := tagRing }))) ∧
        (16 ≤ (d.queue (epKey 0 k)).length → exec (.mbHostSend f header payload) s =
          .next (s.did { e with ten := { d.ten with notices := [(k, x)] } }))) ∧
      (header.getLsbD 63 = false → exec (.mbHostFree f header) s =
        .next (s.did (d.stBytes (d.mbAddr f + 0x1000) (leBytes 8 header.toNat))))) ∧
    (∀ k x rest, d.ten.notices = (k, x) :: rest → (d.queue (epKey 0 k)).length < 16 → exec .mbNoticeDeliver s = .next (s.did
      (Dev.post { d with ten := { d.ten with notices := rest } } (epKey 0 k) { data := x.zeroExtend 512, sender := tagRing }))) ∧
    (let raise (gen : Nat) : Instr := .mbRaise master 8 (BitVec.ofNat 64 (f + gen * 2 ^ 16))
     (d.fnExists f = true → exec (raise (d.gen f)) s = .next (s.did (d.raiseVector f 0))) ∧
     (∀ gen, gen < 65536 → gen ≠ d.gen f → exec (raise gen) s = .next (s.did (d.count .TENANT_STALE_DISCARDS))))

/-- R133, integer instructions on registers: each completes with the result its row gives in g[D], PC moves to the next
instruction, and nothing else of the machine changes but RETIRED, and in drill context the budget, as `completed` says, and the
tine's issue slot and instruction cache, as `issued` says. A write of g0 is discarded and a read of it gives 0 by `Regs.wr` and `Regs.rd` (R112). CLZ, CTZ, POPC and BSWAP need a B of 0. -/
def Obligations.IntegerInstructionsComplete : Prop :=
  ∀ (s : State) (k : Nat) (d a b : BitVec 5),
    let r := (s.dev.strand k).regs
    let x := r.rd a.toNat
    let y := r.rd b.toNat
    let n := y.toNat % 64
    let gives (fn : Nat) (c : Instr) (v : Word) : Prop :=
      Runs s k (wordRR 0x00 d a b (BitVec.ofNat 11 fn)) → exec c s = .next (s.completes k (r.next.wr d.toNat v))
    (gives 0x00 (.add k d a b) (x + y) ∧ gives 0x01 (.sub k d a b) (x - y) ∧ gives 0x02 (.and k d a b) (x &&& y) ∧
      gives 0x03 (.or k d a b) (x ||| y) ∧ gives 0x04 (.xor k d a b) (x ^^^ y) ∧ gives 0x05 (.andn k d a b) (x &&& ~~~y)) ∧
    (gives 0x08 (.shl k d a b) (x <<< n) ∧ gives 0x09 (.shr k d a b) (x >>> n) ∧ gives 0x0A (.sar k d a b) (x.sshiftRight n) ∧
      gives 0x0B (.ror k d a b) (x >>> n ||| x <<< ((64 - n) % 64))) ∧
    (gives 0x10 (.mul k d a b) (x * y) ∧ gives 0x11 (.mulhu k d a b) (BitVec.ofNat 64 (x.toNat * y.toNat / 2 ^ 64)) ∧
      gives 0x12 (.divu k d a b) (if y = 0 then BitVec.allOnes 64 else x / y) ∧
      gives 0x13 (.remu k d a b) (if y = 0 then x else x % y)) ∧
    (gives 0x18 (.slt k d a b) (if x.toInt < y.toInt then 1 else 0) ∧ gives 0x19 (.sltu k d a b) (if x.toNat < y.toNat then 1 else 0) ∧
      gives 0x1A (.minu k d a b) (if x.toNat ≤ y.toNat then x else y) ∧
      gives 0x1B (.maxu k d a b) (if x.toNat ≤ y.toNat then y else x)) ∧
    (b = 0 →
      (∃ z : Nat, gives 0x20 (.clz k d a b) (BitVec.ofNat 64 z) ∧ z ≤ 64 ∧ (∀ i, i < z → x.getLsbD (63 - i) = false) ∧
        (z < 64 → x.getLsbD (63 - z) = true)) ∧
      (∃ z : Nat, gives 0x21 (.ctz k d a b) (BitVec.ofNat 64 z) ∧ z ≤ 64 ∧ (∀ i, i < z → x.getLsbD i = false) ∧
        (z < 64 → x.getLsbD z = true)) ∧
      gives 0x22 (.popc k d a b) (BitVec.ofNat 64 ((List.range 64).filter fun i => x.getLsbD i).length) ∧
      (∃ v : Word, gives 0x23 (.bswap k d a b) v ∧ ∀ i, i < 8 → v.extractLsb' (8 * i) 8 = x.extractLsb' (8 * (7 - i)) 8))

/-- R134, immediate instructions: as above, with IMM16 zero-extended for the logical ones and sign-extended for ADDI and the
comparisons, and a shift count below 64. MOVW needs Z 0. -/
def Obligations.ImmediateInstructionsComplete : Prop :=
  ∀ (s : State) (k : Nat) (d a : BitVec 5) (imm : BitVec 16) (off : BitVec 21) (hw : BitVec 2) (keep : BitVec 1),
    let r := (s.dev.strand k).regs
    let x := r.rd a.toNat
    let gives (w : BitVec 32) (c : Instr) (v : Word) : Prop := Runs s k w → exec c s = .next (s.completes k (r.next.wr d.toNat v))
    let ri (op : Nat) := wordRI op d a imm
    (gives (ri 0x01) (.addi k d a imm) (x + imm.signExtend 64) ∧ gives (ri 0x02) (.andi k d a imm) (x &&& imm.zeroExtend 64) ∧
      gives (ri 0x03) (.ori k d a imm) (x ||| imm.zeroExtend 64) ∧ gives (ri 0x04) (.xori k d a imm) (x ^^^ imm.zeroExtend 64)) ∧
    (imm.toNat < 64 →
      gives (ri 0x05) (.shli k d a imm) (x <<< imm.toNat) ∧ gives (ri 0x06) (.shri k d a imm) (x >>> imm.toNat) ∧
      gives (ri 0x07) (.sari k d a imm) (x.sshiftRight imm.toNat)) ∧
    (gives (ri 0x08) (.slti k d a imm) (if x.toInt < (imm.signExtend 64 : Word).toInt then 1 else 0) ∧
      gives (ri 0x09) (.sltiu k d a imm) (if x.toNat < (imm.signExtend 64 : Word).toNat then 1 else 0)) ∧
    (∃ v : Word, gives (wordRW 0x0A d hw keep 0 imm) (.movw k d hw keep 0 imm) v ∧ v.extractLsb' (16 * hw.toNat) 16 = imm ∧
      ∀ j, j < 4 → j ≠ hw.toNat →
        v.extractLsb' (16 * j) 16 = if keep = 1 then (r.rd d.toNat).extractLsb' (16 * j) 16 else 0) ∧
    gives (wordJ 0x0B d off) (.addpc k d off) (BitVec.ofNat 64 r.pc + off.signExtend 64 * 4)

/-- R156 to R158, wide instructions, with their wide register fields below 8 and the fields a row does not use 0 (KECCAK's D is
0 or 4): w[D] or g[D] gets the result, PC moves on, nothing else changes but as `completed` and `issued` say. `gfMul` is the field's
product, reduced by 0x11D; `shaCompress` is one SHA-256 compression and `keccakWide` one Keccak-f[1600]. -/
def Obligations.WideInstructionsComplete : Prop :=
  ∀ (s : State) (k : Nat) (d a b : BitVec 5),
    let r := (s.dev.strand k).regs
    let y := r.rd b.toNat
    let word (d a b : BitVec 5) (fn : Nat) := wordRR 0x3C d a b (BitVec.ofNat 11 fn)
    let wide (w : BitVec 32) (c : Instr) (v : Wide) : Prop := Runs s k w → exec c s = .next (s.completes k (r.next.wrW d.toNat v))
    let gives (w : BitVec 32) (c : Instr) (v : Word) : Prop := Runs s k w → exec c s = .next (s.completes k (r.next.wr d.toNat v))
    let low := y.truncate 8
    (d.toNat < 8 → a.toNat < 8 →
      wide (word d a 0 0x00) (.wxor k d a 0) (r.rdW d.toNat ^^^ r.rdW a.toNat) ∧ wide (word d a 0 0x01) (.wmov k d a 0) (r.rdW a.toNat) ∧
      wide (word d a b 0x03) (.gfmac k d a b) (r.rdW d.toNat ^^^ bytesWide ((wideBytes (r.rdW a.toNat)).map (gfMul · low))) ∧
      wide (word d a b 0x04) (.gfmul k d a b) (bytesWide ((wideBytes (r.rdW a.toNat)).map (gfMul · low))) ∧
      wide (word d a 0 0x11) (.hs256 k d a 0)
        (bytesWide (shaBytes (shaCompress (beWords 8 (wideBytes (r.rdW d.toNat))) (wideBytes (r.rdW a.toNat)))))) ∧
    (d.toNat < 8 →
      wide (word d 0 0 0x02) (.wzero k d 0 0) 0 ∧ wide (word d 0 0 0x10) (.hs256i k d 0 0) (bytesWide (shaBytes shaInit)) ∧
      (∃ v : Wide, wide (word d a b 0x06) (.wput k d a b) v ∧ v.extractLsb' (64 * (y.toNat % 8)) 64 = r.rd a.toNat ∧
        ∀ q, q < 8 → q ≠ y.toNat % 8 → v.extractLsb' (64 * q) 64 = (r.rdW d.toNat).extractLsb' (64 * q) 64)) ∧
    (a.toNat < 8 →
      gives (word d a b 0x05) (.wget k d a b) ((r.rdW a.toNat).extractLsb' (64 * (y.toNat % 8)) 64) ∧
      (b.toNat < 8 → gives (word d a b 0x13) (.wcmp k d a b)
        (if (r.rdW a.toNat).truncate 256 = (r.rdW b.toNat).truncate 256 then 1 else 0))) ∧
    (∃ v : Byte, gives (word d a 0 0x07) (.gfinv k d a 0) (v.zeroExtend 64) ∧
      if (r.rd a.toNat).truncate 8 = (0 : Byte) then v = 0 else gfMul ((r.rd a.toNat).truncate 8) v = 1) ∧
    gives (word d a b 0x08) (.gfmuls k d a b) ((gfMul ((r.rd a.toNat).truncate 8) low).zeroExtend 64) ∧
    (d = 0 ∨ d = 4 → Runs s k (word d 0 0 0x12) → exec (.keccak k d 0 0) s = .next (s.completes k (keccakWide r.next d.toNat)))

/-- R135, R136 and R138, the loads of 1 to 8 bytes, absolute and through a handle, from memory: the strand waits, and when the
data arrives the instruction completes with bytes ea, ea + 1, ... of memory from bit 0 of g[D] up, zero- or sign-extended, and
nothing else of the machine changes but as `issued` says. An absolute load is firmware's and its address is below 2^48; a handle's address is HBASE
plus g[A] plus OFF9 times the size, within HLIM's limit (R140). -/
def Obligations.LoadsBringMemoryBytes : Prop :=
  ∀ (s : State) (k : Nat) (d a : BitVec 5) (imm : BitVec 16) (ext : List Byte),
    let r := (s.dev.strand k).regs
    let brings (w : BitVec 32) (c : Instr) (addr n : Nat) (signed : Bool) : Prop :=
      Runs s k w → (s.dev.region addr).isMemory = true → addr % n = 0 → s.has addr n → s.dev.poisoned addr n = false →
      ∃ w v, exec c s = .next (s.waits k w) ∧
        exec (.loadDataReturn k ext false) (s.waits k w) = .next (s.completes k (r.next.wr d.toNat v)) ∧
        (∀ i, i < n → v.extractLsb' (8 * i) 8 = s.byte (addr + i)) ∧
        ∀ i, 8 * n ≤ i → i < 64 → v.getLsbD i = (signed && v.getLsbD (8 * n - 1))
    let ri (op : Nat) := wordRI op d a imm
    let ea := (r.rd a.toNat + imm.signExtend 64).toNat
    (r.drill = false → ea < 2 ^ 48 →
      brings (ri 0x10) (.ldb k d a imm) ea 1 false ∧ brings (ri 0x11) (.ldh k d a imm) ea 2 false ∧ brings (ri 0x12) (.ldw k d a imm) ea 4 false ∧
      brings (ri 0x13) (.ldd k d a imm) ea 8 false ∧ brings (ri 0x14) (.ldbs k d a imm) ea 1 true ∧ brings (ri 0x15) (.ldhs k d a imm) ea 2 true ∧
      brings (ri 0x16) (.ldws k d a imm) ea 4 true) ∧
    ∀ (h sz : BitVec 3) (sx : BitVec 1) (off : BitVec 9),
      let o := (r.rd a.toNat).toNat + off.toNat * 2 ^ sz.toNat
      let lim := tget 0 r.hlim h.toNat
      sz.toNat < 4 → lim.getLsbD 63 = true → o + 2 ^ sz.toNat ≤ lim.toNat % 2 ^ 48 →
        brings (wordH 0x1E d a h sz sx off) (.hld k d a h sz sx off) ((tget 0 r.hbase h.toNat).toNat + o) (2 ^ sz.toNat) (sx = 1)

/-- R136 and R140, the wide loads from memory: w[D] gets 64 bytes, byte ea in its bits 7 to 0, once the data arrives. -/
def Obligations.WideLoadsBringMemoryBytes : Prop :=
  ∀ (s : State) (k : Nat) (d a : BitVec 5) (imm : BitVec 16) (ext : List Byte), d.toNat < 8 →
    let r := (s.dev.strand k).regs
    let brings (w : BitVec 32) (c : Instr) (addr : Nat) : Prop :=
      Runs s k w → (s.dev.region addr).isMemory = true → addr % 64 = 0 → s.has addr 64 → s.dev.poisoned addr 64 = false →
      ∃ w v, exec c s = .next (s.waits k w) ∧
        exec (.loadDataReturn k ext false) (s.waits k w) = .next (s.completes k (r.next.wrW d.toNat v)) ∧
        ∀ i, i < 64 → v.extractLsb' (8 * i) 8 = s.byte (addr + i)
    let ea := (r.rd a.toNat + imm.signExtend 64).toNat
    (r.drill = false → ea < 2 ^ 48 → brings (wordRI 0x1C d a imm) (.wld k d a imm) ea) ∧
    ∀ (h : BitVec 3) (off : BitVec 9),
      let o := (r.rd a.toNat).toNat + off.toNat * 64
      let lim := tget 0 r.hlim h.toNat
      lim.getLsbD 63 = true → o + 64 ≤ lim.toNat % 2 ^ 48 →
        brings (wordH 0x1E d a h 4 0 off) (.hld k d a h 4 0 off) ((tget 0 r.hbase h.toNat).toNat + o)

/-- R135, R136 and R140, the stores to memory, absolute and through a handle: the low bytes of g[D], or the 64 bytes of w[D],
are stored from the address up; every other byte of memory, every register and all else stays but as `issued`
says, and the instruction completes. -/
def Obligations.StoresWriteTheirBytes : Prop :=
  ∀ (s : State) (k : Nat) (d a : BitVec 5) (imm : BitVec 16),
    let r := (s.dev.strand k).regs
    let writes (w : BitVec 32) (c : Instr) (addr n : Nat) (byte : Nat → Byte) : Prop :=
      Runs s k w → (s.dev.region addr).isMemory = true → addr % n = 0 → s.has addr n →
      Answers c s fun t => Stored s t addr ((List.range n).map byte) ∧ t.dev = (s.completes k r.next).dev ∧
        t.pending = s.pending
    let low (i : Nat) : Byte := (r.rd d.toNat).extractLsb' (8 * i) 8
    let wide (i : Nat) : Byte := (r.rdW d.toNat).extractLsb' (8 * i) 8
    let ri (op : Nat) := wordRI op d a imm
    let ea := (r.rd a.toNat + imm.signExtend 64).toNat
    (r.drill = false → ea < 2 ^ 48 →
      writes (ri 0x18) (.stb k d a imm) ea 1 low ∧ writes (ri 0x19) (.sth k d a imm) ea 2 low ∧ writes (ri 0x1A) (.stw k d a imm) ea 4 low ∧
      writes (ri 0x1B) (.std k d a imm) ea 8 low ∧ (d.toNat < 8 → writes (ri 0x1D) (.wst k d a imm) ea 64 wide)) ∧
    ∀ (h sz : BitVec 3) (sx : BitVec 1) (off : BitVec 9),
      let n := if sz = 4 then 64 else 2 ^ sz.toNat
      let o := (r.rd a.toNat).toNat + off.toNat * n
      let lim := tget 0 r.hlim h.toNat
      lim.getLsbD 63 = true → lim.getLsbD 62 = true → o + n ≤ lim.toNat % 2 ^ 48 →
        (sz.toNat < 4 → writes (wordH 0x1F d a h sz sx off) (.hst k d a h sz sx off) ((tget 0 r.hbase h.toNat).toNat + o) n low) ∧
        (sz = 4 → sx = 0 → d.toNat < 8 → writes (wordH 0x1F d a h sz sx off) (.hst k d a h sz sx off) ((tget 0 r.hbase h.toNat).toNat + o) n wide)

/-- R141, the atomics on memory in firmware context: the strand waits, and when the result returns g[D] gets the 8 bytes that
memory held, memory the new value in the same command, and nothing else changes but as `issued` says. -/
def Obligations.AtomicsExchangeMemory : Prop :=
  ∀ (s : State) (k : Nat) (d a b : BitVec 5) (ext : List Byte),
    let r := (s.dev.strand k).regs
    let ea := (r.rd a.toNat).toNat
    let y := r.rd b.toNat
    r.drill = false → ea < 2 ^ 48 → ea % 8 = 0 → (s.dev.region ea).isMemory = true → s.has ea 8 →
    s.dev.poisoned ea 8 = false →
    let swaps (fn : Nat) (c : Instr) (new : Word → Word) : Prop :=
      Runs s k (wordRR 0x20 d a b (BitVec.ofNat 11 fn)) →
      ∃ w v, exec c s = .next (s.waits k w) ∧ (∀ i, i < 8 → v.extractLsb' (8 * i) 8 = s.byte (ea + i)) ∧
        Answers (.loadDataReturn k ext false) (s.waits k w) fun t =>
          Stored s t ea ((List.range 8).map fun i => (new v).extractLsb' (8 * i) 8) ∧
          t.dev = (s.completes k (r.next.wr d.toNat v)).dev ∧ t.pending = s.pending
    swaps 0 (.aadd k d a b) (· + y) ∧ swaps 1 (.aand k d a b) (· &&& y) ∧ swaps 2 (.aor k d a b) (· ||| y) ∧
    swaps 3 (.axor k d a b) (· ^^^ y) ∧ swaps 4 (.aswp k d a b) (fun _ => y) ∧
    swaps 5 (.aminu k d a b) (fun v => if v.toNat ≤ y.toNat then v else y) ∧
    swaps 6 (.amaxu k d a b) (fun v => if v.toNat ≤ y.toNat then y else v) ∧
    swaps 8 (.acas k d a b) (fun v => if v = r.rd d.toNat then y else v)

/-- R135, R137 and R125, accesses that trap, INEX 0: an absolute load, store or atomic at an address of 2^48 or more raises
ADDRESS, at one that is no multiple of its size ALIGN, each with EVAL the address, and in drill context PRIV with EVAL the
instruction word; memory and all else of the machine stay but as `issued` says. -/
def Obligations.AccessesTrap : Prop :=
  ∀ (s : State) (k : Nat) (d a b : BitVec 5) (imm : BitVec 16), d.toNat < 8 →
    let r := (s.dev.strand k).regs
    r.inex = false →
    let traps (w : BitVec 32) (c : Instr) (ea : Word) (n : Nat) : Prop :=
      Runs s k w →
      (r.drill = false → 2 ^ 48 ≤ ea.toNat → exec c s = .next (s.raises k .address ea)) ∧
      (r.drill = false → ea.toNat < 2 ^ 48 → ea.toNat % n ≠ 0 → exec c s = .next (s.raises k .align ea)) ∧
      (r.drill = true → exec c s = .next (s.raises k .priv (w.zeroExtend 64)))
    let ri (op : Nat) := wordRI op d a imm
    let at' (fn : Nat) := wordRR 0x20 d a b (BitVec.ofNat 11 fn)
    let ea := r.rd a.toNat + imm.signExtend 64
    traps (ri 0x10) (.ldb k d a imm) ea 1 ∧ traps (ri 0x11) (.ldh k d a imm) ea 2 ∧ traps (ri 0x12) (.ldw k d a imm) ea 4 ∧ traps (ri 0x13) (.ldd k d a imm) ea 8 ∧
    traps (ri 0x14) (.ldbs k d a imm) ea 1 ∧ traps (ri 0x15) (.ldhs k d a imm) ea 2 ∧ traps (ri 0x16) (.ldws k d a imm) ea 4 ∧ traps (ri 0x1C) (.wld k d a imm) ea 64 ∧
    traps (ri 0x18) (.stb k d a imm) ea 1 ∧ traps (ri 0x19) (.sth k d a imm) ea 2 ∧ traps (ri 0x1A) (.stw k d a imm) ea 4 ∧ traps (ri 0x1B) (.std k d a imm) ea 8 ∧
    traps (ri 0x1D) (.wst k d a imm) ea 64 ∧
    ∀ c ∈ [(0, Instr.aadd k d a b), (1, .aand k d a b), (2, .aor k d a b), (3, .axor k d a b), (4, .aswp k d a b),
      (5, .aminu k d a b), (6, .amaxu k d a b), (8, .acas k d a b)], traps (at' c.1) c.2 (r.rd a.toNat) 8

/-- R143 and R202, branches: with no prediction PC becomes the branch's address plus 4 × OFF16 when the condition holds and the
next instruction's otherwise, and nothing else changes but as `issued` says. With a prediction, right or wrong, the branch and its resolution end in
that same state, but that a wrong one counts 1 in MISPRED. In drill context the target of a taken branch lies in the code. -/
def Obligations.BranchesTransferControl : Prop :=
  ∀ (s : State) (k : Nat) (a b : BitVec 5) (off : BitVec 16),
    let r := (s.dev.strand k).regs
    let x := r.rd a.toNat
    let y := r.rd b.toNat
    let target := (BitVec.ofNat 64 r.pc + off.signExtend 64 * 4).toNat
    let goes (op : Nat) (c : Option Bool → Instr) (taken : Bool) : Prop :=
      Runs s k (wordRI op a b off) →
      (r.drill = true → taken = true → r.inCode target = true) →
      let x' := (s.dev.strand k).completed { r with pc := pcOf (if taken then target else r.pc + 4) }
      exec (c none) s = .next ((s.issued k).withStrand k x') ∧
      ∀ p, ∃ s1, exec (c (some p)) s = .next s1 ∧ exec (.branchResolve k) s1 =
        .next ((s.issued k).withStrand k (if p = taken then x' else { x' with mispred := x'.mispred + 1 }))
    goes 0x28 (.beq k a b off) (x = y) ∧ goes 0x29 (.bne k a b off) (x ≠ y) ∧ goes 0x2A (.blt k a b off) (x.toInt < y.toInt) ∧
    goes 0x2B (.bge k a b off) (y.toInt ≤ x.toInt) ∧ goes 0x2C (.bltu k a b off) (x.toNat < y.toNat) ∧
    goes 0x2D (.bgeu k a b off) (y.toNat ≤ x.toNat)

/-- R144 and R124, JAL and JALR: g[D] gets the next instruction's address and PC the target; JALR's target is computed first and
is a multiple of 4, else ALIGN. In drill context a target outside the code raises RANGE. Either exception writes nothing but
what its delivery writes. -/
def Obligations.JumpsLinkAndTransfer : Prop :=
  ∀ (s : State) (k : Nat) (d a : BitVec 5) (imm : BitVec 16) (off : BitVec 21),
    let r := (s.dev.strand k).regs
    let t : Word := r.rd a.toNat + imm.signExtend 64
    let u : Word := BitVec.ofNat 64 r.pc + off.signExtend 64 * 4
    let lands (v : Word) : State := s.completes k { (r.wr d.toNat (BitVec.ofNat 64 (pcOf (r.pc + 4)))) with pc := pcOf v.toNat }
    (Runs s k (wordJ 0x2E d off) → ((r.drill = true → r.inCode u.toNat = true) → exec (.jal k d off) s = .next (lands u)) ∧
      (r.inex = false → r.drill = true → r.inCode u.toNat = false → exec (.jal k d off) s = .next (s.raises k .range u))) ∧
    (Runs s k (wordRI 0x2F d a imm) →
      ((r.drill = true → r.inCode t.toNat = true) → t.toNat % 4 = 0 → exec (.jalr k d a imm) s = .next (lands t)) ∧
      (r.inex = false → r.drill = true → r.inCode t.toNat = false → exec (.jalr k d a imm) s = .next (s.raises k .range t)) ∧
      (r.inex = false → (r.drill = true → r.inCode t.toNat = true) → t.toNat % 4 ≠ 0 → exec (.jalr k d a imm) s = .next (s.raises k .align t)))

/-- R116, R117 and R145, MFS and MTS in firmware context: MFS brings the state register to g[D], MTS writes the register's RW
fields from g[A] and leaves its other fields and every other register. -/
def Obligations.StateRegistersMove : Prop :=
  ∀ (s : State) (k : Nat) (d a : BitVec 5),
    let r := (s.dev.strand k).regs
    let v := r.rd a.toNat
    let n := r.next
    let from' (i : Nat) := Runs s k (wordRR 0x30 d a 0 (BitVec.ofNat 11 i))
    let into (i : Nat) := Runs s k (wordRR 0x31 0 a 0 (BitVec.ofNat 11 i))
    r.drill = false →
    (∀ p ∈ [(0x000, BitVec.ofNat 64 k), (0x001, if r.inex then 2 else 0), (0x002, r.evec), (0x003, r.epc), (0x004, r.ecause),
        (0x005, r.eval), (0x006, if r.ectx then 1 else 0), (0x008, BitVec.ofNat 64 r.spri), (0x009, r.workid), (0x010, r.dcode),
        (0x011, r.dlen), (0x012, r.dret), (0x013, r.dbudget), (0x014, BitVec.ofNat 64 s.dev.clk.mono)],
      from' p.1 → exec (.mfs k d a 0 (BitVec.ofNat 11 p.1)) s = .next (s.completes k (n.wr d.toNat p.2))) ∧
    (∀ h, h < 8 →
      (from' (0x020 + h) →
        exec (.mfs k d a 0 (BitVec.ofNat 11 (0x020 + h))) s = .next (s.completes k (n.wr d.toNat (tget 0 r.hbase h)))) ∧
      (from' (0x028 + h) → exec (.mfs k d a 0 (BitVec.ofNat 11 (0x028 + h))) s = .next (s.completes k (n.wr d.toNat (tget 0 r.hlim h))))) ∧
    (∀ q, q < 256 → from' (0x100 + q) →
      exec (.mfs k d a 0 (BitVec.ofNat 11 (0x100 + q))) s = .next (s.completes k (n.wr d.toNat (tget 0 r.qmap q)))) ∧
    (∀ p ∈ [(0x001, { n with inex := v.getLsbD 1 }), (0x002, { n with evec := v &&& 0x0000FFFFFFFFF000 }),
        (0x003, { n with epc := v }), (0x004, { n with ecause := v &&& 0xFF }), (0x005, { n with eval := v }),
        (0x006, { n with ectx := v.getLsbD 0 }), (0x008, { n with spri := v.toNat % 4 }),
        (0x009, { n with workid := v &&& 0x3FFFFFFF, wvoid := false }), (0x012, { n with dret := v }), (0x013, { n with dbudget := v })],
      into p.1 → exec (.mts k 0 a 0 (BitVec.ofNat 11 p.1)) s = .next (s.completes k p.2)) ∧
    (∀ h, h < 8 →
      (into (0x020 + h) → exec (.mts k 0 a 0 (BitVec.ofNat 11 (0x020 + h))) s =
        .next (s.completes k { n with hbase := tset 0 r.hbase h (v &&& 0x0000FFFFFFFFFFFF) })) ∧
      (into (0x028 + h) → exec (.mts k 0 a 0 (BitVec.ofNat 11 (0x028 + h))) s =
        .next (s.completes k { n with hlim := tset 0 r.hlim h (v &&& 0xC000FFFFFFFFFFFF) }))) ∧
    (∀ q, q < 256 → into (0x100 + q) → exec (.mts k 0 a 0 (BitVec.ofNat 11 (0x100 + q))) s =
      .next (s.completes k { n with qmap := tset 0 r.qmap q (v &&& 0xC00000000000FFFF) })) ∧
    (r.inex = false → ∀ n ∈ [0x000, 0x010, 0x011, 0x014, 0x007, 0x00A, 0x015, 0x030, 0x0FF, 0x200],
      into n → exec (.mts k 0 a 0 (BitVec.ofNat 11 n)) s =
        .next (s.raises k .illegal ((wordRR 0x31 0 a 0 (BitVec.ofNat 11 n)).zeroExtend 64)))

/-- R120, R126, R142, R145 and R146, the system instructions: each completes and changes its strand alone, but as `issued` says, and but
that YIELD lets the other contexts issue before it (R145), DENTER also spends its ticket and takes the drill's code out of the
tine's instruction cache, and IFLUSH empties that cache. FENCE completes once no write the strand posted to a side-effect
region is outstanding that it orders, and a waiting one completes at FENCE_RELEASE. -/
def Obligations.SystemInstructionsComplete : Prop :=
  ∀ (s : State) (k : Nat) (a : BitVec 5) (fn : BitVec 11),
    let r := (s.dev.strand k).regs
    let quiet := (∀ p ∈ s.dev.posted, p.master ≠ tagStrand k)
    let sys (a : BitVec 5) (fn : Nat) := Runs s k (wordRR 0x32 0 a 0 (BitVec.ofNat 11 fn))
    let done := s.completes k r.next
    let t := (done.dev.homeOf k).1
    (sys 0 5 → exec (.yield k 0 0 0) s = .next { done with dev := done.dev.modTine t fun x => { x with yielded := some k } }) ∧
    (Runs s k (wordRR 0x21 0 0 0 fn) → fn.toNat < 32 → quiet → exec (.fence k 0 0 0 fn) s = .next done ∧
      exec (.fenceRelease k) (s.waits k (.fence fn.toNat)) = .next done) ∧
    (¬ quiet → ∀ fn ∈ [0x12, 0x1A], Runs s k (wordRR 0x21 0 0 0 fn) →
      exec (.fence k 0 0 0 fn) s = .next (s.waits k (.fence fn.toNat))) ∧
    (r.drill = true → sys 0 3 →
      exec (.dexit k 0 0 0) s = .next (s.completes k { r with drill := false, pc := pcOf r.dret.toNat })) ∧
    (r.drill = false →
      (sys 0 1 → exec (.eret k 0 0 0) s =
        .next (s.completes k { r with pc := pcOf r.epc.toNat, drill := r.ectx, inex := false })) ∧
      (sys 0 4 → exec (.halt k 0 0 0) s =
        .next ((s.issued k).withStrand k { (s.dev.strand k).completed r.next with run := false, stopped := true })) ∧
      (sys 0 6 → exec (.iflush k 0 0 0) s = .next { done with
        dev := (done.dev.modTine t fun x => { x with icache := [] }).modStrand k fun x => { x with refetch := true } }) ∧
      (sys a 2 → ∀ t, tfind s.dev.tine.tickets (r.rd a.toNat).toNat = some t → t.strand = k → t.used = false →
        Answers (.denter k 0 a 0) s fun u => Only [.tines] s u ∧
          tfind u.dev.tine.tickets (r.rd a.toNat).toNat = some { t with used := true } ∧
          (∀ j, j ≠ k → u.dev.strand j = s.dev.strand j) ∧
          (∀ e ∈ (u.dev.tineOf (u.dev.homeOf k).1).icache, ¬ (t.dcode.toNat ≤ e.1 ∧ e.1 < t.dcode.toNat + 1024)) ∧
          let q := (u.dev.strand k).regs
          q.dcode = t.dcode ∧ q.dlen = t.dlen ∧ q.workid = t.workid ∧ q.drill = true ∧ q.pc = pcOf t.dcode.toNat ∧
          (∀ i, i < 5 → q.rd i = r.rd i) ∧ (∀ i, 5 ≤ i → q.rd i = 0) ∧ (∀ i, q.rdW i = 0) ∧
          q.evec = r.evec ∧ q.hbase = r.hbase ∧ q.hlim = r.hlim ∧ q.qmap = r.qmap ∧ q.dret = r.dret) ∧
      (sys a 2 → tfind s.dev.tine.tickets (r.rd a.toNat).toNat = none → r.inex = false →
        exec (.denter k 0 a 0) s = .next (s.raises k .ticket (r.rd a.toNat))))

/-- R127, R145, R159 and R162, the commands whose effect is an exception, INEX 0: EPC, ECAUSE, EVAL and ECTX are written, CTX
becomes 0 and INEX 1, and PC is EVEC + 64 × the cause; nothing else of the machine changes but as `issued` says. The first line says what `raises`
holds. -/
def Obligations.ServiceCallsRaise : Prop :=
  ∀ (s : State) (k : Nat) (imm : BitVec 16),
    let r := (s.dev.strand k).regs
    r.inex = false →
    ((Runs s k (wordRI 0x33 0 0 imm) → exec (.wcall k 0 0 imm) s = .next (s.raises k .wcall (imm.zeroExtend 64))) ∧
      (Runs s k (wordRI 0x34 0 0 imm) → exec (.brk k 0 0 imm) s = .next (s.raises k .brk (imm.zeroExtend 64)))) ∧
    (∀ c v, let t := s.raises k c v
      Only [.tines] s t ∧ (∀ j, j ≠ k → t.dev.strand j = s.dev.strand j) ∧
      (t.dev.strand k).regs = { r with epc := BitVec.ofNat 64 r.pc, ecause := BitVec.ofNat 64 c.code, eval := v, ectx := r.drill
                                       drill := false, inex := true, pc := pcOf (r.evec.toNat + 64 * c.code) }) ∧
    (∀ c ∈ [(wordRI 0x33 1 0 imm, Instr.wcall k 1 0 imm), (wordRI 0x34 0 1 imm, .brk k 0 1 imm), (wordRR 0x32 1 0 0 1, .eret k 1 0 0),
        (wordRR 0x32 0 0 1 4, .halt k 0 0 1), (wordRR 0x32 0 2 0 3, .dexit k 0 2 0), (wordRR 0x00 1 2 3 0x20, .clz k 1 2 3),
        (wordRR 0x3C 8 0 0 0, .wxor k 8 0 0), (wordRI 0x05 1 2 64, .shli k 1 2 64), (wordRW 0x0A 1 0 0 1 imm, .movw k 1 0 0 1 imm),
        (wordRR 0x21 0 0 0 32, .fence k 0 0 0 32), (wordH 0x1E 1 2 0 5 0 0, .hld k 1 2 0 5 0 0), (wordRR 0x30 1 0 0 7, .mfs k 1 0 0 7),
        (wordRR 0x3C 1 0 0 0x12, .keccak k 1 0 0)],
      Runs s k c.1 → exec c.2 s = .next (s.raises k .illegal (c.1.zeroExtend 64))) ∧
    (∀ c ∈ [Instr.yield k 0 0 0, .add k 1 2 3], Ready s k → listed (s.dev.fetched s.mem k) = false →
      exec c s = .next (s.raises k .illegal ((s.dev.fetched s.mem k).zeroExtend 64))) ∧
    (r.drill = true → ∀ c ∈ [(wordRR 0x32 0 0 0 1, Instr.eret k 0 0 0), (wordRR 0x32 0 1 0 2, .denter k 0 1 0),
        (wordRR 0x32 0 0 0 4, .halt k 0 0 0), (wordRR 0x32 0 0 0 6, .iflush k 0 0 0), (wordRR 0x31 0 1 0 3, .mts k 0 1 0 3),
        (wordRR 0x31 0 1 0 0x10, .mts k 0 1 0 0x10), (wordRR 0x30 1 0 0 2, .mfs k 1 0 0 2), (wordQ 0x38 0 1 0 0, .qput k 0 1 0 0),
        (wordQ 0x39 1 0 0 0, .qget k 1 0 0 0), (wordQ 0x3A 1 0 0 0, .qlen k 1 0 0 0), (wordRR 0x3B 1 2 0 0, .wait k 1 2 0 0)],
      Runs s k c.1 → exec c.2 s = .next (s.raises k .priv (c.1.zeroExtend 64)))

/-- R127 and R163: a drill strand whose generation has become stale raises STALE at its next instruction, with EVAL its WORKID;
an exception while INEX is 1 leaves the registers, stops the strand with DOUBLE set, and reports fault 0x0301. -/
def Obligations.StaleAndDoubleExceptions : Prop :=
  ∀ (s : State) (k : Nat) (imm : BitVec 16), s.Live →
    let x := s.dev.strand k
    (s.dev.canIssue k = true → x.spec = [] → x.regs.drill = true → s.dev.staleIn x.regs = true → x.regs.inex = false →
      exec (.staleException k) s = .next (s.withStrand k (x.excepted .stale x.regs.workid))) ∧
    (Runs s k (wordRI 0x33 0 0 imm) → x.regs.inex = true → Answers (.wcall k 0 0 imm) s fun t =>
      t.dev.strand k = { x with cause := 10, causePc := x.regs.pc, refetch := false, double := true, run := false, stopped := true } ∧
      (∀ j, j ≠ k → t.dev.strand j = s.dev.strand j) ∧
      Recorded s t { code := 0x0301, kind := 1, unit := k, master := k } ∧
      Only [.tines, .faults, .regs] s t ∧ RegsBut [RegName.FAULT_COALESCED.key []] s t)

/-- R118, R147 to R151 and R155, QPUT in firmware context, to a mailbox, a fold command endpoint or the vault's: the message
(g[A] or w[A], with WORKID and the strand) goes last into the endpoint's queue, at once or when a waiting QPUT resumes; at a full
queue TRY returns 0 in g[D] and otherwise the strand waits. No other queue, strand or unit changes, but as `issued` says. -/
def Obligations.PutsQueueTheirMessage : Prop :=
  ∀ (s : State) (k : Nat) (d a : BitVec 5) (port : BitVec 8) (once : Bool),
    let r := (s.dev.strand k).regs
    r.drill = false → s.dev.staleIn r = false → (once = false → d = 0) →
    ∀ e ∈ [(0, 512, 16, false), (4, 16, 16, true), (8, 1, 64, true)], ∀ inst, inst < e.2.1 →
    (tget 0 r.qmap port.toNat).toNat = 2 ^ 63 + 2 ^ 62 + e.1 * 4096 + inst → s.dev.epFallow e.1 inst = false →
    (e.2.2.2 = true → a.toNat < 8) →
    let fn : BitVec 8 := BitVec.ofNat 8 ((if e.2.2.2 then 1 else 0) + if once then 2 else 0)
    Runs s k (wordQ 0x38 d a port fn) →
    let ep := e.1 * 4096 + inst
    let puts (c : Instr) (s1 : State) : Prop := Answers c s1 fun t =>
      t.dev.queue ep = s.dev.queue ep ++
        [{ data := if e.2.2.2 then r.rdW a.toNat else (r.rd a.toNat).zeroExtend 512, workid := r.workid, sender := k }] ∧
      t.dev.strand k = (s.dev.strand k).completed (if once then r.next.wr d.toNat 1 else r.next) ∧
      (∀ j, j ≠ k → t.dev.strand j = s.dev.strand j) ∧ (∀ q, q ≠ ep → t.dev.queue q = s.dev.queue q) ∧ Only [.tines] s t
    ((s.dev.queue ep).length < e.2.2.1 →
      puts (.qput k d a port fn) s ∧ puts (.queueWaitResume k) (s.waits k (.qput d a port fn))) ∧
    (e.2.2.1 ≤ (s.dev.queue ep).length → exec (.qput k d a port fn) s =
      .next (if once then s.completes k (r.next.wr d.toNat 0) else s.waits k (.qput d a port fn)))

/-- R147 to R149 and R155, QGET and QLEN in firmware context at a strand's own mailbox or a fold completion endpoint: QGET takes the
oldest message into g[D] or w[D], at once or when a waiting QGET resumes; at an empty queue TRY returns 0 in g[A] and otherwise the
strand waits. QLEN brings the count of waiting messages, or of free places at a put port. -/
def Obligations.GetsTakeTheOldestMessage : Prop :=
  ∀ (s : State) (k : Nat) (d a : BitVec 5) (port : BitVec 8) (once : Bool),
    let r := (s.dev.strand k).regs
    r.drill = false → (once = false → a = 0) →
    ∀ e ∈ [(0, 512, false), (5, 16, true)], ∀ inst, inst < e.2.1 → (e.1 = 0 → inst = k) →
    (e.2.2 = true → d.toNat < 8) →
    let q := (tget 0 r.qmap port.toNat).toNat
    let fn : BitVec 8 := BitVec.ofNat 8 ((if e.2.2 then 1 else 0) + if once then 2 else 0)
    let ep := e.1 * 4096 + inst
    let gets (c : Instr) (s1 : State) (m : Msg) (rest : List Msg) : Prop := Answers c s1 fun t =>
      let n := if e.2.2 then r.next.wrW d.toNat m.data else r.next.wr d.toNat (m.data.truncate 64)
      t.dev.queue ep = rest ∧ t.dev.strand k = (s.dev.strand k).completed (if once then n.wr a.toNat 1 else n) ∧
      (∀ j, j ≠ k → t.dev.strand j = s.dev.strand j) ∧ (∀ q, q ≠ ep → t.dev.queue q = s.dev.queue q) ∧ Only [.tines] s t
    let counts (v : Nat) := Runs s k (wordQ 0x3A d 0 port 0) →
      exec (.qlen k d 0 port 0) s = .next (s.completes k (r.next.wr d.toNat (BitVec.ofNat 64 v)))
    (q = 2 ^ 63 + e.1 * 4096 + inst →
      (∀ m rest, Runs s k (wordQ 0x39 d a port fn) → s.dev.queue ep = m :: rest →
        gets (.qget k d a port fn) s m rest ∧ gets (.queueWaitResume k) (s.waits k (.qget d a port fn)) m rest) ∧
      (Runs s k (wordQ 0x39 d a port fn) → s.dev.queue ep = [] → s.dev.epFallow e.1 inst = false → exec (.qget k d a port fn) s =
        .next (if once then s.completes k (r.next.wr a.toNat 0) else s.waits k (.qget d a port fn))) ∧
      counts (s.dev.queue ep).length) ∧
    (e.1 = 0 → q = 2 ^ 63 + 2 ^ 62 + inst → counts (16 - (s.dev.queue ep).length))

/-- R153 to R155, WAIT in firmware context. A port is ready for a strand whose QMAP binds it to an endpoint that is ready. WAIT on a
group returns the first ready port of the mask after the port it returned last, wrapping, and remembers it; with nothing to wait
for it returns 0x100; else it waits, and resumes as it would complete. WAIT for a time, and a deadline, end once TIME_MONO is
there. Nothing but the strand changes, but as `issued` says. -/
def Obligations.WaitReturnsThePort : Prop :=
  ∀ (s : State) (k g : Nat) (d a b : BitVec 5), g < 4 →
    let x := s.dev.strand k
    let r := x.regs
    r.drill = false →
    let runs (b : BitVec 5) (fn : BitVec 11) := Runs s k (wordRR 0x3B d a b fn)
    let ready (p : Nat) : Prop := (r.rd a.toNat).getLsbD (p % 64) = true ∧ ∃ q, portOf k r p = some q ∧ s.dev.portReady q = true
    let i := if x.lastPort / 64 = g then x.lastPort % 64 + 1 else 0
    let at' (j : Nat) : Nat := 64 * g + (i + j) % 64
    let fn : BitVec 11 := BitVec.ofNat 11 g
    let now := s.dev.clk.mono
    (runs 0 fn → ∀ j, j < 64 → ready (at' j) → (∀ j', j' < j → ¬ ready (at' j')) →
      let t := (s.issued k).withStrand k { x.completed (r.next.wr d.toNat (BitVec.ofNat 64 (at' j))) with lastPort := at' j }
      exec (.wait k d a 0 fn) s = .next t ∧ exec (.queueWaitResume k) (s.waits k (.wait d a 0 fn)) = .next t) ∧
    ((∀ j, j < 64 → ¬ ready (at' j)) →
      (r.rd a.toNat = 0 → runs 0 fn → exec (.wait k d a 0 fn) s = .next (s.completes k (r.next.wr d.toNat 0x100))) ∧
      (∀ dl : BitVec 11, dl = BitVec.ofNat 11 (g + 4) → runs b dl → (r.rd b.toNat).toNat ≤ now →
        exec (.wait k d a b dl) s = .next (s.completes k (r.next.wr d.toNat 0x100)) ∧
        exec (.waitDeadline k) (s.waits k (.wait d a b dl)) = .next (s.completes k (r.next.wr d.toNat 0x100)))) ∧
    (runs 0 0x100 → (r.rd a.toNat).toNat ≤ now →
      exec (.wait k d a 0 0x100) s = .next (s.completes k (r.next.wr d.toNat (BitVec.ofNat 64 now))) ∧
      exec (.waitDeadline k) (s.waits k (.wait d a 0 0x100)) = .next (s.completes k (r.next.wr d.toNat (BitVec.ofNat 64 now)))) ∧
    (runs 0 0x100 → now < (r.rd a.toNat).toNat → exec (.wait k d a 0 0x100) s = .next (s.waits k (.wait d a 0 0x100)))

/-- R169 to R171, run control by 4- or 8-byte writes of TINE_STRAND_CTL: STEP keeps what is written; RUN starts a strand at its PC,
with STEP for one instruction, unless it is lost or its furrow is gated; RUN 0 stops it, leaving a load already issued to complete
and any other wait to execute again; STOPPED is set when nothing is outstanding. Nothing but the strand changes. R104 and R107: an
instruction of a strand has no effect while another ready context of its tine has a higher SPRI and has not yielded; of the ready
contexts of the highest SPRI the first after the one that issued last takes the next step's first slot. -/
def Obligations.RunControlStartsAndStops : Prop :=
  ∀ (s : State) (master k : Nat) (value : Word), s.Live → ∀ size ∈ [4, 8],
    let x := s.dev.strand k
    (s.dev.hasStrand k = true → x.lost = false → s.dev.strandGated k = false → value.getLsbD 0 = true →
      (value.getLsbD 2 = false → exec (.strandRun master k size value) s =
        .next (s.withStrand k { x with run := true, stopped := false, step := false, double := false })) ∧
      (value.getLsbD 2 = true → exec (.strandStep master k size value) s =
        .next (s.withStrand k { x with run := true, stopped := false, step := true, double := false }))) ∧
    (s.dev.hasStrand k = true → x.lost = true ∨ s.dev.strandGated k = true → value.getLsbD 0 = true →
      (value.getLsbD 2 = false → exec (.strandRun master k size value) s = .next (s.withStrand k { x with step := false })) ∧
      (value.getLsbD 2 = true → exec (.strandStep master k size value) s = .next (s.withStrand k { x with step := true }))) ∧
    (s.dev.hasStrand k = true → value.getLsbD 0 = false → x.spec = [] → x.run = true →
      (∀ n d a e, x.wait = some (.load n d a e) → exec (.strandStop master k size value) s =
        .next (s.withStrand k { x with run := false, step := value.getLsbD 2 })) ∧
      ((∀ n d a e, x.wait ≠ some (.load n d a e)) → exec (.strandStop master k size value) s =
        .next (s.withStrand k { x with run := false, step := value.getLsbD 2, wait := none }))) ∧
    (s.dev.hasStrand k = true → value.getLsbD 0 = false → x.run = false → exec (.strandStop master k size value) s =
      .next (s.withStrand k { x with step := value.getLsbD 2 })) ∧
    (s.dev.hasStrand k = false → value.getLsbD 0 = false → exec (.strandStop master k size value) s = .next s) ∧
    (x.run = false → x.wait = none → x.stopped = false →
      exec (.strandStopped k) s = .next (s.withStrand k { x with stopped := true })) ∧
    (let t := (s.dev.homeOf k).1
     let u := s.dev.tineOf t
     let ready := s.dev.readyCtxs t
     let after (c : Nat) : Nat := (c + 4 - u.turn) % 5
     (∀ e ∈ ready, x.regs.spri < (s.dev.strand e.2).regs.spri → u.yielded ≠ some e.2 → u.first = none ∨ u.skipped ≠ some e.2 →
       ∀ d a b : BitVec 5, exec (.add k d a b) s = .next s) ∧
     (∀ c, (c, k) ∈ ready → u.yielded ≠ some k → u.turn < 5 →
       (∀ e ∈ ready, (s.dev.strand e.2).regs.spri < x.regs.spri ∨
         (s.dev.strand e.2).regs.spri = x.regs.spri ∧ after c ≤ after e.1) → s.dev.takesSlot s.mem k = true))

/-- R176 to R178, a tine fails: it is marked, fault 0x0108 is reported, and each strand that was its own, not lost and not moved
before, stands in a spare context of a tine of the furrow, or is lost; no register changes but FAULT_COALESCED, and what
RECOVERY of R47 raises for the while. The command completes for every tine; of one that is absent or has failed it changes
nothing. -/
def Obligations.TineFailureMovesItsStrands : Prop :=
  ∀ (s : State) (t : Nat) (readable : List Bool), s.Live →
    exec (.tineFail t readable) s = .next (s.did (s.dev.tineFail t readable)) ∧
    (s.dev.hasTine t = false ∨ (s.dev.tineOf t).failed = true → exec (.tineFail t readable) s = .next s) ∧
    (s.dev.hasTine t = true → (s.dev.tineOf t).failed = false → Answers (.tineFail t readable) s fun u =>
      (u.dev.tineOf t).failed = true ∧ (∀ v, v ≠ t → (u.dev.tineOf v).failed = (s.dev.tineOf v).failed) ∧
      (∀ k, k / 4 = t → (s.dev.strand k).lost = false → (∀ e ∈ s.dev.tine.tines, e.2.spare ≠ some k) →
        (u.dev.strand k).lost = true ∨ ∃ v, v ≠ t ∧ v / 8 = t / 8 ∧ (u.dev.tineOf v).spare = some k) ∧
      (∀ k, k / 4 ≠ t → (s.dev.tineOf t).spare ≠ some k → u.dev.strand k = s.dev.strand k) ∧
      ((∀ k, (s.dev.tineOf t).spare = some k → s.dev.hasStrand k = true) →
        Recorded s u { code := 0x0108, kind := 2, unit := t }) ∧
      u.dev.flag DEVICE_PACE_DEADLINE.RECOVERY = false ∧
      Only [.tines, .host, .faults, .regs, .pace, .outside] s u ∧
      RegsBut [RegName.FAULT_COALESCED.key [], RegName.DEVICE_PACE_DEADLINE.key [], RegName.DEVICE_PACE_STATUS.key []] s u)

/-- R217, R469, R514, R515, R550, R703, R758 and R783, the counter-clear registers: an 8-byte write of 1 sets the unit's counters
to 0, and DEVICE_SPEC_CLR.TINES every strand's MISPRED and SQUASH; nothing else changes. A page of an absent plot ignores it (R4). A 4-byte write of one, whose field is
write-only, is refused with fault 0x0202 (R87). -/
def Obligations.CounterClearsZeroTheCounters : Prop :=
  ∀ (s : State) (master p u : Nat) (value : Word), s.Live → value.getLsbD 0 = true →
    let clears (c : Instr) (i : List Nat) (rs : List RegName) : Prop := Answers c s fun t =>
      (∀ r ∈ rs, t.dev.reg r i = 0) ∧ Only [.regs] s t ∧ RegsBut (rs.map fun r => r.key i) s t
    clears (.specClrDevice master 8) [] [.DEVICE_SPEC_RING_FETCH, .DEVICE_SPEC_RING_DISCARD, .DEVICE_SPEC_RING_HOSTERR,
      .DEVICE_SPEC_HEDGE_START, .DEVICE_SPEC_HEDGE_WON, .DEVICE_SPEC_LOSER, .DEVICE_SPEC_DECRYPT_EARLY,
      .DEVICE_SPEC_DECRYPT_DISCARD] ∧
    (Answers (.specClrTines master 8) s fun t =>
      (∀ k, t.dev.strand k = { s.dev.strand k with mispred := 0, squash := 0 }) ∧ Only [.tines] s t ∧
      t.dev.tine.tines = s.dev.tine.tines ∧ t.dev.tine.queues = s.dev.tine.queues ∧ t.dev.tine.tickets = s.dev.tine.tickets) ∧
    (s.dev.absentPage (RegName.FOLD_CLR.key [p, u]) = false → clears (.foldClr master p u 8 value) [p, u]
      [.FOLD_CMDS, .FOLD_BYTES, .FOLD_MISMATCH, .FOLD_EVICT, .FOLD_RECON]) ∧
    (s.dev.absentPage (RegName.FOLD_CLR.key [p, u]) = true → exec (.foldClr master p u 8 value) s = .next s) ∧
    clears (.vaultClr master 8 value) []
      [.DEVICE_VAULT_DERIVES, .DEVICE_VAULT_HITS, .DEVICE_VAULT_MISSES, .DEVICE_VAULT_PARITY] ∧
    (s.dev.absentPage (RegName.CIPHER_CLR.key [p]) = false → clears (.cipherClr master p 8 value) [p]
      [.CIPHER_CMDS, .CIPHER_BYTES, .CIPHER_G2_BYTES, .CIPHER_RELEASED, .CIPHER_DISCARDED]) ∧
    (s.dev.absentPage (RegName.CIPHER_CLR.key [p]) = true → exec (.cipherClr master p 8 value) s = .next s) ∧
    clears (.gleanClr master 8 value) []
      [.DEVICE_GLEAN_RELEASED, .DEVICE_GLEAN_MISMATCH, .DEVICE_GLEAN_FETCHFAIL, .DEVICE_GLEAN_UNRECOV] ∧
    clears (.harrowClr master 8 value) [] [.DEVICE_HARROW_ROWS, .DEVICE_HARROW_FAILED, .DEVICE_HARROW_REPAIRED,
      .DEVICE_HARROW_FREED, .DEVICE_HARROW_BYTES, .DEVICE_HARROW_BREAKS] ∧
    clears (.swClr master 8 value) [] [.SW_PUSHOUT, .SW_WAITS, .SW_FLUSHED, .SW_MOVES, .SW_ROUTE_DROP, .SW_REROUTE,
      .SW_REROUTE_DROP, .SW_LOCAL_DROP] ∧
    clears (.trdClr master 8 value) [] [.TRD_TX_PKTS, .TRD_RX_PKTS, .TRD_RETX, .TRD_RX_BAD, .TRD_DUP, .TRD_OOO, .TRD_STALE_ACK,
      .TRD_SWC_WAITS, .TRD_PET_FULL, .TRD_RNR, .TRD_ACCESS, .TRD_DROPPED] ∧
    clears (.faultClr master 8 value) [] [.FAULT_RING_LOST, .FAULT_NOTICE_LOST, .FAULT_COALESCED] ∧
    (master < 0x10000 → ∀ e ∈ [(Instr.vaultClr master 4 value, RegName.DEVICE_VAULT_CLR), (.gleanClr master 4 value, .DEVICE_GLEAN_CLR),
        (.harrowClr master 4 value, .DEVICE_HARROW_CLR), (.swClr master 4 value, .SW_CLR), (.trdClr master 4 value, .TRD_CLR),
        (.faultClr master 4 value, .FAULT_CLR)],
      Answers e.1 s fun t => Recorded s t { code := 0x0202, kind := 0, unit := 0, master := master
                                            addr := 0x40000000000 + e.2.key [], detail := e.2.key [] } ∧
        Only [.faults, .regs] s t ∧ RegsBut [RegName.FAULT_COALESCED.key []] s t)

/-- R595, R596, R598, R599, R600 and R631, storage ports: a port that trains takes its state, rate and lanes, one that goes down is cleared, with a
fault; a hot reset is sent; a configuration request runs to its completion or to its time; a device's request is
performed where a window opens its range and otherwise completes Unsupported Request, and one that lies partly in a hole is one to a
hole (R865); a read that times out ends, with no value stated. -/
def Obligations.StoragePortsAnswer : Prop :=
  ∀ (s : State) (master n a b rate lanes addr len moved : Nat) (l0p write err : Bool) (data : List Byte) (value : Word)
    (alts : List Place), s.Live →
    let d := s.dev
    let up := d.portUp n
    (d.hasPort n = true → n < 192 →
      (d.flag STORAGE_PORT_CTL.ENABLE [n] = true → up = false → d.stripOn (4 + n / 64) = true → d.targetsOf n = [] →
        exec (.storagePortUp n rate lanes l0p) s = .next (s.did
          (((d.setFld STORAGE_PORT_STATUS.STATE (if l0p then 3 else 2) [n]).setFld STORAGE_PORT_STATUS.RATE
            (min rate (d.fld STORAGE_PORT_PLAN.MAX_RATE [n])) [n]).setFld STORAGE_PORT_STATUS.LANES
            (min lanes (2 ^ d.fld STORAGE_PORT_PLAN.WIDTH [n])) [n]))) ∧
      (up = true → exec (.storageErrorMessage n) s = .next (s.did (d.setFld STORAGE_PORT_STATUS.ERR_EV 1 [n])))) ∧
    (n < 192 → up = true ∨ d.fld STORAGE_PORT_STATUS.STATE [n] = 4 → d.targetsOf n = [] → exec (.storagePortDown n alts) s = .next (s.did
      ((((d.setFld STORAGE_PORT_STATUS.STATE 0 [n]).setFld STORAGE_PORT_STATUS.RATE 0 [n]).setFld STORAGE_PORT_STATUS.LANES 0 [n]).setFld
        STORAGE_PORT_STATUS.DOWN_EV 1 [n] |>.report { code := 0x0503, kind := 7, unit := n }))) ∧
    (n < 192 →
      let e := d.regWrite .STORAGE_PORT_CTL [n] ⟨master, 8, 0, value⟩
      let was := d.flag STORAGE_PORT_CTL.ENABLE [n]
      (was = true → value.getLsbD 0 = true → value.getLsbD 1 = true → exec (.portHotReset master n 8 0 value) s = .next (s.did
        ((e.setFld STORAGE_PORT_CTL.HOTRST 0 [n]).emit (.portHotReset n)))) ∧
      (value.getLsbD 1 = false → was = true → value.getLsbD 0 = false → up = false → exec (.portHotReset master n 8 0 value) s =
        .next (s.did (e.setFld STORAGE_PORT_STATUS.STATE 5 [n]))) ∧
      (value.getLsbD 1 = false → was = false → value.getLsbD 0 = true → exec (.portHotReset master n 8 0 value) s =
        .next (s.did (e.setFld STORAGE_PORT_STATUS.STATE 1 [n])))) ∧
    (let w : Wr := ⟨master, 8, 0, value⟩
     let e := ((d.regWrite .STORAGE_CFG_CMD [] w).setFld STORAGE_CFG_CMD.BUSY 1).setFld STORAGE_CFG_CMD.ERR 0
     (d.flag STORAGE_CFG_CMD.BUSY = false → exec (.cfgRequest master 8 0 value) s = .next (s.did (Dev.emit
        { e with stg := { d.stg with cfgDue := d.now + 1000000000 } }
        (.cfgRequest (e.reg .STORAGE_CFG_CMD) (d.reg .STORAGE_CFG_DATA))))) ∧
     (d.flag STORAGE_CFG_CMD.BUSY = true → exec (.cfgRequest master 8 0 value) s =
        .next (s.did (d.blame 0x0205 master (RegName.addr .STORAGE_CFG_CMD []) (RegName.off .STORAGE_CFG_CMD []))))) ∧
    (d.flag STORAGE_CFG_CMD.BUSY = true →
      let ends (err : Bool) (v : Nat) :=
        let x := (d.setFld STORAGE_CFG_CMD.BUSY 0).setFld STORAGE_CFG_CMD.ERR (if err then 1 else 0)
        if d.flag STORAGE_CFG_CMD.WRITE then x else x.setFld STORAGE_CFG_DATA.DATA v
      exec (.cfgComplete err len) s = .next (s.did (ends err (if err then 0xFFFFFFFF else len))) ∧
      (d.stg.cfgDue ≤ d.now → exec .cfgTimeout s = .next (s.did (ends true 0xFFFFFFFF)))) ∧
    (n < 192 → up = true →
      let opens (k : Nat) (write : Bool) := (List.range 4).any fun i => d.flag STORAGE_INWIN_LIM.VALID [n, i] &&
        (!write || d.flag STORAGE_INWIN_LIM.WRITE [n, i]) && d.fld STORAGE_INWIN_BASE.BASE [n, i] * 4096 ≤ addr &&
        addr + k ≤ (d.fld STORAGE_INWIN_LIM.LIMIT [n, i] + 1) * 4096
      (∀ k, k = (if write then data.length else len) → opens k write = true → d.holeIn addr k = true →
        exec (.inboundRequest n addr len write data) s = .next (s.did (
          let x := d.blame 0x0201 0xFFFF addr
          if write then x else x.emit (.inboundCpl n true (List.replicate k 0))))) ∧
      (opens (if write then data.length else len) write = false → exec (.inboundRequest n addr len write data) s = .next (s.did
        ((d.emit (.inboundCpl n false [])).report { code := 0x0502, kind := 7, unit := n, addr := addr }))) ∧
      (d.region addr = .hbm → d.absent addr = false →
        (inHbm addr data.length = true → opens data.length true = true → exec (.inboundRequest n addr len true data) s = .next (s.did (d.stBytes addr data))) ∧
        (inHbm addr len = true → opens len false = true → exec (.inboundRequest n addr len false data) s = .next (s.did
          (d.emit (.inboundCpl n (!d.poisoned addr len) (d.ldBytes s.mem addr len))))))) ∧
    (∀ due size signed dst eval, tfind d.stg.loads a = some due → (d.strand a).wait = some (.load (.general size signed) dst addr eval) →
      d.region addr = .storage → due ≤ d.now → exec (.storageCplTimeout 0 a b moved) s = .next (s.did
        (let x := { d.draw.2 with stg := { d.stg with loads := tdel d.stg.loads a } }
         x.finish a (.done x ((d.strand a).regs.next.wr dst (extendLoad size signed (d.draw.1.toNat % 2 ^ (8 * size)))))))) ∧
    (let x := d.dmaSet .DMA_ACTIVE a b
     d.dmaReady a b = true → leAt x 0 1 = 1 → dmaBadCmd x = false →
      let at' := leAt x (if (d.dmaCh a b).barrier then 16 else 8) 8
      let port := d.fld STORAGE_TGT_BIND.PORT [(at' - 0x100000000000) / 0x100000000]
      regionOf at' = .storage → (d.dmaCh a b).since + max 1 (d.fld STORAGE_PORT_CTL.CPL_TO [port]) * 1000000 ≤ d.now →
      exec (.storageCplTimeout 1 a b moved) s = .next (s.did (d.dmaBusError a b moved)))

/-- R603 to R608 and R614, NVMe queue pairs: a descriptor's entry is copied to the tail with its command ID and the doorbell written; a wake takes an
entry, ends its command with the entry's status or counts one that matches none, and writes the head; a command times out, its
ID still taken; a stop ends submissions. -/
def Obligations.QueuePairsRunCommands : Prop :=
  ∀ (s : State) (master p c r cid : Nat) (value : Word) (ext label : List Byte)
    (alt : Option Place), s.Live → p < 4 → c < 64 → r < 65536 →
    let d := s.dev
    let b := d.dmaSet .DMA_ACTIVE p c
    let ch := d.dmaCh p c
    let t := r / 16
    let q := d.qp r
    let tail := d.fld STORAGE_QP_STATUS.SQ_TAIL [r]
    let size := 2 ^ d.fld STORAGE_QP_SQ.LOG2SIZE [r]
    let due := d.now + max 1 (d.fld STORAGE_TGT_CTL.CMD_TO [t]) * 1000000
    (d.dmaReady p c = true → leAt b 0 1 = 2 → ch.cid = none → d.stale ch.wid = false → dmaBadCmd b = false → leAt b 32 2 = r →
      d.targetPresent t = true → d.copyRange (leAt b 8 8) 64 = true → leAt b 16 8 = 0 →
      (d.region (leAt b 8 8)).isMemory = true → d.poisoned (leAt b 8 8) 64 = false →
      (d.flag STORAGE_QP_CTL.RUN [r] = false → exec (.nvme p c ext) s = .next (s.did (d.dmaEnd p c 12 0))) ∧
      (∀ entry, d.flag STORAGE_QP_CTL.RUN [r] = true → d.qpInflight r + 1 < size →
        d.engRead s.mem (tagDma p c) (leAt b 8 8) 64 ext = (entry, d) →
        (List.range size).find? (fun i => (tfind q.cmds i).isNone) = some cid → exec (.nvme p c ext) s = .next (s.did
          (let x := (d.stBytes (d.fld STORAGE_QP_SQ.BASE [r] * 4096 + 64 * tail) (putBytes entry 2 (leBytes 2 cid))).setFld
             STORAGE_QP_STATUS.SQ_TAIL ((tail + 1) % size) [r]
           let x := (x.qpDoorbell r ((tail + 1) % size) false).setQp r { q with cmds := tput q.cmds cid
                                                                                   { plot := p, ch := c, due := due
                                                                                     op := x.nvmeOp t entry } }
           (x.setDma p c { ch with cid := some cid }).qpSettle r)))) ∧
    (let head := d.fld STORAGE_QP_STATUS.CQ_HEAD [r]
     let n := 2 ^ d.fld STORAGE_QP_CQ.LOG2SIZE [r]
     let at' (i : Nat) := d.ldBytes s.mem (d.fld STORAGE_QP_CQ.BASE [r] * 4096 + 16 * i) 16
     let phase (i : Nat) := b2n (bit (leAt (at' i) 14 2) 0)
     let status := leAt (at' head) 14 2 / 2
     d.flag STORAGE_QP_CTL.STOPPED [r] = false → d.fld STORAGE_QP_CQ.LOG2SIZE [r] ≠ 0 →
       (phase head ≠ d.fld STORAGE_QP_STATUS.PHASE [r] → exec (.cqWake r []) s = .next (s.did d)) ∧
       (phase head = d.fld STORAGE_QP_STATUS.PHASE [r] → head + 1 < n → phase (head + 1) ≠ d.fld STORAGE_QP_STATUS.PHASE [r] →
         let taken (op : NvmeOp) (x : Dev) :=
           let y := x.setFld STORAGE_QP_STATUS.CQ_HEAD (head + 1) [r]
           let glean := { y.glean with quietFrom := tput y.glean.quietFrom t d.now }
           let y := { y with glean := glean }
           let y := match op with
             | .row row => if status = 0 then y.rowDone (y.node, t, row) else y.rowFail (y.node, t, row) true alt
             | .label => if status = 0 then y.labelRead t label else y
             | .other => y
           b2n (bit (leAt (y.ldBytes s.mem (y.fld STORAGE_QP_CQ.BASE [r] * 4096 + 16 * (y.fld STORAGE_QP_STATUS.CQ_HEAD [r])) 16) 14 2) 0) ≠
               y.fld STORAGE_QP_STATUS.PHASE [r] →
             exec (.cqWake r [(alt, label)]) s = .next (s.did (y.qpDoorbell r (y.fld STORAGE_QP_STATUS.CQ_HEAD [r]) true))
         (tfind q.cmds (leAt (at' head) 12 2) = none → taken .other (d.count .STORAGE_LATE)) ∧
         (∀ x, tfind q.cmds (leAt (at' head) 12 2) = some x → x.late = false → x.plot < 4 → x.ch < 64 →
           leAt (d.dmaSet .DMA_ACTIVE x.plot x.ch) 16 8 = 0 →
           taken x.op (((d.setQp r { q with cmds := tdel q.cmds (leAt (at' head) 12 2) }).dmaEnd x.plot x.ch
             (if status = 0 then 0 else 8) status).qpSettle r)))) ∧
    (∀ x, tfind q.cmds cid = some x → x.late = false → x.due ≤ d.now → exec (.nvmeTimeout r cid alt) s = .next (s.did
      (let y := ((d.setQp r { q with cmds := tput q.cmds cid { x with late := true } }).dmaEnd x.plot x.ch 9 0).qpSettle r
       match x.op with
       | .row row => y.rowFail (y.node, t, row) false alt
       | _ => y))) ∧
    (d.flag STORAGE_QP_CTL.RUN [r] = true → value.getLsbD 0 = false → d.qpWaiters r = [] →
      exec (.qpStop master r 8 0 value) s = .next (s.did ((d.regWrite .STORAGE_QP_CTL [r] ⟨master, 8, 0, value⟩).qpSettle r)))

/-- R609, R611, R613, R616 to R618, R620 and R625 to R628, DMA channels and the buffer manager: a channel loads, promotes and runs its set to a
completion; a bus error is tried again or halts it, and RETRY or DROP leaves the halt; a failed channel is fallow. Cells are allocated
last freed first, freed and given by their owner alone, reclaimed by owner, and all freed by a disable. Writes to a plot that the
part lacks are ignored and reads of it are 0 (R4). -/
def Obligations.ChannelsMoveAndCellsAreOwned : Prop :=
  ∀ (s : State) (master p c moved : Nat) (hub : Bool) (ext : List Byte) (value : Word), s.Live → p < s.dev.plots → c < 64 →
    master < 65536 →
    let d := s.dev
    let i := [p, c]
    let ch := d.dmaCh p c
    let b := d.dmaSet .DMA_ACTIVE p c
    let n := leAt b 24 4
    let room := (d.queue (epKey 3 (64 * p + c))).length < 16
    let ready := d.dmaActive p c = true ∧ d.flag DMA_STATUS.HALTED i = false ∧ ch.held = [] ∧ leAt b 0 1 = 1 ∧ dmaBadCmd b = false ∧
      d.stale ch.wid = false
    (d.flag DMA_CTL.GO i = false → value.getLsbD 0 = true → value.getLsbD 1 = false → value.getLsbD 2 = false →
      exec (.dmaGo master p c 8 0 value) s = .next (s.did (
        if master < 0x1000 ∧ (d.strand master).regs.wvoid = true then d.count .TENANT_STALE_DISCARDS
        else ((d.setFld DMA_CTL.GO 1 i).setFld DMA_STATUS.SHEMPTY 0 i).setDma p c
          { ch with shadowWid := if master < 0x1000 then (d.strand master).regs.workid else 0 }))) ∧
    (d.flag DMA_STATUS.HALTED i = true →
      exec (.dmaRetry master p c 8) s = .next (s.did ((d.setFld DMA_STATUS.TRIES 0 i).setFld DMA_STATUS.HALTED 0 i)) ∧
      exec (.dmaDrop master p c 8) s = .next (s.did
        (((d.setFld DMA_STATUS.HALTED 0 i).setFld DMA_STATUS.ACTIVE 0 i).setFld DMA_STATUS.TRIES 0 i))) ∧
    (room →
      (ch.held = [] → d.dmaActive p c = false → d.flag DMA_STATUS.HALTED i = false → d.flag DMA_CTL.GO i = true → d.dmaOff p c = false →
        exec (.dmaPromote p c) s = .next (s.did
          (let x := (List.range 8).foldl (fun x k => x.setReg .DMA_ACTIVE (d.reg .DMA_SHADOW [p, c, k]) [p, c, k]) d
           let x := ((x.setFld DMA_STATUS.ACTIVE 1 i).setFld DMA_STATUS.SHEMPTY 1 i).setFld DMA_STATUS.TRIES 0 i
           (x.setFld DMA_CTL.GO 0 i).setDma p c { ch with wid := ch.shadowWid, since := d.now, barrier := false }))) ∧
      (∀ x t, ch.held = x :: t → d.dmaActive p c = true → exec (.dmaPromote p c) s = .next (s.did
        (let y := d.setDma p c { ch with held := t }
         if d.stale x.workid then y.count .TENANT_STALE_DISCARDS else y.transmit.post (epKey 3 (64 * p + c)) x)))) ∧
    (ready →
      (d.copyRange (leAt b 8 8) n = false → exec (.copy p c ext) s = .next (s.did (d.dmaEnd p c 2 0))) ∧
      (d.copyRange (leAt b 8 8) n = true → d.copyRange (leAt b 16 8) n = true → d.copyBlocked b = none →
        (ch.barrier = true → exec (.copy p c ext) s = .next (s.did ((d.count .DMA_BYTES i n).dmaEnd p c 0 n))) ∧
        (ch.barrier = false → (d.region (leAt b 8 8)).isMemory = true → d.poisoned (leAt b 8 8) n = false →
          exec (.copy p c ext) s = .next (s.did
            (let r := d.engRead s.mem (tagDma p c) (leAt b 8 8) n ext
             let x := r.2.engWrite (tagDma p c) (leAt b 16 8) r.1
             let into := regionOf (leAt b 16 8)
             if bit (leAt b 1 1) 0 ∧ (into = .host ∨ into = .storage) then x.barrierSend p c b
             else (x.count .DMA_BYTES i n).dmaEnd p c 0 n)))) ∧
      (ch.barrier = false → regionOf (leAt b 8 8) = .host →
        let addr := leAt b 8 8 + moved
        ch.since + cplTimeoutNs (d.fn (d.aptFunc addr)).cplTo ≤ d.now → exec (.hostCplTimeout 1 p c moved) s = .next (s.did
          ((d.hostFail FN_HOST_ERR.CPL_TIMEOUT (d.aptFunc addr) (d.aptAddr addr)).dmaEnd p c 6 moved))) ∧
      (hub = true ∨ regionOf (leAt b (if ch.barrier then 16 else 8) 8) = .storage →
        let tries := d.fld DMA_STATUS.TRIES i + 1
        let x := ((d.count .DMA_BUSERR i).setFld DMA_STATUS.TRIES tries i).setDma p c { ch with barrier := false, since := d.now }
        (tries ≤ leAt b 4 1 → exec (.dmaBusError p c moved hub) s = .next (s.did x)) ∧
        (leAt b 4 1 < tries → room → exec (.dmaBusError p c moved hub) s = .next (s.did
          (let x := (x.setFld DMA_STATUS.HALTED 1 i).report { code := 0x0304, kind := 5, unit := p * 256 + 128 + c, master := tagDma p c }
           let v := 1 + 4 * 2 ^ 8 + leAt b 2 2 * 2 ^ 16 + moved % 2 ^ 32 * 2 ^ 32
           (x.count .DMA_DESCS i).transmit.post (epKey 3 (64 * p + c))
             { workid := ch.wid, sender := tagDma p c, data := BitVec.ofNat 512 v }))))) ∧
    (ch.failed = false → ch.cid = none → d.dmaActive p c = false → d.flag DMA_STATUS.SHEMPTY i = true →
      exec (.dmaChannelFail p c) s = .next (s.did
        (((d.setFld DMA_STATUS.FALLOW 1 i).setDma p c { ch with failed := true }).report
          { code := 0x0305, kind := 5, unit := p * 256 + 128 + c }).queueFallow)) ∧
    (let m := d.bufm p
     let off := RegName.off .BUFM_ALLOC [p]
     let given (k : Nat) (m' : Bufm) := s.did ((d.setBufm p { m' with owner := tput m'.owner k (master + 1) }).emit
       (.regRead master off (BUFM_ALLOC.VALID.set (BitVec.ofNat 64 (d.cellAddr p k)) 1)))
     let event (kind cell a : Nat) :=
       let v := BUFM_LAST_EVENT.MASTER.set (BUFM_LAST_EVENT.KIND.set (BUFM_LAST_EVENT.CELL.set 0 cell) kind) master
       s.did (((d.count .BUFM_EVENTS [p]).setReg .BUFM_LAST_EVENT v [p]).report
         { code := 0x0209, kind := 4, unit := p, master := master, addr := a })
     (exec (.bufmAlloc master p 4) s = .next (s.did (d.emit (.regRead master off 0)))) ∧
     (d.bufmEn p = true →
       (∀ k t, m.freed = k :: t → exec (.bufmAlloc master p 8) s = .next (given k { m with freed := t })) ∧
       (m.freed = [] → m.fresh < d.bufmCells p →
         exec (.bufmAlloc master p 8) s = .next (given m.fresh { m with fresh := m.fresh + 1 })) ∧
       (m.freed = [] → d.bufmCells p ≤ m.fresh →
         exec (.bufmAlloc master p 8) s = .next (s.did (d.emit (.regRead master off 0))))) ∧
     (let a := value.toNat % 2 ^ 48
      let owner := value.toNat / 2 ^ 48
      (d.cellAt p a = none → exec (.bufmFree master p 8 value) s = .next (event 3 0x7FFFF a)) ∧
      (0x8000 ≤ owner → exec (.bufmGive master p 8 value) s = .next (event 3 0x7FFFF a)) ∧
      (∀ k, d.cellAt p a = some k →
        (tfind m.owner k = none → exec (.bufmFree master p 8 value) s = .next (event 1 k a)) ∧
        (∀ o, tfind m.owner k = some o → o ≠ master + 1 → exec (.bufmFree master p 8 value) s = .next (event 2 k a)) ∧
        (tfind m.owner k = some (master + 1) →
          exec (.bufmFree master p 8 value) s =
            .next (s.did (d.setBufm p { m with owner := tdel m.owner k, freed := k :: m.freed })) ∧
          (owner < 0x8000 → exec (.bufmGive master p 8 value) s =
            .next (s.did (d.setBufm p { m with owner := tput m.owner k (owner + 1) }))))) ∧
      (let mine := (m.owner.filter fun e => e.2 = value.toNat % 65536 + 1).map Prod.fst
       exec (.bufmReclaim master p 8 value) s = .next (s.did ((d.setBufm p { m with
         owner := m.owner.filter fun e => e.2 ≠ value.toNat % 65536 + 1, freed := mine.reverse ++ m.freed }).count
         .BUFM_RECLAIMED [p] mine.length))) ∧
      (value.getLsbD 63 = false → exec (.bufmDisable master p 8 0 value) s = .next (s.did
        ((d.regWrite .BUFM_CFG [p] ⟨master, 8, 0, value⟩ (!d.bufmEn p)).setBufm p {}))))) ∧
    (∀ result info, d.posted = [] → d.stale ch.wid = false → room → ch.held = [] → d.dmaEnd p c result info =
      ((((d.setFld DMA_STATUS.ACTIVE 0 i).setFld DMA_STATUS.TRIES 0 i).setDma p c { ch with cid := none, barrier := false }).count .DMA_DESCS i).post
        (epKey 3 (64 * p + c)) { workid := ch.wid, sender := tagDma p c,
                                 data := BitVec.ofNat 512 (leAt b 0 1 + result * 2 ^ 8 + leAt b 2 2 * 2 ^ 16 + info % 2 ^ 32 * 2 ^ 32) }) ∧
    (∀ q, d.plots ≤ q → q < 4 →
      (∀ cmd ∈ [Instr.dmaGo master q c 8 0 value, .dmaRetry master q c 8, .dmaDrop master q c 8, .dmaChannelFail q c, .bufmFree master q 8 value,
        .bufmGive master q 8 value, .bufmReclaim master q 8 value, .bufmDisable master q 8 0 value], exec cmd s = .next s) ∧
      exec (.bufmAlloc master q 8) s = .next (s.did (d.emit (.regRead master (RegName.off .BUFM_ALLOC [q]) 0))))

/-- R764 to R771 and R774, the fault collector: a unit's oldest report becomes a record in a ring slot with the next SEQ and opens its source's
window; a report of an open window's source is counted, a class N fault is a notice; a window closes with one REPEAT record of its
count; a held report moves up; acknowledgements never move back nor past SEQ; and a clear empties the retained record. -/
def Obligations.FaultsAreRecorded : Prop :=
  ∀ (s : State) (master unit : Nat) (value : Word), s.Awake →
    let d := s.dev
    let seq := (d.reg .FAULT_RING_SEQ).toNat + 1
    let ack := d.reg .FAULT_RING_ACK
    (∀ r t, tget [] d.flt.queues unit = r :: t →
      let x := { d with flt := { d.flt with queues := tset [] d.flt.queues unit t } }
      (∀ cls slot, faultClass r.code = some cls → cls = 1 ∨ cls = 2 →
        (∀ w ∈ d.flt.windows, w.code = r.code → w.kind = r.kind → w.unit ≠ r.unit) → d.flt.windows.length < 256 →
        d.flag FAULT_CTL.RING_EN = true → chooseSlot ack.toNat d.flt.slots = (slot, false) →
        bit (d.fld FAULT_CTL.NOTIFY) (cls - 1) = false → exec (.faultReport unit) s = .next (s.did
          (let y := (x.setReg .FAULT_RING_SEQ (BitVec.ofNat 64 seq)).stBytes ((d.reg .FAULT_RING_BASE).toNat + 64 * slot)
             (recordBytes seq cls false false r)
           let flt := { x.flt with slots := tput d.flt.slots slot ⟨seq, cls⟩
                                   windows := d.flt.windows ++ [{ code := r.code, kind := r.kind, unit := r.unit
                                                                  due := d.now + 1000000, last := r }] }
           ({ y with flt := flt }).alertUpdate))) ∧
      (∀ cls w, faultClass r.code = some cls → cls = 1 ∨ cls = 2 → d.flt.windows = [w] → w.code = r.code → w.kind = r.kind →
        w.unit = r.unit → exec (.faultReport unit) s = .next (s.did
          (let flt := { x.flt with windows := [{ w with count := w.count + r.count, last := r }] }
           ({ x with flt := flt }).count .FAULT_COALESCED))) ∧
      (faultClass r.code = some 0 → exec (.faultReport unit) s = .next (s.did
        (if (d.queue (epKey 0xC 0)).length < 256 then x.post (epKey 0xC 0) { data := bytesWide (recordBytes 0 0 false false r) }
         else x.count .FAULT_NOTICE_LOST)))) ∧
    (∀ r t, tget [] d.flt.held unit = r :: t → (tget [] d.flt.queues unit).length < 1024 → exec (.faultQueueDrain unit) s =
      .next (s.did { d with flt := { d.flt with queues := tset [] d.flt.queues unit (tget [] d.flt.queues unit ++ [r])
                                                held := tset [] d.flt.held unit t } })) ∧
    (∀ w t, d.flt.windows = w :: t → w.due ≤ d.now →
      let x := { d with flt := { d.flt with windows := t } }
      (w.count = 0 → exec .coalesceWindowClose s = .next (s.did x)) ∧
      (∀ cls slot, w.count ≠ 0 → faultClass w.code = some cls → cls = 1 ∨ cls = 2 → t.length < 256 →
        d.flag FAULT_CTL.RING_EN = true → chooseSlot ack.toNat d.flt.slots = (slot, false) →
        bit (d.fld FAULT_CTL.NOTIFY) (cls - 1) = false → exec .coalesceWindowClose s = .next (s.did
          (let r := { w.last with count := w.count }
           let y := (x.setReg .FAULT_RING_SEQ (BitVec.ofNat 64 seq)).stBytes ((d.reg .FAULT_RING_BASE).toNat + 64 * slot)
             (recordBytes seq cls true false r)
           let flt := { d.flt with slots := tput d.flt.slots slot ⟨seq, cls⟩
                                   windows := t ++ [{ code := r.code, kind := r.kind, unit := r.unit
                                                      due := d.now + 1000000, last := r }] }
           ({ y with flt := flt }).alertUpdate)))) ∧
    (exec (.faultRingAckWrite master 8 0 value) s = .next (s.did
      (if value < ack then d
       else if (d.reg .FAULT_RING_SEQ) < value then
         if d.reg .FAULT_RING_SEQ < ack then d else (d.setReg .FAULT_RING_ACK (d.reg .FAULT_RING_SEQ)).alertUpdate
       else (d.setReg .FAULT_RING_ACK value).alertUpdate))) ∧
    (value.getLsbD 0 = true → exec (.faultFatalClr master 8 value) s = .next (s.did ((List.range 8).foldl
      (fun x i => x.setReg .FAULT_FATAL 0 [i]) { d with flt := { d.flt with retained := false } })))

/-- R761, R772, R774, R775, R777, R780, R781 and R820, reactions: a class F fault, whether a unit detects it, a rail leaves its range, software forces it
or it is injected, is recorded, retained if nothing is, and takes the device to the safe state; a failed pseudo-channel takes a
spare, with RECOVERY of R47 set for the while, and without one is fatal; injection needs TEST_MODE and the fuse. -/
def Obligations.FatalFaultsTakeTheSafeState : Prop :=
  ∀ (s : State) (master unit rail stack pc : Nat) (lines : List Nat) (value : Word) (level : Bool),
    let d := s.dev
    let safe (c : Instr) (code kind unit detail : Nat) := Answers c s fun t =>
      let r : Report := { code := code, kind := kind, unit := unit, detail := detail, time := d.now, injected := d.flt.injecting }
      let seq := (d.reg .FAULT_RING_SEQ).toNat + 1
      t.dev.flt.safe = true ∧ t.dev.flt.retained = true ∧ t.dev.posted = [] ∧ t.dev.host.reads = [] ∧ t.dev.ring.cpls = [] ∧
      t.dev.ring.drills = [] ∧ t.dev.fold = [] ∧ t.dev.trd.flows = [] ∧ t.dev.net.parse = [] ∧
      (∀ k, (t.dev.strand k).run = false ∧ (t.dev.strand k).wait = none) ∧ t.dev.reg .FAULT_RING_SEQ = BitVec.ofNat 64 seq ∧
      ∀ i, i < 8 → t.dev.reg .FAULT_FATAL [i] = if d.flt.retained then d.reg .FAULT_FATAL [i]
        else BitVec.ofNat 64 (leAt (recordBytes seq 3 false false r) (8 * i) 8)
    (s.Awake → d.flt.safe = false →
      (∀ e ∈ [(0x0F01, 12, 17), (0x0F03, 12, 19), (0x0F06, 0, 0), (0x0F07, 12, 21)],
        safe (.fatalDetect e.1 unit) e.1 e.2.1 e.2.2 0) ∧ safe (.fatalDetect 0x0F04 unit) 0x0F04 11 (unit % 256) 0 ∧
      safe (.fatalDetect 0x0F05 unit) 0x0F05 4 (unit % 4) 0 ∧
      (rail = 4 ∨ rail = 5 → safe (.railOutOfRange rail) 0x0F07 12 21 0) ∧
      (value.getLsbD 0 = true → safe (.faultForce master 8 value) 0x0F08 0 0 (value.toNat / 2 ^ 16 % 2 ^ 32))) ∧
    (s.Awake → (rail ≠ 4 → rail ≠ 5 → exec (.railOutOfRange rail) s = .next (s.did d)) ∧
      (value.getLsbD 0 = false → exec (.faultForce master 8 value) s = .next (s.did d))) ∧
    (s.Live → stack < 4 → pc < 64 → tfind d.flt.pcFailed (stack * 64 + pc) = none →
      let key := stack * 64 + pc
      let used := tget 0 d.flt.sparesUsed stack
      (used < 2 → exec (.hbmPcFail stack pc lines) s = .next (s.did (d.recovering fun x =>
        let bad := lines.filter fun l => l < 0x100000000 && l / 64 % 4 = stack && !d.flt.poisoned.contains l
        let flt := { d.flt with pcFailed := tput d.flt.pcFailed key true, sparesUsed := tset 0 d.flt.sparesUsed stack (used + 1)
                                poisoned := d.flt.poisoned ++ bad }
        ({ x with flt := flt }).report { code := 0x010A, kind := 11, unit := key }))) ∧
      (2 ≤ used → safe (.hbmPcFail stack pc lines) 0x0F04 11 key 0)) ∧
    (s.Awake →
      let e := d.regWrite .FAULT_INJ_CTL [] ⟨master, 8, 0, value⟩
      (d.flt.testMode = false ∨ d.boot.factory = false → exec (.faultInject master 8 0 value) s = .next (s.did d)) ∧
      (d.flt.testMode = true → d.boot.factory = true → e.flag FAULT_INJ_CTL.GO = true →
        (e.fld FAULT_INJ_CTL.CODE = 0x0103 → exec (.faultInject master 8 0 value) s = .next (s.did
          (let x := e.setFld FAULT_INJ_CTL.GO 0
           let x := ({ x with flt := { x.flt with injecting := true } }).report
             { code := 0x0103, kind := e.fld FAULT_INJ_CTL.UNIT_KIND, unit := d.fld FAULT_INJ_UNIT.UNIT
               addr := d.fld FAULT_INJ_ADDR.ADDR }
           { x with flt := { x.flt with injecting := false } }))) ∧
        (e.fld FAULT_INJ_CTL.CODE = 0x0F01 → d.flt.safe = false → Answers (.faultInject master 8 0 value) s fun t =>
          t.dev.flt.safe = true ∧ t.dev.flt.retained = true ∧ t.dev.flt.injecting = false ∧
          t.dev.fld FAULT_INJ_CTL.GO = 0))) ∧
    (s.Idle → exec (.testModeChange level) s = .next (s.did { d with flt := { d.flt with testMode := level } }))

/-- R784 to R786, R788 to R791 and R802, the sources of an image: the mailbox opens and its wait starts; a push, by the host's command or a frame of
the loader, stores its bytes and owns the wait's end; a release verifies what was pushed and runs it or turns to flash; the end of the wait
or a stall turns to the next slot, and with none left to a push. A flash slot that verifies runs, a pending one with
its next TRY mark; frames are answered with their result. -/
def Obligations.ImagesComeFromTheirSources : Prop :=
  ∀ (s : State) (off len : Nat) (payload : List Byte), s.Live → s.dev.released = false →
    let d := s.dev
    let quiet (d : Dev) := d.setBoot { d.boot with waiting := false, owner := none, pushed := 0 }
    let next (d : Dev) := (quiet d).setPhase (if d.boot.slots = [] then 5 else 4)
    let put (d : Dev) (uart : Bool) (at' : Nat) (b : List Byte) :=
      ((d.stBytes (imageBase + at') b).setBoot { d.boot with waiting := false, owner := some uart
                                                             pushed := max d.boot.pushed (at' + b.length), lastCmd := d.now }).setPhase 2
    let ran (d : Dev) (uart : Bool) : Nat × Dev :=
      let d := d.setBoot { d.boot with lastCmd := d.now }
      let code := d.imageVerify (d.hbmImage s.mem) (fun k => k = d.boot.pushed)
      if code = brOk then (brOk, d.release s.mem (if uart then 2 else 1) 0 false) else (code, next d)
    let e (op : Nat) := d.regWrite .BOOT_CMD [] ⟨0x10000, 8, 0, BitVec.ofNat 64 (op + (if op = 1 then off * 2 ^ 8 + len * 2 ^ 34 else 0))⟩
    let answer (d : Dev) (typ code : Nat) (more : List Byte) :=
      d.emit (.zencen (zencenFrame typ (leBytes 1 code ++ leBytes 8 d.bootStatusView.toNat ++ more)))
    (d.phase = 0 → d.pw.hbm = true → d.fld POWER_STATUS.LAST_RESET = 3 ∨ d.pw.start + 60000000 ≤ d.now →
      exec .bootMailboxOpen s = .next (s.did (let x := d.slotSelect.setPhase 1
        x.setBoot { x.boot with waiting := true, waitFrom := x.now, owner := none, pushed := 0 }))) ∧
    (d.barUp 0 = true → d.boot.waiting = true → d.boot.owner = none →
      (0 < len → len ≤ 0x400000 → off % 4096 = 0 → off + len ≤ 0x4000000 → exec (.bootPush off len) s = .next (s.did
        ((put (e 1) false off (d.ldBytes s.mem 0x30000400000 len)).bootCode brOk))) ∧
      exec .bootFlash s = .next (s.did ((next (e 3)).bootCode brOk))) ∧
    (d.barUp 0 = true → d.boot.owner = some false → exec .bootRelease s = .next (s.did
      (let r := ran (e 2) false
       r.2.bootCode r.1))) ∧
    (d.boot.waiting = true → d.boot.waitFrom + 2000000000 ≤ d.now → d.boot.slots = [] → ∀ a b,
      exec (.pushWaitExpire a b) s = .next (s.did (next d))) ∧
    (d.boot.owner ≠ none → d.boot.lastCmd + 2000000000 ≤ d.now → exec .pushStall s = .next (s.did (next (d.bootCode brStalled)))) ∧
    (∀ k t readBad tryBad, d.phase = 4 → d.boot.waiting = false → d.boot.slots = k :: t →
      let x := d.setBoot { d.boot with slots := t }
      let code := if readBad then brFlashError else d.imageVerify (d.slotImage k) (fun n => n ≤ 0x4000000)
      let pending := d.mark k 1 && !d.mark k 5
      exec (.flashSlotLoaded readBad tryBad) s = .next (s.did (
        if code ≠ brOk then next (x.slotCode k code)
        else if pending ∧ tryBad then next ((x.slotCode k code).slotCode k brFlashError)
        else
          let y := x.slotCode k code
          let y := if pending then y.setMark k (if d.mark k 2 then if d.mark k 3 then 4 else 3 else 2) else y
          (y.copySlot k).release s.mem (3 + k) (k + 1) pending))) ∧
    (d.boot.owner ≠ some true →
      exec (.zencenHello [] true) s = .next (s.did (answer d 0x81 brOk (leBytes 8 d.identWord.toNat ++
        leBytes 8 Config.deviceSerial.toNat ++ sha256 enrolKeys.1))) ∧
      exec (.zencenStatus [] true) s = .next (s.did (answer d 0x85 brOk [])) ∧
      (d.boot.waiting = true → d.boot.owner = none →
        (4 < payload.length → payload.length ≤ 4096 → leAt payload 0 4 % 4 = 0 →
          leAt payload 0 4 + (payload.length - 4) ≤ 0x4000000 → exec (.zencenPush payload true) s = .next (s.did
            (answer ((put d true (leAt payload 0 4) (payload.drop 4)).bootCode brOk) 0x82 brOk []))) ∧
        exec (.zencenFlash [] true) s = .next (s.did (answer ((next d).bootCode brOk) 0x84 brOk [])))) ∧
    (d.boot.owner = some true → exec (.zencenRelease [] true) s = .next (s.did
      (let r := ran d true
       answer (r.2.bootCode r.1) 0x83 r.1 []))) ∧
    (let bad := s.did (answer d 0xFF brBadCmd [])
     exec (.zencenHello payload false) s = .next bad ∧ exec (.zencenPush payload false) s = .next bad ∧
       exec (.zencenRelease payload false) s = .next bad ∧ exec (.zencenFlash payload false) s = .next bad ∧
       exec (.zencenStatus payload false) s = .next bad)

/-- R793, R800, R803 to R805 and R807 to R809, flash and fuse operations: each programs, erases or copies what its command word names and its RESULT
says how it ended; the running slot, a trial and low sectors are refused, and a program that does not verify ends FLASH_ERROR. -/
def Obligations.FlashAndFusesProgram : Prop :=
  ∀ (s : State) (master slot off len : Nat) (bad : Bool), s.Live → slot < 2 → off < 2 ^ 28 → len < 2 ^ 23 →
    let d := s.dev
    let e (op slot raise off len : Nat) := d.regWrite .BOOT_FLASH_CMD [] ⟨master, 8, 0, flashWord op slot raise off len⟩
    let addr := d.fld BOOT_FLASH_ADDR.ADDR
    let ends (x : Dev) (code : Nat) := s.did (x.setFld BOOT_FLASH_CMD.RESULT code)
    let wrote (x : Dev) (a : Nat) (b : List Byte) :=
      let y := x.flashProgram a b
      ends y (if bad ∨ y.flashRead a b.length ≠ b then brFlashError else brOk)
    let trial := d.flag BOOT_STATUS.PENDING
    let running := decide (d.fld BOOT_STATUS.RUN_SLOT = slot + 1)
    let inMem := len ≤ 0x400000 ∧ d.inMemory addr len = true
    (running = true ∨ trial = true → exec (.eraseSlot master slot bad) s = .next (ends (e 1 slot 0 0 0) brRefused) ∧
      exec (.flashProgram master slot off len bad) s = .next (ends (e 2 slot 0 off len) brRefused)) ∧
    (running = false → trial = false →
      exec (.eraseSlot master slot false) s = .next (ends
        (((e 1 slot 0 0 0).flashErase (slotBase slot) 0x4000000).flashErase (slotState slot) 0x10000) brOk) ∧
      (d.mark slot 0 = false → inMem → off + len ≤ 0x4000000 → exec (.flashProgram master slot off len bad) s =
        .next (wrote ((e 2 slot 0 off len).noteAbsent 0xFFFF addr len) (slotBase slot + off) (d.ldBytes s.mem addr len)))) ∧
    (exec (.flashVerify master slot true) s = .next (ends (e 3 slot 0 0 0) brFlashError) ∧
      ((d.slotImage slot 0 4).all (· = 0xFF) = true → exec (.flashVerify master slot false) s =
        .next (ends (e 3 slot 0 0 0) brNoImage)) ∧
      ((d.slotImage slot 0 4).all (· = 0xFF) = false → bad = false → exec (.flashVerify master slot bad) s = .next (
        let code := d.imageVerify (d.slotImage slot) (fun n => n ≤ 0x4000000)
        if code = brOk then wrote (e 3 slot 0 0 0) (slotState slot) [0] else ends (e 3 slot 0 0 0) code))) ∧
    (d.mark slot 0 = true → d.mark slot 1 = false → running = false → exec (.activate master slot bad) s = .next (
      if d.candidate (1 - slot) = true ∧ d.slotSequence slot ≤ d.slotSequence (1 - slot) then ends (e 4 slot 0 0 0) brLowSequence
      else wrote (e 4 slot 0 0 0) (slotState slot + 1) [0])) ∧
    (d.mark slot 0 = false ∨ d.mark slot 1 = true ∨ running = true →
      exec (.activate master slot bad) s = .next (ends (e 4 slot 0 0 0) brRefused)) ∧
    (trial = false → exec (.confirm master 0 false false) s =
        .next (ends ((e 5 0 0 0 0).setFld BOOT_STATUS.PENDING 0) brOk) ∧
      (∀ r, d.boot.run = some r → r.fuseOk = true → d.boot.counter < r.rollback → r.rollback ≤ 256 →
        exec (.confirm master 1 false false) s = .next (ends
          (let x := (e 5 0 1 0 0).setFld BOOT_STATUS.PENDING 0
           x.setBoot { x.boot with blown := x.boot.blown ||| 2 ^ (r.rollback - 1) }) brOk))) ∧
    (trial = true → d.fld BOOT_STATUS.RUN_SLOT = slot + 1 → d.flashRead (slotState slot + 5) 1 = [0xFF] →
      exec (.confirm master 0 false false) s = .next (ends
        (((e 5 0 0 0 0).flashProgram (slotState slot + 5) [0]).setFld BOOT_STATUS.PENDING 0) brOk)) ∧
    (inMem → off + len ≤ 2 ^ 28 → exec (.flashRead master off len false) s =
        .next (ends ((e 6 0 0 off len).wrMem 0xFFFF addr (d.flashRead off len)) brOk) ∧
      (0x8020000 ≤ off → exec (.programRaw master off len bad) s =
        .next (wrote ((e 8 0 0 off len).noteAbsent 0xFFFF addr len) off (d.ldBytes s.mem addr len)))) ∧
    (0x8020000 ≤ off → exec (.eraseRaw master off false) s =
      .next (ends ((e 7 0 0 off 0).flashErase (off / 0x10000 * 0x10000) 0x10000) brOk)) ∧
    (off < 0x8020000 → exec (.eraseRaw master off bad) s = .next (ends (e 7 0 0 off 0) brRefused) ∧
      exec (.programRaw master off len bad) s = .next (ends (e 8 0 0 off len) brRefused)) ∧
    (∀ k r, k < 8 → d.boot.run = some r →
      let f (op : Nat) := d.regWrite .BOOT_FUSE_CMD [] ⟨master, 8, 0, BitVec.ofNat 64 (op + k * 4)⟩
      let ends (x : Dev) (code : Nat) := s.did (x.setFld BOOT_FUSE_CMD.RESULT code)
      let good := (List.range 8).filter fun j => (tfind d.boot.keys j).isSome && !bit d.boot.revoked j
      (r.fuseOk = false → exec (.programKey master k bad) s = .next (ends (f 1) brRefused) ∧
        exec (.revoke master k bad) s = .next (ends (f 2) brRefused)) ∧
      (r.fuseOk = true →
        (tfind d.boot.keys k = none → d.inMemory addr 32 = true → exec (.programKey master k false) s = .next (ends
          (((f 1).noteAbsent 0xFFFF addr 32).setBoot { d.boot with keys := tput d.boot.keys k (d.ldBytes s.mem addr 32) }) brOk)) ∧
        (r.key ≠ k → good ≠ [k] → exec (.revoke master k false) s = .next (ends
          ((f 2).setBoot { d.boot with revoked := d.boot.revoked ||| 2 ^ k }) brOk)) ∧
        (r.key = k ∨ good = [k] → exec (.revoke master k bad) s = .next (ends (f 2) brRefused))))

/-- R829 to R832, R838 to R840, gates and pins: a request makes a block that is ON drain, stops a furrow's strands and takes a strip's
ports down; a fold, cipher or DMA block is cut off after 80 µs, and any block is FALLOW once idle or, FORCED, after 100 µs; a release
wakes a block that has not failed, with its memory undefined, and it is ON again, a strip's ports in training. A change of a pin's FUNC parks it, a
reserved FUNC changes nothing of the field, and the end of parking gives the pin its function. -/
def Obligations.BlocksGateAndPinsPark : Prop :=
  ∀ (s : State) (master g i : Nat) (value : Word), s.Live →
    let d := s.dev
    let e := d.regWrite .POWER_GATE [g] ⟨master, 8, 0, value⟩
    let v := tget ({} : GateSt) d.pw.gates g
    let strands := furrowStrands (g - 0x20)
    let furrow := 0x20 ≤ g ∧ g < 0x30
    (d.hasGate g = true →
      (d.gateState g = 0 → value.getLsbD 0 = true →
        let x := e.setGate g 1 { since := d.now }
        (g < 32 → g % 8 ≠ 5 → exec (.powerGateRequest master g 8 0 value) s = .next (s.did x.queueFallow)) ∧
        (furrow → exec (.powerGateRequest master g 8 0 value) s = .next (s.did
          (strands.foldl (fun x k => if (x.strand k).run then x.modStrand k Strand.halt else x) x).queueFallow)) ∧
        (0x30 ≤ g → exec (.powerGateRequest master g 8 0 value) s = .next (s.did (x.stripDown s.mem (g - 0x30)).queueFallow))) ∧
      (d.gateState g = 2 → value.getLsbD 0 = false →
        (d.flag POWER_GATE.FAILED [g] = true → exec (.powerGateRelease master g 8 0 value) s = .next (s.did e)) ∧
        (d.flag POWER_GATE.FAILED [g] = false → furrow → exec (.powerGateRelease master g 8 0 value) s = .next (s.did
          (((strands.foldl Dev.clearStrand e).undefine (0x10000000000 + (g - 0x20) * 0x400000) 0x400000).setGate g 3
            { since := d.now })))) ∧
      (d.gateState g = 1 →
        (v.cut = false → v.since + 80000 ≤ d.now → exec (.gateDrainCutoff g) s = .next (s.did
          (((gateBlocks g).map Prod.snd |>.foldl (fun x b => x.blockCutoff (g / 8) b) (d.setGate g 1 { v with cut := true }))))) ∧
        (furrow → let ends (d : Dev) :=
            let x := ((strands.foldl Dev.clearStrand d).setGate g 2 {}).queueFallow
            if x.flag POWER_GATE.REQ [g] then x else x.gateWake g
          (d.gateBusy g = false → exec (.gateDrainEnd g) s = .next (s.did (ends d))) ∧
          (d.gateBusy g = true → v.since + 100000 ≤ d.now →
            exec (.gateDrainEnd g) s = .next (s.did (ends (d.setFld POWER_GATE.FORCED 1 [g])))))) ∧
      (d.gateState g = 3 → d.flag POWER_GATE.REQ [g] = false → exec (.gateWakeDone g) s = .next (s.did
        (if 0x30 ≤ g then (d.setGate g 0 {}).stripTrains (g - 0x30) else d.setGate g 0 {})))) ∧
    (i < 32 →
      let x := d.regWrite .POWER_GPIO_CFG [i] ⟨master, 8, 0, value⟩
      let p := tget ({} : GpioSt) d.pw.gpio i
      let func := value.toNat % 16
      (d.flag POWER_GPIO_CFG.PARKED [i] = true → exec (.gpioConfig master i 8 0 value) s = .next (s.did x)) ∧
      (d.flag POWER_GPIO_CFG.PARKED [i] = false →
        (func = d.fld POWER_GPIO_CFG.FUNC [i] ∨ 5 < func → exec (.gpioConfig master i 8 0 value) s = .next (s.did (x.gpioUpdate i)) ∧
          (x.gpioUpdate i).fld POWER_GPIO_CFG.FUNC [i] = d.fld POWER_GPIO_CFG.FUNC [i]) ∧
        (func ≠ d.fld POWER_GPIO_CFG.FUNC [i] → func ≤ 5 → exec (.gpioConfig master i 8 0 value) s = .next (s.did
          (let up := p.drives.getD (x.fld POWER_GPIO_CFG.PULL [i] = 2)
           let y := x.setFld POWER_GPIO_CFG.PARKED 1 [i]
           let y := { y with pw := { d.pw with gpio := tset {} d.pw.gpio i { drives := none, pullUp := up } } }
           if p.drives.isSome then y.emit (.gpio i none) else y)))) ∧
      (d.flag POWER_GPIO_CFG.PARKED [i] = true → exec (.gpioParkEnd i) s = .next (s.did
        (let y := d.setFld POWER_GPIO_CFG.PARKED 0 [i]
         ({ y with pw := { d.pw with gpio := tmod {} d.pw.gpio i fun g => { g with pullUp := false } } }).gpioUpdate i))))

/-- R811, R812, R822, R823, R825, R826, R828 and R837, resets of the device, deep sleep and wake: POWER_RESET and the SMBus commands restart or cold boot it,
deep sleep begins and ends by enabled events, which WAKE_CAUSE names, and a wrong KEY, or no enabled event, is a fault. A device
without a retained image wakes to its boot mailbox. The SMBus target answers reads, and a wrong byte with a NACK. -/
def Obligations.DeviceRestartsSleepsAndWakes : Prop :=
  ∀ (s : State) (master key mask : Nat) (byte : Byte),
    let d := s.dev
    let causes := Nat.land (d.wakeEvents [] mask) (d.fld POWER_SLEEP_CTL.WAKE_EN)
    let nack := s.did (d.emit (.smb false []))
    let answered := d.emit (.smb true [])
    let warmed (x : Dev) (t : State) := t = s.did x.warmState ∧ t.dev.fld POWER_STATUS.LAST_RESET = 3 ∧ t.dev.flt.safe = false ∧
      t.dev.pw.gates = [] ∧ t.dev.ring = {} ∧ t.dev.stg = {} ∧ t.dev.fold = [] ∧ t.dev.vault.root = d.vault.root
    let cold (x : Dev) (t : State) := t = s.did (x.coldState true false 2) ∧ t.dev.fld POWER_STATUS.LAST_RESET = 2 ∧
      t.dev.pw = { on := true } ∧ t.dev.ring = {} ∧ t.dev.stg = {} ∧ t.dev.fold = [] ∧ t.dev.vault.root = none
    let woken (c : Nat) (x : Dev) (t : State) := t = s.did (x.wakeState c).harrowPassEnd.mailboxOpen ∧
      t.dev.fld POWER_STATUS.LAST_RESET = 4 ∧ t.dev.fld POWER_STATUS.WAKE_CAUSE = c ∧ t.dev.pw.asleep = false ∧
      t.dev.fld BOOT_STATUS.PHASE = 1
    (s.Awake →
      (key % 256 = 0xA5 → Answers (.warmRestart master 8 key) s (warmed d) ∧ Answers (.coldBoot master 8 key) s (cold d)) ∧
      (key % 256 ≠ 0xA5 →
        let t := s.did (d.blame 0x0204 master (RegName.POWER_RESET.addr []) (RegName.POWER_RESET.off []))
        exec (.warmRestart master 8 key) s = .next t ∧ exec (.coldBoot master 8 key) s = .next t) ∧
      (key % 256 = 0xA5 → d.fld POWER_SLEEP_CTL.WAKE_EN ≠ 0 → Answers (.deepSleep master 8 1 key) s fun t =>
        t = s.did (d.deepSleep s.mem) ∧ t.dev.pw.asleep = true ∧ t.dev.posted = [] ∧ t.dev.fld DEVICE_PACE_STATUS.VREQ = 4) ∧
      (key % 256 ≠ 0xA5 ∨ d.fld POWER_SLEEP_CTL.WAKE_EN = 0 → exec (.deepSleep master 8 1 key) s = .next (s.did
        (d.blame 0x0204 master (RegName.POWER_SLEEP.addr []) (RegName.POWER_SLEEP.off []))))) ∧
    (s.On → d.pw.asleep = true → d.boot.run = none →
      (causes ≠ 0 → Answers (.wake [] mask) s (woken causes d)) ∧ (causes = 0 → exec (.wake [] mask) s = .next (s.did d)) ∧
      ((d.fld POWER_SLEEP_CTL.WAKE_EN).testBit 4 = true → (d.reg .POWER_WAKE_TIME).toNat ≤ d.now →
        Answers .wakeTimer s (woken 16 d)) ∧
      ((d.fld POWER_SLEEP_CTL.WAKE_EN).testBit 1 = true → Answers (.smbWake 0xA5) s (woken 2 answered))) ∧
    (s.On →
      exec .smbIdent s = .next (s.did (d.emit (.smb true (leBytes 8 d.identWord.toNat ++
        leBytes 8 Config.deviceSerial.toNat)))) ∧
      exec .smbHealth s = .next (s.did (d.emit (.smb true (leBytes 8 (d.reg .POWER_STATUS).toNat ++
        leBytes 8 (d.faultStatusView d.boot.factory).toNat ++ leBytes 8 d.bootStatusView.toNat ++
        leBytes 8 (d.reg .DEVICE_PACE_STATUS).toNat)))) ∧
      (s.Awake → Answers (.smbWarm 0xA5) s (warmed answered)) ∧ Answers (.smbCold 0xA5) s (cold answered) ∧
      (byte ≠ 0xA5 → exec (.smbWarm byte) s = .next nack ∧ exec (.smbCold byte) s = .next nack ∧
        exec (.smbWake byte) s = .next nack))

/-- R445, R447, R448, R451 to R453, R457, R458, R461, R463, R467 and R503, a fold unit that has not failed: a command that fails its operand or SCX
test ends with its result (in the order of assumption 15); INIT, FOLD and CLOSE work on the accumulator, HASH and VERIFY digest, the tally commands take the lock or wait
for it, RECON writes what verifies; a waiting command goes on, and a unit that fails loses its grains. -/
def Obligations.FoldUnitsAnswerTheirCommands : Prop :=
  ∀ (s : State) (p u : Nat), s.Live → p < 4 → u < 4 → s.dev.flag FOLD_STATUS.FAILED [p, u] = false →
    let d := s.dev
    let m := s.mem
    let ep := epKey 0x4 (4 * p + u)
    let tag := tagFold p u
    let zeros := List.replicate 32 (0 : Byte)
    (∀ x rest data, (d.foldU p u).job = none → d.queue ep = x :: rest → d.stale x.workid = false →
      let e0 := d.pop ep
      let b := x.bytes
      let e := e0.noteReads tag (foldReads b)
      let a := leAt b 8 8
      let bytes := e.ldBytes m a 256
      let takes (op : Nat) : Prop := leAt b 0 1 = op ∧ e0.foldTest b = 0
      let reads (src n : Nat) : Prop := leAt b 1 1 = 0 ∧ e.poisoned src n = false ∧ e.engRead m tag src n [] = (data, e)
      let answers (c : Instr) (result r1 : Nat) (digest : List Byte) (y : Dev) : Prop :=
        exec c s = .next (s.did (y.foldAnswer p u x result r1 0 digest))
      let fails (c : Instr) (result : Nat) (r1 : Option Nat) (y : Dev) : Prop :=
        exec c s = .next (s.did (y.foldFail p u x result r1))
      (∀ c ∈ [(Instr.init p u, 1), (.fold p u, 2), (.close p u, 3), (.hash p u, 4), (.tallyAppend p u, 5), (.tallyFinal p u, 6),
          (.verify p u, 7), (.recon p u, 8)], leAt b 0 1 = c.2 → e0.foldTest b ≠ 0 → fails c.1 (e0.foldTest b) none e0) ∧
      (∀ c ∈ [(Instr.init p u, 1), (.fold p u, 2), (.close p u, 3)], takes c.2 → e.scxTest p u c.2 a bytes ≠ 0 →
        fails c.1 (e.scxTest p u c.2 a bytes) (some (leAt bytes 8 8)) e) ∧
      (takes 1 → e.scxTest p u 1 a bytes = 0 → e.acc? p u a = none → answers (.init p u) 0 0 zeros
        ((e.foldClaim p u a bytes 0 (List.replicate (leAt bytes 1 1 + leAt bytes 2 1) zeroGrain)).scxDone p u a 0)) ∧
      (∀ v, leAt bytes 4 1 = 1 → e.acc? p u a = some v →
        (takes 2 → e.scxTest p u 2 a bytes = 0 →
          let pos := leAt b 24 1
          (v.k ≤ pos → fails (.fold p u) 8 (some v.done) e) ∧
          (pos < v.k → bit v.done pos = true → fails (.fold p u) 2 (some v.done) e) ∧
          (pos < v.k → bit v.done pos = false → reads (leAt b 16 8) 65536 →
            let done := v.done ||| 2 ^ pos
            answers (.fold p u) 0 done (hashH v.hash data)
              ((((e.putAcc p u { v with done := done, grains := foldIn v.shape pos data v.grains }).scxMark p u a 1
                (foldName p u)).scxDone p u a done).count .FOLD_BYTES [p, u] 65536))) ∧
        (takes 3 → e.scxTest p u 3 a bytes = 0 → e.inMemory (leAt b 16 8) (32 * (v.m + v.g)) = true →
          answers (.close p u) 0 v.done zeros
            (let y := (v.pbuf.zip v.grains).foldl (fun y g => y.engWrite tag g.1 g.2) e
             let y := y.engWrite tag (leAt b 16 8) (v.grains.flatMap (hashH v.hash))
             (((y.dropAcc p u a).scxMark p u a 3 0).count .FOLD_BYTES [p, u] (65536 * v.grains.length)).scxDone p u a v.done))) ∧
      (takes 4 → reads a (leAt b 16 4) → answers (.hash p u) 0 (leAt b 16 4) (hashH (leAt b 20 1) data)
        (e.count .FOLD_BYTES [p, u] data.length)) ∧
      (takes 7 → reads a 65536 →
        let dig := hashH (leAt b 48 1) data
        let n := leAt b 40 8
        let i := leAt b 32 4
        let len := pathLen 40 i n
        let ok : Prop := if n = 0 then dig = e.ldBytes m (leAt b 16 8) 32 else
          verifyPath (leAt b 48 1) dig i n (digestList len (e.ldBytes m (leAt b 16 8) (32 * len)))
            (e.ldBytes m (leAt b 24 8) 32) = true
        let y := e.count .FOLD_BYTES [p, u] 65536
        (ok → answers (.verify p u) 0 1 dig (y.releaseEntry (ctlPut m) (leAt b 52 4))) ∧
        (¬ ok → answers (.verify p u) 1 0 dig ((y.count .FOLD_MISMATCH [p, u]).discardEntry (leAt b 52 4) true))) ∧
      (let t := e.ldBytes m a 1152
       let count := leAt t 0 8
       let free := e.tsbFree p u (e.ld m (a + 9)).toNat
       let freed (y : Dev) := y.engWrite tag (a + 9) [0]
       let num := leAt b 28 4
       (∀ c ∈ [(Instr.tallyAppend p u, 5), (.tallyFinal p u, 6)], takes c.2 → free = false → exec c.1 s = .next (s.did
         (e.setFoldU p u { e.foldU p u with job := some { msg := x, lock := true } }))) ∧
       (free = true → leAt t 8 1 < 2 → count ≤ 2 ^ 32 →
         (takes 5 →
           (leAt b 24 4 ≠ count ∨ 2 ^ 32 < count + num → fails (.tallyAppend p u) 5 (some count) (freed e)) ∧
           (leAt b 24 4 = count → count + num ≤ 2 ^ 32 → answers (.tallyAppend p u) 0 (count + num) zeros
             (let t' := tsbAppend t (digestList num (e.ldBytes m (leAt b 16 8) (32 * num)))
              freed ((e.engWrite tag (a + 64) (slice t' 64 1056)).engWrite tag a (slice t' 0 8))))) ∧
         (takes 6 → (count = 0 → fails (.tallyFinal p u) 6 (some 0) (freed e)) ∧
           (count ≠ 0 → answers (.tallyFinal p u) 0 count (tsbTally t) (freed e))))) ∧
      (takes 8 →
        let r := rcxOf (e.ldBytes m a 896)
        let ts := r.targets
        let grains := (List.range 84).filter fun q => bit r.avail q || bit r.target q
        let checks := (ts.mapIdx fun t q => (r.check t, r.checkLen q)) ++ (if ts.any (· < r.shape.k) then [(r.tally, 32)] else [])
        let rebuilt := reconstruct r.shape 65536 r.kpresent ts
          fun q => if bit r.avail q then some (e.ldBytes m (r.addr q) 65536) else none
        (r.bad = true → fails (.recon p u) 8 none e) ∧
        (r.bad = false → (∀ q ∈ grains, e.blockOk (r.addr q) 65536 = true) → (∀ c ∈ checks, e.blockOk c.1 c.2 = true) →
          (∀ q ∈ r.used, e.poisoned (r.addr q) 65536 = false) → (∀ c ∈ checks, e.poisoned c.1 c.2 = false) →
          let e := e.noteReads tag ((r.used.map fun q => (r.addr q, 65536)) ++ checks)
          (rebuilt = none → fails (.recon p u) 7 none e) ∧
          (∀ all, rebuilt = some all → exec (.recon p u) s = .next (s.did
            (let good := (ts.mapIdx fun t q => if e.reconVerifies m r t q (all.getD q []) then [q] else []).flatten
             let mask := (good.map (2 ^ ·)).sum
             let y := good.foldl (fun y q => y.engWrite tag (r.addr q) (all.getD q [])) e
             let y := ((y.count .FOLD_RECON [p, u] good.length).count .FOLD_MISMATCH [p, u] (ts.length - good.length)).count
               .FOLD_BYTES [p, u] (65536 * ts.length)
             y.foldAnswer p u x (if good.length = ts.length then 0 else 1) (mask % 2 ^ 64) (mask / 2 ^ 64) zeros)))))) ∧
    (∀ j, (d.foldU p u).job = some j → d.stale j.msg.workid = false →
      let e := d.setFoldU p u { d.foldU p u with job := none }
      let src := leAt j.msg.bytes (if leAt j.msg.bytes 0 1 = 2 then 16 else 8) 8
      let at' := src + j.read.length
      (j.lock = true → e.tsbFree p u (e.ld m (leAt j.msg.bytes 8 8 + 9)).toNat = true →
        exec (.tsbLockFree p u) s = .next (s.did (e.tallyRun m p u j.msg))) ∧
      (∀ unit, j.lock = false → j.read.length = 61440 → e.chainUnit p src at' = .ready → e.poisoned at' 4096 = false →
        e.engRead m tag at' 4096 [] = (unit, e) → exec (.foldChainUnitReady p u) s = .next (s.did
          ((e.chainFree p j.msg src).foldFinish (ctlPut m) m p u j.msg (j.read ++ unit)))) ∧
      (∀ r, j.lock = false → j.read.length < 65536 → e.chainUnit p src at' = .failed r →
        exec (.foldChainUnitReady p u) s = .next (s.did ((e.foldUnclaim p u j).foldFail p u j.msg r (e.foldR1 p u j.msg))))) ∧
    (p < d.plots → (d.foldU p u).job = none → d.queue ep = [] → exec (.foldUnitFail p u) s = .next (s.did
      (((((d.setQueue ep []).setFoldU p u { accs := (d.foldU p u).accs.map fun v => { v with grains := [] } }).setFld
        FOLD_STATUS.FAILED 1 [p, u]).report { code := 0x0305, kind := 5, unit := p * 256 + u }).queueFallow)))

/-- R476, R477, R479, R496, R497, R500 to R502, R505, R507 and R512, a plot's cipher block: a command that fails its tests ends with their
result (in the order of assumption 15); the others transform their source into their destination, hold the plaintext of a decryption with HOLD, or wait for a release
entry; a chained encryption goes on unit by unit, and a stale one ends (R359); and a core fails once, RECOVERY of R47 set for the while. -/
def Obligations.CipherBlocksAnswerTheirCommands : Prop :=
  ∀ (s : State) (p : Nat) (ext bytes : List Byte) (z : Dev), s.Live →
    let d := s.dev
    let m := s.mem
    let st := d.ciph p
    let ep := epKey 0x6 p
    let tag := tagCipher p
    (∀ x rest, d.queue ep = x :: rest → d.stale x.workid = false →
      let b := x.bytes
      let c := ciphCmd b
      let key := d.ciphKey p c
      let gen2 (f g : List Byte → List Byte) : List Byte → List Byte := if c.op = 6 then f else g
      let plain := gen2 (gen2Dec key c.start) (gen3Dec key (16 * c.grain + c.start)) bytes
      let counter := if c.op = 5 ∨ c.op = 6 then RegName.CIPHER_G2_BYTES else .CIPHER_BYTES
      let reads (e : Dev) (n : Nat) : Prop := e.engRead m tag c.src n ext = (bytes, z)
      let answers (i : Instr) (result info : Nat) (y : Dev) : Prop :=
        exec i s = .next (s.did (y.ciphAnswer p x result info))
      let moves (e : Dev) (data : List Byte) : Dev := (e.engWrite tag c.dst data).count counter [p] c.len
      let held (e : Dev) (n : Nat) : Dev :=
        let r : Release := { workid := x.workid, ctag := leAt b 2 2, plain := plain, dst := c.dst, off := c.relOff, len := c.relLen }
        ((e.setCiph p { st with releases := tput st.releases n r, waitRelease := false }).count counter [p] c.len).count
          .DEVICE_SPEC_DECRYPT_EARLY
      (st.job = none → st.waitRelease = false → st.coresDown.length ≠ 16 →
        let e := d.pop ep
        let takes (op : Nat) : Prop := c.op = op ∧ d.ciphTest p b = 0
        (∀ i ∈ [(Instr.xtsEnc p ext, 1), (.xtsDec p ext, 2), (.aesEnc p ext, 3), (.aesDec p ext, 4), (.g2Enc p ext, 5),
            (.g2Dec p ext, 6), (.loadPlain p ext, 7), (.slotClear p, 8), (.discard p, 9)], c.op = i.2 → d.ciphTest p b ≠ 0 →
          answers i.1 (d.ciphTest p b) 0 (((if d.ciphTest p b = 4 then
            d.report { code := 0x0306, kind := 5, unit := p * 256 + 64, addr := c.src, detail := 4 } else d).pop ep).chainFail p b
              (d.ciphTest p b))) ∧
        (takes 1 → c.chain = false ∨ c.len = 0 → reads e c.len →
          answers (.xtsEnc p ext) 0 0 (moves z (gen3Enc key (16 * c.grain + c.start) bytes))) ∧
        (takes 1 → c.chain = true → c.len ≠ 0 → exec (.xtsEnc p ext) s = .next (s.did (e.setCiph p { st with
          job := some { msg := x, key := key }
          chain := modFirst (fun t => !t.started && decide (t.dst = c.dst) && decide (t.len = c.len))
            (fun t => { t with started := true }) st.chain }))) ∧
        (reads e c.len →
          (takes 3 → answers (.aesEnc p ext) 0 0 (moves z (blockwise (aesEncWith (aesRoundKeys key)) bytes))) ∧
          (takes 4 → answers (.aesDec p ext) 0 0 (moves z (blockwise (aesDecWith (aesRoundKeys key)) bytes))) ∧
          (takes 5 → answers (.g2Enc p ext) 0 0 (moves z (gen2Enc key c.start bytes)))) ∧
        (∀ i ∈ [(Instr.xtsDec p ext, 2), (.g2Dec p ext, 6)], takes i.2 →
          (c.hold = false → reads e c.len → answers i.1 0 0 (moves z plain)) ∧
          (∀ n, c.hold = true → freeRelease st = some n → reads e c.len → answers i.1 0 (p * 256 + n) (held z n)) ∧
          (c.hold = true → freeRelease st = none → exec i.1 s = .next (s.did (d.setCiph p { st with waitRelease := true })))) ∧
        (takes 7 → reads e 32 → answers (.loadPlain p ext) 0 0 (z.setSlot p c.slot (.plain bytes))) ∧
        (takes 8 → answers (.slotClear p) 0 0 (e.setSlot p c.slot .empty)) ∧
        (takes 9 → answers (.discard p) 0 0 (e.discardEntry c.start false))) ∧
      (∀ n, st.waitRelease = true → freeRelease st = some n → c.hold = true → c.op = 2 ∨ c.op = 6 →
        let e := (d.setCiph p { st with waitRelease := false }).pop ep
        reads e c.len → answers (.releaseEntryFree p ext) 0 (p * 256 + n) (held z n))) ∧
    (∀ j, st.job = some j →
      (d.stale j.msg.workid = true → exec (.chainUnitWritten p ext) s = .next (s.did
        (((d.setCiph p { st with job := none }).chainFail p j.msg.bytes 2).count .TENANT_STALE_DISCARDS))) ∧
      (d.stale j.msg.workid = false →
      let c := ciphCmd j.msg.bytes
      let u := j.done
      d.engRead m tag (c.src + 4096 * u) 4096 ext = (bytes, z) →
        let y := (z.engWrite tag (c.dst + 4096 * u) (gen3Enc j.key (16 * c.grain + c.start + u) bytes)).count .CIPHER_BYTES [p] 4096
        let chain := modFirst (fun t => t.started && decide (t.failed = none) && decide (t.dst = c.dst) && decide (t.len = c.len) &&
          decide (t.written = u)) (fun t => { t with written := u + 1 }) st.chain
        exec (.chainUnitWritten p ext) s = .next (s.did (if (u + 1) * 4096 < c.len
          then y.setCiph p { st with job := some { j with done := u + 1 }, chain := chain }
          else (y.setCiph p { st with job := none, chain := chain }).ciphAnswer p j.msg 0 0)))) ∧
    (∀ core, p < d.plots → core ≤ 16 → exec (.cipherCoreFail p core) s =
      if (if core = 16 then st.g2Down else st.coresDown.contains core) = true then .next s
      else .next (s.did (if core = 16 then (d.setCiph p { st with g2Down := true }).report
          { code := 0x0305, kind := 5, unit := p * 256 + 80 }
        else d.recovering fun x => (x.setCiph p { st with coresDown := core :: st.coresDown }).report
          { code := 0x010B, kind := 5, unit := p * 256 + 64 + core })))

/-- R483 to R491, the key vault: a request of a bad form is refused with its result (the tests in the order of assumption 15); DERIVE puts a key into a slot, MAC and MAC_CHECK sign and
compare, EXPORT_EK gives the enrolment key, PROVISION and LOAD_ROOT install a root that unwraps and checks, CLEAR_ROOT takes root, cached
keys and slots away, and FLUSH the cached keys of a tenant, or all. -/
def Obligations.KeyVaultAnswersRequests : Prop :=
  ∀ (s : State) (x : Msg) (rest : List Msg), s.Live → s.dev.queue (epKey 0x8 0) = x :: rest → s.dev.stale x.workid = false →
    let d := s.dev.pop (epKey 0x8 0)
    let b := x.bytes
    let lock := d.flag DEVICE_PLACE.LOCK
    let taken (op : Nat) : Prop := leAt b 0 1 = op ∧ d.vaultForm op b = 0 ∧
      ∀ r ∈ vaultRanges op b, r.2.2 = false → d.poisoned r.1 r.2.1 = false
    let answers (c : Instr) (result info : Nat) (e : Dev) : Prop :=
      exec c s = .next (s.did (e.answer8 0x9 x.sender x (leAt b 0 1) result (leAt b 2 2) info))
    let key := d.deriveKey (leAt b 1 1) (leAt b 4 4) (leAt b 8 16) (leAt b 24 2)
    let bytes (a n : Nat) := d.ldBytes s.mem a n
    let a := leAt b 32 8
    let a2 := leAt b 48 8
    let mac := hmac256 (macKey (leAt b 1 1) key.1.1) (bytes a (leAt b 40 4))
    let installed (e : Dev) (root : List Byte) (estate provisioned : Nat) :=
      let e := { e with vault := { e.vault with root := some root, estate := estate } }
      (((e.setFld DEVICE_VAULT_STATUS.ROOT 1).setFld DEVICE_VAULT_STATUS.ESTATE estate).setFld
        DEVICE_VAULT_STATUS.PROVISIONED provisioned).setReg .DEVICE_VAULT_CHECK (BitVec.ofNat 64 (rootCheck root))
    -- What comes of a root that a blob holds, if it unwraps: it must check, and no other root may be installed.
    let installs (c : Instr) (bad check estate provisioned : Nat) (root : Option (List Byte)) (after : List Byte → Dev → Dev) : Prop :=
      match root with
      | none => answers c bad 0 d
      | some root => (rootCheck root ≠ check → answers c bad 0 d) ∧ (rootCheck root = check →
          (d.vault.root = none → answers c 0 0 (after root (installed d root estate provisioned))) ∧
          ∀ old, d.vault.root = some old →
            answers c (if rootCheck old = rootCheck root ∧ d.vault.estate = estate then 0 else 7) 0 d)
    (∀ c ∈ [(Instr.derive, 0x01), (.mac, 0x02), (.macCheck, 0x03), (.exportEk, 0x10), (.provision, 0x11), (.loadRoot, 0x12),
        (.clearRoot, 0x13), (.flush, 0x20)], leAt b 0 1 = c.2 → d.vaultForm c.2 b ≠ 0 → answers c.1 (d.vaultForm c.2 b) 0 d) ∧
    (d.rootOk = false → (taken 0x01 → answers .derive 1 0 d) ∧ (taken 0x02 → answers .mac 1 0 d) ∧
      (taken 0x03 → answers .macCheck 1 0 d)) ∧
    (taken 0x01 → d.rootOk = true →
      (d.gatedBlock (leAt b 28 1) 1 = true → answers .derive 10 0 d) ∧
      (d.gatedBlock (leAt b 28 1) 1 = false → answers .derive 0 (b2n key.1.2) (key.2.setSlot (leAt b 28 1) (leAt b 26 2)
        (if leAt b 1 1 = 0x11 then .xts2 (key.1.1.take 64) else .xts3 (key.1.1.take 64))))) ∧
    (d.absent a = false → d.absent a2 = false →
      (taken 0x02 → d.rootOk = true → answers .mac 0 0 (key.2.stBytes a2 mac)) ∧
      (taken 0x03 → d.rootOk = true → answers .macCheck 0 (b2n (decide (mac = bytes a2 32))) key.2) ∧
      (taken 0x10 → answers .exportEk 0 0 (d.stBytes a enrolKeys.1)) ∧
      (taken 0x11 → lock = false →
        let blob := bytes a 1624
        let form : Prop := leAt b 40 4 = 1624 ∧ blob.take 4 = [0x54, 0x47, 0x4B, 0x33] ∧ leAt blob 4 2 = 1
        (¬ form → answers .provision 5 0 d) ∧
        (form → installs .provision 5 (leAt blob 8 8) (leAt blob 6 2) 1
          (kwUnwrap (mlKemDecaps enrolKeys.2 (slice blob 16 1568)) (slice blob 1584 40))
          fun root e => (e.count .DEVICE_VAULT_DERIVES).stBytes a2 (flashRecord root (leAt blob 6 2)))) ∧
      (taken 0x12 → lock = false → installs .loadRoot 6 (leAt (bytes a 96) 8 8) (leAt (bytes a 96) 6 2) 0
        (kwUnwrap deviceKeyBytes (slice (bytes a 96) 16 40)) fun _ e => e.count .DEVICE_VAULT_DERIVES)) ∧
    (lock = true → (taken 0x11 → answers .provision 8 0 d) ∧ (taken 0x12 → answers .loadRoot 8 0 d) ∧
      (taken 0x13 → answers .clearRoot 8 0 d)) ∧
    (taken 0x13 → lock = false → answers .clearRoot 0 0
      (let e := { d with vault := { root := none, estate := 0, cache := [] } }
       let e := (((e.setFld DEVICE_VAULT_STATUS.ROOT 0).setFld DEVICE_VAULT_STATUS.ESTATE 0).setFld
         DEVICE_VAULT_STATUS.PROVISIONED 0).setReg .DEVICE_VAULT_CHECK 0
       [0, 1, 2, 3].foldl (fun e p => e.setCiph p { e.ciph p with slots := [] }) e)) ∧
    (taken 0x20 →
      let goes (e : Nat × List Byte) : Bool := leAt b 4 4 = 0xFFFFFFFF || tagTenant e.1 = leAt b 4 4
      answers .flush 0 ((d.vault.cache.map fun s => (s.2.filter goes).length).foldl (· + ·) 0)
        { d with vault := { d.vault with
            cache := (d.vault.cache.map fun s => (s.1, s.2.filter fun e => !goes e)).filter fun s => s.2 ≠ [] } })

/-- R354, R379, R382, R383, R393, R400, R402, R405, R407, R420, R423 and R425, sowing: SOW_OPEN issues an ID or waits, SOW_WRITE takes bytes at
the frontier or waits for it, SOW_DROP and SOW_SEAL end a session or start its sealing, which goes step by step; sessions expire, epochs
switch, profiles are tested; rows and records of other nodes are taken, a row only where the target serves it (R555), and a ledger record
is appended. A SOW_SEAL of an object of length 0 that finds no buffer waits for one (R355). -/
def Obligations.SowingKeepsSessions : Prop :=
  ∀ (s : State) (r i master n f slot node target row tenant : Nat) (value : Word) (data : List Byte)
    (place : List (Nat × Nat × Nat)), s.Live →
    let d := s.dev
    let x := d.drill r
    let e := x.entry i
    let key := sessKey x.func (handleSlot (leAt e 8 4))
    let td := d.takeDispatch r
    let ends (c : Instr) (y : Dev) (status result : Nat) : Prop :=
      exec c s = .next (s.did (y.finishWork r i { status := status, result := result }))
    -- The bytes of a write that fit the incomplete grain of session `w` are taken, and the write completes.
    let took (y : Dev) (k q j : Nat) (v : SowSess) (addr : Nat) (tag : Option Nat) (bytes : List Byte) : Dev :=
      let y := (y.sendHostRead x.func addr bytes.length tag).modDrill q fun x => { x with answer := none }
      let y := if v.part = [] then y.takeBuffers k v.need else y
      ((y.modSess k fun v => { v with part := v.part ++ bytes, fr := v.fr + bytes.length }).touchSess k).finishWork q j
        { status := stSuccess, result := v.fr + bytes.length }
    let fits (v : SowSess) (bytes : List Byte) : Prop := bytes ≠ [] ∧ v.part.length < 65536 ∧ v.part.length + bytes.length ≤ 65536
    -- A SOW_OPEN issues an ID and opens its slot.
    let opens (y : Dev) : Dev :=
      let count := y.fld DEVICE_SOW_ISSUED.COUNT
      let id := y.objectId (count + y.fld DEVICE_SOW_EPOCH.EPOCH * 2 ^ 40)
      let y := if count = 2 ^ 40 - 1 then
          if y.flag DEVICE_SOW_NEXT.VALID then y.epochSwitch else y.setFld DEVICE_SOW_ISSUED.DRY 1
        else (y.setFld DEVICE_SOW_ISSUED.COUNT (count + 1)).sowLow
      let p := leAt e 12 1 % 16
      let v : SowSess := { obj := id, tenant := y.fld TENANT_ID.TENANT [x.func], epoch := y.fld TENANT_ID.EPOCH [x.func], prof := p,
                           k := y.fld DEVICE_PROFILE.K [p], m := y.fld DEVICE_PROFILE.M [p], g := y.fld DEVICE_PROFILE.G [p],
                           hash := y.fld DEVICE_PROFILE.HASH [p], expected := if 2 ^ 48 < leAt e 16 8 then 0 else leAt e 16 8,
                           plot := (y.homePlot 0).getD 0, idleFrom := y.now }
      ((y.putSess key v).noteObj r i id).finishWork r i { status := stSuccess, result := id }
    let dry := d.flag DEVICE_SOW_ISSUED.DRY
    (WorkTaken s r i 0x10 →
      (d.placeUnset = true → ends (.sowOpen r i) td stPlaceUnset 0) ∧
      (d.placeUnset = false → d.sess? key ≠ none → ends (.sowOpen r i) td stSessionBusy 0) ∧
      (d.placeUnset = false → d.sess? key = none → d.rootOk = false → ends (.sowOpen r i) td stKeyUnavailable 0) ∧
      (d.placeUnset = false → d.sess? key = none → d.rootOk = true → dry = true → exec (.sowOpen r i) s = .next (s.did
        ((td.workWaits r).setSow { d.sow with dry := d.sow.dry ++ [(r, i)] }))) ∧
      (d.placeUnset = false → d.sess? key = none → d.rootOk = true → dry = false → d.sow.dry = [] →
        exec (.sowOpen r i) s = .next (s.did (opens td)))) ∧
    (∀ t, d.sow.dry = (r, i) :: t → dry = false → d.stale x.workid = false → d.placeUnset = false → d.sess? key = none →
      d.rootOk = true → exec .dryOpenResume s = .next (s.did
        ((opens d).setSow { (opens d).sow with dry := (opens d).sow.dry.filter fun p => p ≠ (r, i) }))) ∧
    (WorkTaken s r i 0x13 → (d.sess? key = none → ends (.sowDrop r i) td stNoSession 0) ∧
      ∀ v, d.sess? key = some v →
        let y := td.noteObj r i v.obj
        (v.phase = .sealing → ends (.sowDrop r i) y stNoSession 0) ∧
        (v.phase ≠ .sealing → ends (.sowDrop r i) ((y.endWaits key stNoSession).sessEnd key) stSuccess v.fr)) ∧
    (WorkTaken s r i 0x11 → (d.handlesOk x.func e = true → d.sess? key = none → ends (.sowWrite r i data place) td stNoSession 0) ∧
      ∀ v, d.sess? key = some v →
        let y := td.noteObj r i v.obj
        let off := leAt e 24 8
        let bytes := writeBytes e v.fr data
        let b := d.bufOf x.func (leAt e 12 4)
        (d.handlesOk x.func e = false → ends (.sowWrite r i data place) (y.touchSess key) stHandleInvalid v.fr) ∧
        (d.handlesOk x.func e = true →
          (v.phase = .expired → ends (.sowWrite r i data place) y stSessionExpired v.fr) ∧
          (v.phase = .sealing → ends (.sowWrite r i data place) y stNoSession v.fr) ∧
          (v.phase = .opened → 2 ^ 48 ≤ off → ends (.sowWrite r i data place) (y.touchSess key) stSuccess v.fr) ∧
          (v.phase = .opened → off < 2 ^ 48 → v.fr < off →
            (d.freezing x.func = true → ends (.sowWrite r i data place) (y.touchSess key) stSuccess v.fr) ∧
            (d.freezing x.func = false → exec (.sowWrite r i data place) s = .next (s.did ((y.workWaits r).setSow { d.sow with
              waits := d.sow.waits ++ [{ drill := r, entry := i, key := key, off := off, frontier := true }] })))) ∧
          (v.phase = .opened → off < 2 ^ 48 → off ≤ v.fr → fits v bytes → d.fnMaster x.func = true → x.answer = none →
            (v.part = [] → d.getsBuffers key v.need = true) → exec (.sowWrite r i data place) s = .next (s.did
              (took y key r i v (b.base + leAt e 16 8 + (v.fr - off)) b.tag bytes))))) ∧
    (∀ w v, d.sow.waits.find? (fun w => decide (w.drill = r) && decide (w.entry = i) && w.frontier) = some w →
      d.stale x.workid = false → d.sess? w.key = some v → w.off ≤ v.fr → fits v (writeBytes e v.fr data) → d.fnMaster x.func = true →
        x.answer = none → (v.part = [] → (d.dropWait r i).getsBuffers w.key v.need = true) → d.handlesOk x.func e = true →
          let b := d.bufOf x.func (leAt e 12 4)
          exec (.frontierWriteResume r i data place) s = .next (s.did (took (d.dropWait r i) w.key r i v
            (b.base + leAt e 16 8 + (v.fr - leAt e 24 8)) b.tag (writeBytes e v.fr data)))) ∧
    (∀ w v, d.nextGrant = some w → w.drill = r → w.entry = i →
      let y := (d.dropWait r i).countWaits (sessFunc w.key)
      let rest := w.rest.drop (v.fr - w.off)
      y.drill r = x → y.stale x.workid = false → y.sess? w.key = some v →
        (w.seals = false → w.fails = none → fits v rest → y.handlesOk x.func e = true → y.fnMaster x.func = true → x.answer = none →
          (v.part = [] → y.mayTake w.key v.need = true) →
          let b := y.bufOf x.func (leAt e 12 4)
          exec (.grainBufferGrant place) s = .next (s.did (took y w.key r i v
            (b.base + leAt e 16 8 + (v.fr - leAt e 24 8)) b.tag rest))) ∧
        (∀ j, w.seals = true → v.sealJob = some j → exec (.grainBufferGrant place) s = .next (s.did (y.sealGo w.key j place)))) ∧
    (WorkTaken s r i 0x12 → (d.handlesOk x.func e = true → d.sess? key = none → ends (.sowSeal r i place) td stNoSession 0) ∧
      ∀ v, d.sess? key = some v → d.handlesOk x.func e = true →
        let y := td.noteObj r i v.obj
        let b := y.bufOf x.func (leAt e 12 4)
        (v.phase = .expired → ends (.sowSeal r i place) y stSessionExpired 0) ∧
        (v.phase = .sealing → ends (.sowSeal r i place) y stNoSession 0) ∧
        (v.phase = .opened → leAt e 16 8 ≠ v.fr → ends (.sowSeal r i place) (y.touchSess key) stLengthMismatch 0) ∧
        (v.phase = .opened → leAt e 16 8 = v.fr →
          let j : SealJob := { drill := r, entry := i, buf := if leAt e 12 4 = 0 then none else some (b.base, b.tag),
                               part := v.part, cur := v.cur, digests := v.digests }
          let waits : Prop := v.part = [] ∧ v.digests = [] ∧ y.getsBuffers key v.need = false
          (waits → exec (.sowSeal r i place) s = .next (s.did
            (let z := ((y.modSess key fun v => { v with phase := .sealing, sealJob := some { j with step := 1 } }).workWaits r).endWaits
               key stNoSession
             (z.setSow { z.sow with waits := z.sow.waits ++
               [{ drill := r, entry := i, key := key, off := 0, frontier := false, seals := true }] }).countWaits (sessFunc key)))) ∧
          (¬ waits → y.sealLast key place = none → ends (.sowSeal r i place)
            ((y.modSess key fun v => { v with phase := .opened, sealJob := none }).touchSess key) stBlockFallow 0) ∧
          (∀ a ps, ¬ waits → y.sealLast key place = some (a, ps) →
            let z := (((a.placeAgain key ps).1.modSess key fun v => { v with phase := .sealing, sealJob := some { j with step := 2 } }).workWaits
              r).endWaits key stNoSession
            exec (.sowSeal r i place) s = .next (s.did
              (if ((z.sess? key).map SowSess.noRoom).getD false then z.sealNoCapacity key else z))))) ∧
    (∀ v j, d.sess? (sessKey f slot) = some v → v.sealJob = some j → d.stale (d.drill j.drill).workid = false →
      (j.step = 2 → v.noRoom = true → exec (.sealFullRedundancy f slot place) s = .next (s.did
        (let z := (d.placeAgain (sessKey f slot) place).1
         if ((z.sess? (sessKey f slot)).map SowSess.noRoom).getD false then z.sealNoCapacity (sessKey f slot) else z))) ∧
      (j.step = 2 → v.noRoom = false → (∀ h ∈ v.sheaves, h.full = true) →
        exec (.sealFullRedundancy f slot place) s = .next (s.did (d.sealDescs (sessKey f slot) place))) ∧
      (j.step = 3 → (∀ w ∈ j.descs, w.durable = true) → d.flag TIME_STATUS.STEP_PEND = false →
        let t := d.stamp
        let q : LedgerReq := { tenant := v.tenant, kind := 1, node := d.node, object := v.obj, sec := t.1, ns := t.2.1, quality := t.2.2
                               label := 1, epoch := v.epoch, origin := .sealOf (sessKey f slot)
                               body := leBytes 8 v.fr ++ leBytes 1 v.prof ++ leBytes 1 v.k ++ leBytes 1 v.m ++ leBytes 1 v.g ++
                                 leBytes 1 v.hash ++ leBytes 3 0 ++ slice (tallyOf v.hash v.digests) 0 32 }
        exec (.sealFullRedundancy f slot place) s = .next (s.did
          (((d.setSow { d.sow with reqs := d.sow.reqs ++ [q] }).emit (.ledgerHand q)).modSess (sessKey f slot) fun v =>
            { v with sealJob := some { j with step := 5 } })))) ∧
    (∀ v, d.sess? (sessKey f slot) = some v → v.phase = .opened → (∀ w ∈ d.sow.waits, w.key ≠ sessKey f slot) →
      d.freezing f = false → v.idleFrom + (d.idleNs - v.idle) ≤ d.clk.mono → exec (.sessionExpire f slot) s = .next (s.did
        (((d.endWaits (sessKey f slot) stSessionExpired).sessEnd (sessKey f slot)).putSess (sessKey f slot)
          { v with phase := .expired, part := [], cur := [], sheaves := [], digests := [], sram := [], hbm := 0 }))) ∧
    (d.flag DEVICE_PLACE.LOCK = true → ∀ size ∈ [4, 8], ∀ half, exec (.sowEpochWrite master size half value) s =
      .next (s.did (d.refuse206 .DEVICE_SOW_EPOCH [] ⟨master, size, half, value⟩))) ∧
    (d.flag DEVICE_PLACE.LOCK = false → Answers (.sowEpochWrite master 8 0 value) s fun t =>
      t.dev.fld DEVICE_SOW_EPOCH.EPOCH = DEVICE_SOW_EPOCH.EPOCH.get value ∧
      t.dev.fld DEVICE_SOW_EPOCH.VALID = DEVICE_SOW_EPOCH.VALID.get value ∧
      Only [.regs] s t ∧ RegsBut [RegName.DEVICE_SOW_EPOCH.key []] s t) ∧
    (let e := DEVICE_SOW_NEXT.EPOCH.get value
     let takes := d.flag DEVICE_SOW_NEXT.VALID = false ∧ d.fld DEVICE_SOW_EPOCH.EPOCH < e
     (¬ takes → exec (.sowNextWrite master 8 0 value) s = .next (s.did (d.refuse206 .DEVICE_SOW_NEXT [] ⟨master, 8, 0, value⟩))) ∧
     (takes → DEVICE_SOW_NEXT.VALID.get value = 1 → dry = false → Answers (.sowNextWrite master 8 0 value) s fun t =>
       t.dev.fld DEVICE_SOW_NEXT.EPOCH = e ∧ t.dev.fld DEVICE_SOW_NEXT.VALID = 1 ∧ t.dev.fld DEVICE_SOW_ISSUED.LOW = 0 ∧
       t.dev.fld DEVICE_SOW_ISSUED.COUNT = d.fld DEVICE_SOW_ISSUED.COUNT ∧ t.dev.flag DEVICE_SOW_ISSUED.DRY = false ∧
       Only [.regs] s t ∧ RegsBut [RegName.DEVICE_SOW_NEXT.key [], RegName.DEVICE_SOW_ISSUED.key []] s t) ∧
     (takes → DEVICE_SOW_NEXT.VALID.get value = 1 → dry = true → Answers (.sowNextWrite master 8 0 value) s fun t =>
       t.dev.fld DEVICE_SOW_EPOCH.EPOCH = e ∧ t.dev.fld DEVICE_SOW_NEXT.VALID = 0 ∧ t.dev.fld DEVICE_SOW_ISSUED.COUNT = 0 ∧
       t.dev.fld DEVICE_SOW_ISSUED.DRY = 0 ∧ t.dev.fld DEVICE_SOW_ISSUED.LOW = 0 ∧
       Recorded s t { code := 0x0003, kind := 0, unit := 0 } ∧ Only [.regs, .faults] s t ∧
       RegsBut [RegName.DEVICE_SOW_EPOCH.key [], RegName.DEVICE_SOW_NEXT.key [], RegName.DEVICE_SOW_ISSUED.key [],
         RegName.FAULT_COALESCED.key []] s t)) ∧
    (n < 16 →
      let shape : Shape := { k := DEVICE_PROFILE.K.get value, m := DEVICE_PROFILE.M.get value, g := DEVICE_PROFILE.G.get value }
      (shape.ok = false → exec (.profileWrite master n 8 0 value) s = .next (s.did
        (d.refuse206 .DEVICE_PROFILE [n] ⟨master, 8, 0, value⟩))) ∧
      (shape.ok = true → d.profileIdle n = true → Answers (.profileWrite master n 8 0 value) s fun t =>
        (∀ g ∈ [DEVICE_PROFILE.K, DEVICE_PROFILE.M, DEVICE_PROFILE.G, DEVICE_PROFILE.HASH, DEVICE_PROFILE.EN],
          t.dev.fld g [n] = g.get value) ∧ Only [.regs] s t ∧ RegsBut [RegName.DEVICE_PROFILE.key [n]] s t)) ∧
    (d.sow.peers.length < d.fld DEVICE_SOW_CTL.PEER_POOL → exec (.peerGrainReceive node target row data) s = .next (s.did
      (if d.canPlace (d.node, target, row) then
         ((d.setSow { d.sow with peers := d.sow.peers ++ [(node, target, row)] }).emit (.rowAlloc target row)).emit
           (.rowWrite target (d.rowLba target row) data)
       else d.emit (.durableReport node target row false)))) ∧
    (∀ h v alt, node ≠ d.node → d.sow.sess.find? (fun e => hasRow (node, target, row) e.2.allRows) = some (h, v) →
      exec (.peerDurableReport node target row true alt) s = .next (s.did ((d.modSess h fun v =>
        { v with sheaves := v.sheaves.map fun h => { h with rows := markRow (node, target, row) h.rows }
                 sealJob := v.sealJob.map fun j => { j with descs := markRow (node, target, row) j.descs } }).sheafSettle h)) ∧
      exec (.peerDurableReport node target row false alt) s = .next (s.did (d.sessRowFail h (node, target, row) (alt.filter d.canPlace) true))) ∧
    (let l := d.ledger tenant
     let seq := l.recs.length + 1
     let prev := match l.recs.getLast? with
       | some r => recordDigest r
       | none => []
     let waits (q : LedgerReq) : Bool := decide (q.tenant = tenant) && decide (q.seq = none)
     -- The record of `q` joins the ledger, and a version that covers it is written if none is in flight.
     let appended (q : LedgerReq) : Dev :=
       let head := recordHead q seq prev
       let mac := d.recordKey q.kind tenant q.object q.epoch
       mac.2.putLedger tenant { l with recs := l.recs ++ [head ++ hmac256 mac.1 head] }
     (l.rows = [] → l.full = false → d.rootOk = true → d.flag TIME_STATUS.STEP_PEND = false →
       (∀ q, d.sow.reqs.find? waits = some q → exec (.ledgerRecordAppend tenant none place) s = .next (s.did
         (((appended q).setSow { (appended q).sow with reqs := modFirst waits (fun q => { q with seq := some seq }) d.sow.reqs }).ledgerWrite
           tenant place))) ∧
       (let q := { peerReq node data with tenant := tenant }
        exec (.ledgerRecordAppend tenant (some (node, data)) place) s = .next (s.did
          (((appended q).setSow { (appended q).sow with reqs := d.sow.reqs ++ [{ q with seq := some seq }] }).ledgerWrite tenant place)))) ∧
     (∀ q, tfind d.sow.ledgers tenant = none → d.sow.reqs.find? (fun q => decide (q.tenant = tenant) && decide (q.seq = none) && q.sent) =
       some q → (q.isSeal = true → d.flag TIME_STATUS.STEP_PEND = false) →
       exec (.ledgerHomeReport tenant (some (n, data)) place) s = .next (s.did
         ((d.setSow { d.sow with reqs := dropFirst (fun x => decide (x = q)) d.sow.reqs }).reqDone q n data))) ∧
     (tfind d.sow.ledgers tenant ≠ none → l.rows ≠ [] → l.copies ≠ [] → (∀ w ∈ l.rows ++ l.copies, w.durable = true) →
       l.writing % 2 ^ 24 ≠ 0 → exec (.ledgerHomeReport tenant none place) s = .next (s.did
         (((d.putLedger tenant { l with durable := l.writing, rows := [], copies := [], spare := []
                                        grains := tput l.grains l.openGrain.2 (l.version, l.rows, l.copies) }).reqsDone tenant).ledgerWrite
           tenant place))))

/-- R236, R341, R516, R519 to R521, R523, R530, R532, R535, R539 and R540, gleaning and harrowing: an entry whose object has no seal ends with
its status, and so does one whose generation-2 descriptors do not give the sealed tally (R585); a read asks for its grains, whose rows take a
release entry, or wait for one (R196), and are released if they name and verify what was asked; FIXITY reports, REPAIR waits for
its lock; harrowing reads one row at a time of a target in service (R555), records its state and checks ledgers. -/
def Obligations.ObjectsAreReadCheckedAndRepaired : Prop :=
  ∀ (s : State) (r i sheaf pos t row tenant obj : Nat) (last : Bool) (data ext : List Byte) (ledger : LedgerRead) (descs : List (List Byte))
    (rows : List (Nat × List Byte)) (place : List (Nat × Nat × Nat)) (copies : List (Nat × Nat × Nat × Nat)), s.Live →
    let d := s.dev
    let x := d.drill r
    let e := x.entry i
    let f := x.func
    let id := leAt e 8 16
    let td := d.takeDispatch r
    let y := td.noteObj r i id
    let mine := d.fld TENANT_ID.TENANT [f]
    let ends (c : Instr) (z : Dev) (status result : Nat) : Prop :=
      exec c s = .next (s.did (z.finishWork r i { status := status, result := result }))
    -- An entry's bytes go to the host where the function may write and no answer of the host fails them.
    let may (z : Dev) : Prop := z.fnMaster f = true ∧ (z.drill r).answer = none
    let puts (z : Dev) (addr : Nat) (tag : Option Nat) (b : List Byte) : Dev := z.hostWrite f 0xFFFF addr tag b
    (∀ c ∈ [(Instr.gleanRead r i ledger descs, 0x20), (.objStat r i ledger, 0x21), (.fixity r i ledger descs rows, 0x31)],
      WorkTaken s r i c.2 → d.handlesOk f e = false → ends c.1 y stHandleInvalid 0) ∧
    (∀ c ∈ [(Instr.gleanRead r i ledger descs, 0x20), (.objStat r i ledger, 0x21), (.fixity r i ledger descs rows, 0x31),
        (.repair r i ledger descs, 0x32)], ∀ g z status, WorkTaken s r i c.2 → d.handlesOk f e = true →
      (c.2 = 0x20 → d.sessOf f id = none) → y.findSeal mine id ledger = (g, z) → g.status = some status → ends c.1 z status 0) ∧
    (∀ c ∈ [(Instr.gleanRead r i ledger descs, 0x20), (.fixity r i ledger descs rows, 0x31), (.repair r i ledger descs, 0x32)], ∀ a z,
      WorkTaken s r i c.2 → d.handlesOk f e = true → (c.2 = 0x20 → d.sessOf f id = none) → y.findSeal mine id ledger = (.seal a, z) →
        (objRef a descs).sealedAsRead = false → ends c.1 z stNoObject 0) ∧
    (WorkTaken s r i 0x20 → d.handlesOk f e = true →
      let off := leAt e 32 8
      let b := d.bufOf f (leAt e 24 4)
      (∀ v, d.sessOf f id = some v →
        let hi := min (off + leAt e 28 4) v.fr
        (v.fr ≤ off → ends (.gleanRead r i ledger descs) y stSuccess 0) ∧
        (off < v.fr → d.rootOk = false → ends (.gleanRead r i ledger descs) y stKeyUnavailable 0) ∧
        (off < hi → d.rootOk = true → off / 65536 = v.digests.length → (hi - 1) / 65536 = v.digests.length →
          let z := (y.deriveKey 0x01 v.tenant v.obj v.epoch).2
          may z → ends (.gleanRead r i ledger descs) (puts z (b.base + leAt e 40 8) b.tag
            (slice v.part (off % 65536) (hi - off))) stSuccess (hi - off))) ∧
      (∀ a z, d.sessOf f id = none → y.findSeal mine id ledger = (.seal a, z) →
        let o := objRef a descs
        o.sealedAsRead = true →
        let hi := min (off + leAt e 28 4) o.len
        (o.len ≤ off → ends (.gleanRead r i ledger descs) z stSuccess 0) ∧
        (off < o.len → z.homePlot 0 = none → ends (.gleanRead r i ledger descs) z stBlockFallow 0) ∧
        (off < o.len → z.homePlot 0 ≠ none → z.fnMaster f = true →
          let grains := (List.range ((hi - 1) / 65536 + 1 - off / 65536)).map (· + off / 65536)
          let asked := grains.foldl (fun acc n => (acc.1 ++ [(acc.2.firstFetch o n).1], (acc.2.firstFetch o n).2)) (([] : List GFetch), z)
          let w := asked.2.workWaits r
          let c := z.bufOf f (leAt e 24 4)
          let j : GleanJob := { drill := r, entry := i, ref := o, lo := off, hi := hi, dst := c.base + leAt e 40 8, pasid := c.tag,
                                plot := (z.homePlot 0).getD 0, fetches := asked.1 }
          exec (.gleanRead r i ledger descs) s = .next (s.did (Dev.gleanStep r gleanFuel
            (w.setGlean { w.glean with gleans := w.glean.gleans ++ [j] })))))) ∧
    (∀ a z, WorkTaken s r i 0x21 → d.handlesOk f e = true → y.findSeal mine id ledger = (.seal a, z) → a ≠ [] → may z →
      let u := z.bufOf f (leAt e 24 4)
      ends (.objStat r i ledger) (puts z u.base u.tag (slice a 0 256)) stSuccess ((sealRef a).len + (sealRef a).prof * 2 ^ 64)) ∧
    (WorkTaken s r i 0x30 →
      let first := max 1 (leAt e 8 8)
      let got := ((d.ledgerOf mine ledger.recs).drop (first - 1)).take (leAt e 16 4)
      let b := d.bufOf f (leAt e 20 4)
      (d.handlesOk f e = false → ends (.ledgerRead r i ledger.recs) td stHandleInvalid 0) ∧
      (d.handlesOk f e = true → d.rootOk = false → ends (.ledgerRead r i ledger.recs) td stKeyUnavailable 0) ∧
      (d.handlesOk f e = true → d.rootOk = true → (got = [] → ends (.ledgerRead r i ledger.recs) td stSuccess 0) ∧
        (got ≠ [] → may d → ends (.ledgerRead r i ledger.recs) (puts td b.base b.tag (got.flatMap fun b => slice b 0 256)) stSuccess
          (got.length + (first + got.length - 1) * 2 ^ 64)))) ∧
    (∀ a z, WorkTaken s r i 0x31 → d.handlesOk f e = true → y.findSeal mine id ledger = (.seal a, z) →
      let o := objRef a descs
      o.sealedAsRead = true →
      let after := (z.ledgerOf mine ledger.recs).length
      let rs := readsOf o.allPos rows
      let bad := rs.filterMap fun n => if o.faultOf n.1.1 n.1.2 n.2 = 0 then none else some (n.1, o.faultOf n.1.1 n.1.2 n.2)
      let grains := rs.filter fun n => n.1.2 < o.k
      let whole : Prop := (∀ n ∈ grains, n.2.1 = 0 ∧ o.names n.1.1 n.1.2 n.2.2 = true) ∧ o.descs.length = o.sheaves
      let media (tally : List Byte) : Prop :=
        (whole → tally = o.tallyFrom (grains.map fun n => hashH o.hash (rowPayload n.2.2))) ∧
        (¬ whole → tally = List.replicate 32 0)
      ∀ tally, media tally →
        let w := z.laterRows o rs
        let head := w.fixityHead o after tally bad
        let key := w.deriveKey 0x03 mine 0 0
        let report := head ++ hmac256 (macKey 0x03 key.1.1) head
        let b := key.2.bufOf f (leAt e 24 4)
        let put := key.2.hostPut f r b.base b.tag report
        let w := put.2.2.workWaits r
        let j : FixityJob := { drill := r, entry := i, status := put.2.1.getD stSuccess, checked := o.allPos.length, failed := bad.length }
        exec (.fixity r i ledger descs rows) s = .next (s.did ((w.setGlean { w.glean with fixities := w.glean.fixities ++ [j] }).handRecord
          { tenant := mine, kind := 3, object := o.obj, origin := .entry r i,
            body := sha256 report ++ leBytes 8 o.allPos.length ++ leBytes 8 bad.length ++ leBytes 8 after }))) ∧
    (∀ a z, WorkTaken s r i 0x32 → y.findSeal mine id ledger = (.seal a, z) → (objRef a descs).sealedAsRead = true →
      exec (.repair r i ledger descs) s = .next (s.did
      (let w := z.workWaits r
       (w.setGlean { w.glean with repairs := w.glean.repairs ++ [{ drill := some (r, i), ref := objRef a descs }] }).emit
         (.repairLock (objRef a descs).obj true)))) ∧
    (∀ j, d.gleanJob? r = some j → d.stale x.workid = false → d.fnMaster f = true → d.plotSows j.plot = true →
      -- The read goes on from `z`: what it may still start or end, it does.
      let goes (c : Instr) (z : Dev) : Prop := exec c s = .next (s.did (Dev.gleanStep r gleanFuel z))
      let ct := rowPayload data
      let names := j.ref.names sheaf pos data
      let verifies := j.ref.verifies sheaf pos ct
      -- A row of a later generation is reported, and is no copy.
      let told := d.laterRow (j.ref.place sheaf pos) data
      (∀ g, j.fetch? sheaf pos = some g → g.inFlight = true →
        let j' := j.modFetch sheaf pos fun g => { g with inFlight := false }
        let failed (z : Dev) : Dev := (z.count .DEVICE_GLEAN_FETCHFAIL).putJob
          (j.modFetch sheaf pos fun g => { g with st := if g.st = .flying then .missing else g.st, inFlight := false })
        let early := told.count .DEVICE_SPEC_DECRYPT_EARLY
        let sound := j'.modFetch sheaf pos fun g => { g with verified := true }
        let kept := (early.putJob sound).stopRecon sound sheaf
        let bad := ((early.count .DEVICE_SPEC_DECRYPT_DISCARD).copyBad j.ref sheaf pos).putJob
          (j'.modFetch sheaf pos fun g => { g with st := .mismatch })
        (g.verified = true → goes (.gleanFetchArrive r sheaf pos data)
          (if data = [] then d.putJob j' else (d.count .DEVICE_SPEC_LOSER).putJob j')) ∧
        (g.verified = false → goes (.gleanFetchArrive r sheaf pos data)
          (if names = false then failed told
           else if freeRelease (d.ciph j.plot) = none then told.putJob { j' with waiting := j.waiting ++ [((sheaf, pos), false, ct)] }
           else if verifies = false then bad
           else kept.gleanRelease (kept.jobNow sound) sheaf pos ct)) ∧
        (g.st = .flying → g.verified = false → g.due ≤ d.clk.mono → goes (.gleanFetchTimeout r sheaf pos) (failed d)) ∧
        (∀ at', g.hedgeAt = some at' → at' ≤ d.clk.mono → g.st = .flying → g.verified = false → g.slow = false →
          goes (.hedgeThreshold r sheaf pos) (d.putJob (j.slowAt d.clk.mono)))) ∧
      (∀ c ask, j.recon? sheaf = some c → c.asked.find? (fun a => decide (a.1 = pos)) = some ask →
        (j.fetch? sheaf pos = none → ask.2 ≤ d.clk.mono → goes (.gleanFetchTimeout r sheaf pos)
          ((d.count .DEVICE_GLEAN_FETCHFAIL).putJob (j.unask c pos))) ∧
        goes (.survivorArrive r sheaf pos data)
          (if names = false then (told.count .DEVICE_GLEAN_FETCHFAIL).putJob (j.unask c pos)
           else if verifies = false then (told.copyBad j.ref sheaf pos).putJob (j.unask c pos)
           else told.putJob ((j.unask c pos).keep sheaf pos ct)))) ∧
    (∀ j, d.gleanJob? r = some j → d.stale x.workid = false → d.fnMaster f = true → d.plotSows j.plot = false →
      (∃ g, j.fetch? sheaf pos = some g ∧ g.inFlight = true) →
        exec (.gleanFetchArrive r sheaf pos data) s = .next (s.did (d.gleanEnd j stBlockFallow))) ∧
    (∀ p j, (d.ciph p).waitRelease = false → freeRelease (d.ciph p) ≠ none →
      d.glean.gleans.find? (fun j => decide (j.plot = p) && decide (j.waiting ≠ [])) = some j →
        exec (.releaseEntryFree p ext) s = .next (s.did
          (let z := d.gleanGo j.drill fun z j => z.gleanTake j
           ((z.glean.gleans.filter fun x => decide (x.plot = p)).map GleanJob.drill).foldl (fun z r => z.gleanGo r fun z _ => z) z))) ∧
    (d.gleanJob? r = none → d.glean.losers.contains (r, sheaf, pos) = true → data ≠ [] →
      exec (.gleanFetchArrive r sheaf pos data) s = .next (s.did
        ((d.setGlean { d.glean with losers := d.glean.losers.erase (r, sheaf, pos) }).count .DEVICE_SPEC_LOSER))) ∧
    (∀ j, d.repair? obj = none → d.glean.repairs.find? (fun j => decide (j.ref.obj = obj)) = some j →
      (∀ n, j.drill = some n → d.stale (d.drill n.1).workid = false) →
        let j' := { j with phase := 1 }
        let others := dropFirst (fun (j : RepairJob) => decide (j.ref.obj = obj)) d.glean.repairs
        exec (.repairLockGrant obj rows place copies) s = .next (s.did ((d.setRepairs (others ++ [j'])).repairWork j' rows place copies))) ∧
    (∀ due p rest, d.glean.oldRows = (due, p) :: rest → due ≤ d.clk.mono → exec .oldRowFree s = .next (s.did
      (let z := d.setGlean { d.glean with oldRows := rest }
       if p.1 = d.node ∧ d.inService p.2.1 = true then z.emit (.rowFree p.2.1 p.2.2) else z))) ∧
    (d.glean.pass ≠ [] → d.flag DEVICE_HARROW_CTL.EN = true → d.harrowBudget = true → d.rootOk = true →
      let c := d.harrowCharge
      (∀ b rest, d.glean.repairList = b :: rest → d.glean.listed = none → (b.place.1 = d.node → d.targetQuiet b.place.2.1 = true) →
        exec (.harrowReadIssue t row) s = .next (s.did ((c.setGlean { c.glean with listed := some b, repairList := rest }).emit
          (.rowFetch b.place.1 b.place.2.1 b.place.2.2)))) ∧
      (let h := d.harrowTgt t
       d.glean.repairList = [] → d.inService t = true → row < labelRows (d.label t) → h.reading = none → h.swept = false → h.row ≤ row → d.targetQuiet t = true →
        exec (.harrowReadIssue t row) s = .next (s.did ((c.setHarrowTgt t { h with reading := some row }).emit
          (.rowFetch d.node t row))))) ∧
    (∀ b a z, d.glean.listed = some b →
      (d.setGlean { d.glean with listed := none }).findSeal b.tenant b.obj ledger = (.seal a, z) →
        let o := objRef a descs
        let fault := o.faultOf b.sheaf b.pos (if data = [] then 2 else 0, data)
        let w := (z.laterRow (some b.place) data).count .DEVICE_HARROW_ROWS
        exec (.harrowReadDone t true last data ledger descs) s = .next (s.did
          (if fault = 0 then w else w.harrowFailed o b.sheaf b.pos fault b.place))) ∧
    (∀ n, (d.harrowTgt t).reading = some n →
      let z := d.setHarrowTgt t { d.harrowTgt t with reading := none, row := n + 1, swept := last }
      (data = [] → exec (.harrowReadDone t false last data ledger descs) s = .next (s.did z.harrowPassEnd)) ∧
      (data ≠ [] → exec (.harrowReadDone t false last data ledger descs) s = .next (s.did
        (z.harrowRow (d.node, t, n) data ledger descs).harrowPassEnd))) ∧
    (let h := d.harrowTgt t
     let seq := h.seq + 1
     let st := d.stamp
     let b := withCrc ([0x54, 0x47, 0x51, 0x33, 3] ++ leBytes 3 0 ++ leBytes 8 seq ++ leBytes 4 h.row ++ leBytes 4 h.passes ++
       leBytes 6 st.1 ++ leBytes 2 0 ++ leBytes 4 st.2.1 ++ leBytes 1 st.2.2 ++ leBytes 215 0)
     d.inService t = true → h.recordedAt + 60000000000 ≤ d.clk.mono → exec (.harrowStateRecord t) s = .next (s.did
       ((d.setHarrowTgt t { h with seq := seq, recordedAt := d.clk.mono, recordedRow := h.row }).emit
         (.stateRecord t (2 - seq % 2) b)).harrowPassEnd)) ∧
    (∀ l z, tfind d.sow.ledgers tenant = some l → d.flag DEVICE_HARROW_CTL.LEDGER = true → d.flag DEVICE_HARROW_CTL.EN = true →
      d.rootOk = true →
      let pass := d.fld DEVICE_HARROW_STATUS.PASSES + 1
      l.checked ≠ pass →
        (ledgerBreak (d.putLedger tenant { l with checked := pass }) 1 [] (l.recs.take l.durable) = (none, z) →
          exec (.ledgerCheck tenant) s = .next (s.did z)) ∧
        (∀ seq, ledgerBreak (d.putLedger tenant { l with checked := pass }) 1 [] (l.recs.take l.durable) = (some seq, z) →
          exec (.ledgerCheck tenant) s = .next (s.did (((z.count .DEVICE_HARROW_BREAKS).report
            { code := 0x0404, kind := 15, unit := tenant, addr := seq }).handRecord
              { tenant := tenant, kind := 6, origin := .nobody, body := leBytes 8 seq }))))

/-- R637, R640, R642 to R644, R648, R653 to R656, R664, R668 and R669, a port's receiving side: it comes up, goes down or stops; a frame is counted
as runt, overrun, oversize or bad, or is stamped if it carries a PTP event message (R63) and goes on to be parsed; pauses begin and end; a cell parses a frame; banks swap, a rule's VALID is
written, and a frame is delivered to its queue's strand. -/
def Obligations.FramesComeIn : Prop :=
  ∀ (s : State) (master n i p b r c q enable : Nat) (l : List Byte) (quanta : List Nat) (value : Word), s.Live →
    let d := s.dev
    let state := d.fld NET_PORT_STATUS.STATE [n]
    let key := RegName.NET_PORT_PFC_STATUS.key [n]
    (d.portRuns n = true →
      (state ≠ 2 → d.fld SW_ROUTE_CTL.HOLDOFF ≠ 0 → exec (.netLinkUp n) s = .next (s.did
        ((((d.setFld NET_PORT_STATUS.UP_EV 1 [n]).setFld SW_PORT_STATUS.PEER_SEEN 0 [n]).modPort n fun p =>
          { p with upAt := d.now, announce := d.meshPort n, announceAt := d.now + 1000000 }).setFld NET_PORT_STATUS.STATE 2 [n]).settle)) ∧
      (∀ st ∈ [0, 1, 3, 4],
        (state ≠ 2 → exec (.netLinkDown n st [] []) s = .next (s.did (d.setFld NET_PORT_STATUS.STATE st [n]).settle)) ∧
        (state = 2 → exec (.netLinkDown n st [] []) s =
          .next (s.did ((d.setFld NET_PORT_STATUS.STATE st [n]).leaveUp s.mem n).settle)))) ∧
    (d.netLane n = true → d.flag NET_PORT_CTL.STOPPED [n] = false → d.flag NET_PORT_CTL.RUN [n] = true →
      NET_PORT_CTL.RUN.get value = 0 → NET_PORT_CTL.MODE.get value ≤ 5 →
      (d.part = .t512 ∨ NET_PORT_CTL.PARSE.get value = 0) → (∀ fd ∈ RegName.NET_PORT_CTL.fields, fd.fld ≠ NET_PORT_CTL.RUN → fd.acc = .rw →
        fd.fld.get value = d.fld fd.fld [n]) →
      let e := (d.setFld NET_PORT_CTL.RUN 0 [n]).modPort n fun p => { p with sending := none }
      (state ≠ 2 → exec (.portStop master n 8 0 value [] []) s = .next (s.did
        ((e.setFld NET_PORT_STATUS.STATE 5 [n]).settle.setFld NET_PORT_CTL.STOPPED 1 [n]))) ∧
      (state = 2 → exec (.portStop master n 8 0 value [] []) s = .next (s.did
        (((e.setFld NET_PORT_STATUS.STATE 5 [n]).leaveUp s.mem n).settle.setFld NET_PORT_CTL.STOPPED 1 [n])))) ∧
    (d.netUp n = true →
      let f := d.arriving n l
      let takes := d.account n f.pri + cellsOf (l.take (d.maxFrame n)) ≤ d.fld NET_PRI_THRESH.LIMIT [n, f.pri]
      let rx (whole : Bool) (e : Dev) := exec (.rxFrame n l whole [] [] []) s = .next (s.did e.settle)
      (l.length < 64 → rx true (d.count .NET_RX_RUNT [n])) ∧
      (64 ≤ l.length → beAt l 12 2 ≠ 0x8808 → isAnnounce l = false →
        (¬ takes → rx true ((d.count .NET_RX_OVERRUN [n]).report { code := 0x0504, kind := 6, unit := n, detail := f.pri })) ∧
        (takes → d.maxFrame n < l.length → rx true (d.count .NET_RX_OVERSIZE [n])) ∧
        (takes → l.length ≤ d.maxFrame n → fcsOk l = false → rx true (d.count .NET_RX_BAD [n])) ∧
        (takes → l.length ≤ d.maxFrame n → rx false (d.count .NET_RX_BAD [n])) ∧
        (takes → l.length ≤ d.maxFrame n → fcsOk l = true →
          let e := ((d.count .NET_RX_FRAMES [n]).count .NET_RX_BYTES [n] l.length).ptpStamp n f false
          ((d.flag NET_PORT_CTL.PARSE [n] && d.flag PARSE_CTL.EN [plotOfLane n]) = true → (∀ x ∈ d.net.parse, x.2 = false) →
            rx true { e with net := { e.net with parse := d.net.parse ++ [(f, false)] } }) ∧
          ((d.flag NET_PORT_CTL.PARSE [n] && d.flag PARSE_CTL.EN [plotOfLane n]) = false → d.net.parse = [] →
            rx true (e.process s.mem f)))) ∧
      (d.fld NET_PORT_PFC_STATUS.PAUSING [n] ≠ 0 → (d.port n).refreshAt ≤ d.now → exec (.pfcRefresh n) s = .next (s.did
        (d.modPort n fun p => { p with pfcOwed := p.pfcOwed ||| d.fld NET_PORT_PFC_STATUS.PAUSING [n]
                                       refreshAt := d.now + d.pfcRefresh n }))) ∧
      (Answers (.pfcReceive n enable quanta) s fun t =>
        let rate := max 1 (modeRate (d.fld NET_PORT_CTL.MODE [n]))
        (∀ i, i < 8 →
          let k := quanta.getD i 0
          bit (t.dev.fld NET_PORT_PFC_STATUS.PAUSED [n]) i =
            (if bit enable i then decide (k ≠ 0) else bit (d.fld NET_PORT_PFC_STATUS.PAUSED [n]) i) ∧
          tget 0 (t.dev.port n).pauses i = if bit enable i then (if k = 0 then 0 else d.now + (k * 512 + rate - 1) / rate)
            else tget 0 (d.port n).pauses i) ∧
        Only [.net, .regs] s t ∧ RegsBut [key] s t)) ∧
    (d.netLane n = true → i < 8 → bit (d.fld NET_PORT_PFC_STATUS.PAUSED [n]) i = true → tget 0 (d.port n).pauses i ≤ d.now →
      Answers (.pfcPauseExpire n i) s fun t =>
        (∀ k, k < 8 → bit (t.dev.fld NET_PORT_PFC_STATUS.PAUSED [n]) k =
          (bit (d.fld NET_PORT_PFC_STATUS.PAUSED [n]) k && decide (k ≠ i))) ∧ Only [.net, .regs] s t ∧ RegsBut [key] s t) ∧
    (p < 4 → d.flag PARSE_CTL.EN [p] = true → d.gatedBlock p 3 = false → d.nextCell p = some c →
      ∀ f before after, d.net.parse = before ++ (f, false) :: after → plotOfLane f.port = p →
        (∀ x ∈ before, plotOfLane x.1.port ≠ p) → exec (.parseCellRun p) s = .next (s.did
          (let res := d.cellResult s.mem p f
           let e := ({ d with net := { d.net with lastCell := tset 63 d.net.lastCell p c
                                                  parse := before ++ ({ f with record := res.1 }, true) :: after } }).count
             .PARSE_FRAMES [p]
           ((if res.2 then e.count .PARSE_FAULTS [p] else e).drainParse s.mem).settle))) ∧
    (p < 4 → ∀ e ∈ [(Instr.clsSwap master p 8 value, CLS_STATUS.BANK), (.parseSwap master p 8 value, PARSE_STATUS.BANK)],
      d.part = .t512 → exec e.1 s = .next (s.did (if value.getLsbD 0 then d.setFld e.2 (1 - d.fld e.2 [p]) [p] else d))) ∧
    (d.plots ≤ p → p < 4 → b < 2 → r < 16384 → ∀ valid, exec (.ruleValidWrite master p b r valid) s = .next s) ∧
    (p < d.plots → b < 2 → r < 16384 →
      let x := d.clsRow p b r
      let addr := 0x40010000000 + p * 0x1000000 + 0x800000 + b * 0x400000 + r * 256 + 248
      exec (.ruleValidWrite master p b r false) s = .next (s.did (d.setClsRow p b r { x with valid := false })) ∧
      exec (.ruleValidWrite master p b r true) s = .next (s.did (if actionReserved x.action then
        d.blame 0x0204 master addr (addr - 0x40000000000) else d.setClsRow p b r { x with valid := true, hits := 0, bad := false }))) ∧
    (let size := d.dqSize p q
     let tail := d.fld DQ_TAIL.INDEX [p, q]
     let next := (tail + 1) % size
     let box := epKey 0 (d.fld DQ_CTL.STRAND [p, q])
     let n := 2 ^ (d.fld DQ_CTL.SLOTLOG [p, q] + 8)
     ∀ f t, tget [] d.net.dq (256 * p + q) = f :: t →
       (d.flag DQ_CTL.RUN [p, q] = false ∨ next = d.fld DQ_HEAD.INDEX [p, q] % size → exec (.dqFrameDeliver p q) s = .next (s.did d)) ∧
       (d.flag DQ_CTL.RUN [p, q] = true → next ≠ d.fld DQ_HEAD.INDEX [p, q] % size → (d.queue box).length < 16 →
         exec (.dqFrameDeliver p q) s = .next (s.did
           (let e := ((d.wrMem 0xFFFF (d.fld DQ_BASE.BASE [p, q] * 4096 + n * tail) (dqSlot f n)).setFld DQ_TAIL.INDEX next [p, q]).post box
              { data := BitVec.ofNat 512 (q + p * 256 + next * 2 ^ 32) }
            ({ e with net := { e.net with dq := tset [] e.net.dq (256 * p + q) t } }).settle))))

/-- R693, R694, R696 to R698, R700, R704, R715, R718, R719, R721 and R726, hub tables and schedulers: READ, WRITE, INSERT, DELETE and LOOKUP with
their results, a parity error among them; the placement cache starts empty; a policer's bucket is full; a reservation is admitted if the
sum and a slot allow it; and a sample records every queue's depth and delay. -/
def Obligations.TablesAndSchedulersRun : Prop :=
  ∀ (s : State) (master t i p k r n cls func rate : Nat) (value : Word), s.Live →
    let d := s.dev
    (1 ≤ t → t ≤ 6 → (t = 6 → d.flag TABLES_PLC.EN = true) → i < 2 ^ 24 →
      let data := d.tabData
      let new : TabEnt := { data := tabStored t data, stamp := d.now }
      let ent (j : Nat) := d.tabEnt s.mem t j
      let free (j : Nat) : Bool := !tabValid t (ent j).data
      let ways := (List.range (tabWays t)).map (tabSet t new.data * tabWays t + ·)
      let e (op i : Nat) := d.regWrite .TABLES_CMD [] ⟨master, 8, 0, tablesWord op t i⟩
      (tabEntries t ≤ i → exec (.tableRead master t i false) s = .next (s.did ((e 1 i).tabResult 7)) ∧
        exec (.tableWrite master t i) s = .next (s.did ((e 2 i).tabResult 7))) ∧
      (i < tabEntries t →
        exec (.tableRead master t i false) s = .next (s.did (((e 1 i).setTabData (d.tabShow t (ent i))).tabResult 0)) ∧
        exec (.tableRead master t i true) s = .next (s.did ((((e 1 i).tabParity s.mem t i).setTabData []).tabResult 5)) ∧
        (d.tabEntryOk t data = false → exec (.tableWrite master t i) s = .next (s.did ((e 2 i).tabResult 8))) ∧
        (d.tabEntryOk t data = true → (tabHashed t = true → tabValid t data = true → tabSet t data = i / tabWays t) →
          exec (.tableWrite master t i) s = .next (s.did (if d.tabPinned t (ent i) then (e 2 i).tabResult 9
            else ((e 2 i).tabPut t i new).tabResult 0)))) ∧
      (tabHashed t = true →
        (d.tabEntryOk t data = true →
          (∀ j, d.tabFind s.mem t new.data = some j →
            exec (.tableInsert master t) s = .next (s.did (((e 3 0).tabPut t j new).tabResult 2 j))) ∧
          (∀ j, d.tabFind s.mem t new.data = none → ways.find? free = some j →
            exec (.tableInsert master t) s = .next (s.did (((e 3 0).tabPut t j new).tabResult 0 j))) ∧
          (d.tabFind s.mem t new.data = none → ways.find? free = none → (∀ j ∈ ways, d.tabPinned t (ent j) = true) →
            exec (.tableInsert master t) s = .next (s.did ((e 3 0).tabResult 4)))) ∧
        (d.tabFind s.mem t data = none →
          exec (.tableDelete master t) s = .next (s.did (((e 4 0).setTabData []).tabResult 1)) ∧
          exec (.tableLookup master t false) s = .next (s.did (((e 5 0).setTabData []).tabResult 1))) ∧
        (∀ j, d.tabFind s.mem t data = some j →
          exec (.tableDelete master t) s = .next (s.did (if d.tabPinned t (ent j) then (e 4 0).tabResult 9 j
            else ((e 4 0).tabDrop s.mem t j).tabResult 0 j)) ∧
          exec (.tableLookup master t false) s =
            .next (s.did (((e 5 0).setTabData (d.tabShow t (ent j))).tabResult 0 j)) ∧
          exec (.tableLookup master t true) s =
            .next (s.did ((((e 5 0).tabParity s.mem t j).setTabData []).tabResult 5 j))))) ∧
    (d.flag TABLES_PLC.EN = false → value.getLsbD 0 = true → inHbm (TABLES_PLC.BASE.get value * 67108864) 67108864 = true →
      exec (.plcStart master 8 0 value) s = .next (s.did
        (((d.setReg .TABLES_PLC (TABLES_PLC.BASE.set (TABLES_PLC.EN.set (d.reg .TABLES_PLC) 1) (TABLES_PLC.BASE.get value))).setFld
          TABLES_PLC.IDLE 0).plcInvalidate s.mem))) ∧
    (p < 4 → k < 16384 →
      let burst := SCHED_POL_CFG.BURST.get value
      exec (.policerConfig master p k 8 0 value) s = .next (s.did
        ((d.setReg .SCHED_POL_CFG (SCHED_POL_CFG.BURST.set (SCHED_POL_CFG.RATE.set (d.reg .SCHED_POL_CFG [p, k])
          (SCHED_POL_CFG.RATE.get value)) burst) [p, k]).setBucket p k (burst * 8000)))) ∧
    (cls ≤ 4 → 1 ≤ rate → rate ≤ 6400 → func < 8192 → (cls = 0 ∨ func = 0) →
      let e := d.regWrite .SCHED_RESV_CMD [] ⟨master, 8, 0, BitVec.ofNat 64 (1 + 4 * cls + 32 * func + 2 ^ 18 * rate)⟩
      (6400 < d.resvSum + rate → exec (.resvAdmit master cls func rate) s = .next (s.did (e.resvResult 1))) ∧
      (d.resvSum + rate ≤ 6400 → d.resvFree = none → exec (.resvAdmit master cls func rate) s = .next (s.did (e.resvResult 2))) ∧
      (d.resvSum + rate ≤ 6400 → d.resvFree = some r → exec (.resvAdmit master cls func rate) s = .next (s.did
        (((((e.setFld SCHED_RESV.CLASS cls [r]).setFld SCHED_RESV.FUNC func [r]).setFld SCHED_RESV.RATE rate [r]).setFld
          SCHED_RESV.VALID 1 [r]).setFld SCHED_RESV_CMD.SLOT r |>.resvSync.resvResult 0)))) ∧
    (r < 256 →
      let e := d.regWrite .SCHED_RESV_CMD [] ⟨master, 8, 0, BitVec.ofNat 64 (2 + 2 ^ 32 * r)⟩
      exec (.resvRelease master r) s = .next (s.did (if d.flag SCHED_RESV.VALID [r] then
        ((e.setReg .SCHED_RESV 0 [r]).resvSync).resvResult 0 else e.resvResult 3))) ∧
    (d.netLane n = true → d.flag SCHED_PORT_TEL.EN [n] = true → (d.port n).sampleAt ≤ d.now → d.now % d.telPeriod n = 0 →
      Answers (.queueSample n) s fun t =>
        (t.dev.port n).sampleAt = d.now + 1 ∧
        (∀ q, q < 16 →
          t.dev.fld SCHED_QTEL_LAST.DEPTH [n, q] = (d.qSample n q).1 % 2 ^ 24 ∧
          t.dev.fld SCHED_QTEL_LAST.DELAY [n, q] = (d.qSample n q).2 ∧
          t.dev.fld SCHED_QTEL_MAX.DEPTH [n, q] = max (d.fld SCHED_QTEL_MAX.DEPTH [n, q]) ((d.qSample n q).1 % 2 ^ 24) ∧
          t.dev.fld SCHED_QTEL_MAX.DELAY [n, q] = max (d.fld SCHED_QTEL_MAX.DELAY [n, q]) (d.qSample n q).2) ∧
        Only [.net, .regs] s t ∧
        RegsBut ((List.range 16).flatMap fun q => [RegName.SCHED_QTEL_LAST.key [n, q], RegName.SCHED_QTEL_MAX.key [n, q]]) s t)

/-- R675, R677, R680, R681, R685 to R687, R689, R703, R707 and R710, the switch core: a waiting frame is admitted once its queues have room, a
port sends pause and announce frames first, then queue 0, then 1, then the weighted queue whose tag is least; announces, ageing and the
route holdoff; and a flush takes every frame off one port's queues. -/
def Obligations.SwitchCoreForwards : Prop :=
  ∀ (s : State) (master n i q node : Nat) (smac : List Byte) (value : Word), s.Live →
    let d := s.dev
    let p := d.port n
    let mine (w : WaitF) : Bool := decide (w.frame.port = n) && decide (w.frame.pri = i)
    (∀ w, d.net.waits.find? mine = some w → w.route = none →
      let waits := d.net.waits.eraseP mine
      (w.ports.filter (fun e => d.netUp e.1) = [] →
        exec (.frameAdmit n i) s = .next (s.did ({ d with net := { d.net with waits := waits } } : Dev).settle)) ∧
      (∀ e, w.ports = [(e, q)] → d.netUp e = true → d.fits (plotOfLane e) [(e, q)] (cellsOf w.frame.data) = true →
        exec (.frameAdmit n i) s = .next (s.did ({ d with net := { d.net with
          waits := waits, frames := tput d.net.frames d.net.next w.frame, next := d.net.next + 1
          ents := d.net.ents ++ [{ fr := d.net.next, port := e, q := q, plot := plotOfLane e, since := d.now }] } } : Dev).settle))) ∧
    (d.netUp n = true → p.sending = none →
      let starts (x : Dev) (e : QEnt) : Dev := ((({ x with net := { x.net with ents := x.net.ents.erase e } }).ptpStamp n (d.frame e.fr) true).modPort n
        fun p => { p with sending := some (.frame e) }).emit (.frameTx n (d.ptpForward n (d.frame e.fr)))
      (p.pfcOwed ≠ 0 → exec (.frameTransmit n) s = .next (s.did ((d.emit (.frameTx n (d.pfcFrame n))).modPort n
        fun p => { p with pfcOwed := 0, sending := some .control }))) ∧
      (p.pfcOwed = 0 → p.announce = true → exec (.frameTransmit n) s = .next (s.did
        ((d.emit (.frameTx n d.announceFrame)).modPort n fun p => { p with announce := false, sending := some .control }))) ∧
      (p.pfcOwed = 0 → p.announce = false →
        (∀ e, d.qHead n q = some e → d.qReady n q = true → (q = 0 ∨ q = 1 ∧ d.qReady n 0 = false) →
          exec (.frameTransmit n) s = .next (s.did (starts d e))) ∧
        (d.qReady n 0 = false → d.qReady n 1 = false →
          (d.wfqPick n = none → exec (.frameTransmit n) s = .next (s.did d)) ∧
          (∀ e, d.wfqPick n = some q → d.qHead n q = some e → Answers (.frameTransmit n) s fun t =>
            t.dev.reg .SCHED_PORT_VT [n] = tget 0 p.startTag q ∧ (t.dev.port n).sending = some (.frame e) ∧
            t.dev.net.ents = d.net.ents.erase e ∧ t.dev.out = d.out ++ (if ptpEvent (d.frame e.fr) 16 then [.ptpStamp n true d.stamp.1 d.stamp.2.1] else []) ++
              [.frameTx n (d.ptpForward n (d.frame e.fr))] ∧
            Only [.net, .regs, .outside] s t ∧ RegsBut [RegName.SCHED_PORT_VT.key [n]] s t)))) ∧
    (p.sending ≠ none → exec (.frameTxDone n) s = .next (s.did (d.modPort n fun p => { p with sending := none }).settle)) ∧
    (d.netUp n = true →
      (d.meshPort n = true → p.announceAt ≤ d.now → exec (.meshAnnounce n) s = .next (s.did
        (d.modPort n fun p => { p with announce := true, announceAt := d.now + 1000000 }))) ∧
      (d.meshPort n = true → exec (.meshAnnounceRx n smac node) s = .next (s.did
        (((d.place s.mem smac 0 n true).setFld SW_PORT_PEER.PEER_NODE node [n]).setFld SW_PORT_STATUS.PEER_SEEN 1 [n]))) ∧
      (d.meshPort n = false → exec (.meshAnnounceRx n smac node) s = .next (s.did d)) ∧
      (d.flag SW_PORT_STATUS.ROUTE_UP [n] = false → p.upAt + d.fld SW_ROUTE_CTL.HOLDOFF * 1000000 ≤ d.now →
        exec (.routeHoldoffExpire n) s = .next (s.did (d.setFld SW_PORT_STATUS.ROUTE_UP 1 [n])))) ∧
    (let age := d.fld SW_BRIDGE_CTL.AGE * 1000000000
     (age = 0 → exec .bridgeAge s = .next (s.did d)) ∧
     (age ≠ 0 → (∃ x ∈ tget [] d.net.tables 1, tabValid 1 x.2.data = true ∧ bridgeStatic x.2.data = false ∧ x.2.stamp + age ≤ d.now) →
       exec .bridgeAge s = .next (s.did (d.bridgeRemove fun e => decide (e.stamp + age ≤ d.now))))) ∧
    (n < 320 → value.getLsbD 23 = true → Answers (.portFlush master n 8 0 value) s fun t =>
      (∀ e ∈ t.dev.net.ents, e.port ≠ n) ∧ (∀ e, e.port ≠ n → (e ∈ t.dev.net.ents ↔ e ∈ d.net.ents)) ∧
      t.dev.reg .SW_FLUSHED = d.reg .SW_FLUSHED + BitVec.ofNat 64 (d.net.ents.filter fun e => e.port = n).length ∧
      t.dev.flag SW_PORT_CTL.FLUSH [n] = false ∧
      (∀ fd ∈ RegName.SW_PORT_CTL.fields, fd.acc = .rw → t.dev.fld fd.fld [n] = fd.fld.get value))

/-- R738 to R743, R753 and R754, reliable transport, sending: a command starts, waits behind its flow's others or for an entry, or ends with the
result of its test; a retransmission or the loss of the peer follows a timeout; and an ACK or NAK of packets in the window moves the flow
on, repeats, or fails what it names, while any other is counted as stale. -/
def Obligations.TrdSendsAndRepeats : Prop :=
  ∀ (s : State) (p node splot dplot cls : Nat) (alts : List (Nat × Nat × Nat)), s.Live →
    let d := s.dev
    let m := s.mem
    (∀ x rest,
      let c := sendCmd x.bytes
      let k := c.flow p
      let wait := d.queue (epKey 0xE p)
      let started (e : Dev) : Dev := ((({ e with trd := { e.trd with next := e.trd.next + 1 } } : Dev).modFlow k fun f =>
        { f with cmds := f.cmds ++ [{ num := e.trd.next, plot := p, msg := x }]
                 todo := f.todo ++ c.pkts e.trd.next e.maxPay }).pump m k).settle
      (p < 4 → d.queue (epKey 0xA p) = x :: rest → d.stale x.workid = false →
        let e := d.pop (epKey 0xA p)
        ∀ o ∈ [(Instr.trdWrite p, 1), (.trdRead p, 2), (.trdSend p, 3)], c.op = o.2 →
          ((wait.any fun y => decide ((sendCmd y.bytes).flow p = k)) = true → exec o.1 s = .next (s.did (e.post (epKey 0xE p) x))) ∧
          ((wait.any fun y => decide ((sendCmd y.bytes).flow p = k)) = false →
            (d.sendTest p x = 0 → d.swcRoom m k = false → exec o.1 s =
              .next (s.did ((e.post (epKey 0xE p) x).count .TRD_SWC_WAITS))) ∧
            (d.sendTest p x = 0 → d.swcRoom m k = true → exec o.1 s = .next (s.did (started e))) ∧
            (d.sendTest p x ∉ [0, 8, 9] → exec o.1 s = .next (s.did (e.doneMsg p x (d.sendTest p x) 0).settle)))) ∧
      (wait = x :: rest →
        let e := d.setQueue (epKey 0xE p) rest
        (d.stale x.workid = true → exec (.swcWaitResume p) s = .next (s.did e.discardStale)) ∧
        (d.stale x.workid = false → d.sendTest p x = 0 → d.swcRoom m k = true →
          exec (.swcWaitResume p) s = .next (s.did (started e))))) ∧
    (∀ i, let k := flowNum node splot dplot cls
      d.swcFind m k = some i →
        (∀ t, (d.flow k).rnrAt = some t → t ≤ d.now → exec (.rnrDelayExpire node splot dplot cls) s = .next (s.did
          (((d.modFlow k fun f => { f with rnrAt := none }).resend m k i).pump m k).settle)) ∧
        (d.swcGet m i 24 8 ≠ 0 → d.swcGet m i 24 8 ≤ d.now →
          let tries := d.swcGet m i 20 2 + 1
          let e := d.swcPut m i 20 2 tries
          (tries ≤ d.fld TRD_TIMER.RETRIES → exec (.retxTimeout node splot dplot cls alts) s = .next (s.did (e.resend m k i).settle)) ∧
          (d.fld TRD_TIMER.RETRIES < tries → d.rowsOn (fun p => decide (p.1 = flowNode k)) = [] → exec (.retxTimeout node splot dplot cls alts) s = .next (s.did
            ((((e.setFlow k { d.flow k with sent := [], todo := [], rnrAt := none
                                            cmds := (d.flow k).cmds.map fun c => c.endAs 4 }).endFlow k).tabDrop m 5 i).report
              { code := 0x0505, kind := 13, unit := flowNode k, node := flowNode k }).settle)))) ∧
    (∀ y t, tget [] d.net.trdIn p = y :: t → d.flag TRD_CTL.EN = true → d.trdFrameOk y = true →
      let h := (trdParts y).1
      let e := ({ d with net := { d.net with trdIn := tset [] d.net.trdIn p t } } : Dev).trdActive
      let k := flowNum h.src h.dplot h.splot h.cls
      let named (c : Instr × Nat) : Prop := (c.2 = 0 → h.typ = 8) ∧ (c.2 ≠ 0 → h.typ = 9 ∧ h.code = c.2)
      let stale : Prop := ∀ c ∈ [(Instr.ack p, 0), (.nakSeq p, 1), (.nakSync p, 2), (.nakAccess p, 3), (.nakHost p, 4),
        (.nakRnr p, 5), (.nakMsg p, 6)], named c → exec c.1 s = .next (s.did (e.count .TRD_STALE_ACK).settle)
      (e.swcFind m k = none → stale) ∧
      (∀ i, e.swcFind m k = some i →
        let una := e.swcGet m i 16 3
        (e.swcGet m i 8 2 ≠ h.inc → stale) ∧
        (e.swcGet m i 8 2 = h.inc → psn (h.apsn + 2 ^ 24 - una) < psn (e.swcGet m i 12 3 + 2 ^ 24 - una) →
          let moved := e.ackMove m k i h.apsn
          let failed (r : Nat) := (e.modFlow k fun f => f.failAt h.apsn r).ackMove m k i h.apsn
          ∀ c ∈ [(Instr.ack p, 0, moved), (.nakSeq p, 1, moved.resend m k i),
              (.nakSync p, 2, (moved.swcPut m i 22 1 0).resend m k i), (.nakAccess p, 3, failed 1), (.nakHost p, 4, failed 2),
              (.nakRnr p, 5, (moved.swcPut m i 24 8 0).modFlow k fun f => { f with rnrAt := some (moved.now + moved.rnrDelay) }),
              (.nakMsg p, 6, failed 3)],
            named (c.1, c.2.1) → exec c.1 s = .next (s.did ((c.2.2.endFlow k).pump m k).settle))))

/-- R729, R734, R745 to R748, R751 and R755, reliable transport, receiving: a frame that fails its checks is dropped; a packet of an unknown flow, a
duplicate, or one out of order, is answered as such; the packet expected next is performed, or accepted and refused with a NAK; and
acknowledgements owed are sent. -/
def Obligations.TrdReceivesInOrder : Prop :=
  ∀ (s : State) (p node splot dplot cls i : Nat) (host : Option (List (BitVec 8))), s.Live →
    let d := s.dev
    let m := s.mem
    (∀ y t, tget [] d.net.trdIn p = y :: t →
      let drop : Dev := { d with net := { d.net with trdIn := tset [] d.net.trdIn p t } }
      let h := (trdParts y).1
      let pay := (trdParts y).2
      let q := h.dplot
      let e := drop.trdActive.count .TRD_RX_PKTS
      let k := flowNum h.src h.splot h.dplot h.cls
      let back := flowBack k
      let before := psn (h.psn + 2 ^ 24 - 1)
      let ends (x : Dev) := exec (.trdPacketRx p host) s = .next (s.did x.settle)
      (d.flag TRD_CTL.EN = false → ends drop) ∧
      (d.flag TRD_CTL.EN = true → d.trdFrameOk y = false → ends (drop.count .TRD_RX_BAD)) ∧
      (d.flag TRD_CTL.EN = true → d.trdFrameOk y = true → h.typ ≤ 4 →
        (e.petFind m k = none → h.sync = false → ends (e.sendAck m k h.inc 2 before)) ∧
        (e.petFind m k = some i → e.petGet m i 8 2 = h.inc →
          let epsn := e.petGet m i 12 3
          let steps (x : Dev) (failing : Nat) : Dev :=
            (((x.petPut m i 12 4 (psn (h.psn + 1))).petPut m i 20 1 failing).petPut m i 24 8 x.now).petTouch m i
          let done (x : Dev) := ends (((steps x 0).endFlow back).pump m back)
          (h.psn ≠ epsn → psn (epsn + 2 ^ 24 - 1 - h.psn) < e.trdWindow →
            ends (((e.petTouch m i).count .TRD_DUP).petAck m k i 0)) ∧
          (h.psn ≠ epsn → e.trdWindow ≤ psn (epsn + 2 ^ 24 - 1 - h.psn) →
            ends (if bit (e.petGet m i 20 1) 0 then e.count .TRD_OOO
              else ((e.count .TRD_OOO).petPut m i 20 1 (e.petGet m i 20 1 ||| 1)).petAck m k i 1)) ∧
          (h.psn = epsn → bit (e.petGet m i 20 1) 1 = true →
            ends (((steps e (if h.last then 0 else 2)).endFlow back).pump m back)) ∧
          (h.psn = epsn → bit (e.petGet m i 20 1) 1 = false →
            (h.typ = 1 → ∀ r, e.reachCheck m h h.payLen = (0, r) → e.needsXlate r h.addr = false → e.fnMaster r.func = true →
              done (e.hostWrite r.func (tagTrd q) h.addr r.pasid pay)) ∧
            (h.typ = 1 → ∀ code r, e.reachCheck m h h.payLen = (code + 1, r) →
              ends ((steps (e.reachFail q h h.payLen (code + 1) r) (if h.last then 0 else 2)).petAck m k i 3)) ∧
            (h.typ = 2 → ∀ r b, e.reachCheck m h h.msgLen = (0, r) → e.fnMaster r.func = true → host = some b →
              done ((e.sendHostRead r.func h.addr h.msgLen r.pasid).modFlow back
                fun f => { f with todo := f.todo ++ respPkts h.psn (slice b 0 h.msgLen) e.maxPay })) ∧
            (h.typ = 3 → done (e.doReadResp q k h pay)) ∧
            (h.typ = 4 → h.first = true → e.flag TRD_RING_CTL.RUN [q, h.key % 256] = false →
              ends ((steps e (if h.last then 0 else 2)).petAck m k i 6)) ∧
            (h.typ = 4 → h.first = true → h.last = false → h.key % 256 ≤ 63 → e.flag TRD_RING_CTL.RUN [q, h.key % 256] = true →
              h.msgLen ≤ e.rxSlot q (h.key % 256) → h.addr + pay.length ≤ e.rxSlot q (h.key % 256) → e.rxMsg k = none →
              let r := h.key % 256
              let slot := e.rxNext q r
              let ring := e.rxRing q r
              (slot + 1) % e.rxSize q r ≠ e.fld TRD_RING_HEAD.INDEX [q, r] % e.rxSize q r →
              done (((e.setRxRing q r { ring with taken := ring.taken ++ [(slot, false)] }).wrMem (tagTrd q)
                (e.fld TRD_RING_BASE.BASE [q, r] * 4096 + slot * e.rxSlot q r + h.addr) pay).setRxMsg k (some ⟨r, slot, h.inc⟩))) ∧
            (h.typ = 4 → h.first = true → h.key % 256 ≤ 63 → e.flag TRD_RING_CTL.RUN [q, h.key % 256] = true →
              h.msgLen ≤ e.rxSlot q (h.key % 256) → e.rxMsg k = none →
              (e.rxNext q (h.key % 256) + 1) % e.rxSize q (h.key % 256) =
                e.fld TRD_RING_HEAD.INDEX [q, h.key % 256] % e.rxSize q (h.key % 256) →
              ends ((e.count .TRD_RNR).petAck m k i 5)))))) ∧
    (let k := flowNum node splot dplot cls
     d.tabFind m 4 (flowKey k) = some i →
      (psn (d.petGet m i 16 3 + 1) ≠ d.petGet m i 12 3 → exec (.ackTransmit node splot dplot cls) s = .next (s.did
        (let a := psn (d.petGet m i 12 3 + 2 ^ 24 - 1)
         (d.petPut m i 16 4 a).sendAck m k (d.petGet m i 8 2) 0 a |>.settle))) ∧
      (psn (d.petGet m i 16 3 + 1) = d.petGet m i 12 3 →
        exec (.ackTransmit node splot dplot cls) s = .next (s.did d) ∧
        (d.clk.refclk = true → Answers (.petHoldExpire node splot dplot cls) s fun t =>
          t.dev.tabPinned 4 (d.tabEnt m 4 i) = false ∧ t.dev.now = max d.now ((d.tabEnt m 4 i).stamp + d.petHold) ∧
          Only [.clock] s t)))
end

