-- ==== Sys2Proof/Laws/Bytes.lean ====
section
/-! SUPPORT. Byte strings as numbers: byte i of a little-endian number, of a word, and of a word's byte string. -/

namespace Sys2Proof.Machine

theorem leBytes_length (n v : Nat) : (leBytes n v).length = n := by
  induction n generalizing v with
  | zero => rfl
  | succ n ih => simp [leBytes, ih]
theorem leBytes_get (n v i : Nat) (h : i < n) : (leBytes n v)[i]? = some (BitVec.ofNat 8 (v / 256 ^ i)) := by
  induction n generalizing v i with
  | zero => omega
  | succ n ih =>
    cases i with
    | zero => simp [leBytes]
    | succ i => simp only [leBytes, List.getElem?_cons_succ]; rw [ih _ _ (by omega), Nat.div_div_eq_div_mul, Nat.pow_succ, Nat.mul_comm]
theorem leNat_byte (l : List Byte) (i : Nat) : leNat l / 256 ^ i % 256 = (l[i]?.getD 0).toNat := by
  induction l generalizing i with
  | nil => simp [leNat]
  | cons b t ih =>
    have := b.isLt
    cases i with
    | zero => simp [leNat]; omega
    | succ i =>
      simp only [leNat, List.getElem?_cons_succ]
      rw [← ih i, Nat.pow_succ, Nat.mul_comm (256 ^ i) 256, ← Nat.div_div_eq_div_mul]
      congr 2; omega
theorem leNat_lt (l : List Byte) : leNat l < 2 ^ (8 * l.length) := by
  induction l with
  | nil => simp [leNat]
  | cons b t ih => simp only [leNat, List.length_cons, Nat.mul_add, Nat.pow_add]; have := b.isLt; omega

theorem extr {n : Nat} (v i : Nat) (hi : 8 * i + 8 ≤ n) : (BitVec.ofNat n v).extractLsb' (8 * i) 8 = BitVec.ofNat 8 (v / 256 ^ i) := by
  apply BitVec.eq_of_toNat_eq
  have e : (256:Nat) ^ i = 2 ^ (8 * i) := by rw [Nat.pow_mul]
  simp only [BitVec.extractLsb'_toNat, BitVec.toNat_ofNat, e, Nat.shiftRight_eq_div_pow]
  apply Nat.eq_of_testBit_eq; intro j
  simp only [Nat.testBit_mod_two_pow, Nat.testBit_div_two_pow]
  by_cases hj : j < 8 <;> simp [hj]
  intro; omega
theorem extr_self {n : Nat} (x : BitVec n) (i : Nat) (hi : 8 * i + 8 ≤ n) : x.extractLsb' (8 * i) 8 = BitVec.ofNat 8 (x.toNat / 256 ^ i) := by
  have hx : x = BitVec.ofNat n x.toNat := by simp
  conv => lhs; rw [hx]
  exact extr _ _ hi

theorem leBytes_eq {w : Nat} (n : Nat) (x : BitVec w) (h : 8 * n ≤ w) : leBytes n x.toNat = (List.range n).map fun i => x.extractLsb' (8 * i) 8 := by
  apply List.ext_getElem?; intro i
  by_cases hi : i < n
  · rw [leBytes_get _ _ _ hi, List.getElem?_map, List.getElem?_range hi]; simp only [Option.map_some]
    rw [extr_self x i (by omega)]
  · rw [List.getElem?_eq_none (by rw [leBytes_length]; omega), List.getElem?_eq_none (by simp; omega)]

theorem ofle_byte {w : Nat} (l : List Byte) (i : Nat) (h : 8 * i + 8 ≤ w) : (BitVec.ofNat w (leNat l)).extractLsb' (8 * i) 8 = l[i]?.getD 0 := by
  rw [extr _ _ h]
  apply BitVec.eq_of_toNat_eq
  rw [BitVec.toNat_ofNat]; exact leNat_byte l i

theorem slice_self (l : List Byte) (n : Nat) (h : l.length = n) : slice l 0 n = l := by
  subst h; simp [slice]

end Sys2Proof.Machine
end

