-- ==== Sys2Proof/Laws/Table.lean ====
section
/-! SUPPORT. Sparse tables: a lookup after an update, at the key updated and at any other. -/

namespace Sys2Proof.Machine

variable {α : Type}

@[simp] theorem tfind_nil (k : Nat) : tfind ([] : Tbl α) k = none := rfl

@[simp] theorem tfind_tput_self (t : Tbl α) (k : Nat) (v : α) : tfind (tput t k v) k = some v := by
  induction t with
  | nil => simp [tput, tfind]
  | cons e t ih =>
    obtain ⟨k', v'⟩ := e
    simp only [tput]
    split
    · simp [tfind]
    · split
      · simp [tfind]
      · rename_i h _; simp [tfind, h, ih]

theorem tfind_tput_ne (t : Tbl α) {k j : Nat} (v : α) (h : j ≠ k) : tfind (tput t k v) j = tfind t j := by
  induction t with
  | nil => simp [tput, tfind, h]
  | cons e t ih =>
    obtain ⟨k', v'⟩ := e
    simp only [tput]
    split
    · next he => subst he; simp [tfind, h]
    · split
      · simp [tfind, h]
      · simp only [tfind, ih]

@[simp] theorem tfind_tdel_self (t : Tbl α) (k : Nat) : tfind (tdel t k) k = none := by
  induction t with
  | nil => rfl
  | cons e t ih =>
    obtain ⟨k', v'⟩ := e
    simp only [tdel]
    split
    · exact ih
    · next h => simp [tfind, h, ih]

theorem tfind_tdel_ne (t : Tbl α) {k j : Nat} (h : j ≠ k) : tfind (tdel t k) j = tfind t j := by
  induction t with
  | nil => rfl
  | cons e t ih =>
    obtain ⟨k', v'⟩ := e
    simp only [tdel]
    split
    · next he => subst he; simp [tfind, h, ih]
    · simp only [tfind, ih]

@[simp] theorem tget_nil (z : α) (k : Nat) : tget z ([] : Tbl α) k = z := rfl

@[simp] theorem tget_tput_self (z : α) (t : Tbl α) (k : Nat) (v : α) : tget z (tput t k v) k = v := by
  simp [tget]

theorem tget_tput_ne (z : α) (t : Tbl α) {k j : Nat} (v : α) (h : j ≠ k) : tget z (tput t k v) j = tget z t j := by
  simp [tget, tfind_tput_ne t v h]

@[simp] theorem tget_tdel_self (z : α) (t : Tbl α) (k : Nat) : tget z (tdel t k) k = z := by simp [tget]

theorem tget_tdel_ne (z : α) (t : Tbl α) {k j : Nat} (h : j ≠ k) : tget z (tdel t k) j = tget z t j := by
  simp [tget, tfind_tdel_ne t h]

theorem tdel_tput (t : Tbl α) (k : Nat) (v : α) : tdel (tput t k v) k = tdel t k := by
  induction t with
  | nil => simp [tput, tdel]
  | cons e t ih =>
    obtain ⟨k', v'⟩ := e
    simp only [tput]
    split
    · next h => subst h; simp [tdel]
    · split
      · next h h2 => simp [tdel]
      · next h h2 => simp only [tdel, if_neg h, ih]
theorem tput_tput (t : Tbl α) (k : Nat) (v w : α) : tput (tput t k v) k w = tput t k w := by
  induction t with
  | nil => simp [tput]
  | cons e t ih =>
    obtain ⟨k', v'⟩ := e
    simp only [tput]
    split
    · next h => subst h; simp [tput]
    · split
      · next h h2 => simp [tput]
      · next h h2 => simp only [tput, if_neg h, if_neg h2, ih]

variable [DecidableEq α]

/-- What was written is read. -/
@[simp] theorem tget_tset_self (z : α) (t : Tbl α) (k : Nat) (v : α) : tget z (tset z t k v) k = v := by
  unfold tset
  split
  · next h => simp [h]
  · simp

/-- A write changes no other key. -/
theorem tget_tset_ne (z : α) (t : Tbl α) {k j : Nat} (v : α) (h : j ≠ k) : tget z (tset z t k v) j = tget z t j := by
  unfold tset
  split
  · exact tget_tdel_ne z t h
  · exact tget_tput_ne z t v h

theorem tfind_tset_ne (z : α) (t : Tbl α) {k j : Nat} (v : α) (h : j ≠ k) : tfind (tset z t k v) j = tfind t j := by
  unfold tset
  split
  · exact tfind_tdel_ne t h
  · exact tfind_tput_ne t v h

@[simp] theorem tget_tmod_self (z : α) (t : Tbl α) (k : Nat) (f : α → α) : tget z (tmod z t k f) k = f (tget z t k) := by
  simp [tmod]

theorem tget_tmod_ne (z : α) (t : Tbl α) {k j : Nat} (f : α → α) (h : j ≠ k) : tget z (tmod z t k f) j = tget z t j := by
  simp [tmod, tget_tset_ne z t _ h]

theorem tset_tset (z : α) (t : Tbl α) (k : Nat) (v w : α) (h : v ≠ z) : tset z (tset z t k v) k w = tset z t k w := by
  simp only [tset, if_neg h]
  split
  · exact tdel_tput t k v
  · exact tput_tput t k v w

end Sys2Proof.Machine
end

