-- ==== Sys2Proof/Laws/Field.lean ====
section
/-! SUPPORT. Fields of a register word, and the register table: a field after a write of it, of another field of its word,
and of another register. -/

namespace Sys2Proof.Machine

theorem bits_lt (v lo n : Nat) : bits v lo n < 2 ^ n := Nat.mod_lt _ (Nat.two_pow_pos n)

theorem bits_mul_le (v lo n : Nat) : bits v lo n * 2 ^ lo ≤ v := by
  unfold bits
  calc v / 2 ^ lo % 2 ^ n * 2 ^ lo ≤ v / 2 ^ lo * 2 ^ lo := Nat.mul_le_mul_right _ (Nat.mod_le _ _)
    _ ≤ v := Nat.div_mul_le_self _ _

theorem bits_testBit (v lo n i : Nat) : (bits v lo n).testBit i = (decide (i < n) && v.testBit (lo + i)) := by
  simp [bits, Nat.testBit_mod_two_pow, Nat.testBit_div_two_pow, Nat.add_comm]

/-- The word with a field cut out. -/
theorem cut_eq (v lo n : Nat) : v - bits v lo n * 2 ^ lo = v / 2 ^ (lo + n) * 2 ^ (lo + n) + v % 2 ^ lo := by
  have h1 : v = v / 2 ^ lo * 2 ^ lo + v % 2 ^ lo := (Nat.div_add_mod' v (2 ^ lo)).symm
  have h2 : v / 2 ^ lo = v / 2 ^ lo / 2 ^ n * 2 ^ n + v / 2 ^ lo % 2 ^ n := (Nat.div_add_mod' _ _).symm
  have h3 : v / 2 ^ lo / 2 ^ n = v / 2 ^ (lo + n) := by rw [Nat.div_div_eq_div_mul, Nat.pow_add]
  have h4 : bits v lo n = v / 2 ^ lo % 2 ^ n := rfl
  rw [h3] at h2
  have h5 : v = v / 2 ^ (lo + n) * 2 ^ (lo + n) + bits v lo n * 2 ^ lo + v % 2 ^ lo := by
    rw [h4]
    conv => lhs; rw [h1]
    conv => lhs; arg 1; rw [h2]
    rw [Nat.add_mul, Nat.pow_add, Nat.mul_comm (2 ^ lo) (2 ^ n), Nat.mul_assoc]
  omega

theorem setBits_eq (v lo n x : Nat) :
    setBits v lo n x = (v / 2 ^ (lo + n) * 2 ^ n + x % 2 ^ n) * 2 ^ lo + v % 2 ^ lo := by
  unfold setBits
  rw [cut_eq, Nat.add_mul, Nat.pow_add, Nat.mul_comm (2 ^ lo) (2 ^ n), Nat.mul_assoc]
  omega

theorem setBits_testBit (v lo n x i : Nat) :
    (setBits v lo n x).testBit i = if lo ≤ i ∧ i < lo + n then x.testBit (i - lo) else v.testBit i := by
  rw [setBits_eq, Nat.mul_comm _ (2 ^ lo), Nat.testBit_two_pow_mul_add _ (Nat.mod_lt _ (Nat.two_pow_pos lo)),
    Nat.mul_comm _ (2 ^ n)]
  by_cases h1 : i < lo
  · have : ¬ lo ≤ i := by omega
    simp [h1, this, Nat.testBit_mod_two_pow]
  · simp only [h1, if_false]
    rw [Nat.testBit_two_pow_mul_add _ (Nat.mod_lt _ (Nat.two_pow_pos n))]
    by_cases h2 : i - lo < n
    · have h3 : lo ≤ i ∧ i < lo + n := by omega
      simp [h2, h3, Nat.testBit_mod_two_pow]
    · have h3 : ¬ (lo ≤ i ∧ i < lo + n) := by omega
      simp only [h2, h3, if_false, Nat.testBit_div_two_pow]
      congr 1
      omega

theorem bits_setBits_self (v lo n x : Nat) : bits (setBits v lo n x) lo n = x % 2 ^ n := by
  apply Nat.eq_of_testBit_eq
  intro i
  rw [bits_testBit, setBits_testBit, Nat.testBit_mod_two_pow]
  by_cases h : i < n <;> simp [h]

theorem bits_setBits_ne (v lo n x lo' n' : Nat) (h : lo' + n' ≤ lo ∨ lo + n ≤ lo') :
    bits (setBits v lo n x) lo' n' = bits v lo' n' := by
  apply Nat.eq_of_testBit_eq
  intro i
  rw [bits_testBit, setBits_testBit, bits_testBit]
  by_cases hi : i < n'
  · have : ¬ (lo ≤ lo' + i ∧ lo' + i < lo + n) := by omega
    simp [hi, this]
  · simp [hi]

theorem bits_mod (v lo n k : Nat) (h : lo + n ≤ k) : bits (v % 2 ^ k) lo n = bits v lo n := by
  apply Nat.eq_of_testBit_eq
  intro i
  rw [bits_testBit, bits_testBit, Nat.testBit_mod_two_pow]
  by_cases hi : i < n
  · have : lo + i < k := by omega
    simp [hi, this]
  · simp [hi]

/-- A field reads what was written to it. -/
theorem Fld.get_set_self (f : Fld) (w : Word) (v : Nat) (h : f.lo + f.width ≤ 64) :
    f.get (f.set w v) = v % 2 ^ f.width := by
  simp only [Fld.get, Fld.set, BitVec.toNat_ofNat]
  rw [bits_mod _ _ _ _ h, bits_setBits_self]

/-- A field keeps its value as a field beside it is written. -/
theorem Fld.get_set_ne (f g : Fld) (w : Word) (v : Nat) (hf : f.lo + f.width ≤ 64)
    (h : f.lo + f.width ≤ g.lo ∨ g.lo + g.width ≤ f.lo) : f.get (g.set w v) = f.get w := by
  simp only [Fld.get, Fld.set, BitVec.toNat_ofNat]
  rw [bits_mod _ _ _ _ hf, bits_setBits_ne _ _ _ _ _ _ h]

/-- A register reads what was stored in it. -/
@[simp] theorem Dev.reg_setReg_self (d : Dev) (r : RegName) (v : Word) (i : List Nat) : (d.setReg r v i).reg r i = v := by
  have : tget (r.reset i) (tset (r.reset i) d.regs (r.key i) v) (r.key i) = v := tget_tset_self _ _ _ _
  exact this

/-- A register keeps its word as another, at another key, is written. -/
theorem Dev.reg_setReg_ne (d : Dev) (r r' : RegName) (v : Word) (i i' : List Nat) (h : r'.key i' ≠ r.key i) :
    (d.setReg r v i).reg r' i' = d.reg r' i' := by
  simp only [Dev.reg, Dev.setReg, tfind_tset_ne _ _ _ h]

theorem Dev.fld_setReg_ne (d : Dev) (r : RegName) (f : Fld) (v : Word) (i i' : List Nat) (h : f.reg.key i' ≠ r.key i) :
    (d.setReg r v i).fld f i' = d.fld f i' := by
  simp only [Dev.fld, Dev.reg_setReg_ne d r f.reg v i i' h]

theorem Dev.reg_setFld_ne (d : Dev) (f : Fld) (r : RegName) (v : Nat) (i i' : List Nat) (h : r.key i' ≠ f.reg.key i) :
    (d.setFld f v i).reg r i' = d.reg r i' := Dev.reg_setReg_ne d f.reg r _ i i' h

theorem Dev.fld_setFld_self (d : Dev) (f : Fld) (v : Nat) (i : List Nat) (h : f.lo + f.width ≤ 64) :
    (d.setFld f v i).fld f i = v % 2 ^ f.width := by
  simp only [Dev.fld, Dev.setFld, Dev.reg_setReg_self, Fld.get_set_self f _ v h]

theorem Dev.fld_setFld_beside (d : Dev) (f g : Fld) (v : Nat) (i : List Nat) (hr : f.reg = g.reg)
    (hf : f.lo + f.width ≤ 64) (h : f.lo + f.width ≤ g.lo ∨ g.lo + g.width ≤ f.lo) :
    (d.setFld g v i).fld f i = d.fld f i := by
  simp only [Dev.fld, Dev.setFld, hr, Dev.reg_setReg_self, Fld.get_set_ne f g _ v hf h]

theorem Dev.fld_setFld_ne (d : Dev) (f g : Fld) (v : Nat) (i i' : List Nat) (h : f.reg.key i' ≠ g.reg.key i) :
    (d.setFld g v i).fld f i' = d.fld f i' := Dev.fld_setReg_ne d g.reg f _ i i' h

end Sys2Proof.Machine
end

