-- ==== Sys2Proof/Laws/Keys.lean ====
section
/-! SUPPORT. The key of each register that has several of its kind, as a number. -/

namespace Sys2Proof.Machine

theorem RegName.key1 (r : RegName) (n st x : Nat) (h : r.dims = [(n, st)]) : r.key [x] = r.base + st * x := by
  unfold RegName.key; rw [h]; rfl

theorem RegName.key2 (r : RegName) (n st n' st' x y : Nat) (h : r.dims = [(n, st), (n', st')]) :
    r.key [x, y] = r.base + (st * x + st' * y) := by
  unfold RegName.key; rw [h]; rfl

theorem key_TINE_STATUS (x : Nat) : RegName.TINE_STATUS.key [x] = 0x20000000 + 0x100000 * x := RegName.key1 _ _ _ _ rfl
theorem key_TINE_STRAND_CTL (x y : Nat) : RegName.TINE_STRAND_CTL.key [x, y] = 0x20000100 + (0x100000 * x + 0x40 * y) :=
  RegName.key2 _ _ _ _ _ _ _ rfl
theorem key_TINE_STRAND_PC (x y : Nat) : RegName.TINE_STRAND_PC.key [x, y] = 0x20000108 + (0x100000 * x + 0x40 * y) :=
  RegName.key2 _ _ _ _ _ _ _ rfl
theorem key_TINE_STRAND_CAUSE (x y : Nat) : RegName.TINE_STRAND_CAUSE.key [x, y] = 0x20000110 + (0x100000 * x + 0x40 * y) :=
  RegName.key2 _ _ _ _ _ _ _ rfl
theorem key_TINE_STRAND_RETIRED (x y : Nat) : RegName.TINE_STRAND_RETIRED.key [x, y] = 0x20000118 + (0x100000 * x + 0x40 * y) :=
  RegName.key2 _ _ _ _ _ _ _ rfl
theorem key_TINE_STRAND_MISPRED (x y : Nat) : RegName.TINE_STRAND_MISPRED.key [x, y] = 0x20000120 + (0x100000 * x + 0x40 * y) :=
  RegName.key2 _ _ _ _ _ _ _ rfl
theorem key_TINE_STRAND_SQUASH (x y : Nat) : RegName.TINE_STRAND_SQUASH.key [x, y] = 0x20000128 + (0x100000 * x + 0x40 * y) :=
  RegName.key2 _ _ _ _ _ _ _ rfl
theorem key_FN_IDENT (x : Nat) : RegName.FN_IDENT.key [x] = 0x1000000000000 + 0x4000000 * x := RegName.key1 _ _ _ _ rfl
theorem key_FN_STATUS (x : Nat) : RegName.FN_STATUS.key [x] = 0x1000000000008 + 0x4000000 * x := RegName.key1 _ _ _ _ rfl
theorem key_FN_HOST_ERR (x : Nat) : RegName.FN_HOST_ERR.key [x] = 0x1000000000010 + 0x4000000 * x := RegName.key1 _ _ _ _ rfl
theorem key_FN_HOST_ERR_ADDR (x : Nat) : RegName.FN_HOST_ERR_ADDR.key [x] = 0x1000000000018 + 0x4000000 * x := RegName.key1 _ _ _ _ rfl
theorem key_FN_BUF_SLOT (x : Nat) : RegName.FN_BUF_SLOT.key [x] = 0x1000000000020 + 0x4000000 * x := RegName.key1 _ _ _ _ rfl
theorem key_FN_BUF_BASE (x : Nat) : RegName.FN_BUF_BASE.key [x] = 0x1000000000028 + 0x4000000 * x := RegName.key1 _ _ _ _ rfl
theorem key_FN_BUF_LEN (x : Nat) : RegName.FN_BUF_LEN.key [x] = 0x1000000000030 + 0x4000000 * x := RegName.key1 _ _ _ _ rfl
theorem key_FN_BUF_ATTR (x : Nat) : RegName.FN_BUF_ATTR.key [x] = 0x1000000000038 + 0x4000000 * x := RegName.key1 _ _ _ _ rfl
theorem key_HOST_LINK_PLAN (x : Nat) : RegName.HOST_LINK_PLAN.key [x] = 0x5000000 + 0x40 * x := RegName.key1 _ _ _ _ rfl
theorem key_HOST_LINK_STATUS (x : Nat) : RegName.HOST_LINK_STATUS.key [x] = 0x5000008 + 0x40 * x := RegName.key1 _ _ _ _ rfl
theorem key_HOST_PF_PLAN (x : Nat) : RegName.HOST_PF_PLAN.key [x] = 0x5010000 + 0x10 * x := RegName.key1 _ _ _ _ rfl
theorem key_HOST_FN_STATE (x : Nat) : RegName.HOST_FN_STATE.key [x] = 0x5020000 + 0x10 * x := RegName.key1 _ _ _ _ rfl
theorem key_HOST_APT_BASE (x : Nat) : RegName.HOST_APT_BASE.key [x] = 0x5100000 + 0x10 * x := RegName.key1 _ _ _ _ rfl
theorem key_HOST_APT_CTL (x : Nat) : RegName.HOST_APT_CTL.key [x] = 0x5100008 + 0x10 * x := RegName.key1 _ _ _ _ rfl
theorem key_RINGS_FN_CAPS (x : Nat) : RegName.RINGS_FN_CAPS.key [x] = 0x1000001000000 + 0x4000000 * x := RegName.key1 _ _ _ _ rfl
theorem key_RINGS_ERRLOG_HEAD (x : Nat) : RegName.RINGS_ERRLOG_HEAD.key [x] = 0x1000001000008 + 0x4000000 * x := RegName.key1 _ _ _ _ rfl
theorem key_RINGS_ERRLOG_ACK (x : Nat) : RegName.RINGS_ERRLOG_ACK.key [x] = 0x1000001000010 + 0x4000000 * x := RegName.key1 _ _ _ _ rfl
theorem key_RINGS_ERRLOG_LOST (x : Nat) : RegName.RINGS_ERRLOG_LOST.key [x] = 0x1000001000018 + 0x4000000 * x := RegName.key1 _ _ _ _ rfl
theorem key_RINGS_SQ_BASE (x : Nat) : RegName.RINGS_SQ_BASE.key [x] = 0xc000000 + 0x40 * x := RegName.key1 _ _ _ _ rfl
theorem key_RINGS_SQ_CTL (x : Nat) : RegName.RINGS_SQ_CTL.key [x] = 0xc000008 + 0x40 * x := RegName.key1 _ _ _ _ rfl
theorem key_RINGS_SQ_STATUS (x : Nat) : RegName.RINGS_SQ_STATUS.key [x] = 0xc000010 + 0x40 * x := RegName.key1 _ _ _ _ rfl
theorem key_RINGS_SQ_COUNT (x : Nat) : RegName.RINGS_SQ_COUNT.key [x] = 0xc000018 + 0x40 * x := RegName.key1 _ _ _ _ rfl
theorem key_RINGS_SQ_RESTART (x : Nat) : RegName.RINGS_SQ_RESTART.key [x] = 0xc000020 + 0x40 * x := RegName.key1 _ _ _ _ rfl
theorem key_RINGS_CQ_BASE (x : Nat) : RegName.RINGS_CQ_BASE.key [x] = 0xc400000 + 0x40 * x := RegName.key1 _ _ _ _ rfl
theorem key_RINGS_CQ_CTL (x : Nat) : RegName.RINGS_CQ_CTL.key [x] = 0xc400008 + 0x40 * x := RegName.key1 _ _ _ _ rfl
theorem key_RINGS_CQ_STATUS (x : Nat) : RegName.RINGS_CQ_STATUS.key [x] = 0xc400010 + 0x40 * x := RegName.key1 _ _ _ _ rfl
theorem key_RINGS_SQ_BIND (x : Nat) : RegName.RINGS_SQ_BIND.key [x] = 0xc800000 + 0x8 * x := RegName.key1 _ _ _ _ rfl
theorem key_RINGS_CQ_BIND (x : Nat) : RegName.RINGS_CQ_BIND.key [x] = 0xca00000 + 0x8 * x := RegName.key1 _ _ _ _ rfl
theorem key_TENANT_ID (x : Nat) : RegName.TENANT_ID.key [x] = 0xd000000 + 0x40 * x := RegName.key1 _ _ _ _ rfl
theorem key_TENANT_LIMITS (x : Nat) : RegName.TENANT_LIMITS.key [x] = 0xd000008 + 0x40 * x := RegName.key1 _ _ _ _ rfl
theorem key_TENANT_TABLES (x : Nat) : RegName.TENANT_TABLES.key [x] = 0xd000010 + 0x40 * x := RegName.key1 _ _ _ _ rfl
theorem key_TENANT_POLICY (x : Nat) : RegName.TENANT_POLICY.key [x] = 0xd000018 + 0x40 * x := RegName.key1 _ _ _ _ rfl
theorem key_TENANT_POOL (x : Nat) : RegName.TENANT_POOL.key [x] = 0xd000020 + 0x40 * x := RegName.key1 _ _ _ _ rfl
theorem key_TENANT_CTL (x : Nat) : RegName.TENANT_CTL.key [x] = 0xd000028 + 0x40 * x := RegName.key1 _ _ _ _ rfl
theorem key_TENANT_STATE (x : Nat) : RegName.TENANT_STATE.key [x] = 0xd000030 + 0x40 * x := RegName.key1 _ _ _ _ rfl
theorem key_TENANT_ITEMS (x : Nat) : RegName.TENANT_ITEMS.key [x] = 0xd000038 + 0x40 * x := RegName.key1 _ _ _ _ rfl
theorem key_DEVICE_PROFILE (x : Nat) : RegName.DEVICE_PROFILE.key [x] = 0x400 + 0x8 * x := RegName.key1 _ _ _ _ rfl
theorem key_FOLD_STATUS (x y : Nat) : RegName.FOLD_STATUS.key [x, y] = 0x10300000 + (0x1000000 * x + 0x100 * y) :=
  RegName.key2 _ _ _ _ _ _ _ rfl
theorem key_FOLD_CMDS (x y : Nat) : RegName.FOLD_CMDS.key [x, y] = 0x10300008 + (0x1000000 * x + 0x100 * y) :=
  RegName.key2 _ _ _ _ _ _ _ rfl
theorem key_FOLD_BYTES (x y : Nat) : RegName.FOLD_BYTES.key [x, y] = 0x10300010 + (0x1000000 * x + 0x100 * y) :=
  RegName.key2 _ _ _ _ _ _ _ rfl
theorem key_FOLD_MISMATCH (x y : Nat) : RegName.FOLD_MISMATCH.key [x, y] = 0x10300018 + (0x1000000 * x + 0x100 * y) :=
  RegName.key2 _ _ _ _ _ _ _ rfl
theorem key_FOLD_EVICT (x y : Nat) : RegName.FOLD_EVICT.key [x, y] = 0x10300020 + (0x1000000 * x + 0x100 * y) :=
  RegName.key2 _ _ _ _ _ _ _ rfl
theorem key_FOLD_RECON (x y : Nat) : RegName.FOLD_RECON.key [x, y] = 0x10300028 + (0x1000000 * x + 0x100 * y) :=
  RegName.key2 _ _ _ _ _ _ _ rfl
theorem key_FOLD_CLR (x y : Nat) : RegName.FOLD_CLR.key [x, y] = 0x10300030 + (0x1000000 * x + 0x100 * y) :=
  RegName.key2 _ _ _ _ _ _ _ rfl
theorem key_DEVICE_VAULT_EKDIG (x : Nat) : RegName.DEVICE_VAULT_EKDIG.key [x] = 0x620 + 0x8 * x := RegName.key1 _ _ _ _ rfl
theorem key_CIPHER_STATUS (x : Nat) : RegName.CIPHER_STATUS.key [x] = 0x10400000 + 0x1000000 * x := RegName.key1 _ _ _ _ rfl
theorem key_CIPHER_CMDS (x : Nat) : RegName.CIPHER_CMDS.key [x] = 0x10400008 + 0x1000000 * x := RegName.key1 _ _ _ _ rfl
theorem key_CIPHER_BYTES (x : Nat) : RegName.CIPHER_BYTES.key [x] = 0x10400010 + 0x1000000 * x := RegName.key1 _ _ _ _ rfl
theorem key_CIPHER_G2_BYTES (x : Nat) : RegName.CIPHER_G2_BYTES.key [x] = 0x10400018 + 0x1000000 * x := RegName.key1 _ _ _ _ rfl
theorem key_CIPHER_RELEASED (x : Nat) : RegName.CIPHER_RELEASED.key [x] = 0x10400020 + 0x1000000 * x := RegName.key1 _ _ _ _ rfl
theorem key_CIPHER_DISCARDED (x : Nat) : RegName.CIPHER_DISCARDED.key [x] = 0x10400028 + 0x1000000 * x := RegName.key1 _ _ _ _ rfl
theorem key_CIPHER_CLR (x : Nat) : RegName.CIPHER_CLR.key [x] = 0x10400030 + 0x1000000 * x := RegName.key1 _ _ _ _ rfl
theorem key_STORAGE_PORT_PLAN (x : Nat) : RegName.STORAGE_PORT_PLAN.key [x] = 0x6000000 + 0x40 * x := RegName.key1 _ _ _ _ rfl
theorem key_STORAGE_PORT_STATUS (x : Nat) : RegName.STORAGE_PORT_STATUS.key [x] = 0x6000008 + 0x40 * x := RegName.key1 _ _ _ _ rfl
theorem key_STORAGE_PORT_CTL (x : Nat) : RegName.STORAGE_PORT_CTL.key [x] = 0x6000010 + 0x40 * x := RegName.key1 _ _ _ _ rfl
theorem key_STORAGE_INWIN_BASE (x y : Nat) : RegName.STORAGE_INWIN_BASE.key [x, y] = 0x6010000 + (0x40 * x + 0x10 * y) :=
  RegName.key2 _ _ _ _ _ _ _ rfl
theorem key_STORAGE_INWIN_LIM (x y : Nat) : RegName.STORAGE_INWIN_LIM.key [x, y] = 0x6010008 + (0x40 * x + 0x10 * y) :=
  RegName.key2 _ _ _ _ _ _ _ rfl
theorem key_STORAGE_TGT_BIND (x : Nat) : RegName.STORAGE_TGT_BIND.key [x] = 0x6100000 + 0x20 * x := RegName.key1 _ _ _ _ rfl
theorem key_STORAGE_TGT_BAR (x : Nat) : RegName.STORAGE_TGT_BAR.key [x] = 0x6100008 + 0x20 * x := RegName.key1 _ _ _ _ rfl
theorem key_STORAGE_TGT_CTL (x : Nat) : RegName.STORAGE_TGT_CTL.key [x] = 0x6100010 + 0x20 * x := RegName.key1 _ _ _ _ rfl
theorem key_STORAGE_TGT_STATUS (x : Nat) : RegName.STORAGE_TGT_STATUS.key [x] = 0x6100018 + 0x20 * x := RegName.key1 _ _ _ _ rfl
theorem key_STORAGE_QP_SQ (x : Nat) : RegName.STORAGE_QP_SQ.key [x] = 0x6200000 + 0x20 * x := RegName.key1 _ _ _ _ rfl
theorem key_STORAGE_QP_CQ (x : Nat) : RegName.STORAGE_QP_CQ.key [x] = 0x6200008 + 0x20 * x := RegName.key1 _ _ _ _ rfl
theorem key_STORAGE_QP_CTL (x : Nat) : RegName.STORAGE_QP_CTL.key [x] = 0x6200010 + 0x20 * x := RegName.key1 _ _ _ _ rfl
theorem key_STORAGE_QP_STATUS (x : Nat) : RegName.STORAGE_QP_STATUS.key [x] = 0x6200018 + 0x20 * x := RegName.key1 _ _ _ _ rfl
theorem key_DMA_CTL (x y : Nat) : RegName.DMA_CTL.key [x, y] = 0x10500000 + (0x1000000 * x + 0x100 * y) :=
  RegName.key2 _ _ _ _ _ _ _ rfl
theorem key_DMA_STATUS (x y : Nat) : RegName.DMA_STATUS.key [x, y] = 0x10500008 + (0x1000000 * x + 0x100 * y) :=
  RegName.key2 _ _ _ _ _ _ _ rfl
theorem key_DMA_BYTES (x y : Nat) : RegName.DMA_BYTES.key [x, y] = 0x10500010 + (0x1000000 * x + 0x100 * y) :=
  RegName.key2 _ _ _ _ _ _ _ rfl
theorem key_DMA_DESCS (x y : Nat) : RegName.DMA_DESCS.key [x, y] = 0x10500018 + (0x1000000 * x + 0x100 * y) :=
  RegName.key2 _ _ _ _ _ _ _ rfl
theorem key_DMA_BUSERR (x y : Nat) : RegName.DMA_BUSERR.key [x, y] = 0x10500020 + (0x1000000 * x + 0x100 * y) :=
  RegName.key2 _ _ _ _ _ _ _ rfl
theorem key_BUFM_CFG (x : Nat) : RegName.BUFM_CFG.key [x] = 0x10600000 + 0x1000000 * x := RegName.key1 _ _ _ _ rfl
theorem key_BUFM_STATUS (x : Nat) : RegName.BUFM_STATUS.key [x] = 0x10600008 + 0x1000000 * x := RegName.key1 _ _ _ _ rfl
theorem key_BUFM_ALLOC (x : Nat) : RegName.BUFM_ALLOC.key [x] = 0x10600010 + 0x1000000 * x := RegName.key1 _ _ _ _ rfl
theorem key_BUFM_FREE (x : Nat) : RegName.BUFM_FREE.key [x] = 0x10600018 + 0x1000000 * x := RegName.key1 _ _ _ _ rfl
theorem key_BUFM_GIVE (x : Nat) : RegName.BUFM_GIVE.key [x] = 0x10600020 + 0x1000000 * x := RegName.key1 _ _ _ _ rfl
theorem key_BUFM_RECLAIM (x : Nat) : RegName.BUFM_RECLAIM.key [x] = 0x10600028 + 0x1000000 * x := RegName.key1 _ _ _ _ rfl
theorem key_BUFM_EVENTS (x : Nat) : RegName.BUFM_EVENTS.key [x] = 0x10600030 + 0x1000000 * x := RegName.key1 _ _ _ _ rfl
theorem key_BUFM_LAST_EVENT (x : Nat) : RegName.BUFM_LAST_EVENT.key [x] = 0x10600038 + 0x1000000 * x := RegName.key1 _ _ _ _ rfl
theorem key_BUFM_RECLAIMED (x : Nat) : RegName.BUFM_RECLAIMED.key [x] = 0x10600040 + 0x1000000 * x := RegName.key1 _ _ _ _ rfl
theorem key_NET_PORT_CTL (x : Nat) : RegName.NET_PORT_CTL.key [x] = 0x7000000 + 0x40 * x := RegName.key1 _ _ _ _ rfl
theorem key_NET_PORT_STATUS (x : Nat) : RegName.NET_PORT_STATUS.key [x] = 0x7000008 + 0x40 * x := RegName.key1 _ _ _ _ rfl
theorem key_NET_PORT_PFC (x : Nat) : RegName.NET_PORT_PFC.key [x] = 0x7000010 + 0x40 * x := RegName.key1 _ _ _ _ rfl
theorem key_NET_PORT_PFC_STATUS (x : Nat) : RegName.NET_PORT_PFC_STATUS.key [x] = 0x7000018 + 0x40 * x := RegName.key1 _ _ _ _ rfl
theorem key_NET_PRI_THRESH (x y : Nat) : RegName.NET_PRI_THRESH.key [x, y] = 0x7010000 + (0x80 * x + 0x8 * y) :=
  RegName.key2 _ _ _ _ _ _ _ rfl
theorem key_NET_RX_FRAMES (x : Nat) : RegName.NET_RX_FRAMES.key [x] = 0x7020000 + 0x40 * x := RegName.key1 _ _ _ _ rfl
theorem key_NET_RX_BYTES (x : Nat) : RegName.NET_RX_BYTES.key [x] = 0x7020008 + 0x40 * x := RegName.key1 _ _ _ _ rfl
theorem key_NET_RX_BAD (x : Nat) : RegName.NET_RX_BAD.key [x] = 0x7020010 + 0x40 * x := RegName.key1 _ _ _ _ rfl
theorem key_NET_RX_RUNT (x : Nat) : RegName.NET_RX_RUNT.key [x] = 0x7020018 + 0x40 * x := RegName.key1 _ _ _ _ rfl
theorem key_NET_RX_OVERSIZE (x : Nat) : RegName.NET_RX_OVERSIZE.key [x] = 0x7020020 + 0x40 * x := RegName.key1 _ _ _ _ rfl
theorem key_NET_RX_OVERRUN (x : Nat) : RegName.NET_RX_OVERRUN.key [x] = 0x7020028 + 0x40 * x := RegName.key1 _ _ _ _ rfl
theorem key_NET_TX_ABORT (x : Nat) : RegName.NET_TX_ABORT.key [x] = 0x7020030 + 0x40 * x := RegName.key1 _ _ _ _ rfl
theorem key_NET_RX_MACCTL (x : Nat) : RegName.NET_RX_MACCTL.key [x] = 0x7020038 + 0x40 * x := RegName.key1 _ _ _ _ rfl
theorem key_PARSE_CTL (x : Nat) : RegName.PARSE_CTL.key [x] = 0x10100000 + 0x1000000 * x := RegName.key1 _ _ _ _ rfl
theorem key_PARSE_STATUS (x : Nat) : RegName.PARSE_STATUS.key [x] = 0x10100008 + 0x1000000 * x := RegName.key1 _ _ _ _ rfl
theorem key_PARSE_SWAP (x : Nat) : RegName.PARSE_SWAP.key [x] = 0x10100010 + 0x1000000 * x := RegName.key1 _ _ _ _ rfl
theorem key_PARSE_CODE (x y : Nat) : RegName.PARSE_CODE.key [x, y] = 0x10100018 + (0x1000000 * x + 0x8 * y) :=
  RegName.key2 _ _ _ _ _ _ _ rfl
theorem key_PARSE_TABLE (x : Nat) : RegName.PARSE_TABLE.key [x] = 0x10100028 + 0x1000000 * x := RegName.key1 _ _ _ _ rfl
theorem key_PARSE_CELLS (x : Nat) : RegName.PARSE_CELLS.key [x] = 0x10100030 + 0x1000000 * x := RegName.key1 _ _ _ _ rfl
theorem key_PARSE_FRAMES (x : Nat) : RegName.PARSE_FRAMES.key [x] = 0x10100040 + 0x1000000 * x := RegName.key1 _ _ _ _ rfl
theorem key_PARSE_FAULTS (x : Nat) : RegName.PARSE_FAULTS.key [x] = 0x10100048 + 0x1000000 * x := RegName.key1 _ _ _ _ rfl
theorem key_CLS_CTL (x : Nat) : RegName.CLS_CTL.key [x] = 0x10200000 + 0x1000000 * x := RegName.key1 _ _ _ _ rfl
theorem key_CLS_STATUS (x : Nat) : RegName.CLS_STATUS.key [x] = 0x10200008 + 0x1000000 * x := RegName.key1 _ _ _ _ rfl
theorem key_CLS_SWAP (x : Nat) : RegName.CLS_SWAP.key [x] = 0x10200010 + 0x1000000 * x := RegName.key1 _ _ _ _ rfl
theorem key_CLS_MISSES (x : Nat) : RegName.CLS_MISSES.key [x] = 0x10200018 + 0x1000000 * x := RegName.key1 _ _ _ _ rfl
theorem key_CLS_PARITY (x : Nat) : RegName.CLS_PARITY.key [x] = 0x10200020 + 0x1000000 * x := RegName.key1 _ _ _ _ rfl
theorem key_DQ_BASE (x y : Nat) : RegName.DQ_BASE.key [x, y] = 0x10280000 + (0x1000000 * x + 0x20 * y) :=
  RegName.key2 _ _ _ _ _ _ _ rfl
theorem key_DQ_CTL (x y : Nat) : RegName.DQ_CTL.key [x, y] = 0x10280008 + (0x1000000 * x + 0x20 * y) :=
  RegName.key2 _ _ _ _ _ _ _ rfl
theorem key_DQ_HEAD (x y : Nat) : RegName.DQ_HEAD.key [x, y] = 0x10280010 + (0x1000000 * x + 0x20 * y) :=
  RegName.key2 _ _ _ _ _ _ _ rfl
theorem key_DQ_TAIL (x y : Nat) : RegName.DQ_TAIL.key [x, y] = 0x10280018 + (0x1000000 * x + 0x20 * y) :=
  RegName.key2 _ _ _ _ _ _ _ rfl
theorem key_SW_OB_STATUS (x : Nat) : RegName.SW_OB_STATUS.key [x] = 0x8010000 + 0x40 * x := RegName.key1 _ _ _ _ rfl
theorem key_SW_PUSH (x : Nat) : RegName.SW_PUSH.key [x] = 0x8010008 + 0x40 * x := RegName.key1 _ _ _ _ rfl
theorem key_SW_PORT_CTL (x : Nat) : RegName.SW_PORT_CTL.key [x] = 0x8020000 + 0x20 * x := RegName.key1 _ _ _ _ rfl
theorem key_SW_PORT_STATUS (x : Nat) : RegName.SW_PORT_STATUS.key [x] = 0x8020008 + 0x20 * x := RegName.key1 _ _ _ _ rfl
theorem key_SW_PORT_PEER (x : Nat) : RegName.SW_PORT_PEER.key [x] = 0x8020010 + 0x20 * x := RegName.key1 _ _ _ _ rfl
theorem key_TABLES_DATA (x : Nat) : RegName.TABLES_DATA.key [x] = 0x9000040 + 0x8 * x := RegName.key1 _ _ _ _ rfl
theorem key_TABLES_PARITY (x : Nat) : RegName.TABLES_PARITY.key [x] = 0x9000108 + 0x8 * x := RegName.key1 _ _ _ _ rfl
theorem key_SCHED_PORT_QMAP (x : Nat) : RegName.SCHED_PORT_QMAP.key [x] = 0xa000000 + 0x100 * x := RegName.key1 _ _ _ _ rfl
theorem key_SCHED_PORT_TEL (x : Nat) : RegName.SCHED_PORT_TEL.key [x] = 0xa000008 + 0x100 * x := RegName.key1 _ _ _ _ rfl
theorem key_SCHED_PORT_VT (x : Nat) : RegName.SCHED_PORT_VT.key [x] = 0xa000010 + 0x100 * x := RegName.key1 _ _ _ _ rfl
theorem key_SCHED_Q_CTL (x y : Nat) : RegName.SCHED_Q_CTL.key [x, y] = 0xa000040 + (0x100 * x + 0x8 * y) :=
  RegName.key2 _ _ _ _ _ _ _ rfl
theorem key_SCHED_QTEL_LAST (x y : Nat) : RegName.SCHED_QTEL_LAST.key [x, y] = 0xa100000 + (0x200 * x + 0x20 * y) :=
  RegName.key2 _ _ _ _ _ _ _ rfl
theorem key_SCHED_QTEL_MAX (x y : Nat) : RegName.SCHED_QTEL_MAX.key [x, y] = 0xa100008 + (0x200 * x + 0x20 * y) :=
  RegName.key2 _ _ _ _ _ _ _ rfl
theorem key_SCHED_POL_CFG (x y : Nat) : RegName.SCHED_POL_CFG.key [x, y] = 0xa400000 + (0x80000 * x + 0x20 * y) :=
  RegName.key2 _ _ _ _ _ _ _ rfl
theorem key_SCHED_POL_PASS (x y : Nat) : RegName.SCHED_POL_PASS.key [x, y] = 0xa400008 + (0x80000 * x + 0x20 * y) :=
  RegName.key2 _ _ _ _ _ _ _ rfl
theorem key_SCHED_POL_DROP (x y : Nat) : RegName.SCHED_POL_DROP.key [x, y] = 0xa400010 + (0x80000 * x + 0x20 * y) :=
  RegName.key2 _ _ _ _ _ _ _ rfl
theorem key_SCHED_RESV (x : Nat) : RegName.SCHED_RESV.key [x] = 0xa801000 + 0x8 * x := RegName.key1 _ _ _ _ rfl
theorem key_TRD_PLOT_STATUS (x : Nat) : RegName.TRD_PLOT_STATUS.key [x] = 0xb000200 + 0x8 * x := RegName.key1 _ _ _ _ rfl
theorem key_TRD_RING_BASE (x y : Nat) : RegName.TRD_RING_BASE.key [x, y] = 0xb010000 + (0x1000 * x + 0x20 * y) :=
  RegName.key2 _ _ _ _ _ _ _ rfl
theorem key_TRD_RING_CTL (x y : Nat) : RegName.TRD_RING_CTL.key [x, y] = 0xb010008 + (0x1000 * x + 0x20 * y) :=
  RegName.key2 _ _ _ _ _ _ _ rfl
theorem key_TRD_RING_HEAD (x y : Nat) : RegName.TRD_RING_HEAD.key [x, y] = 0xb010010 + (0x1000 * x + 0x20 * y) :=
  RegName.key2 _ _ _ _ _ _ _ rfl
theorem key_TRD_RING_TAIL (x y : Nat) : RegName.TRD_RING_TAIL.key [x, y] = 0xb010018 + (0x1000 * x + 0x20 * y) :=
  RegName.key2 _ _ _ _ _ _ _ rfl
theorem key_FAULT_FATAL (x : Nat) : RegName.FAULT_FATAL.key [x] = 0x1000100 + 0x8 * x := RegName.key1 _ _ _ _ rfl
theorem key_BOOT_KEY_DIG (x y : Nat) : RegName.BOOT_KEY_DIG.key [x, y] = 0x2000200 + (0x20 * x + 0x8 * y) :=
  RegName.key2 _ _ _ _ _ _ _ rfl
theorem key_BOOT_WAKE_DIG (x : Nat) : RegName.BOOT_WAKE_DIG.key [x] = 0x2000300 + 0x8 * x := RegName.key1 _ _ _ _ rfl
theorem key_POWER_GATE (x : Nat) : RegName.POWER_GATE.key [x] = 0x4001000 + 0x10 * x := RegName.key1 _ _ _ _ rfl
theorem key_POWER_GPIO_CFG (x : Nat) : RegName.POWER_GPIO_CFG.key [x] = 0x4002000 + 0x8 * x := RegName.key1 _ _ _ _ rfl

end Sys2Proof.Machine
end

