-- ==== Sys2Proof/Laws/Memory.lean ====
section
/-! SUPPORT. Memory: a byte after a write and after a command's stores, and the canonical form, which every operation over
memory keeps. -/

namespace Sys2Proof.Machine

/-- A byte written is read. -/
@[simp] theorem Mem.byte_write_self (m : Mem) (a : Nat) (b : Byte) : (m.write a b).byte a = b := tget_tset_self 0 m a b

/-- A write of one byte leaves every other byte as it was. -/
theorem Mem.byte_write_ne (m : Mem) {a c : Nat} (b : Byte) (h : c ≠ a) : (m.write a b).byte c = m.byte c :=
  tget_tset_ne 0 m b h

/-- What a byte reads after stores: the newest store to it, or else what it held. -/
theorem Mem.byte_commit (m : Mem) (log : List Host.Cell) (a : Nat) : (m.commit log).byte a = (logByte log a).getD (m.byte a) := by
  induction log with
  | nil => rfl
  | cons e t ih =>
    obtain ⟨k, v⟩ := e
    have hc : m.commit ((k, v) :: t) = (m.commit t).write k v := rfl
    rw [hc]
    by_cases h : a = k
    · subst h; simp [logByte]
    · rw [Mem.byte_write_ne _ _ h, ih]; simp [logByte, h]

/-- The first address of a list of cells lies above `a`. -/
def Mem.above (a : Nat) : Mem → Bool
  | [] => true
  | (k, _) :: _ => a < k

theorem Mem.wf_cons (a : Nat) (b : Byte) (t : Mem) : Mem.wf ((a, b) :: t) = (b ≠ 0 && Mem.above a t && Mem.wf t) := by
  cases t with
  | nil => simp [Mem.wf, Mem.above]
  | cons e t => simp [Mem.wf, Mem.above]

theorem Mem.wf_cons_iff (a : Nat) (b : Byte) (t : Mem) :
    Mem.wf ((a, b) :: t) = true ↔ (b ≠ 0 ∧ Mem.above a t = true) ∧ Mem.wf t = true := by
  rw [Mem.wf_cons]
  simp only [Bool.and_eq_true, decide_eq_true_eq]

theorem Mem.above_tput {a k : Nat} (b : Byte) (h : a < k) (m : Mem) (hm : Mem.above a m = true) :
    Mem.above a (tput m k b) = true := by
  cases m with
  | nil => simpa [tput, Mem.above] using h
  | cons e t =>
    obtain ⟨k', v⟩ := e
    simp only [tput]
    split
    · simpa [Mem.above] using h
    · split
      · simpa [Mem.above] using h
      · exact hm

theorem Mem.wf_tput (m : Mem) (k : Nat) (b : Byte) (hb : b ≠ 0) (h : m.wf = true) : Mem.wf (tput m k b) = true := by
  induction m with
  | nil => simpa [tput, Mem.wf] using hb
  | cons e t ih =>
    obtain ⟨k', v⟩ := e
    rw [Mem.wf_cons_iff] at h
    obtain ⟨⟨hv, ha⟩, ht⟩ := h
    simp only [tput]
    split
    · next he => subst he; exact (Mem.wf_cons_iff _ _ _).mpr ⟨⟨hb, ha⟩, ht⟩
    · split
      · next hlt =>
        exact (Mem.wf_cons_iff _ _ _).mpr ⟨⟨hb, by simpa [Mem.above] using hlt⟩, (Mem.wf_cons_iff _ _ _).mpr ⟨⟨hv, ha⟩, ht⟩⟩
      · have hk : k' < k := by omega
        exact (Mem.wf_cons_iff _ _ _).mpr ⟨⟨hv, Mem.above_tput b hk t ha⟩, ih ht⟩

/-- Addresses of the cells of a rising list that stands above `a`. -/
theorem Mem.lt_of_above (a : Nat) (m : Mem) (h : m.wf = true) (ha : Mem.above a m = true) : ∀ e ∈ m, a < e.1 := by
  induction m generalizing a with
  | nil => simp
  | cons e t ih =>
    obtain ⟨k, v⟩ := e
    rw [Mem.wf_cons_iff] at h
    have hk : a < k := by simpa [Mem.above] using ha
    intro e he
    rcases List.mem_cons.mp he with rfl | he
    · exact hk
    · exact Nat.lt_trans hk (ih k h.2 h.1.2 e he)

theorem Mem.mem_tdel {m : Mem} {k : Nat} {e : Host.Cell} (h : e ∈ tdel m k) : e ∈ m := by
  induction m with
  | nil => simp [tdel] at h
  | cons x t ih =>
    obtain ⟨k', v⟩ := x
    simp only [tdel] at h
    split at h
    · exact List.mem_cons_of_mem _ (ih h)
    · rcases List.mem_cons.mp h with rfl | h
      · exact List.mem_cons_self
      · exact List.mem_cons_of_mem _ (ih h)

theorem Mem.above_of_lt (a : Nat) (m : Mem) (h : ∀ e ∈ m, a < e.1) : Mem.above a m = true := by
  cases m with
  | nil => rfl
  | cons e t => simpa [Mem.above] using h e List.mem_cons_self

theorem Mem.wf_tdel (m : Mem) (k : Nat) (h : m.wf = true) : Mem.wf (tdel m k) = true := by
  induction m with
  | nil => rfl
  | cons e t ih =>
    obtain ⟨k', v⟩ := e
    rw [Mem.wf_cons_iff] at h
    simp only [tdel]
    split
    · exact ih h.2
    · have := Mem.above_of_lt k' (tdel t k) fun e he => Mem.lt_of_above k' t h.2 h.1.2 e (Mem.mem_tdel he)
      exact (Mem.wf_cons_iff _ _ _).mpr ⟨⟨h.1.1, this⟩, ih h.2⟩

/-- A write keeps the canonical form. -/
theorem Mem.wf_write (m : Mem) (a : Nat) (b : Byte) (h : m.wf = true) : (m.write a b).wf = true := by
  unfold Mem.write tset
  split
  · exact Mem.wf_tdel m a h
  · next hb => exact Mem.wf_tput m a b hb h

/-- A command's stores keep the canonical form. -/
theorem Mem.wf_commit (m : Mem) (log : List Host.Cell) (h : m.wf = true) : (m.commit log).wf = true := by
  induction log with
  | nil => exact h
  | cons e t ih => exact Mem.wf_write _ _ _ ih

/-- Memories in canonical form that read alike everywhere are equal data. -/
theorem Mem.ext_of_wf (m n : Mem) (hm : m.wf = true) (hn : n.wf = true) (h : ∀ a, m.byte a = n.byte a) : m = n := by
  induction m generalizing n with
  | nil =>
    cases n with
    | nil => rfl
    | cons e t =>
      obtain ⟨k, v⟩ := e
      rw [Mem.wf_cons_iff] at hn
      have := h k
      simp [Mem.byte, tget, tfind] at this
      exact absurd this.symm hn.1.1
  | cons e t ih =>
    obtain ⟨k, v⟩ := e
    have hm0 := hm
    rw [Mem.wf_cons_iff] at hm
    have find_none : ∀ (m : Mem) (a : Nat), (∀ e ∈ m, a < e.1) → tfind m a = none := by
      intro m a
      induction m with
      | nil => intro _; rfl
      | cons x r ihr =>
        intro hx
        have h1 := hx x List.mem_cons_self
        have h2 : a ≠ x.1 := by omega
        obtain ⟨xk, xv⟩ := x
        simp only [tfind, h2, if_false]
        exact ihr fun e he => hx e (List.mem_cons_of_mem _ he)
    cases n with
    | nil =>
      have := h k
      simp [Mem.byte, tget, tfind] at this
      exact absurd this hm.1.1
    | cons f u =>
      obtain ⟨j, w⟩ := f
      rw [Mem.wf_cons_iff] at hn
      have ht := Mem.lt_of_above k t hm.2 hm.1.2
      have hu := Mem.lt_of_above j u hn.2 hn.1.2
      have hkj : k = j := by
        rcases Nat.lt_trichotomy k j with hlt | heq | hgt
        · have := h k
          have hk : k ≠ j := by omega
          rw [Mem.byte, Mem.byte, tget, tget] at this
          simp only [tfind, if_true, hk, if_false] at this
          rw [find_none u k fun e he => Nat.lt_trans hlt (hu e he)] at this
          exact absurd this hm.1.1
        · exact heq
        · have := h j
          have hk : j ≠ k := by omega
          rw [Mem.byte, Mem.byte, tget, tget] at this
          simp only [tfind, if_true, hk, if_false] at this
          rw [find_none t j fun e he => Nat.lt_trans hgt (ht e he)] at this
          exact absurd this.symm hn.1.1
      subst hkj
      have hv : v = w := by
        have := h k
        simpa [Mem.byte, tget, tfind] using this
      subst hv
      rw [ih u hm.2 hn.2]
      intro a
      by_cases ha : a = k
      · subst ha
        rw [Mem.byte, Mem.byte, tget, tget, find_none t a ht, find_none u a hu]
      · have := h a
        simpa [Mem.byte, tget, tfind, ha] using this

end Sys2Proof.Machine
end

