-- ==== Sys2Proof/Laws/State.lean ====
section
/-! SUPPORT. What the named operations leave unchanged: one lemma for each operation and each unit of the state that it
does not write, so that no proof unfolds a record update. -/

namespace Sys2Proof.Machine

/-! ### `Dev.setReg` -/

@[simp] theorem Dev.part_setReg (d : Dev) (r : RegName) (v : Word) (i : List Nat) : (d.setReg r v i).part = d.part := rfl
@[simp] theorem Dev.clk_setReg (d : Dev) (r : RegName) (v : Word) (i : List Nat) : (d.setReg r v i).clk = d.clk := rfl
@[simp] theorem Dev.pace_setReg (d : Dev) (r : RegName) (v : Word) (i : List Nat) : (d.setReg r v i).pace = d.pace := rfl
@[simp] theorem Dev.tine_setReg (d : Dev) (r : RegName) (v : Word) (i : List Nat) : (d.setReg r v i).tine = d.tine := rfl
@[simp] theorem Dev.caps_setReg (d : Dev) (r : RegName) (v : Word) (i : List Nat) : (d.setReg r v i).caps = d.caps := rfl
@[simp] theorem Dev.flt_setReg (d : Dev) (r : RegName) (v : Word) (i : List Nat) : (d.setReg r v i).flt = d.flt := rfl
@[simp] theorem Dev.posted_setReg (d : Dev) (r : RegName) (v : Word) (i : List Nat) : (d.setReg r v i).posted = d.posted := rfl
@[simp] theorem Dev.host_setReg (d : Dev) (r : RegName) (v : Word) (i : List Nat) : (d.setReg r v i).host = d.host := rfl
@[simp] theorem Dev.ring_setReg (d : Dev) (r : RegName) (v : Word) (i : List Nat) : (d.setReg r v i).ring = d.ring := rfl
@[simp] theorem Dev.vault_setReg (d : Dev) (r : RegName) (v : Word) (i : List Nat) : (d.setReg r v i).vault = d.vault := rfl
@[simp] theorem Dev.cipher_setReg (d : Dev) (r : RegName) (v : Word) (i : List Nat) : (d.setReg r v i).cipher = d.cipher := rfl
@[simp] theorem Dev.dma_setReg (d : Dev) (r : RegName) (v : Word) (i : List Nat) : (d.setReg r v i).dma = d.dma := rfl
@[simp] theorem Dev.stg_setReg (d : Dev) (r : RegName) (v : Word) (i : List Nat) : (d.setReg r v i).stg = d.stg := rfl
@[simp] theorem Dev.fold_setReg (d : Dev) (r : RegName) (v : Word) (i : List Nat) : (d.setReg r v i).fold = d.fold := rfl
@[simp] theorem Dev.sow_setReg (d : Dev) (r : RegName) (v : Word) (i : List Nat) : (d.setReg r v i).sow = d.sow := rfl
@[simp] theorem Dev.glean_setReg (d : Dev) (r : RegName) (v : Word) (i : List Nat) : (d.setReg r v i).glean = d.glean := rfl
@[simp] theorem Dev.net_setReg (d : Dev) (r : RegName) (v : Word) (i : List Nat) : (d.setReg r v i).net = d.net := rfl
@[simp] theorem Dev.trd_setReg (d : Dev) (r : RegName) (v : Word) (i : List Nat) : (d.setReg r v i).trd = d.trd := rfl
@[simp] theorem Dev.ten_setReg (d : Dev) (r : RegName) (v : Word) (i : List Nat) : (d.setReg r v i).ten = d.ten := rfl
@[simp] theorem Dev.boot_setReg (d : Dev) (r : RegName) (v : Word) (i : List Nat) : (d.setReg r v i).boot = d.boot := rfl
@[simp] theorem Dev.pw_setReg (d : Dev) (r : RegName) (v : Word) (i : List Nat) : (d.setReg r v i).pw = d.pw := rfl
@[simp] theorem Dev.subsys_setReg (d : Dev) (r : RegName) (v : Word) (i : List Nat) : (d.setReg r v i).subsys = d.subsys := rfl
@[simp] theorem Dev.out_setReg (d : Dev) (r : RegName) (v : Word) (i : List Nat) : (d.setReg r v i).out = d.out := rfl
@[simp] theorem Dev.pads_setReg (d : Dev) (r : RegName) (v : Word) (i : List Nat) : (d.setReg r v i).pads = d.pads := rfl
@[simp] theorem Dev.free_setReg (d : Dev) (r : RegName) (v : Word) (i : List Nat) : (d.setReg r v i).free = d.free := rfl
@[simp] theorem Dev.wlog_setReg (d : Dev) (r : RegName) (v : Word) (i : List Nat) : (d.setReg r v i).wlog = d.wlog := rfl

/-! ### `Dev.setFld` -/

@[simp] theorem Dev.part_setFld (d : Dev) (f : Fld) (v : Nat) (i : List Nat) : (d.setFld f v i).part = d.part := rfl
@[simp] theorem Dev.clk_setFld (d : Dev) (f : Fld) (v : Nat) (i : List Nat) : (d.setFld f v i).clk = d.clk := rfl
@[simp] theorem Dev.pace_setFld (d : Dev) (f : Fld) (v : Nat) (i : List Nat) : (d.setFld f v i).pace = d.pace := rfl
@[simp] theorem Dev.tine_setFld (d : Dev) (f : Fld) (v : Nat) (i : List Nat) : (d.setFld f v i).tine = d.tine := rfl
@[simp] theorem Dev.caps_setFld (d : Dev) (f : Fld) (v : Nat) (i : List Nat) : (d.setFld f v i).caps = d.caps := rfl
@[simp] theorem Dev.flt_setFld (d : Dev) (f : Fld) (v : Nat) (i : List Nat) : (d.setFld f v i).flt = d.flt := rfl
@[simp] theorem Dev.posted_setFld (d : Dev) (f : Fld) (v : Nat) (i : List Nat) : (d.setFld f v i).posted = d.posted := rfl
@[simp] theorem Dev.host_setFld (d : Dev) (f : Fld) (v : Nat) (i : List Nat) : (d.setFld f v i).host = d.host := rfl
@[simp] theorem Dev.ring_setFld (d : Dev) (f : Fld) (v : Nat) (i : List Nat) : (d.setFld f v i).ring = d.ring := rfl
@[simp] theorem Dev.vault_setFld (d : Dev) (f : Fld) (v : Nat) (i : List Nat) : (d.setFld f v i).vault = d.vault := rfl
@[simp] theorem Dev.cipher_setFld (d : Dev) (f : Fld) (v : Nat) (i : List Nat) : (d.setFld f v i).cipher = d.cipher := rfl
@[simp] theorem Dev.dma_setFld (d : Dev) (f : Fld) (v : Nat) (i : List Nat) : (d.setFld f v i).dma = d.dma := rfl
@[simp] theorem Dev.stg_setFld (d : Dev) (f : Fld) (v : Nat) (i : List Nat) : (d.setFld f v i).stg = d.stg := rfl
@[simp] theorem Dev.fold_setFld (d : Dev) (f : Fld) (v : Nat) (i : List Nat) : (d.setFld f v i).fold = d.fold := rfl
@[simp] theorem Dev.sow_setFld (d : Dev) (f : Fld) (v : Nat) (i : List Nat) : (d.setFld f v i).sow = d.sow := rfl
@[simp] theorem Dev.glean_setFld (d : Dev) (f : Fld) (v : Nat) (i : List Nat) : (d.setFld f v i).glean = d.glean := rfl
@[simp] theorem Dev.net_setFld (d : Dev) (f : Fld) (v : Nat) (i : List Nat) : (d.setFld f v i).net = d.net := rfl
@[simp] theorem Dev.trd_setFld (d : Dev) (f : Fld) (v : Nat) (i : List Nat) : (d.setFld f v i).trd = d.trd := rfl
@[simp] theorem Dev.ten_setFld (d : Dev) (f : Fld) (v : Nat) (i : List Nat) : (d.setFld f v i).ten = d.ten := rfl
@[simp] theorem Dev.boot_setFld (d : Dev) (f : Fld) (v : Nat) (i : List Nat) : (d.setFld f v i).boot = d.boot := rfl
@[simp] theorem Dev.pw_setFld (d : Dev) (f : Fld) (v : Nat) (i : List Nat) : (d.setFld f v i).pw = d.pw := rfl
@[simp] theorem Dev.subsys_setFld (d : Dev) (f : Fld) (v : Nat) (i : List Nat) : (d.setFld f v i).subsys = d.subsys := rfl
@[simp] theorem Dev.out_setFld (d : Dev) (f : Fld) (v : Nat) (i : List Nat) : (d.setFld f v i).out = d.out := rfl
@[simp] theorem Dev.pads_setFld (d : Dev) (f : Fld) (v : Nat) (i : List Nat) : (d.setFld f v i).pads = d.pads := rfl
@[simp] theorem Dev.free_setFld (d : Dev) (f : Fld) (v : Nat) (i : List Nat) : (d.setFld f v i).free = d.free := rfl
@[simp] theorem Dev.wlog_setFld (d : Dev) (f : Fld) (v : Nat) (i : List Nat) : (d.setFld f v i).wlog = d.wlog := rfl

/-! ### `Dev.count` -/

@[simp] theorem Dev.part_count (d : Dev) (r : RegName) (i : List Nat) (n : Nat) : (d.count r i n).part = d.part := rfl
@[simp] theorem Dev.clk_count (d : Dev) (r : RegName) (i : List Nat) (n : Nat) : (d.count r i n).clk = d.clk := rfl
@[simp] theorem Dev.pace_count (d : Dev) (r : RegName) (i : List Nat) (n : Nat) : (d.count r i n).pace = d.pace := rfl
@[simp] theorem Dev.tine_count (d : Dev) (r : RegName) (i : List Nat) (n : Nat) : (d.count r i n).tine = d.tine := rfl
@[simp] theorem Dev.caps_count (d : Dev) (r : RegName) (i : List Nat) (n : Nat) : (d.count r i n).caps = d.caps := rfl
@[simp] theorem Dev.flt_count (d : Dev) (r : RegName) (i : List Nat) (n : Nat) : (d.count r i n).flt = d.flt := rfl
@[simp] theorem Dev.posted_count (d : Dev) (r : RegName) (i : List Nat) (n : Nat) : (d.count r i n).posted = d.posted := rfl
@[simp] theorem Dev.host_count (d : Dev) (r : RegName) (i : List Nat) (n : Nat) : (d.count r i n).host = d.host := rfl
@[simp] theorem Dev.ring_count (d : Dev) (r : RegName) (i : List Nat) (n : Nat) : (d.count r i n).ring = d.ring := rfl
@[simp] theorem Dev.vault_count (d : Dev) (r : RegName) (i : List Nat) (n : Nat) : (d.count r i n).vault = d.vault := rfl
@[simp] theorem Dev.cipher_count (d : Dev) (r : RegName) (i : List Nat) (n : Nat) : (d.count r i n).cipher = d.cipher := rfl
@[simp] theorem Dev.dma_count (d : Dev) (r : RegName) (i : List Nat) (n : Nat) : (d.count r i n).dma = d.dma := rfl
@[simp] theorem Dev.stg_count (d : Dev) (r : RegName) (i : List Nat) (n : Nat) : (d.count r i n).stg = d.stg := rfl
@[simp] theorem Dev.fold_count (d : Dev) (r : RegName) (i : List Nat) (n : Nat) : (d.count r i n).fold = d.fold := rfl
@[simp] theorem Dev.sow_count (d : Dev) (r : RegName) (i : List Nat) (n : Nat) : (d.count r i n).sow = d.sow := rfl
@[simp] theorem Dev.glean_count (d : Dev) (r : RegName) (i : List Nat) (n : Nat) : (d.count r i n).glean = d.glean := rfl
@[simp] theorem Dev.net_count (d : Dev) (r : RegName) (i : List Nat) (n : Nat) : (d.count r i n).net = d.net := rfl
@[simp] theorem Dev.trd_count (d : Dev) (r : RegName) (i : List Nat) (n : Nat) : (d.count r i n).trd = d.trd := rfl
@[simp] theorem Dev.ten_count (d : Dev) (r : RegName) (i : List Nat) (n : Nat) : (d.count r i n).ten = d.ten := rfl
@[simp] theorem Dev.boot_count (d : Dev) (r : RegName) (i : List Nat) (n : Nat) : (d.count r i n).boot = d.boot := rfl
@[simp] theorem Dev.pw_count (d : Dev) (r : RegName) (i : List Nat) (n : Nat) : (d.count r i n).pw = d.pw := rfl
@[simp] theorem Dev.subsys_count (d : Dev) (r : RegName) (i : List Nat) (n : Nat) : (d.count r i n).subsys = d.subsys := rfl
@[simp] theorem Dev.out_count (d : Dev) (r : RegName) (i : List Nat) (n : Nat) : (d.count r i n).out = d.out := rfl
@[simp] theorem Dev.pads_count (d : Dev) (r : RegName) (i : List Nat) (n : Nat) : (d.count r i n).pads = d.pads := rfl
@[simp] theorem Dev.free_count (d : Dev) (r : RegName) (i : List Nat) (n : Nat) : (d.count r i n).free = d.free := rfl
@[simp] theorem Dev.wlog_count (d : Dev) (r : RegName) (i : List Nat) (n : Nat) : (d.count r i n).wlog = d.wlog := rfl

/-! ### `Dev.emit` -/

@[simp] theorem Dev.part_emit (d : Dev) (x : Out) : (d.emit x).part = d.part := rfl
@[simp] theorem Dev.regs_emit (d : Dev) (x : Out) : (d.emit x).regs = d.regs := rfl
@[simp] theorem Dev.clk_emit (d : Dev) (x : Out) : (d.emit x).clk = d.clk := rfl
@[simp] theorem Dev.pace_emit (d : Dev) (x : Out) : (d.emit x).pace = d.pace := rfl
@[simp] theorem Dev.tine_emit (d : Dev) (x : Out) : (d.emit x).tine = d.tine := rfl
@[simp] theorem Dev.caps_emit (d : Dev) (x : Out) : (d.emit x).caps = d.caps := rfl
@[simp] theorem Dev.flt_emit (d : Dev) (x : Out) : (d.emit x).flt = d.flt := rfl
@[simp] theorem Dev.posted_emit (d : Dev) (x : Out) : (d.emit x).posted = d.posted := rfl
@[simp] theorem Dev.host_emit (d : Dev) (x : Out) : (d.emit x).host = d.host := rfl
@[simp] theorem Dev.ring_emit (d : Dev) (x : Out) : (d.emit x).ring = d.ring := rfl
@[simp] theorem Dev.vault_emit (d : Dev) (x : Out) : (d.emit x).vault = d.vault := rfl
@[simp] theorem Dev.cipher_emit (d : Dev) (x : Out) : (d.emit x).cipher = d.cipher := rfl
@[simp] theorem Dev.dma_emit (d : Dev) (x : Out) : (d.emit x).dma = d.dma := rfl
@[simp] theorem Dev.stg_emit (d : Dev) (x : Out) : (d.emit x).stg = d.stg := rfl
@[simp] theorem Dev.fold_emit (d : Dev) (x : Out) : (d.emit x).fold = d.fold := rfl
@[simp] theorem Dev.sow_emit (d : Dev) (x : Out) : (d.emit x).sow = d.sow := rfl
@[simp] theorem Dev.glean_emit (d : Dev) (x : Out) : (d.emit x).glean = d.glean := rfl
@[simp] theorem Dev.net_emit (d : Dev) (x : Out) : (d.emit x).net = d.net := rfl
@[simp] theorem Dev.trd_emit (d : Dev) (x : Out) : (d.emit x).trd = d.trd := rfl
@[simp] theorem Dev.ten_emit (d : Dev) (x : Out) : (d.emit x).ten = d.ten := rfl
@[simp] theorem Dev.boot_emit (d : Dev) (x : Out) : (d.emit x).boot = d.boot := rfl
@[simp] theorem Dev.pw_emit (d : Dev) (x : Out) : (d.emit x).pw = d.pw := rfl
@[simp] theorem Dev.subsys_emit (d : Dev) (x : Out) : (d.emit x).subsys = d.subsys := rfl
@[simp] theorem Dev.pads_emit (d : Dev) (x : Out) : (d.emit x).pads = d.pads := rfl
@[simp] theorem Dev.free_emit (d : Dev) (x : Out) : (d.emit x).free = d.free := rfl
@[simp] theorem Dev.wlog_emit (d : Dev) (x : Out) : (d.emit x).wlog = d.wlog := rfl

/-! ### `Dev.setQueue` -/

@[simp] theorem Dev.part_setQueue (d : Dev) (ep : Nat) (q : List Msg) : (d.setQueue ep q).part = d.part := rfl
@[simp] theorem Dev.regs_setQueue (d : Dev) (ep : Nat) (q : List Msg) : (d.setQueue ep q).regs = d.regs := rfl
@[simp] theorem Dev.clk_setQueue (d : Dev) (ep : Nat) (q : List Msg) : (d.setQueue ep q).clk = d.clk := rfl
@[simp] theorem Dev.pace_setQueue (d : Dev) (ep : Nat) (q : List Msg) : (d.setQueue ep q).pace = d.pace := rfl
@[simp] theorem Dev.caps_setQueue (d : Dev) (ep : Nat) (q : List Msg) : (d.setQueue ep q).caps = d.caps := rfl
@[simp] theorem Dev.flt_setQueue (d : Dev) (ep : Nat) (q : List Msg) : (d.setQueue ep q).flt = d.flt := rfl
@[simp] theorem Dev.posted_setQueue (d : Dev) (ep : Nat) (q : List Msg) : (d.setQueue ep q).posted = d.posted := rfl
@[simp] theorem Dev.host_setQueue (d : Dev) (ep : Nat) (q : List Msg) : (d.setQueue ep q).host = d.host := rfl
@[simp] theorem Dev.ring_setQueue (d : Dev) (ep : Nat) (q : List Msg) : (d.setQueue ep q).ring = d.ring := rfl
@[simp] theorem Dev.vault_setQueue (d : Dev) (ep : Nat) (q : List Msg) : (d.setQueue ep q).vault = d.vault := rfl
@[simp] theorem Dev.cipher_setQueue (d : Dev) (ep : Nat) (q : List Msg) : (d.setQueue ep q).cipher = d.cipher := rfl
@[simp] theorem Dev.dma_setQueue (d : Dev) (ep : Nat) (q : List Msg) : (d.setQueue ep q).dma = d.dma := rfl
@[simp] theorem Dev.stg_setQueue (d : Dev) (ep : Nat) (q : List Msg) : (d.setQueue ep q).stg = d.stg := rfl
@[simp] theorem Dev.fold_setQueue (d : Dev) (ep : Nat) (q : List Msg) : (d.setQueue ep q).fold = d.fold := rfl
@[simp] theorem Dev.sow_setQueue (d : Dev) (ep : Nat) (q : List Msg) : (d.setQueue ep q).sow = d.sow := rfl
@[simp] theorem Dev.glean_setQueue (d : Dev) (ep : Nat) (q : List Msg) : (d.setQueue ep q).glean = d.glean := rfl
@[simp] theorem Dev.net_setQueue (d : Dev) (ep : Nat) (q : List Msg) : (d.setQueue ep q).net = d.net := rfl
@[simp] theorem Dev.trd_setQueue (d : Dev) (ep : Nat) (q : List Msg) : (d.setQueue ep q).trd = d.trd := rfl
@[simp] theorem Dev.ten_setQueue (d : Dev) (ep : Nat) (q : List Msg) : (d.setQueue ep q).ten = d.ten := rfl
@[simp] theorem Dev.boot_setQueue (d : Dev) (ep : Nat) (q : List Msg) : (d.setQueue ep q).boot = d.boot := rfl
@[simp] theorem Dev.pw_setQueue (d : Dev) (ep : Nat) (q : List Msg) : (d.setQueue ep q).pw = d.pw := rfl
@[simp] theorem Dev.subsys_setQueue (d : Dev) (ep : Nat) (q : List Msg) : (d.setQueue ep q).subsys = d.subsys := rfl
@[simp] theorem Dev.out_setQueue (d : Dev) (ep : Nat) (q : List Msg) : (d.setQueue ep q).out = d.out := rfl
@[simp] theorem Dev.pads_setQueue (d : Dev) (ep : Nat) (q : List Msg) : (d.setQueue ep q).pads = d.pads := rfl
@[simp] theorem Dev.free_setQueue (d : Dev) (ep : Nat) (q : List Msg) : (d.setQueue ep q).free = d.free := rfl
@[simp] theorem Dev.wlog_setQueue (d : Dev) (ep : Nat) (q : List Msg) : (d.setQueue ep q).wlog = d.wlog := rfl

/-! ### `Dev.post` -/

@[simp] theorem Dev.part_post (d : Dev) (ep : Nat) (x : Msg) : (d.post ep x).part = d.part := rfl
@[simp] theorem Dev.regs_post (d : Dev) (ep : Nat) (x : Msg) : (d.post ep x).regs = d.regs := rfl
@[simp] theorem Dev.clk_post (d : Dev) (ep : Nat) (x : Msg) : (d.post ep x).clk = d.clk := rfl
@[simp] theorem Dev.pace_post (d : Dev) (ep : Nat) (x : Msg) : (d.post ep x).pace = d.pace := rfl
@[simp] theorem Dev.caps_post (d : Dev) (ep : Nat) (x : Msg) : (d.post ep x).caps = d.caps := rfl
@[simp] theorem Dev.flt_post (d : Dev) (ep : Nat) (x : Msg) : (d.post ep x).flt = d.flt := rfl
@[simp] theorem Dev.posted_post (d : Dev) (ep : Nat) (x : Msg) : (d.post ep x).posted = d.posted := rfl
@[simp] theorem Dev.host_post (d : Dev) (ep : Nat) (x : Msg) : (d.post ep x).host = d.host := rfl
@[simp] theorem Dev.ring_post (d : Dev) (ep : Nat) (x : Msg) : (d.post ep x).ring = d.ring := rfl
@[simp] theorem Dev.vault_post (d : Dev) (ep : Nat) (x : Msg) : (d.post ep x).vault = d.vault := rfl
@[simp] theorem Dev.cipher_post (d : Dev) (ep : Nat) (x : Msg) : (d.post ep x).cipher = d.cipher := rfl
@[simp] theorem Dev.dma_post (d : Dev) (ep : Nat) (x : Msg) : (d.post ep x).dma = d.dma := rfl
@[simp] theorem Dev.stg_post (d : Dev) (ep : Nat) (x : Msg) : (d.post ep x).stg = d.stg := rfl
@[simp] theorem Dev.fold_post (d : Dev) (ep : Nat) (x : Msg) : (d.post ep x).fold = d.fold := rfl
@[simp] theorem Dev.sow_post (d : Dev) (ep : Nat) (x : Msg) : (d.post ep x).sow = d.sow := rfl
@[simp] theorem Dev.glean_post (d : Dev) (ep : Nat) (x : Msg) : (d.post ep x).glean = d.glean := rfl
@[simp] theorem Dev.net_post (d : Dev) (ep : Nat) (x : Msg) : (d.post ep x).net = d.net := rfl
@[simp] theorem Dev.trd_post (d : Dev) (ep : Nat) (x : Msg) : (d.post ep x).trd = d.trd := rfl
@[simp] theorem Dev.ten_post (d : Dev) (ep : Nat) (x : Msg) : (d.post ep x).ten = d.ten := rfl
@[simp] theorem Dev.boot_post (d : Dev) (ep : Nat) (x : Msg) : (d.post ep x).boot = d.boot := rfl
@[simp] theorem Dev.pw_post (d : Dev) (ep : Nat) (x : Msg) : (d.post ep x).pw = d.pw := rfl
@[simp] theorem Dev.subsys_post (d : Dev) (ep : Nat) (x : Msg) : (d.post ep x).subsys = d.subsys := rfl
@[simp] theorem Dev.out_post (d : Dev) (ep : Nat) (x : Msg) : (d.post ep x).out = d.out := rfl
@[simp] theorem Dev.pads_post (d : Dev) (ep : Nat) (x : Msg) : (d.post ep x).pads = d.pads := rfl
@[simp] theorem Dev.free_post (d : Dev) (ep : Nat) (x : Msg) : (d.post ep x).free = d.free := rfl
@[simp] theorem Dev.wlog_post (d : Dev) (ep : Nat) (x : Msg) : (d.post ep x).wlog = d.wlog := rfl

/-! ### `Dev.pop` -/

@[simp] theorem Dev.part_pop (d : Dev) (ep : Nat) : (d.pop ep).part = d.part := rfl
@[simp] theorem Dev.regs_pop (d : Dev) (ep : Nat) : (d.pop ep).regs = d.regs := rfl
@[simp] theorem Dev.clk_pop (d : Dev) (ep : Nat) : (d.pop ep).clk = d.clk := rfl
@[simp] theorem Dev.pace_pop (d : Dev) (ep : Nat) : (d.pop ep).pace = d.pace := rfl
@[simp] theorem Dev.caps_pop (d : Dev) (ep : Nat) : (d.pop ep).caps = d.caps := rfl
@[simp] theorem Dev.flt_pop (d : Dev) (ep : Nat) : (d.pop ep).flt = d.flt := rfl
@[simp] theorem Dev.posted_pop (d : Dev) (ep : Nat) : (d.pop ep).posted = d.posted := rfl
@[simp] theorem Dev.host_pop (d : Dev) (ep : Nat) : (d.pop ep).host = d.host := rfl
@[simp] theorem Dev.ring_pop (d : Dev) (ep : Nat) : (d.pop ep).ring = d.ring := rfl
@[simp] theorem Dev.vault_pop (d : Dev) (ep : Nat) : (d.pop ep).vault = d.vault := rfl
@[simp] theorem Dev.cipher_pop (d : Dev) (ep : Nat) : (d.pop ep).cipher = d.cipher := rfl
@[simp] theorem Dev.dma_pop (d : Dev) (ep : Nat) : (d.pop ep).dma = d.dma := rfl
@[simp] theorem Dev.stg_pop (d : Dev) (ep : Nat) : (d.pop ep).stg = d.stg := rfl
@[simp] theorem Dev.fold_pop (d : Dev) (ep : Nat) : (d.pop ep).fold = d.fold := rfl
@[simp] theorem Dev.sow_pop (d : Dev) (ep : Nat) : (d.pop ep).sow = d.sow := rfl
@[simp] theorem Dev.glean_pop (d : Dev) (ep : Nat) : (d.pop ep).glean = d.glean := rfl
@[simp] theorem Dev.net_pop (d : Dev) (ep : Nat) : (d.pop ep).net = d.net := rfl
@[simp] theorem Dev.trd_pop (d : Dev) (ep : Nat) : (d.pop ep).trd = d.trd := rfl
@[simp] theorem Dev.ten_pop (d : Dev) (ep : Nat) : (d.pop ep).ten = d.ten := rfl
@[simp] theorem Dev.boot_pop (d : Dev) (ep : Nat) : (d.pop ep).boot = d.boot := rfl
@[simp] theorem Dev.pw_pop (d : Dev) (ep : Nat) : (d.pop ep).pw = d.pw := rfl
@[simp] theorem Dev.subsys_pop (d : Dev) (ep : Nat) : (d.pop ep).subsys = d.subsys := rfl
@[simp] theorem Dev.out_pop (d : Dev) (ep : Nat) : (d.pop ep).out = d.out := rfl
@[simp] theorem Dev.pads_pop (d : Dev) (ep : Nat) : (d.pop ep).pads = d.pads := rfl
@[simp] theorem Dev.free_pop (d : Dev) (ep : Nat) : (d.pop ep).free = d.free := rfl
@[simp] theorem Dev.wlog_pop (d : Dev) (ep : Nat) : (d.pop ep).wlog = d.wlog := rfl

/-! ### `Dev.setStrand` -/

@[simp] theorem Dev.part_setStrand (d : Dev) (k : Nat) (v : Strand) : (d.setStrand k v).part = d.part := rfl
@[simp] theorem Dev.regs_setStrand (d : Dev) (k : Nat) (v : Strand) : (d.setStrand k v).regs = d.regs := rfl
@[simp] theorem Dev.clk_setStrand (d : Dev) (k : Nat) (v : Strand) : (d.setStrand k v).clk = d.clk := rfl
@[simp] theorem Dev.pace_setStrand (d : Dev) (k : Nat) (v : Strand) : (d.setStrand k v).pace = d.pace := rfl
@[simp] theorem Dev.caps_setStrand (d : Dev) (k : Nat) (v : Strand) : (d.setStrand k v).caps = d.caps := rfl
@[simp] theorem Dev.flt_setStrand (d : Dev) (k : Nat) (v : Strand) : (d.setStrand k v).flt = d.flt := rfl
@[simp] theorem Dev.posted_setStrand (d : Dev) (k : Nat) (v : Strand) : (d.setStrand k v).posted = d.posted := rfl
@[simp] theorem Dev.host_setStrand (d : Dev) (k : Nat) (v : Strand) : (d.setStrand k v).host = d.host := rfl
@[simp] theorem Dev.ring_setStrand (d : Dev) (k : Nat) (v : Strand) : (d.setStrand k v).ring = d.ring := rfl
@[simp] theorem Dev.vault_setStrand (d : Dev) (k : Nat) (v : Strand) : (d.setStrand k v).vault = d.vault := rfl
@[simp] theorem Dev.cipher_setStrand (d : Dev) (k : Nat) (v : Strand) : (d.setStrand k v).cipher = d.cipher := rfl
@[simp] theorem Dev.dma_setStrand (d : Dev) (k : Nat) (v : Strand) : (d.setStrand k v).dma = d.dma := rfl
@[simp] theorem Dev.stg_setStrand (d : Dev) (k : Nat) (v : Strand) : (d.setStrand k v).stg = d.stg := rfl
@[simp] theorem Dev.fold_setStrand (d : Dev) (k : Nat) (v : Strand) : (d.setStrand k v).fold = d.fold := rfl
@[simp] theorem Dev.sow_setStrand (d : Dev) (k : Nat) (v : Strand) : (d.setStrand k v).sow = d.sow := rfl
@[simp] theorem Dev.glean_setStrand (d : Dev) (k : Nat) (v : Strand) : (d.setStrand k v).glean = d.glean := rfl
@[simp] theorem Dev.net_setStrand (d : Dev) (k : Nat) (v : Strand) : (d.setStrand k v).net = d.net := rfl
@[simp] theorem Dev.trd_setStrand (d : Dev) (k : Nat) (v : Strand) : (d.setStrand k v).trd = d.trd := rfl
@[simp] theorem Dev.ten_setStrand (d : Dev) (k : Nat) (v : Strand) : (d.setStrand k v).ten = d.ten := rfl
@[simp] theorem Dev.boot_setStrand (d : Dev) (k : Nat) (v : Strand) : (d.setStrand k v).boot = d.boot := rfl
@[simp] theorem Dev.pw_setStrand (d : Dev) (k : Nat) (v : Strand) : (d.setStrand k v).pw = d.pw := rfl
@[simp] theorem Dev.subsys_setStrand (d : Dev) (k : Nat) (v : Strand) : (d.setStrand k v).subsys = d.subsys := rfl
@[simp] theorem Dev.out_setStrand (d : Dev) (k : Nat) (v : Strand) : (d.setStrand k v).out = d.out := rfl
@[simp] theorem Dev.pads_setStrand (d : Dev) (k : Nat) (v : Strand) : (d.setStrand k v).pads = d.pads := rfl
@[simp] theorem Dev.free_setStrand (d : Dev) (k : Nat) (v : Strand) : (d.setStrand k v).free = d.free := rfl
@[simp] theorem Dev.wlog_setStrand (d : Dev) (k : Nat) (v : Strand) : (d.setStrand k v).wlog = d.wlog := rfl

/-! ### `Dev.setTine` -/

@[simp] theorem Dev.part_setTine (d : Dev) (t : Nat) (x : Tine) : (d.setTine t x).part = d.part := rfl
@[simp] theorem Dev.regs_setTine (d : Dev) (t : Nat) (x : Tine) : (d.setTine t x).regs = d.regs := rfl
@[simp] theorem Dev.clk_setTine (d : Dev) (t : Nat) (x : Tine) : (d.setTine t x).clk = d.clk := rfl
@[simp] theorem Dev.pace_setTine (d : Dev) (t : Nat) (x : Tine) : (d.setTine t x).pace = d.pace := rfl
@[simp] theorem Dev.caps_setTine (d : Dev) (t : Nat) (x : Tine) : (d.setTine t x).caps = d.caps := rfl
@[simp] theorem Dev.flt_setTine (d : Dev) (t : Nat) (x : Tine) : (d.setTine t x).flt = d.flt := rfl
@[simp] theorem Dev.posted_setTine (d : Dev) (t : Nat) (x : Tine) : (d.setTine t x).posted = d.posted := rfl
@[simp] theorem Dev.host_setTine (d : Dev) (t : Nat) (x : Tine) : (d.setTine t x).host = d.host := rfl
@[simp] theorem Dev.ring_setTine (d : Dev) (t : Nat) (x : Tine) : (d.setTine t x).ring = d.ring := rfl
@[simp] theorem Dev.vault_setTine (d : Dev) (t : Nat) (x : Tine) : (d.setTine t x).vault = d.vault := rfl
@[simp] theorem Dev.cipher_setTine (d : Dev) (t : Nat) (x : Tine) : (d.setTine t x).cipher = d.cipher := rfl
@[simp] theorem Dev.dma_setTine (d : Dev) (t : Nat) (x : Tine) : (d.setTine t x).dma = d.dma := rfl
@[simp] theorem Dev.stg_setTine (d : Dev) (t : Nat) (x : Tine) : (d.setTine t x).stg = d.stg := rfl
@[simp] theorem Dev.fold_setTine (d : Dev) (t : Nat) (x : Tine) : (d.setTine t x).fold = d.fold := rfl
@[simp] theorem Dev.sow_setTine (d : Dev) (t : Nat) (x : Tine) : (d.setTine t x).sow = d.sow := rfl
@[simp] theorem Dev.glean_setTine (d : Dev) (t : Nat) (x : Tine) : (d.setTine t x).glean = d.glean := rfl
@[simp] theorem Dev.net_setTine (d : Dev) (t : Nat) (x : Tine) : (d.setTine t x).net = d.net := rfl
@[simp] theorem Dev.trd_setTine (d : Dev) (t : Nat) (x : Tine) : (d.setTine t x).trd = d.trd := rfl
@[simp] theorem Dev.ten_setTine (d : Dev) (t : Nat) (x : Tine) : (d.setTine t x).ten = d.ten := rfl
@[simp] theorem Dev.boot_setTine (d : Dev) (t : Nat) (x : Tine) : (d.setTine t x).boot = d.boot := rfl
@[simp] theorem Dev.pw_setTine (d : Dev) (t : Nat) (x : Tine) : (d.setTine t x).pw = d.pw := rfl
@[simp] theorem Dev.subsys_setTine (d : Dev) (t : Nat) (x : Tine) : (d.setTine t x).subsys = d.subsys := rfl
@[simp] theorem Dev.out_setTine (d : Dev) (t : Nat) (x : Tine) : (d.setTine t x).out = d.out := rfl
@[simp] theorem Dev.pads_setTine (d : Dev) (t : Nat) (x : Tine) : (d.setTine t x).pads = d.pads := rfl
@[simp] theorem Dev.free_setTine (d : Dev) (t : Nat) (x : Tine) : (d.setTine t x).free = d.free := rfl
@[simp] theorem Dev.wlog_setTine (d : Dev) (t : Nat) (x : Tine) : (d.setTine t x).wlog = d.wlog := rfl

/-! ### `Dev.slotted` -/

@[simp] theorem Dev.part_slotted (d : Dev) (m : Mem) (k : Nat) : (d.slotted m k).part = d.part := rfl
@[simp] theorem Dev.regs_slotted (d : Dev) (m : Mem) (k : Nat) : (d.slotted m k).regs = d.regs := rfl
@[simp] theorem Dev.clk_slotted (d : Dev) (m : Mem) (k : Nat) : (d.slotted m k).clk = d.clk := rfl
@[simp] theorem Dev.pace_slotted (d : Dev) (m : Mem) (k : Nat) : (d.slotted m k).pace = d.pace := rfl
@[simp] theorem Dev.caps_slotted (d : Dev) (m : Mem) (k : Nat) : (d.slotted m k).caps = d.caps := rfl
@[simp] theorem Dev.flt_slotted (d : Dev) (m : Mem) (k : Nat) : (d.slotted m k).flt = d.flt := rfl
@[simp] theorem Dev.posted_slotted (d : Dev) (m : Mem) (k : Nat) : (d.slotted m k).posted = d.posted := rfl
@[simp] theorem Dev.host_slotted (d : Dev) (m : Mem) (k : Nat) : (d.slotted m k).host = d.host := rfl
@[simp] theorem Dev.ring_slotted (d : Dev) (m : Mem) (k : Nat) : (d.slotted m k).ring = d.ring := rfl
@[simp] theorem Dev.vault_slotted (d : Dev) (m : Mem) (k : Nat) : (d.slotted m k).vault = d.vault := rfl
@[simp] theorem Dev.cipher_slotted (d : Dev) (m : Mem) (k : Nat) : (d.slotted m k).cipher = d.cipher := rfl
@[simp] theorem Dev.dma_slotted (d : Dev) (m : Mem) (k : Nat) : (d.slotted m k).dma = d.dma := rfl
@[simp] theorem Dev.stg_slotted (d : Dev) (m : Mem) (k : Nat) : (d.slotted m k).stg = d.stg := rfl
@[simp] theorem Dev.fold_slotted (d : Dev) (m : Mem) (k : Nat) : (d.slotted m k).fold = d.fold := rfl
@[simp] theorem Dev.sow_slotted (d : Dev) (m : Mem) (k : Nat) : (d.slotted m k).sow = d.sow := rfl
@[simp] theorem Dev.glean_slotted (d : Dev) (m : Mem) (k : Nat) : (d.slotted m k).glean = d.glean := rfl
@[simp] theorem Dev.net_slotted (d : Dev) (m : Mem) (k : Nat) : (d.slotted m k).net = d.net := rfl
@[simp] theorem Dev.trd_slotted (d : Dev) (m : Mem) (k : Nat) : (d.slotted m k).trd = d.trd := rfl
@[simp] theorem Dev.ten_slotted (d : Dev) (m : Mem) (k : Nat) : (d.slotted m k).ten = d.ten := rfl
@[simp] theorem Dev.boot_slotted (d : Dev) (m : Mem) (k : Nat) : (d.slotted m k).boot = d.boot := rfl
@[simp] theorem Dev.pw_slotted (d : Dev) (m : Mem) (k : Nat) : (d.slotted m k).pw = d.pw := rfl
@[simp] theorem Dev.subsys_slotted (d : Dev) (m : Mem) (k : Nat) : (d.slotted m k).subsys = d.subsys := rfl
@[simp] theorem Dev.out_slotted (d : Dev) (m : Mem) (k : Nat) : (d.slotted m k).out = d.out := rfl
@[simp] theorem Dev.pads_slotted (d : Dev) (m : Mem) (k : Nat) : (d.slotted m k).pads = d.pads := rfl
@[simp] theorem Dev.free_slotted (d : Dev) (m : Mem) (k : Nat) : (d.slotted m k).free = d.free := rfl
@[simp] theorem Dev.wlog_slotted (d : Dev) (m : Mem) (k : Nat) : (d.slotted m k).wlog = d.wlog := rfl

/-! ### `Dev.modStrand` -/

@[simp] theorem Dev.part_modStrand (d : Dev) (k : Nat) (f : Strand → Strand) : (d.modStrand k f).part = d.part := rfl
@[simp] theorem Dev.regs_modStrand (d : Dev) (k : Nat) (f : Strand → Strand) : (d.modStrand k f).regs = d.regs := rfl
@[simp] theorem Dev.clk_modStrand (d : Dev) (k : Nat) (f : Strand → Strand) : (d.modStrand k f).clk = d.clk := rfl
@[simp] theorem Dev.pace_modStrand (d : Dev) (k : Nat) (f : Strand → Strand) : (d.modStrand k f).pace = d.pace := rfl
@[simp] theorem Dev.caps_modStrand (d : Dev) (k : Nat) (f : Strand → Strand) : (d.modStrand k f).caps = d.caps := rfl
@[simp] theorem Dev.flt_modStrand (d : Dev) (k : Nat) (f : Strand → Strand) : (d.modStrand k f).flt = d.flt := rfl
@[simp] theorem Dev.posted_modStrand (d : Dev) (k : Nat) (f : Strand → Strand) : (d.modStrand k f).posted = d.posted := rfl
@[simp] theorem Dev.host_modStrand (d : Dev) (k : Nat) (f : Strand → Strand) : (d.modStrand k f).host = d.host := rfl
@[simp] theorem Dev.ring_modStrand (d : Dev) (k : Nat) (f : Strand → Strand) : (d.modStrand k f).ring = d.ring := rfl
@[simp] theorem Dev.vault_modStrand (d : Dev) (k : Nat) (f : Strand → Strand) : (d.modStrand k f).vault = d.vault := rfl
@[simp] theorem Dev.cipher_modStrand (d : Dev) (k : Nat) (f : Strand → Strand) : (d.modStrand k f).cipher = d.cipher := rfl
@[simp] theorem Dev.dma_modStrand (d : Dev) (k : Nat) (f : Strand → Strand) : (d.modStrand k f).dma = d.dma := rfl
@[simp] theorem Dev.stg_modStrand (d : Dev) (k : Nat) (f : Strand → Strand) : (d.modStrand k f).stg = d.stg := rfl
@[simp] theorem Dev.fold_modStrand (d : Dev) (k : Nat) (f : Strand → Strand) : (d.modStrand k f).fold = d.fold := rfl
@[simp] theorem Dev.sow_modStrand (d : Dev) (k : Nat) (f : Strand → Strand) : (d.modStrand k f).sow = d.sow := rfl
@[simp] theorem Dev.glean_modStrand (d : Dev) (k : Nat) (f : Strand → Strand) : (d.modStrand k f).glean = d.glean := rfl
@[simp] theorem Dev.net_modStrand (d : Dev) (k : Nat) (f : Strand → Strand) : (d.modStrand k f).net = d.net := rfl
@[simp] theorem Dev.trd_modStrand (d : Dev) (k : Nat) (f : Strand → Strand) : (d.modStrand k f).trd = d.trd := rfl
@[simp] theorem Dev.ten_modStrand (d : Dev) (k : Nat) (f : Strand → Strand) : (d.modStrand k f).ten = d.ten := rfl
@[simp] theorem Dev.boot_modStrand (d : Dev) (k : Nat) (f : Strand → Strand) : (d.modStrand k f).boot = d.boot := rfl
@[simp] theorem Dev.pw_modStrand (d : Dev) (k : Nat) (f : Strand → Strand) : (d.modStrand k f).pw = d.pw := rfl
@[simp] theorem Dev.subsys_modStrand (d : Dev) (k : Nat) (f : Strand → Strand) : (d.modStrand k f).subsys = d.subsys := rfl
@[simp] theorem Dev.out_modStrand (d : Dev) (k : Nat) (f : Strand → Strand) : (d.modStrand k f).out = d.out := rfl
@[simp] theorem Dev.pads_modStrand (d : Dev) (k : Nat) (f : Strand → Strand) : (d.modStrand k f).pads = d.pads := rfl
@[simp] theorem Dev.free_modStrand (d : Dev) (k : Nat) (f : Strand → Strand) : (d.modStrand k f).free = d.free := rfl
@[simp] theorem Dev.wlog_modStrand (d : Dev) (k : Nat) (f : Strand → Strand) : (d.modStrand k f).wlog = d.wlog := rfl

/-! ### `Dev.draw` -/

@[simp] theorem Dev.part_draw (d : Dev)  : (d.draw.2).part = d.part := rfl
@[simp] theorem Dev.regs_draw (d : Dev)  : (d.draw.2).regs = d.regs := rfl
@[simp] theorem Dev.clk_draw (d : Dev)  : (d.draw.2).clk = d.clk := rfl
@[simp] theorem Dev.pace_draw (d : Dev)  : (d.draw.2).pace = d.pace := rfl
@[simp] theorem Dev.tine_draw (d : Dev)  : (d.draw.2).tine = d.tine := rfl
@[simp] theorem Dev.caps_draw (d : Dev)  : (d.draw.2).caps = d.caps := rfl
@[simp] theorem Dev.flt_draw (d : Dev)  : (d.draw.2).flt = d.flt := rfl
@[simp] theorem Dev.posted_draw (d : Dev)  : (d.draw.2).posted = d.posted := rfl
@[simp] theorem Dev.host_draw (d : Dev)  : (d.draw.2).host = d.host := rfl
@[simp] theorem Dev.ring_draw (d : Dev)  : (d.draw.2).ring = d.ring := rfl
@[simp] theorem Dev.vault_draw (d : Dev)  : (d.draw.2).vault = d.vault := rfl
@[simp] theorem Dev.cipher_draw (d : Dev)  : (d.draw.2).cipher = d.cipher := rfl
@[simp] theorem Dev.dma_draw (d : Dev)  : (d.draw.2).dma = d.dma := rfl
@[simp] theorem Dev.stg_draw (d : Dev)  : (d.draw.2).stg = d.stg := rfl
@[simp] theorem Dev.fold_draw (d : Dev)  : (d.draw.2).fold = d.fold := rfl
@[simp] theorem Dev.sow_draw (d : Dev)  : (d.draw.2).sow = d.sow := rfl
@[simp] theorem Dev.glean_draw (d : Dev)  : (d.draw.2).glean = d.glean := rfl
@[simp] theorem Dev.net_draw (d : Dev)  : (d.draw.2).net = d.net := rfl
@[simp] theorem Dev.trd_draw (d : Dev)  : (d.draw.2).trd = d.trd := rfl
@[simp] theorem Dev.ten_draw (d : Dev)  : (d.draw.2).ten = d.ten := rfl
@[simp] theorem Dev.boot_draw (d : Dev)  : (d.draw.2).boot = d.boot := rfl
@[simp] theorem Dev.pw_draw (d : Dev)  : (d.draw.2).pw = d.pw := rfl
@[simp] theorem Dev.subsys_draw (d : Dev)  : (d.draw.2).subsys = d.subsys := rfl
@[simp] theorem Dev.out_draw (d : Dev)  : (d.draw.2).out = d.out := rfl
@[simp] theorem Dev.pads_draw (d : Dev)  : (d.draw.2).pads = d.pads := rfl
@[simp] theorem Dev.wlog_draw (d : Dev)  : (d.draw.2).wlog = d.wlog := rfl

/-! ### `Dev.undefine` -/

@[simp] theorem Dev.part_undefine (d : Dev) (a n : Nat) : (d.undefine a n).part = d.part := rfl
@[simp] theorem Dev.regs_undefine (d : Dev) (a n : Nat) : (d.undefine a n).regs = d.regs := rfl
@[simp] theorem Dev.clk_undefine (d : Dev) (a n : Nat) : (d.undefine a n).clk = d.clk := rfl
@[simp] theorem Dev.pace_undefine (d : Dev) (a n : Nat) : (d.undefine a n).pace = d.pace := rfl
@[simp] theorem Dev.tine_undefine (d : Dev) (a n : Nat) : (d.undefine a n).tine = d.tine := rfl
@[simp] theorem Dev.caps_undefine (d : Dev) (a n : Nat) : (d.undefine a n).caps = d.caps := rfl
@[simp] theorem Dev.flt_undefine (d : Dev) (a n : Nat) : (d.undefine a n).flt = d.flt := rfl
@[simp] theorem Dev.posted_undefine (d : Dev) (a n : Nat) : (d.undefine a n).posted = d.posted := rfl
@[simp] theorem Dev.host_undefine (d : Dev) (a n : Nat) : (d.undefine a n).host = d.host := rfl
@[simp] theorem Dev.ring_undefine (d : Dev) (a n : Nat) : (d.undefine a n).ring = d.ring := rfl
@[simp] theorem Dev.vault_undefine (d : Dev) (a n : Nat) : (d.undefine a n).vault = d.vault := rfl
@[simp] theorem Dev.cipher_undefine (d : Dev) (a n : Nat) : (d.undefine a n).cipher = d.cipher := rfl
@[simp] theorem Dev.dma_undefine (d : Dev) (a n : Nat) : (d.undefine a n).dma = d.dma := rfl
@[simp] theorem Dev.stg_undefine (d : Dev) (a n : Nat) : (d.undefine a n).stg = d.stg := rfl
@[simp] theorem Dev.fold_undefine (d : Dev) (a n : Nat) : (d.undefine a n).fold = d.fold := rfl
@[simp] theorem Dev.sow_undefine (d : Dev) (a n : Nat) : (d.undefine a n).sow = d.sow := rfl
@[simp] theorem Dev.glean_undefine (d : Dev) (a n : Nat) : (d.undefine a n).glean = d.glean := rfl
@[simp] theorem Dev.net_undefine (d : Dev) (a n : Nat) : (d.undefine a n).net = d.net := rfl
@[simp] theorem Dev.trd_undefine (d : Dev) (a n : Nat) : (d.undefine a n).trd = d.trd := rfl
@[simp] theorem Dev.ten_undefine (d : Dev) (a n : Nat) : (d.undefine a n).ten = d.ten := rfl
@[simp] theorem Dev.boot_undefine (d : Dev) (a n : Nat) : (d.undefine a n).boot = d.boot := rfl
@[simp] theorem Dev.pw_undefine (d : Dev) (a n : Nat) : (d.undefine a n).pw = d.pw := rfl
@[simp] theorem Dev.subsys_undefine (d : Dev) (a n : Nat) : (d.undefine a n).subsys = d.subsys := rfl
@[simp] theorem Dev.out_undefine (d : Dev) (a n : Nat) : (d.undefine a n).out = d.out := rfl
@[simp] theorem Dev.wlog_undefine (d : Dev) (a n : Nat) : (d.undefine a n).wlog = d.wlog := rfl

/-! ### `Dev.enqueue` -/

@[simp] theorem Dev.part_enqueue (d : Dev) (r : Report) : (d.enqueue r).part = d.part := by
  simp only [Dev.enqueue]; split <;> rfl
@[simp] theorem Dev.clk_enqueue (d : Dev) (r : Report) : (d.enqueue r).clk = d.clk := by
  simp only [Dev.enqueue]; split <;> rfl
@[simp] theorem Dev.pace_enqueue (d : Dev) (r : Report) : (d.enqueue r).pace = d.pace := by
  simp only [Dev.enqueue]; split <;> rfl
@[simp] theorem Dev.tine_enqueue (d : Dev) (r : Report) : (d.enqueue r).tine = d.tine := by
  simp only [Dev.enqueue]; split <;> rfl
@[simp] theorem Dev.caps_enqueue (d : Dev) (r : Report) : (d.enqueue r).caps = d.caps := by
  simp only [Dev.enqueue]; split <;> rfl
@[simp] theorem Dev.posted_enqueue (d : Dev) (r : Report) : (d.enqueue r).posted = d.posted := by
  simp only [Dev.enqueue]; split <;> rfl
@[simp] theorem Dev.host_enqueue (d : Dev) (r : Report) : (d.enqueue r).host = d.host := by
  simp only [Dev.enqueue]; split <;> rfl
@[simp] theorem Dev.ring_enqueue (d : Dev) (r : Report) : (d.enqueue r).ring = d.ring := by
  simp only [Dev.enqueue]; split <;> rfl
@[simp] theorem Dev.vault_enqueue (d : Dev) (r : Report) : (d.enqueue r).vault = d.vault := by
  simp only [Dev.enqueue]; split <;> rfl
@[simp] theorem Dev.cipher_enqueue (d : Dev) (r : Report) : (d.enqueue r).cipher = d.cipher := by
  simp only [Dev.enqueue]; split <;> rfl
@[simp] theorem Dev.dma_enqueue (d : Dev) (r : Report) : (d.enqueue r).dma = d.dma := by
  simp only [Dev.enqueue]; split <;> rfl
@[simp] theorem Dev.stg_enqueue (d : Dev) (r : Report) : (d.enqueue r).stg = d.stg := by
  simp only [Dev.enqueue]; split <;> rfl
@[simp] theorem Dev.fold_enqueue (d : Dev) (r : Report) : (d.enqueue r).fold = d.fold := by
  simp only [Dev.enqueue]; split <;> rfl
@[simp] theorem Dev.sow_enqueue (d : Dev) (r : Report) : (d.enqueue r).sow = d.sow := by
  simp only [Dev.enqueue]; split <;> rfl
@[simp] theorem Dev.glean_enqueue (d : Dev) (r : Report) : (d.enqueue r).glean = d.glean := by
  simp only [Dev.enqueue]; split <;> rfl
@[simp] theorem Dev.net_enqueue (d : Dev) (r : Report) : (d.enqueue r).net = d.net := by
  simp only [Dev.enqueue]; split <;> rfl
@[simp] theorem Dev.trd_enqueue (d : Dev) (r : Report) : (d.enqueue r).trd = d.trd := by
  simp only [Dev.enqueue]; split <;> rfl
@[simp] theorem Dev.ten_enqueue (d : Dev) (r : Report) : (d.enqueue r).ten = d.ten := by
  simp only [Dev.enqueue]; split <;> rfl
@[simp] theorem Dev.boot_enqueue (d : Dev) (r : Report) : (d.enqueue r).boot = d.boot := by
  simp only [Dev.enqueue]; split <;> rfl
@[simp] theorem Dev.pw_enqueue (d : Dev) (r : Report) : (d.enqueue r).pw = d.pw := by
  simp only [Dev.enqueue]; split <;> rfl
@[simp] theorem Dev.subsys_enqueue (d : Dev) (r : Report) : (d.enqueue r).subsys = d.subsys := by
  simp only [Dev.enqueue]; split <;> rfl
@[simp] theorem Dev.out_enqueue (d : Dev) (r : Report) : (d.enqueue r).out = d.out := by
  simp only [Dev.enqueue]; split <;> rfl
@[simp] theorem Dev.pads_enqueue (d : Dev) (r : Report) : (d.enqueue r).pads = d.pads := by
  simp only [Dev.enqueue]; split <;> rfl
@[simp] theorem Dev.free_enqueue (d : Dev) (r : Report) : (d.enqueue r).free = d.free := by
  simp only [Dev.enqueue]; split <;> rfl
@[simp] theorem Dev.wlog_enqueue (d : Dev) (r : Report) : (d.enqueue r).wlog = d.wlog := by
  simp only [Dev.enqueue]; split <;> rfl

/-! ### `Dev.report` -/

@[simp] theorem Dev.part_report (d : Dev) (r : Report) : (d.report r).part = d.part := by simp [Dev.report]
@[simp] theorem Dev.clk_report (d : Dev) (r : Report) : (d.report r).clk = d.clk := by simp [Dev.report]
@[simp] theorem Dev.pace_report (d : Dev) (r : Report) : (d.report r).pace = d.pace := by simp [Dev.report]
@[simp] theorem Dev.tine_report (d : Dev) (r : Report) : (d.report r).tine = d.tine := by simp [Dev.report]
@[simp] theorem Dev.caps_report (d : Dev) (r : Report) : (d.report r).caps = d.caps := by simp [Dev.report]
@[simp] theorem Dev.posted_report (d : Dev) (r : Report) : (d.report r).posted = d.posted := by simp [Dev.report]
@[simp] theorem Dev.host_report (d : Dev) (r : Report) : (d.report r).host = d.host := by simp [Dev.report]
@[simp] theorem Dev.ring_report (d : Dev) (r : Report) : (d.report r).ring = d.ring := by simp [Dev.report]
@[simp] theorem Dev.vault_report (d : Dev) (r : Report) : (d.report r).vault = d.vault := by simp [Dev.report]
@[simp] theorem Dev.cipher_report (d : Dev) (r : Report) : (d.report r).cipher = d.cipher := by simp [Dev.report]
@[simp] theorem Dev.dma_report (d : Dev) (r : Report) : (d.report r).dma = d.dma := by simp [Dev.report]
@[simp] theorem Dev.stg_report (d : Dev) (r : Report) : (d.report r).stg = d.stg := by simp [Dev.report]
@[simp] theorem Dev.fold_report (d : Dev) (r : Report) : (d.report r).fold = d.fold := by simp [Dev.report]
@[simp] theorem Dev.sow_report (d : Dev) (r : Report) : (d.report r).sow = d.sow := by simp [Dev.report]
@[simp] theorem Dev.glean_report (d : Dev) (r : Report) : (d.report r).glean = d.glean := by simp [Dev.report]
@[simp] theorem Dev.net_report (d : Dev) (r : Report) : (d.report r).net = d.net := by simp [Dev.report]
@[simp] theorem Dev.trd_report (d : Dev) (r : Report) : (d.report r).trd = d.trd := by simp [Dev.report]
@[simp] theorem Dev.ten_report (d : Dev) (r : Report) : (d.report r).ten = d.ten := by simp [Dev.report]
@[simp] theorem Dev.boot_report (d : Dev) (r : Report) : (d.report r).boot = d.boot := by simp [Dev.report]
@[simp] theorem Dev.pw_report (d : Dev) (r : Report) : (d.report r).pw = d.pw := by simp [Dev.report]
@[simp] theorem Dev.subsys_report (d : Dev) (r : Report) : (d.report r).subsys = d.subsys := by simp [Dev.report]
@[simp] theorem Dev.out_report (d : Dev) (r : Report) : (d.report r).out = d.out := by simp [Dev.report]
@[simp] theorem Dev.pads_report (d : Dev) (r : Report) : (d.report r).pads = d.pads := by simp [Dev.report]
@[simp] theorem Dev.free_report (d : Dev) (r : Report) : (d.report r).free = d.free := by simp [Dev.report]
@[simp] theorem Dev.wlog_report (d : Dev) (r : Report) : (d.report r).wlog = d.wlog := by simp [Dev.report]

/-! ### `Dev.blame` -/

@[simp] theorem Dev.part_blame (d : Dev) (c w a x : Nat) : (d.blame c w a x).part = d.part := by unfold Dev.blame; split <;> simp
@[simp] theorem Dev.clk_blame (d : Dev) (c w a x : Nat) : (d.blame c w a x).clk = d.clk := by unfold Dev.blame; split <;> simp
@[simp] theorem Dev.pace_blame (d : Dev) (c w a x : Nat) : (d.blame c w a x).pace = d.pace := by unfold Dev.blame; split <;> simp
@[simp] theorem Dev.tine_blame (d : Dev) (c w a x : Nat) : (d.blame c w a x).tine = d.tine := by unfold Dev.blame; split <;> simp
@[simp] theorem Dev.caps_blame (d : Dev) (c w a x : Nat) : (d.blame c w a x).caps = d.caps := by unfold Dev.blame; split <;> simp
@[simp] theorem Dev.posted_blame (d : Dev) (c w a x : Nat) : (d.blame c w a x).posted = d.posted := by unfold Dev.blame; split <;> simp
@[simp] theorem Dev.host_blame (d : Dev) (c w a x : Nat) : (d.blame c w a x).host = d.host := by unfold Dev.blame; split <;> simp
@[simp] theorem Dev.ring_blame (d : Dev) (c w a x : Nat) : (d.blame c w a x).ring = d.ring := by unfold Dev.blame; split <;> simp
@[simp] theorem Dev.vault_blame (d : Dev) (c w a x : Nat) : (d.blame c w a x).vault = d.vault := by unfold Dev.blame; split <;> simp
@[simp] theorem Dev.cipher_blame (d : Dev) (c w a x : Nat) : (d.blame c w a x).cipher = d.cipher := by unfold Dev.blame; split <;> simp
@[simp] theorem Dev.dma_blame (d : Dev) (c w a x : Nat) : (d.blame c w a x).dma = d.dma := by unfold Dev.blame; split <;> simp
@[simp] theorem Dev.stg_blame (d : Dev) (c w a x : Nat) : (d.blame c w a x).stg = d.stg := by unfold Dev.blame; split <;> simp
@[simp] theorem Dev.fold_blame (d : Dev) (c w a x : Nat) : (d.blame c w a x).fold = d.fold := by unfold Dev.blame; split <;> simp
@[simp] theorem Dev.sow_blame (d : Dev) (c w a x : Nat) : (d.blame c w a x).sow = d.sow := by unfold Dev.blame; split <;> simp
@[simp] theorem Dev.glean_blame (d : Dev) (c w a x : Nat) : (d.blame c w a x).glean = d.glean := by unfold Dev.blame; split <;> simp
@[simp] theorem Dev.net_blame (d : Dev) (c w a x : Nat) : (d.blame c w a x).net = d.net := by unfold Dev.blame; split <;> simp
@[simp] theorem Dev.trd_blame (d : Dev) (c w a x : Nat) : (d.blame c w a x).trd = d.trd := by unfold Dev.blame; split <;> simp
@[simp] theorem Dev.ten_blame (d : Dev) (c w a x : Nat) : (d.blame c w a x).ten = d.ten := by unfold Dev.blame; split <;> simp
@[simp] theorem Dev.boot_blame (d : Dev) (c w a x : Nat) : (d.blame c w a x).boot = d.boot := by unfold Dev.blame; split <;> simp
@[simp] theorem Dev.pw_blame (d : Dev) (c w a x : Nat) : (d.blame c w a x).pw = d.pw := by unfold Dev.blame; split <;> simp
@[simp] theorem Dev.subsys_blame (d : Dev) (c w a x : Nat) : (d.blame c w a x).subsys = d.subsys := by unfold Dev.blame; split <;> simp
@[simp] theorem Dev.out_blame (d : Dev) (c w a x : Nat) : (d.blame c w a x).out = d.out := by unfold Dev.blame; split <;> simp
@[simp] theorem Dev.pads_blame (d : Dev) (c w a x : Nat) : (d.blame c w a x).pads = d.pads := by unfold Dev.blame; split <;> simp
@[simp] theorem Dev.free_blame (d : Dev) (c w a x : Nat) : (d.blame c w a x).free = d.free := by unfold Dev.blame; split <;> simp
@[simp] theorem Dev.wlog_blame (d : Dev) (c w a x : Nat) : (d.blame c w a x).wlog = d.wlog := by unfold Dev.blame; split <;> simp

/-! ### `Dev.st` -/

@[simp] theorem Dev.part_st (d : Dev) (a : Nat) (b : Byte) : (d.st a b).part = d.part := by unfold Dev.st; split <;> rfl
@[simp] theorem Dev.regs_st (d : Dev) (a : Nat) (b : Byte) : (d.st a b).regs = d.regs := by unfold Dev.st; split <;> rfl
@[simp] theorem Dev.clk_st (d : Dev) (a : Nat) (b : Byte) : (d.st a b).clk = d.clk := by unfold Dev.st; split <;> rfl
@[simp] theorem Dev.pace_st (d : Dev) (a : Nat) (b : Byte) : (d.st a b).pace = d.pace := by unfold Dev.st; split <;> rfl
@[simp] theorem Dev.tine_st (d : Dev) (a : Nat) (b : Byte) : (d.st a b).tine = d.tine := by unfold Dev.st; split <;> rfl
@[simp] theorem Dev.caps_st (d : Dev) (a : Nat) (b : Byte) : (d.st a b).caps = d.caps := by unfold Dev.st; split <;> rfl
@[simp] theorem Dev.flt_st (d : Dev) (a : Nat) (b : Byte) : (d.st a b).flt = d.flt := by unfold Dev.st; split <;> rfl
@[simp] theorem Dev.posted_st (d : Dev) (a : Nat) (b : Byte) : (d.st a b).posted = d.posted := by unfold Dev.st; split <;> rfl
@[simp] theorem Dev.host_st (d : Dev) (a : Nat) (b : Byte) : (d.st a b).host = d.host := by unfold Dev.st; split <;> rfl
@[simp] theorem Dev.ring_st (d : Dev) (a : Nat) (b : Byte) : (d.st a b).ring = d.ring := by unfold Dev.st; split <;> rfl
@[simp] theorem Dev.vault_st (d : Dev) (a : Nat) (b : Byte) : (d.st a b).vault = d.vault := by unfold Dev.st; split <;> rfl
@[simp] theorem Dev.cipher_st (d : Dev) (a : Nat) (b : Byte) : (d.st a b).cipher = d.cipher := by unfold Dev.st; split <;> rfl
@[simp] theorem Dev.dma_st (d : Dev) (a : Nat) (b : Byte) : (d.st a b).dma = d.dma := by unfold Dev.st; split <;> rfl
@[simp] theorem Dev.stg_st (d : Dev) (a : Nat) (b : Byte) : (d.st a b).stg = d.stg := by unfold Dev.st; split <;> rfl
@[simp] theorem Dev.fold_st (d : Dev) (a : Nat) (b : Byte) : (d.st a b).fold = d.fold := by unfold Dev.st; split <;> rfl
@[simp] theorem Dev.sow_st (d : Dev) (a : Nat) (b : Byte) : (d.st a b).sow = d.sow := by unfold Dev.st; split <;> rfl
@[simp] theorem Dev.glean_st (d : Dev) (a : Nat) (b : Byte) : (d.st a b).glean = d.glean := by unfold Dev.st; split <;> rfl
@[simp] theorem Dev.net_st (d : Dev) (a : Nat) (b : Byte) : (d.st a b).net = d.net := by unfold Dev.st; split <;> rfl
@[simp] theorem Dev.trd_st (d : Dev) (a : Nat) (b : Byte) : (d.st a b).trd = d.trd := by unfold Dev.st; split <;> rfl
@[simp] theorem Dev.ten_st (d : Dev) (a : Nat) (b : Byte) : (d.st a b).ten = d.ten := by unfold Dev.st; split <;> rfl
@[simp] theorem Dev.boot_st (d : Dev) (a : Nat) (b : Byte) : (d.st a b).boot = d.boot := by unfold Dev.st; split <;> rfl
@[simp] theorem Dev.pw_st (d : Dev) (a : Nat) (b : Byte) : (d.st a b).pw = d.pw := by unfold Dev.st; split <;> rfl
@[simp] theorem Dev.subsys_st (d : Dev) (a : Nat) (b : Byte) : (d.st a b).subsys = d.subsys := by unfold Dev.st; split <;> rfl
@[simp] theorem Dev.out_st (d : Dev) (a : Nat) (b : Byte) : (d.st a b).out = d.out := by unfold Dev.st; split <;> rfl
@[simp] theorem Dev.pads_st (d : Dev) (a : Nat) (b : Byte) : (d.st a b).pads = d.pads := by unfold Dev.st; split <;> rfl
@[simp] theorem Dev.free_st (d : Dev) (a : Nat) (b : Byte) : (d.st a b).free = d.free := by unfold Dev.st; split <;> rfl

/-! ### `Dev.stBytes` -/

@[simp] theorem Dev.part_stBytes (d : Dev) (a : Nat) (b : List Byte) : (d.stBytes a b).part = d.part := by
  induction b generalizing d a with
  | nil => rfl
  | cons x t ih => simp [Dev.stBytes, ih]
@[simp] theorem Dev.regs_stBytes (d : Dev) (a : Nat) (b : List Byte) : (d.stBytes a b).regs = d.regs := by
  induction b generalizing d a with
  | nil => rfl
  | cons x t ih => simp [Dev.stBytes, ih]
@[simp] theorem Dev.clk_stBytes (d : Dev) (a : Nat) (b : List Byte) : (d.stBytes a b).clk = d.clk := by
  induction b generalizing d a with
  | nil => rfl
  | cons x t ih => simp [Dev.stBytes, ih]
@[simp] theorem Dev.pace_stBytes (d : Dev) (a : Nat) (b : List Byte) : (d.stBytes a b).pace = d.pace := by
  induction b generalizing d a with
  | nil => rfl
  | cons x t ih => simp [Dev.stBytes, ih]
@[simp] theorem Dev.tine_stBytes (d : Dev) (a : Nat) (b : List Byte) : (d.stBytes a b).tine = d.tine := by
  induction b generalizing d a with
  | nil => rfl
  | cons x t ih => simp [Dev.stBytes, ih]
@[simp] theorem Dev.caps_stBytes (d : Dev) (a : Nat) (b : List Byte) : (d.stBytes a b).caps = d.caps := by
  induction b generalizing d a with
  | nil => rfl
  | cons x t ih => simp [Dev.stBytes, ih]
@[simp] theorem Dev.flt_stBytes (d : Dev) (a : Nat) (b : List Byte) : (d.stBytes a b).flt = d.flt := by
  induction b generalizing d a with
  | nil => rfl
  | cons x t ih => simp [Dev.stBytes, ih]
@[simp] theorem Dev.posted_stBytes (d : Dev) (a : Nat) (b : List Byte) : (d.stBytes a b).posted = d.posted := by
  induction b generalizing d a with
  | nil => rfl
  | cons x t ih => simp [Dev.stBytes, ih]
@[simp] theorem Dev.host_stBytes (d : Dev) (a : Nat) (b : List Byte) : (d.stBytes a b).host = d.host := by
  induction b generalizing d a with
  | nil => rfl
  | cons x t ih => simp [Dev.stBytes, ih]
@[simp] theorem Dev.ring_stBytes (d : Dev) (a : Nat) (b : List Byte) : (d.stBytes a b).ring = d.ring := by
  induction b generalizing d a with
  | nil => rfl
  | cons x t ih => simp [Dev.stBytes, ih]
@[simp] theorem Dev.vault_stBytes (d : Dev) (a : Nat) (b : List Byte) : (d.stBytes a b).vault = d.vault := by
  induction b generalizing d a with
  | nil => rfl
  | cons x t ih => simp [Dev.stBytes, ih]
@[simp] theorem Dev.cipher_stBytes (d : Dev) (a : Nat) (b : List Byte) : (d.stBytes a b).cipher = d.cipher := by
  induction b generalizing d a with
  | nil => rfl
  | cons x t ih => simp [Dev.stBytes, ih]
@[simp] theorem Dev.dma_stBytes (d : Dev) (a : Nat) (b : List Byte) : (d.stBytes a b).dma = d.dma := by
  induction b generalizing d a with
  | nil => rfl
  | cons x t ih => simp [Dev.stBytes, ih]
@[simp] theorem Dev.stg_stBytes (d : Dev) (a : Nat) (b : List Byte) : (d.stBytes a b).stg = d.stg := by
  induction b generalizing d a with
  | nil => rfl
  | cons x t ih => simp [Dev.stBytes, ih]
@[simp] theorem Dev.fold_stBytes (d : Dev) (a : Nat) (b : List Byte) : (d.stBytes a b).fold = d.fold := by
  induction b generalizing d a with
  | nil => rfl
  | cons x t ih => simp [Dev.stBytes, ih]
@[simp] theorem Dev.sow_stBytes (d : Dev) (a : Nat) (b : List Byte) : (d.stBytes a b).sow = d.sow := by
  induction b generalizing d a with
  | nil => rfl
  | cons x t ih => simp [Dev.stBytes, ih]
@[simp] theorem Dev.glean_stBytes (d : Dev) (a : Nat) (b : List Byte) : (d.stBytes a b).glean = d.glean := by
  induction b generalizing d a with
  | nil => rfl
  | cons x t ih => simp [Dev.stBytes, ih]
@[simp] theorem Dev.net_stBytes (d : Dev) (a : Nat) (b : List Byte) : (d.stBytes a b).net = d.net := by
  induction b generalizing d a with
  | nil => rfl
  | cons x t ih => simp [Dev.stBytes, ih]
@[simp] theorem Dev.trd_stBytes (d : Dev) (a : Nat) (b : List Byte) : (d.stBytes a b).trd = d.trd := by
  induction b generalizing d a with
  | nil => rfl
  | cons x t ih => simp [Dev.stBytes, ih]
@[simp] theorem Dev.ten_stBytes (d : Dev) (a : Nat) (b : List Byte) : (d.stBytes a b).ten = d.ten := by
  induction b generalizing d a with
  | nil => rfl
  | cons x t ih => simp [Dev.stBytes, ih]
@[simp] theorem Dev.boot_stBytes (d : Dev) (a : Nat) (b : List Byte) : (d.stBytes a b).boot = d.boot := by
  induction b generalizing d a with
  | nil => rfl
  | cons x t ih => simp [Dev.stBytes, ih]
@[simp] theorem Dev.pw_stBytes (d : Dev) (a : Nat) (b : List Byte) : (d.stBytes a b).pw = d.pw := by
  induction b generalizing d a with
  | nil => rfl
  | cons x t ih => simp [Dev.stBytes, ih]
@[simp] theorem Dev.subsys_stBytes (d : Dev) (a : Nat) (b : List Byte) : (d.stBytes a b).subsys = d.subsys := by
  induction b generalizing d a with
  | nil => rfl
  | cons x t ih => simp [Dev.stBytes, ih]
@[simp] theorem Dev.out_stBytes (d : Dev) (a : Nat) (b : List Byte) : (d.stBytes a b).out = d.out := by
  induction b generalizing d a with
  | nil => rfl
  | cons x t ih => simp [Dev.stBytes, ih]
@[simp] theorem Dev.pads_stBytes (d : Dev) (a : Nat) (b : List Byte) : (d.stBytes a b).pads = d.pads := by
  induction b generalizing d a with
  | nil => rfl
  | cons x t ih => simp [Dev.stBytes, ih]
@[simp] theorem Dev.free_stBytes (d : Dev) (a : Nat) (b : List Byte) : (d.stBytes a b).free = d.free := by
  induction b generalizing d a with
  | nil => rfl
  | cons x t ih => simp [Dev.stBytes, ih]

/-- A report finds its place last in its unit's queue, if the unit holds none and the queue has room. -/
theorem Dev.queued_report (d : Dev) (r : Report) (h : tget [] d.flt.held r.queueKey = [])
    (hl : (tget [] d.flt.queues r.queueKey).length < 1024) :
    tget [] (d.report r).flt.queues r.queueKey =
      tget [] d.flt.queues r.queueKey ++ [{ r with time := d.clk.mono, injected := d.flt.injecting }] := by
  have hk : ({ r with time := d.now, injected := d.flt.injecting } : Report).queueKey = r.queueKey := rfl
  unfold Dev.report Dev.enqueue
  simp only [hk, h, hl, and_self, if_true, tget_tset_self]
  rfl

/-- A register write reaches its own word alone. -/
theorem Dev.tfind_setReg (d : Dev) (r : RegName) (v : Word) (i : List Nat) {k : Nat} (h : k ≠ r.key i) :
    tfind (d.setReg r v i).regs k = tfind d.regs k := tfind_tset_ne _ d.regs v h

theorem Dev.tfind_setFld (d : Dev) (f : Fld) (v : Nat) (i : List Nat) {k : Nat} (h : k ≠ f.reg.key i) :
    tfind (d.setFld f v i).regs k = tfind d.regs k := Dev.tfind_setReg d _ _ i h

theorem Dev.tfind_count (d : Dev) (r : RegName) (i : List Nat) (n : Nat) {k : Nat} (h : k ≠ r.key i) :
    tfind (d.count r i n).regs k = tfind d.regs k := Dev.tfind_setReg d _ _ i h

/-- Of the registers, a report touches FAULT_COALESCED alone. -/
theorem Dev.tfind_report (d : Dev) (r : Report) {k : Nat} (h : k ≠ RegName.FAULT_COALESCED.key []) :
    tfind (d.report r).regs k = tfind d.regs k := by
  unfold Dev.report Dev.enqueue
  dsimp only
  split
  · rfl
  · split
    · exact Dev.tfind_count d _ _ _ h
    · rfl

theorem Dev.tfind_blame (d : Dev) (code master addr detail : Nat) {k : Nat} (h : k ≠ RegName.FAULT_COALESCED.key []) :
    tfind (d.blame code master addr detail).regs k = tfind d.regs k := by
  unfold Dev.blame; split <;> exact Dev.tfind_report d _ h

end Sys2Proof.Machine
end

