-- ==== Sys2Proof/Laws/Step.lean ====
section
/-! SUPPORT. What a command can do to the whole state: one lemma for each way a command runs, and one that says it for every
command. -/

namespace Sys2Proof.Machine

/-- The state after an effect `f` on memory and the units. -/
def State.after (s : State) (f : Mem → Dev → Dev) : State :=
  { s with mem := s.mem.commit (f s.mem { s.dev with wlog := [] }).wlog
           dev := { f s.mem { s.dev with wlog := [] } with wlog := [] } }

theorem State.always_eq (s : State) (f : Mem → Dev → Dev) : s.always f = .next (s.after f) := rfl

theorem State.kept_on (s : State) (f : Mem → Dev → Dev) (h : s.dev.pw.on = true) : s.kept f = .next (s.after f) := by
  simp only [State.kept, h, if_true, State.always_eq]

theorem State.kept_off (s : State) (f : Mem → Dev → Dev) (h : s.dev.pw.on = false) : s.kept f = .next s := by
  simp [State.kept, h]

theorem State.manage_awake (s : State) (f : Mem → Dev → Dev) (h : s.dev.awake = true) :
    s.manage f = .next (s.after f) := by
  simp only [State.manage, h, if_true, State.always_eq]

theorem State.manage_not_awake (s : State) (f : Mem → Dev → Dev) (h : s.dev.awake = false) : s.manage f = .next s := by
  simp [State.manage, h]

theorem State.run_live (s : State) (f : Mem → Dev → Dev) (h : s.dev.live = true) : s.run f = .next (s.after f) := by
  simp only [State.run, h, if_true, State.always_eq]

theorem State.run_not_live (s : State) (f : Mem → Dev → Dev) (h : s.dev.live = false) : s.run f = .next s := by
  simp [State.run, h]

theorem Dev.awake_of_live {d : Dev} (h : d.live = true) : d.awake = true := by
  simp only [Dev.live, Bool.and_eq_true] at h; exact h.1

theorem Dev.on_of_awake {d : Dev} (h : d.awake = true) : d.pw.on = true := by
  simp only [Dev.awake, Bool.and_eq_true] at h; exact h.1

/-- An answer is no change, or the effect of some function on memory and the units. -/
def Answer (s : State) (r : Res) : Prop := r = .next s ∨ ∃ f, r = .next (s.after f)

theorem State.always_answer (s : State) (f : Mem → Dev → Dev) : Answer s (s.always f) := .inr ⟨f, rfl⟩

theorem State.kept_answer (s : State) (f : Mem → Dev → Dev) : Answer s (s.kept f) := by
  unfold State.kept; split
  · exact s.always_answer f
  · exact .inl rfl

theorem State.manage_answer (s : State) (f : Mem → Dev → Dev) : Answer s (s.manage f) := by
  unfold State.manage; split
  · exact s.always_answer f
  · exact .inl rfl

theorem State.run_answer (s : State) (f : Mem → Dev → Dev) : Answer s (s.run f) := by
  unfold State.run; split
  · exact s.always_answer f
  · exact .inl rfl

/-- What any command can do: nothing, or an effect on memory and the units that leaves the queue as it was. -/
theorem exec_answer (c : Instr) (s : State) : Answer s (exec c s) := by
  cases c
  case powerOnReset =>
    show Answer s (execPowerOnReset s)
    unfold execPowerOnReset
    exact State.always_answer s _
  case refclkLoss =>
    show Answer s (execRefclkLoss s)
    unfold execRefclkLoss
    exact State.always_answer s _
  case perstAssert l r =>
    show Answer s (execPerstAssert l r s)
    unfold execPerstAssert
    exact State.always_answer s _
  case perstDeassert l =>
    show Answer s (execPerstDeassert l s)
    unfold execPerstDeassert
    exact State.always_answer s _
  case refclkReturn =>
    show Answer s (execRefclkReturn s)
    unfold execRefclkReturn
    exact State.always_answer s _
  case testModeChange level =>
    show Answer s (execTestModeChange level s)
    unfold execTestModeChange
    exact State.always_answer s _
  case powerLoss | slewComplete | refTimeout | ppsInEdge | ppsLost | ppsOutPulse | holdoverQualityStep | wake |
      wakeTimer | smbIdent | smbHealth | smbWarm | smbCold | smbWake | slewQualityStep =>
    all_goals exact State.kept_answer s _
  case railOutOfRange | registerWrite | snapCaptureRead | rcRead | placeWrite | timeAdjWrite | stepPendClear |
      timeRefWrite | hotReset | hostLinkDown | hostLinkUp | flr | flrSilenced | flrComplete | bmeClear | bmeSet |
      d3hotEnter | d0Return | vfEnableSet | vfEnableClear | numvfsWrite | faultReport | faultQueueDrain |
      coalesceWindowClose | fatalDetect | faultRingAckWrite | faultClr | faultForce | faultFatalClr | faultInject |
      zencenHello | zencenPush | zencenRelease | zencenFlash | zencenStatus | warmRestart | coldBoot | deepSleep |
      hostConfigWrite =>
    all_goals exact State.manage_answer s _
  all_goals exact State.run_answer s _

/-- What an idle cycle can do. -/
theorem idle_answer (s : State) : Answer s (idle s) := State.kept_answer s _

end Sys2Proof.Machine
end

