-- ==== Sys2Proof/Laws/Run.lean ====
section
/-! SUPPORT. What a command answers in a state with no store left over: the effect of its meaning on memory and the units. -/

namespace Sys2Proof.Machine

theorem Dev.wlog_nil (d : Dev) (h : d.wlog = []) : { d with wlog := [] } = d := by cases d; simp_all

theorem State.after_eq {s : State} (h : s.Idle) (f : Mem → Dev → Dev) : s.after f = s.did (f s.mem s.dev) := by
  unfold State.after State.did
  rw [Dev.wlog_nil s.dev h]

theorem State.did_quiet (s : State) (d : Dev) (h : d.wlog = []) : s.did d = { s with dev := d } := by
  unfold State.did
  rw [h, Dev.wlog_nil d h]; rfl

theorem State.Live.run {s : State} (h : s.Live) (f : Mem → Dev → Dev) : s.run f = .next (s.did (f s.mem s.dev)) := by
  rw [State.run_live s f h.1, State.after_eq h.2]

theorem State.Awake.manage {s : State} (h : s.Awake) (f : Mem → Dev → Dev) :
    s.manage f = .next (s.did (f s.mem s.dev)) := by
  rw [State.manage_awake s f h.1, State.after_eq h.2]

theorem State.On.kept {s : State} (h : s.On) (f : Mem → Dev → Dev) : s.kept f = .next (s.did (f s.mem s.dev)) := by
  rw [State.kept_on s f h.1, State.after_eq h.2]

theorem State.Idle.always {s : State} (h : s.Idle) (f : Mem → Dev → Dev) : s.always f = .next (s.did (f s.mem s.dev)) := by
  rw [State.always_eq, State.after_eq h]

theorem State.Live.awake {s : State} (h : s.Live) : s.Awake := ⟨Dev.awake_of_live h.1, h.2⟩
theorem State.Awake.on {s : State} (h : s.Awake) : s.On := ⟨Dev.on_of_awake h.1, h.2⟩

@[simp] theorem State.did_pending (s : State) (d : Dev) : (s.did d).pending = s.pending := rfl
@[simp] theorem State.did_mem (s : State) (d : Dev) : (s.did d).mem = s.mem.commit d.wlog := rfl
@[simp] theorem State.did_wlog (s : State) (d : Dev) : (s.did d).dev.wlog = [] := rfl
@[simp] theorem State.did_reg (s : State) (d : Dev) (r : RegName) (i : List Nat) : (s.did d).dev.reg r i = d.reg r i := rfl
@[simp] theorem State.did_fld (s : State) (d : Dev) (f : Fld) (i : List Nat) : (s.did d).dev.fld f i = d.fld f i := rfl
@[simp] theorem State.did_flag (s : State) (d : Dev) (f : Fld) (i : List Nat) : (s.did d).dev.flag f i = d.flag f i := rfl
@[simp] theorem State.did_queue (s : State) (d : Dev) (ep : Nat) : (s.did d).dev.queue ep = d.queue ep := rfl
@[simp] theorem State.did_strand (s : State) (d : Dev) (k : Nat) : (s.did d).dev.strand k = d.strand k := rfl
@[simp] theorem State.did_part (s : State) (d : Dev) : (s.did d).dev.part = d.part := rfl
@[simp] theorem State.did_regs (s : State) (d : Dev) : (s.did d).dev.regs = d.regs := rfl
@[simp] theorem State.did_clk (s : State) (d : Dev) : (s.did d).dev.clk = d.clk := rfl
@[simp] theorem State.did_pace (s : State) (d : Dev) : (s.did d).dev.pace = d.pace := rfl
@[simp] theorem State.did_tine (s : State) (d : Dev) : (s.did d).dev.tine = d.tine := rfl
@[simp] theorem State.did_caps (s : State) (d : Dev) : (s.did d).dev.caps = d.caps := rfl
@[simp] theorem State.did_flt (s : State) (d : Dev) : (s.did d).dev.flt = d.flt := rfl
@[simp] theorem State.did_posted (s : State) (d : Dev) : (s.did d).dev.posted = d.posted := rfl
@[simp] theorem State.did_host (s : State) (d : Dev) : (s.did d).dev.host = d.host := rfl
@[simp] theorem State.did_ring (s : State) (d : Dev) : (s.did d).dev.ring = d.ring := rfl
@[simp] theorem State.did_vault (s : State) (d : Dev) : (s.did d).dev.vault = d.vault := rfl
@[simp] theorem State.did_cipher (s : State) (d : Dev) : (s.did d).dev.cipher = d.cipher := rfl
@[simp] theorem State.did_dma (s : State) (d : Dev) : (s.did d).dev.dma = d.dma := rfl
@[simp] theorem State.did_stg (s : State) (d : Dev) : (s.did d).dev.stg = d.stg := rfl
@[simp] theorem State.did_fold (s : State) (d : Dev) : (s.did d).dev.fold = d.fold := rfl
@[simp] theorem State.did_sow (s : State) (d : Dev) : (s.did d).dev.sow = d.sow := rfl
@[simp] theorem State.did_glean (s : State) (d : Dev) : (s.did d).dev.glean = d.glean := rfl
@[simp] theorem State.did_net (s : State) (d : Dev) : (s.did d).dev.net = d.net := rfl
@[simp] theorem State.did_trd (s : State) (d : Dev) : (s.did d).dev.trd = d.trd := rfl
@[simp] theorem State.did_ten (s : State) (d : Dev) : (s.did d).dev.ten = d.ten := rfl
@[simp] theorem State.did_boot (s : State) (d : Dev) : (s.did d).dev.boot = d.boot := rfl
@[simp] theorem State.did_pw (s : State) (d : Dev) : (s.did d).dev.pw = d.pw := rfl
@[simp] theorem State.did_subsys (s : State) (d : Dev) : (s.did d).dev.subsys = d.subsys := rfl
@[simp] theorem State.did_out (s : State) (d : Dev) : (s.did d).dev.out = d.out := rfl
@[simp] theorem State.did_pads (s : State) (d : Dev) : (s.did d).dev.pads = d.pads := rfl
@[simp] theorem State.did_free (s : State) (d : Dev) : (s.did d).dev.free = d.free := rfl

/-- A command that stores nothing changes only the pieces in which its units differ. -/
theorem only_did {s : State} {d : Dev} {ps : List Piece} (hw : d.wlog = [])
    (h : ∀ p, p ∉ ps → p ≠ .memory → Same s { s with dev := d } p) : Only ps s (s.did d) := by
  rw [State.did_quiet s d hw]
  refine ⟨rfl, hw, fun p hp => ?_⟩
  by_cases hm : p = .memory
  · subst hm; rfl
  · exact h p hp hm

/-- A command that stores nothing leaves memory. -/
theorem State.did_byte {s : State} {d : Dev} (hs : s.Idle) (hw : d.wlog = []) (hp : d.part = s.dev.part)
    (hq : d.pads = s.dev.pads) (a : Nat) : (s.did d).byte a = s.byte a := by
  rw [State.did_quiet s d hw]
  unfold State.byte Dev.ld Dev.absent Dev.pad
  dsimp only
  rw [hp, hq, hw, hs]

end Sys2Proof.Machine
end

