-- ==== Sys2Proof/Laws/Write.lean ====
section
/-! SUPPORT. What a write of a register leaves in each of its fields, and what it leaves alone. -/

namespace Sys2Proof.Machine

/-- Two fields share no bit. -/
def Fld.apart (f g : Fld) : Bool := f.lo + f.width ≤ g.lo || g.lo + g.width ≤ f.lo

/-- A list of fields of one register that share no bit. -/
def fieldsOk (r : RegName) : List FieldDesc → Bool
  | [] => true
  | fd :: t => fd.fld.reg = r && fd.fld.lo + fd.fld.width ≤ 64 && t.all (fun e => fd.fld.apart e.fld) && fieldsOk r t

set_option maxRecDepth 4000 in
theorem RegName.fields_ok (r : RegName) : fieldsOk r r.fields = true := by cases r <;> rfl

theorem Fld.apart_comm {f g : Fld} (h : f.apart g = true) : g.apart f = true := by
  simp only [Fld.apart, Bool.or_eq_true, decide_eq_true_eq] at *; omega

theorem Fld.get_set_apart (f g : Fld) (w : Word) (v : Nat) (hf : f.lo + f.width ≤ 64) (_hg : g.lo + g.width ≤ 64)
    (h : f.apart g = true) : f.get (g.set w v) = f.get w := by
  simp only [Fld.apart, Bool.or_eq_true, decide_eq_true_eq] at h
  unfold Fld.get Fld.set
  rw [BitVec.toNat_ofNat, bits_mod _ _ _ _ hf, bits_setBits_ne _ _ _ _ _ _ h]

/-- A field's rule leaves every field apart from it. -/
theorem get_writeField_apart (w : Wr) (old cand : Word) (st : Bool) (ok : Fld → Word → Bool) (fd : FieldDesc)
    (acc : FieldResult) (f : Fld) (hf : f.lo + f.width ≤ 64) (hg : fd.fld.lo + fd.fld.width ≤ 64)
    (h : f.apart fd.fld = true) : f.get (writeField w old cand st ok fd acc).word = f.get acc.word := by
  unfold writeField
  dsimp only
  split
  · rfl
  · cases fd.acc <;> dsimp only <;> (try rfl)
    · split
      · rfl
      · split <;> split <;> first | rfl | exact Fld.get_set_apart f fd.fld _ _ hf hg h
    · exact Fld.get_set_apart f fd.fld _ _ hf hg h
    · exact Fld.get_set_apart f fd.fld _ _ hf hg h

/-- A field's rule looks at the rest of the word only to keep it. -/
theorem get_writeField_self (w : Wr) (old cand : Word) (st : Bool) (ok : Fld → Word → Bool) (fd : FieldDesc)
    (a b : FieldResult) (hg : fd.fld.lo + fd.fld.width ≤ 64) (h : fd.fld.get a.word = fd.fld.get b.word) :
    fd.fld.get (writeField w old cand st ok fd a).word = fd.fld.get (writeField w old cand st ok fd b).word := by
  unfold writeField
  dsimp only
  split
  · exact h
  · cases fd.acc <;> dsimp only <;> (try exact h)
    · split
      · exact h
      · split <;> split <;> first | exact h | rw [Fld.get_set_self _ _ _ hg, Fld.get_set_self _ _ _ hg]
    · rw [Fld.get_set_self _ _ _ hg, Fld.get_set_self _ _ _ hg]
    · rw [Fld.get_set_self _ _ _ hg, Fld.get_set_self _ _ _ hg]

theorem fieldsOk_mem {r : RegName} {l : List FieldDesc} (h : fieldsOk r l = true) {fd : FieldDesc} (hm : fd ∈ l) :
    fd.fld.reg = r ∧ fd.fld.lo + fd.fld.width ≤ 64 := by
  induction l with
  | nil => simp at hm
  | cons e t ih =>
    simp only [fieldsOk, Bool.and_eq_true, decide_eq_true_eq] at h
    rcases List.mem_cons.1 hm with rfl | hm
    · exact h.1.1
    · exact ih h.2 hm

theorem get_fold_apart (w : Wr) (old cand : Word) (st : Bool) (ok : Fld → Word → Bool) (r : RegName) (l : List FieldDesc)
    (acc : FieldResult) (f : Fld) (hf : f.lo + f.width ≤ 64) (hl : fieldsOk r l = true)
    (h : ∀ e ∈ l, f.apart e.fld = true) :
    f.get (l.foldl (fun a fd => writeField w old cand st ok fd a) acc).word = f.get acc.word := by
  induction l generalizing acc with
  | nil => rfl
  | cons e t ih =>
    have he := fieldsOk_mem hl (List.mem_cons_self)
    simp only [fieldsOk, Bool.and_eq_true] at hl
    simp only [List.foldl_cons]
    rw [ih _ hl.2 fun x hx => h x (List.mem_cons_of_mem _ hx),
      get_writeField_apart w old cand st ok e acc f hf he.2 (h e List.mem_cons_self)]

theorem get_fold_mem (w : Wr) (old cand : Word) (st : Bool) (ok : Fld → Word → Bool) (r : RegName) (l : List FieldDesc)
    (acc : FieldResult) (hl : fieldsOk r l = true) (fd : FieldDesc) (hm : fd ∈ l) :
    fd.fld.get (l.foldl (fun a fd => writeField w old cand st ok fd a) acc).word =
      fd.fld.get (writeField w old cand st ok fd acc).word := by
  induction l generalizing acc with
  | nil => simp at hm
  | cons e t ih =>
    have hfd := fieldsOk_mem hl hm
    have he := fieldsOk_mem hl (List.mem_cons_self)
    have hl' := hl
    simp only [fieldsOk, Bool.and_eq_true, List.all_eq_true] at hl
    simp only [List.foldl_cons]
    rcases List.mem_cons.1 hm with rfl | hm
    · exact get_fold_apart w old cand st ok r t _ _ hfd.2 hl.2 fun x hx => hl.1.2 x hx
    · rw [ih _ hl.2 hm]
      exact get_writeField_self w old cand st ok fd _ _ hfd.2
        (get_writeField_apart w old cand st ok e acc fd.fld hfd.2 he.2 (Fld.apart_comm (hl.1.2 fd hm)))

/-- What a write leaves in a field. -/
def FieldDesc.takes (fd : FieldDesc) (w : Wr) (old : Word) (st : Bool) (ok : Fld → Word → Bool) : Nat :=
  fd.fld.get (writeField w old (w.over old) st ok fd { word := old }).word

@[simp] theorem Dev.reg_report (d : Dev) (p : Report) (r : RegName) (i : List Nat)
    (h : r.key i ≠ RegName.FAULT_COALESCED.key []) : (d.report p).reg r i = d.reg r i := by
  unfold Dev.reg; rw [Dev.tfind_report d p h]

theorem Dev.reg_blame (d : Dev) (c m a t : Nat) (r : RegName) (i : List Nat)
    (h : r.key i ≠ RegName.FAULT_COALESCED.key []) : (d.blame c m a t).reg r i = d.reg r i := by
  unfold Dev.reg; rw [Dev.tfind_blame d c m a t h]

/-- Each field after a write that R84 and R87 perform. -/
theorem Dev.fld_regWrite (d : Dev) (r : RegName) (i : List Nat) (w : Wr) (st : Bool) (ok : Fld → Word → Bool)
    (hw : w.accepted r = true) (hk : r.key i ≠ RegName.FAULT_COALESCED.key []) (fd : FieldDesc) (hm : fd ∈ r.fields) :
    (d.regWrite r i w st ok).fld fd.fld i = fd.takes w (d.reg r i) st ok := by
  have hfd := fieldsOk_mem r.fields_ok hm
  have key : (d.regWrite r i w st ok).reg r i =
      (r.fields.foldl (fun a fd => writeField w (d.reg r i) (w.over (d.reg r i)) st ok fd a) { word := d.reg r i }).word := by
    unfold Dev.regWrite
    rw [hw]
    simp only [Bool.not_true, Bool.false_eq_true, if_false]
    split <;> split <;> simp [Dev.reg_blame, hk]
  unfold Dev.fld
  rw [hfd.1, key]
  exact get_fold_mem w _ _ st ok r r.fields _ r.fields_ok fd hm

/-- A write reaches its own register, and the fault collector. -/
theorem Dev.tfind_regWrite (d : Dev) (r : RegName) (i : List Nat) (w : Wr) (st : Bool) (ok : Fld → Word → Bool) {k : Nat}
    (h : k ≠ r.key i) (hc : k ≠ RegName.FAULT_COALESCED.key []) :
    tfind (d.regWrite r i w st ok).regs k = tfind d.regs k := by
  unfold Dev.regWrite
  dsimp only
  split
  · exact Dev.tfind_blame d _ _ _ _ hc
  · split <;> split <;> simp [Dev.tfind_blame _ _ _ _ _ hc, Dev.tfind_setReg _ _ _ _ h]

/-! ### Writes of all 8 bytes -/

@[simp] theorem Wr.mask_whole (m h : Nat) (v : Word) : (⟨m, 8, h, v⟩ : Wr).mask = BitVec.allOnes 64 := rfl
@[simp] theorem Wr.placed_whole (m h : Nat) (v : Word) : (⟨m, 8, h, v⟩ : Wr).placed = v := rfl
@[simp] theorem Wr.over_whole (m h : Nat) (v old : Word) : (⟨m, 8, h, v⟩ : Wr).over old = v := by
  unfold Wr.over
  rw [Wr.mask_whole, Wr.placed_whole, BitVec.and_allOnes]
  show (old &&& ~~~(~~~0#64)) ||| v = v
  rw [BitVec.not_not]; simp
@[simp] theorem Wr.accepted_whole (m h : Nat) (v : Word) (r : RegName) : (⟨m, 8, h, v⟩ : Wr).accepted r = true := rfl

/-- A field that software writes, with any value legal, takes the value written. -/
theorem FieldDesc.takes_rw (fd : FieldDesc) (m h : Nat) (v old : Word) (st : Bool) (ok : Fld → Word → Bool) (ha : fd.acc = .rw)
    (hl : fd.legal = .any) (hs : (fd.stopOnly && !st) = false) (hm : fd.fld.mask ≠ 0) (hw : fd.fld.lo + fd.fld.width ≤ 64) :
    fd.takes ⟨m, 8, h, v⟩ old st ok = fd.fld.get v := by
  unfold FieldDesc.takes writeField
  simp only [Wr.mask_whole, Wr.over_whole, BitVec.and_allOnes, if_neg hm, ha, hl, if_true]
  rw [if_neg (by rw [Bool.and_assoc, hs]; simp), Fld.get_set_self _ _ _ hw]
  exact Nat.mod_eq_of_lt (Nat.mod_lt _ (Nat.two_pow_pos _))

/-- A field that a 1 clears keeps the bits written 0. -/
theorem FieldDesc.takes_rw1c (fd : FieldDesc) (m h : Nat) (v old : Word) (st : Bool) (ok : Fld → Word → Bool) (ha : fd.acc = .rw1c)
    (hm : fd.fld.mask ≠ 0) (hw : fd.fld.lo + fd.fld.width ≤ 64) :
    fd.takes ⟨m, 8, h, v⟩ old st ok = fd.fld.get (old &&& ~~~v) := by
  unfold FieldDesc.takes writeField
  simp only [Wr.mask_whole, Wr.placed_whole, BitVec.and_allOnes, if_neg hm, ha]
  rw [Fld.get_set_self _ _ _ hw]
  exact Nat.mod_eq_of_lt (Nat.mod_lt _ (Nat.two_pow_pos _))

/-- A field that only the device writes keeps its value. -/
theorem FieldDesc.takes_ro (fd : FieldDesc) (w : Wr) (old : Word) (st : Bool) (ok : Fld → Word → Bool) (ha : fd.acc = .ro) :
    fd.takes w old st ok = fd.fld.get old := by
  unfold FieldDesc.takes writeField
  simp only [ha]
  split <;> rfl

theorem Dev.blame_frame (d : Dev) (c m a t : Nat) : ∃ f r, d.blame c m a t = { d with flt := f, regs := r } := by
  unfold Dev.blame Dev.report Dev.enqueue
  dsimp only
  split <;> split
  · exact ⟨_, d.regs, rfl⟩
  · exact ⟨_, _, rfl⟩
  · exact ⟨_, d.regs, rfl⟩
  · exact ⟨_, _, rfl⟩

theorem Dev.regWrite_frame (d : Dev) (r : RegName) (i : List Nat) (w : Wr) (st : Bool) (ok : Fld → Word → Bool) :
    ∃ f q, d.regWrite r i w st ok = { d with flt := f, regs := q } := by
  unfold Dev.regWrite
  dsimp only
  split
  · exact Dev.blame_frame d _ _ _ _
  · generalize hd : d.setReg r _ i = e
    obtain ⟨q, he⟩ : ∃ q, e = { d with regs := q } := ⟨_, hd.symm⟩
    split <;> split
    · obtain ⟨f, q', h1⟩ := Dev.blame_frame e 0x0205 w.master (r.addr i) (r.off i)
      rw [h1, he]
      obtain ⟨f2, q2, h2⟩ := Dev.blame_frame { d with flt := f, regs := q' } 0x0204 w.master (r.addr i) (r.off i)
      exact ⟨f2, q2, h2⟩
    · rw [he]
      obtain ⟨f2, q2, h2⟩ := Dev.blame_frame { d with regs := q } 0x0204 w.master (r.addr i) (r.off i)
      exact ⟨f2, q2, h2⟩
    · rw [he]
      obtain ⟨f2, q2, h2⟩ := Dev.blame_frame { d with regs := q } 0x0205 w.master (r.addr i) (r.off i)
      exact ⟨f2, q2, h2⟩
    · rw [he]; exact ⟨d.flt, q, rfl⟩

end Sys2Proof.Machine
end

