-- ==== Sys2Proof/Laws/Frame.lean ====
section
/-! SUPPORT. What a fold over units keeps, and what an operation that only writes registers, or only reports, leaves alone. -/

namespace Sys2Proof.Machine

/-- A relation that every step keeps holds of the whole fold. -/
theorem foldl_rel {α β : Type} (R : β → β → Prop) (hr : ∀ b, R b b) (ht : ∀ a b c, R a b → R b c → R a c)
    (f : β → α → β) (l : List α) (h : ∀ b, ∀ a ∈ l, R b (f b a)) (b : β) : R b (l.foldl f b) := by
  induction l generalizing b with
  | nil => exact hr b
  | cons x t ih =>
    exact ht _ _ _ (h b x List.mem_cons_self) (ih (fun b a ha => h b a (List.mem_cons_of_mem _ ha)) (f b x))

/-- What every step keeps, the fold keeps. -/
theorem foldl_keep {α β γ : Type} (π : β → γ) (f : β → α → β) (l : List α) (h : ∀ b, ∀ a ∈ l, π (f b a) = π b) (b : β) :
    π (l.foldl f b) = π b :=
  foldl_rel (fun b c => π c = π b) (fun _ => rfl) (fun _ _ _ h g => g.trans h) f l h b

/-- What one element brings about, and every later one keeps, holds after the fold. -/
theorem foldl_mem {α β : Type} (P : β → Prop) (f : β → α → β) (l : List α) (x : α) (hx : x ∈ l) (h : ∀ b, P (f b x))
    (hk : ∀ b, ∀ a ∈ l, P b → P (f b a)) (b : β) : P (l.foldl f b) := by
  have keep : ∀ (l : List α) (b : β), (∀ b, ∀ a ∈ l, P b → P (f b a)) → P b → P (l.foldl f b) := by
    intro l
    induction l with
    | nil => intro b _ hb; exact hb
    | cons y t ih => intro b hk hb; exact ih (f b y) (fun b a ha => hk b a (List.mem_cons_of_mem _ ha)) (hk b y List.mem_cons_self hb)
  induction l generalizing b with
  | nil => simp at hx
  | cons y t ih =>
    rcases List.mem_cons.1 hx with rfl | hx
    · exact keep t _ (fun b a ha => hk b a (List.mem_cons_of_mem _ ha)) (h b)
    · exact ih hx (fun b a ha => hk b a (List.mem_cons_of_mem _ ha)) (f b y)

/-- The same where each step also keeps `I`, which what the element brings about needs. -/
theorem foldl_mem_inv {α β : Type} (I P : β → Prop) (f : β → α → β) (l : List α) (x : α) (hx : x ∈ l)
    (hI : ∀ b, ∀ a ∈ l, I b → I (f b a)) (h : ∀ b, I b → P (f b x)) (hk : ∀ b, ∀ a ∈ l, I b → P b → P (f b a)) (b : β)
    (hb : I b) : P (l.foldl f b) := by
  have keep : ∀ (l : List α) (b : β), (∀ b, ∀ a ∈ l, I b → I (f b a)) → (∀ b, ∀ a ∈ l, I b → P b → P (f b a)) →
      I b → P b → P (l.foldl f b) := by
    intro l
    induction l with
    | nil => intro b _ _ _ hb; exact hb
    | cons y t ih =>
      intro b hI hk hi hp
      exact ih (f b y) (fun b a ha => hI b a (List.mem_cons_of_mem _ ha)) (fun b a ha => hk b a (List.mem_cons_of_mem _ ha))
        (hI b y List.mem_cons_self hi) (hk b y List.mem_cons_self hi hp)
  induction l generalizing b with
  | nil => simp at hx
  | cons y t ih =>
    have hI' : ∀ b, ∀ a ∈ t, I b → I (f b a) := fun b a ha => hI b a (List.mem_cons_of_mem _ ha)
    have hk' : ∀ b, ∀ a ∈ t, I b → P b → P (f b a) := fun b a ha => hk b a (List.mem_cons_of_mem _ ha)
    rcases List.mem_cons.1 hx with rfl | hx
    · exact keep t _ hI' hk' (hI b x List.mem_cons_self hb) (h b hb)
    · exact ih hx hI' hk' (f b y) (hI b y List.mem_cons_self hb)

/-- `e` differs from `d` at most in registers at the keys of `ks`. -/
def Dev.Wrote (ks : List Nat) (d e : Dev) : Prop :=
  (∃ r, e = { d with regs := r }) ∧ ∀ k, k ∉ ks → tfind e.regs k = tfind d.regs k

theorem Dev.Wrote.refl (ks : List Nat) (d : Dev) : d.Wrote ks d := ⟨⟨_, rfl⟩, fun _ _ => rfl⟩
theorem Dev.Wrote.trans {ks : List Nat} {a b c : Dev} (h : a.Wrote ks b) (g : b.Wrote ks c) : a.Wrote ks c := by
  obtain ⟨⟨r, rfl⟩, h⟩ := h
  obtain ⟨⟨q, rfl⟩, g⟩ := g
  exact ⟨⟨q, rfl⟩, fun k hk => (g k hk).trans (h k hk)⟩
theorem Dev.Wrote.mono {ks ls : List Nat} {a b : Dev} (h : a.Wrote ks b) (hs : ∀ k ∈ ks, k ∈ ls) : a.Wrote ls b :=
  ⟨h.1, fun k hk => h.2 k fun hm => hk (hs k hm)⟩

theorem Dev.reg_of_tfind {d e : Dev} {r : RegName} {i : List Nat} (h : tfind e.regs (r.key i) = tfind d.regs (r.key i)) :
    e.reg r i = d.reg r i := by unfold Dev.reg; rw [h]
theorem Dev.reg_congr {d e : Dev} (h : e.regs = d.regs) (r : RegName) (i : List Nat) : e.reg r i = d.reg r i :=
  Dev.reg_of_tfind (by rw [h])
theorem Dev.fld_congr {d e : Dev} (h : e.regs = d.regs) (f : Fld) (i : List Nat) : e.fld f i = d.fld f i := by
  unfold Dev.fld; rw [Dev.reg_congr h]
theorem Dev.flag_congr {d e : Dev} (h : e.regs = d.regs) (f : Fld) (i : List Nat) : e.flag f i = d.flag f i := by
  unfold Dev.flag; rw [Dev.fld_congr h]
theorem Dev.setFld_congr {d e : Dev} (h : e.regs = d.regs) (f : Fld) (v : Nat) (i : List Nat) :
    (e.setFld f v i).regs = (d.setFld f v i).regs := by
  unfold Dev.setFld Dev.setReg; rw [Dev.reg_congr h, h]
theorem Dev.Wrote.reg {ks : List Nat} {d e : Dev} (h : d.Wrote ks e) (r : RegName) (i : List Nat) (hk : r.key i ∉ ks) :
    e.reg r i = d.reg r i := Dev.reg_of_tfind (h.2 _ hk)
theorem Dev.Wrote.fld {ks : List Nat} {d e : Dev} (h : d.Wrote ks e) (f : Fld) (i : List Nat) (hk : f.reg.key i ∉ ks) :
    e.fld f i = d.fld f i := by unfold Dev.fld; rw [h.reg _ _ hk]
theorem Dev.Wrote.flag {ks : List Nat} {d e : Dev} (h : d.Wrote ks e) (f : Fld) (i : List Nat) (hk : f.reg.key i ∉ ks) :
    e.flag f i = d.flag f i := by unfold Dev.flag; rw [h.fld _ _ hk]
/-- A field of one bit holds a Bool. -/
theorem b2n_lt (b : Bool) : b2n b < 2 := by cases b <;> decide

theorem Dev.wrote_setReg (d : Dev) (r : RegName) (v : Word) (i : List Nat) : d.Wrote [r.key i] (d.setReg r v i) :=
  ⟨⟨_, rfl⟩, fun _ hk => Dev.tfind_setReg d r v i (by simpa using hk)⟩
theorem Dev.wrote_setFld (d : Dev) (f : Fld) (v : Nat) (i : List Nat) : d.Wrote [f.reg.key i] (d.setFld f v i) :=
  d.wrote_setReg _ _ _

theorem Dev.wrote_fold {α : Type} (ks : List Nat) (f : Dev → α → Dev) (l : List α)
    (h : ∀ b, ∀ a ∈ l, Dev.Wrote ks b (f b a)) (d : Dev) : d.Wrote ks (l.foldl f d) :=
  foldl_rel (Dev.Wrote ks) (Dev.Wrote.refl ks) (fun _ _ _ h g => h.trans g) f l h d

/-- Two of a row of registers at one key are one. -/
theorem RegName.key_one_inj {r : RegName} {n st x y : Nat} (h : r.dims = [(n, st)]) (hs : 0 < st) (hk : r.key [x] = r.key [y]) :
    x = y := by
  rw [r.key1 n st x h, r.key1 n st y h] at hk
  exact Nat.eq_of_mul_eq_mul_left hs (by omega)

/-- Storing one value in a field of several of a row of registers. -/
theorem Dev.setFld_each (f : Fld) (v n st : Nat) (hv : v < 2 ^ f.width) (hw : f.lo + f.width ≤ 64) (hd : f.reg.dims = [(n, st)])
    (hs : 0 < st) (l : List Nat) (d : Dev) :
    d.Wrote (l.map fun x => f.reg.key [x]) (l.foldl (fun d x => d.setFld f v [x]) d) ∧
      ∀ x ∈ l, (l.foldl (fun d x => d.setFld f v [x]) d).fld f [x] = v := by
  refine ⟨?_, fun x hx => ?_⟩
  · exact Dev.wrote_fold _ _ _ (fun b a ha => (b.wrote_setFld f v [a]).mono (by
      intro k hk; simp at hk; subst hk; exact List.mem_map.2 ⟨a, ha, rfl⟩)) d
  · refine foldl_mem (fun b => b.fld f [x] = v) _ l x hx (fun b => ?_) (fun b a _ hb => ?_) d
    · rw [Dev.fld_setFld_self _ _ _ _ hw, Nat.mod_eq_of_lt hv]
    · by_cases hk : x = a
      · subst hk; rw [Dev.fld_setFld_self _ _ _ _ hw, Nat.mod_eq_of_lt hv]
      · rw [Dev.fld_setFld_ne _ _ _ _ _ _ fun h => hk (RegName.key_one_inj hd hs h)]; exact hb

/-- `e` differs from `d` at most in registers at the keys of `ks` and in the fault collector. -/
def Dev.Noted (ks : List Nat) (d e : Dev) : Prop :=
  (∃ f r, e = { d with flt := f, regs := r }) ∧ ∀ k, k ∉ ks → tfind e.regs k = tfind d.regs k

theorem Dev.Noted.refl (ks : List Nat) (d : Dev) : d.Noted ks d := ⟨⟨_, _, rfl⟩, fun _ _ => rfl⟩
theorem Dev.Noted.trans {ks : List Nat} {a b c : Dev} (h : a.Noted ks b) (g : b.Noted ks c) : a.Noted ks c := by
  obtain ⟨⟨f, r, rfl⟩, h⟩ := h
  obtain ⟨⟨p, q, rfl⟩, g⟩ := g
  exact ⟨⟨p, q, rfl⟩, fun k hk => (g k hk).trans (h k hk)⟩
theorem Dev.Noted.mono {ks ls : List Nat} {a b : Dev} (h : a.Noted ks b) (hs : ∀ k ∈ ks, k ∈ ls) : a.Noted ls b :=
  ⟨h.1, fun k hk => h.2 k fun hm => hk (hs k hm)⟩
theorem Dev.Noted.reg {ks : List Nat} {d e : Dev} (h : d.Noted ks e) (r : RegName) (i : List Nat) (hk : r.key i ∉ ks) :
    e.reg r i = d.reg r i := Dev.reg_of_tfind (h.2 _ hk)
theorem Dev.Noted.fld {ks : List Nat} {d e : Dev} (h : d.Noted ks e) (f : Fld) (i : List Nat) (hk : f.reg.key i ∉ ks) :
    e.fld f i = d.fld f i := by unfold Dev.fld; rw [h.reg _ _ hk]
theorem Dev.Wrote.noted {ks : List Nat} {a b : Dev} (h : a.Wrote ks b) : a.Noted ks b := by
  obtain ⟨⟨r, rfl⟩, h⟩ := h
  exact ⟨⟨a.flt, r, rfl⟩, h⟩

theorem Dev.report_frame (d : Dev) (r : Report) : ∃ f q, d.report r = { d with flt := f, regs := q } := by
  unfold Dev.report Dev.enqueue
  dsimp only
  split
  · exact ⟨_, d.regs, rfl⟩
  · exact ⟨_, _, rfl⟩
theorem Dev.noted_report (d : Dev) (r : Report) : d.Noted [RegName.FAULT_COALESCED.key []] (d.report r) :=
  ⟨d.report_frame r, fun _ hk => d.tfind_report r (by simpa using hk)⟩
theorem Dev.noted_blame (d : Dev) (c m a x : Nat) : d.Noted [RegName.FAULT_COALESCED.key []] (d.blame c m a x) :=
  ⟨d.blame_frame c m a x, fun _ hk => d.tfind_blame c m a x (by simpa using hk)⟩
theorem Dev.noted_regWrite (d : Dev) (r : RegName) (i : List Nat) (w : Wr) (st : Bool) (ok : Fld → Word → Bool) :
    d.Noted [r.key i, RegName.FAULT_COALESCED.key []] (d.regWrite r i w st ok) :=
  ⟨d.regWrite_frame r i w st ok, fun k hk => d.tfind_regWrite r i w st ok (fun h => hk (by simp [h])) fun h => hk (by simp [h])⟩

/-! ### The pieces and registers an operation touches -/

/-- From `d` to `e` only the pieces of `ps` and the registers at the keys of `ks` may differ, and nothing is stored. -/
def Dev.Touch (ps : List Piece) (ks : List Nat) (d e : Dev) : Prop :=
  e.wlog = d.wlog ∧ (∀ p, p ∉ ps → Same { dev := d } { dev := e } p) ∧ ∀ k, k ∉ ks → tfind e.regs k = tfind d.regs k

theorem Dev.Touch.refl (ps : List Piece) (ks : List Nat) (d : Dev) : d.Touch ps ks d :=
  ⟨rfl, fun p _ => by cases p <;> rfl, fun _ _ => rfl⟩

theorem Same.trans {s t u : State} {p : Piece} (h : Same s t p) (g : Same t u p) : Same s u p := by
  cases p <;> exact Eq.trans g h

theorem Dev.Touch.trans {ps : List Piece} {ks : List Nat} {a b c : Dev} (h : a.Touch ps ks b) (g : b.Touch ps ks c) :
    a.Touch ps ks c :=
  ⟨g.1.trans h.1, fun p hp => (h.2.1 p hp).trans (g.2.1 p hp), fun k hk => (g.2.2 k hk).trans (h.2.2 k hk)⟩

theorem Dev.Touch.mono {ps qs : List Piece} {ks ls : List Nat} {a b : Dev} (h : a.Touch ps ks b) (hp : ∀ p ∈ ps, p ∈ qs)
    (hk : ∀ k ∈ ks, k ∈ ls) : a.Touch qs ls b :=
  ⟨h.1, fun p hq => h.2.1 p fun hm => hq (hp p hm), fun k hl => h.2.2 k fun hm => hl (hk k hm)⟩

/-- One operation after another. -/
theorem Dev.Touch.seq {ps qs : List Piece} {ks ls : List Nat} {a b c : Dev} (h : a.Touch ps ks b) (g : b.Touch qs ls c) :
    a.Touch (ps ++ qs) (ks ++ ls) c :=
  (h.mono (fun _ => List.mem_append_left _) fun _ => List.mem_append_left _).trans
    (g.mono (fun _ => List.mem_append_right _) fun _ => List.mem_append_right _)

theorem Dev.touch_fold {α : Type} (ps : List Piece) (ks : List Nat) (f : Dev → α → Dev) (l : List α)
    (h : ∀ b, ∀ a ∈ l, Dev.Touch ps ks b (f b a)) (d : Dev) : d.Touch ps ks (l.foldl f d) :=
  foldl_rel (Dev.Touch ps ks) (Dev.Touch.refl ps ks) (fun _ _ _ h g => h.trans g) f l h d

theorem Dev.Wrote.touch {ks : List Nat} {d e : Dev} (h : d.Wrote ks e) : d.Touch [.regs] ks e := by
  obtain ⟨⟨r, rfl⟩, h⟩ := h
  exact ⟨rfl, fun p hp => by cases p <;> first | rfl | simp at hp, h⟩
theorem Dev.Noted.touch {ks : List Nat} {d e : Dev} (h : d.Noted ks e) : d.Touch [.regs, .faults] ks e := by
  obtain ⟨⟨f, r, rfl⟩, h⟩ := h
  exact ⟨rfl, fun p hp => by cases p <;> first | rfl | simp at hp, h⟩
theorem Dev.touch_setFld (d : Dev) (f : Fld) (v : Nat) (i : List Nat) : d.Touch [.regs] [f.reg.key i] (d.setFld f v i) :=
  (d.wrote_setFld f v i).touch
theorem Dev.touch_setReg (d : Dev) (r : RegName) (v : Word) (i : List Nat) : d.Touch [.regs] [r.key i] (d.setReg r v i) :=
  (d.wrote_setReg r v i).touch
theorem Dev.touch_count (d : Dev) (r : RegName) (i : List Nat) (n : Nat) : d.Touch [.regs] [r.key i] (d.count r i n) :=
  d.touch_setReg r _ i
theorem Dev.touch_report (d : Dev) (r : Report) : d.Touch [.regs, .faults] [RegName.FAULT_COALESCED.key []] (d.report r) :=
  (d.noted_report r).touch
theorem Dev.touch_blame (d : Dev) (c m a x : Nat) : d.Touch [.regs, .faults] [RegName.FAULT_COALESCED.key []] (d.blame c m a x) :=
  (d.noted_blame c m a x).touch
theorem Dev.touch_regWrite (d : Dev) (r : RegName) (i : List Nat) (w : Wr) (st : Bool) (ok : Fld → Word → Bool) :
    d.Touch [.regs, .faults] [r.key i, RegName.FAULT_COALESCED.key []] (d.regWrite r i w st ok) :=
  (d.noted_regWrite r i w st ok).touch
theorem Dev.touch_emit (d : Dev) (o : Out) : d.Touch [.outside] [] (d.emit o) :=
  ⟨rfl, fun p hp => by cases p <;> first | rfl | simp at hp, fun _ _ => rfl⟩
theorem Dev.touch_setQueue (d : Dev) (ep : Nat) (q : List Msg) : d.Touch [.tines] [] (d.setQueue ep q) :=
  ⟨rfl, fun p hp => by cases p <;> first | rfl | simp at hp, fun _ _ => rfl⟩
theorem Dev.touch_setStrand (d : Dev) (k : Nat) (x : Strand) : d.Touch [.tines] [] (d.setStrand k x) :=
  ⟨rfl, fun p hp => by cases p <;> first | rfl | simp at hp, fun _ _ => rfl⟩

theorem Dev.Touch.reg {ps : List Piece} {ks : List Nat} {d e : Dev} (h : d.Touch ps ks e) (r : RegName) (i : List Nat)
    (hk : r.key i ∉ ks) : e.reg r i = d.reg r i := Dev.reg_of_tfind (h.2.2 _ hk)
theorem Dev.Touch.fld {ps : List Piece} {ks : List Nat} {d e : Dev} (h : d.Touch ps ks e) (f : Fld) (i : List Nat)
    (hk : f.reg.key i ∉ ks) : e.fld f i = d.fld f i := by unfold Dev.fld; rw [h.reg _ _ hk]
theorem Dev.Touch.flag {ps : List Piece} {ks : List Nat} {d e : Dev} (h : d.Touch ps ks e) (f : Fld) (i : List Nat)
    (hk : f.reg.key i ∉ ks) : e.flag f i = d.flag f i := by unfold Dev.flag; rw [h.fld _ _ hk]
theorem Dev.Touch.same {ps : List Piece} {ks : List Nat} {d e : Dev} (h : d.Touch ps ks e) (p : Piece) (hp : p ∉ ps) :
    Same { dev := d } { dev := e } p := h.2.1 p hp

/-- A command that stores nothing, by what it touches. -/
theorem Dev.Touch.only {s : State} {d : Dev} {ps : List Piece} {ks : List Nat} (h : s.dev.Touch ps ks d) (hs : s.Idle) :
    Only ps s (s.did d) := by
  refine only_did (h.1.trans hs) fun p hp hm => ?_
  have := h.2.1 p hp
  cases p <;> first | exact absurd rfl hm | exact this
theorem Dev.Touch.regsBut {s : State} {d : Dev} {ps : List Piece} {ks : List Nat} (h : s.dev.Touch ps ks d) :
    RegsBut ks s (s.did d) := fun k hk => h.2.2 k hk

/-- A report of one queue leaves the others. -/
theorem Dev.report_other (d : Dev) (r : Report) (k : Nat) (h : k ≠ r.queueKey) :
    tget [] (d.report r).flt.queues k = tget [] d.flt.queues k ∧ tget [] (d.report r).flt.held k = tget [] d.flt.held k ∧
      (d.report r).flt.injecting = d.flt.injecting := by
  have hk : ({ r with time := d.now, injected := d.flt.injecting } : Report).queueKey = r.queueKey := rfl
  unfold Dev.report Dev.enqueue
  simp only [hk]
  split
  · exact ⟨tget_tset_ne _ _ _ h, rfl, rfl⟩
  · exact ⟨rfl, tget_tset_ne _ _ _ h, rfl⟩

@[simp] theorem Dev.injecting_report (d : Dev) (r : Report) : (d.report r).flt.injecting = d.flt.injecting := by
  unfold Dev.report Dev.enqueue; dsimp only; split <;> rfl

@[simp] theorem Dev.at_due (d : Dev) (n : Nat) (f : Dev → Dev) (h : n ≤ d.clk.mono) : d.at n f = f d := by
  unfold Dev.at Dev.reach Dev.now
  rw [if_pos h]; rfl

theorem Dev.at_later (d : Dev) (n : Nat) (f : Dev → Dev) (h : d.clk.mono < n) (hc : d.clk.refclk = true) :
    d.at n f = f (d.elapse (n - d.clk.mono)) := by
  unfold Dev.at Dev.reach Dev.now
  rw [if_neg (by omega), hc]; rfl

/-- A state's registers after a command whose units wrote only some. -/
theorem RegsBut.of_noted {s : State} {d : Dev} {ks : List Nat} (h : s.dev.Noted ks d) : RegsBut ks s (s.did d) :=
  fun k hk => h.2 k hk
theorem RegsBut.of_wrote {s : State} {d : Dev} {ks : List Nat} (h : s.dev.Wrote ks d) : RegsBut ks s (s.did d) :=
  fun k hk => h.2 k hk

end Sys2Proof.Machine
end

