-- ==== Sys2Proof/Laws/Store.lean ====
section
/-! SUPPORT. What memory reads after a command that stored a string of bytes. -/

namespace Sys2Proof.Machine

theorem logByte_append (l m : List Host.Cell) (a : Nat) : logByte (l ++ m) a = (logByte l a).or (logByte m a) := by
  induction l with
  | nil => simp [logByte]
  | cons e t ih =>
    obtain ⟨k, v⟩ := e
    simp only [List.cons_append, logByte]
    split
    · rfl
    · exact ih

@[simp] theorem Dev.pad_stBytes (d : Dev) (a : Nat) (b : List Byte) (c : Nat) : (d.stBytes a b).pad c = d.pad c := by
  simp [Dev.pad]

@[simp] theorem Dev.pad_st (d : Dev) (a : Nat) (b : Byte) (c : Nat) : (d.st a b).pad c = d.pad c := by simp [Dev.pad]

@[simp] theorem Dev.absent_st (d : Dev) (a : Nat) (b : Byte) (c : Nat) : (d.st a b).absent c = d.absent c := by
  simp [Dev.absent]

@[simp] theorem Dev.absent_stBytes (d : Dev) (a : Nat) (b : List Byte) (c : Nat) :
    (d.stBytes a b).absent c = d.absent c := by simp [Dev.absent]

/-- The newest store to an address after a string of bytes was stored. -/
theorem Dev.logByte_stBytes (d : Dev) (a : Nat) (b : List Byte) (c : Nat)
    (h : ∀ i, i < b.length → d.absent (a + i) = false) :
    logByte (d.stBytes a b).wlog c =
      if a ≤ c ∧ c < a + b.length then (b[c - a]?).map (· ^^^ d.pad c) else logByte d.wlog c := by
  induction b generalizing d a with
  | nil =>
    have h0 : ¬ (a ≤ c ∧ c < a + ([] : List Byte).length) := by simp only [List.length_nil]; omega
    rw [if_neg h0]; rfl
  | cons x t ih =>
    have ha : d.absent a = false := by simpa using h 0 (by simp)
    have hw : (d.st a x).wlog = (a, x ^^^ d.pad a) :: d.wlog := by simp [Dev.st, ha]
    rw [Dev.stBytes, ih (d.st a x) (a + 1)]
    · simp only [Dev.pad_st, hw, List.length_cons, logByte]
      by_cases h0 : c = a
      · subst h0
        have h1 : ¬ (c + 1 ≤ c ∧ c < c + 1 + t.length) := by omega
        have h2 : c ≤ c ∧ c < c + (t.length + 1) := by omega
        rw [if_neg h1, if_pos h2, if_pos rfl]; simp
      · by_cases h1 : a + 1 ≤ c ∧ c < a + 1 + t.length
        · have h2 : a ≤ c ∧ c < a + (t.length + 1) := by omega
          rw [if_pos h1, if_pos h2]
          have : c - a = (c - (a + 1)) + 1 := by omega
          rw [this, List.getElem?_cons_succ]
        · have h2 : ¬ (a ≤ c ∧ c < a + (t.length + 1)) := by omega
          rw [if_neg h1, if_neg h2, if_neg h0]
    · intro i hi
      have := h (i + 1) (by simpa using hi)
      simp only [Dev.absent_st]
      rw [← this]; congr 1; omega

/-- A command that stores one string of bytes, and whose units become `d` but for the store. -/
theorem stored_of {s : State} (h : s.Idle) (d : Dev) (a : Nat) (b : List Byte) (hw : d.wlog = (s.dev.stBytes a b).wlog)
    (hp : d.part = s.dev.part) (hq : d.pads = s.dev.pads) (hh : s.has a b.length) : Stored s (s.did d) a b := by
  have hb : ∀ c, (s.did d).byte c =
      if a ≤ c ∧ c < a + b.length then ((b[c - a]?).map (· ^^^ s.dev.pad c)).getD (s.mem.byte c) ^^^ s.dev.pad c
      else s.byte c := by
    intro c
    have habs : (s.did d).dev.absent c = s.dev.absent c := by
      show ({ d with wlog := [] } : Dev).absent c = _
      simp [Dev.absent, hp]
    have hpad : (s.did d).dev.pad c = s.dev.pad c := by
      show ({ d with wlog := [] } : Dev).pad c = _
      simp [Dev.pad, hq]
    have hm : (s.did d).mem.byte c = (logByte (s.dev.stBytes a b).wlog c).getD (s.mem.byte c) := by
      rw [State.did_mem, Mem.byte_commit, hw]
    have hl := Dev.logByte_stBytes s.dev a b c hh
    have h0 : logByte s.dev.wlog c = none := by rw [h]; rfl
    unfold State.byte Dev.ld
    rw [habs, hpad, State.did_wlog, hm, hl, h0]
    by_cases hc : a ≤ c ∧ c < a + b.length
    · have : s.dev.absent c = false := by
        have := hh (c - a) (by omega)
        rw [← this]; congr 1; omega
      simp [hc, this, logByte]
    · simp [hc, logByte]
  refine ⟨?_, ?_⟩
  · intro i x hi
    have hlt : i < b.length := by
      rcases Nat.lt_or_ge i b.length with h | h
      · exact h
      · simp [List.getElem?_eq_none h] at hi
    rw [hb, if_pos ⟨by omega, by omega⟩]
    have : a + i - a = i := by omega
    rw [this, hi]
    simp [BitVec.xor_assoc]
  · intro c hc
    rw [hb, if_neg (by omega)]

end Sys2Proof.Machine
end

