-- ==== Sys2Proof/Laws/Tine.lean ====
section
/-! SUPPORT. A strand that is ready: what its next instruction comes to, for each way an instruction's body can end. -/

namespace Sys2Proof.Machine

@[simp] theorem Dev.strand_setStrand_self (d : Dev) (k : Nat) (x : Strand) : (d.setStrand k x).strand k = x :=
  tget_tset_self strandInit d.tine.strands k x

theorem Dev.strand_setStrand_ne (d : Dev) {k j : Nat} (x : Strand) (h : j ≠ k) : (d.setStrand k x).strand j = d.strand j :=
  tget_tset_ne strandInit d.tine.strands x h

@[simp] theorem Dev.strand_setTine (d : Dev) (t : Nat) (x : Tine) (k : Nat) : (d.setTine t x).strand k = d.strand k := rfl
@[simp] theorem Dev.strand_slotted (d : Dev) (m : Mem) (k j : Nat) : (d.slotted m k).strand j = d.strand j := rfl

/-- A ready strand's fetch meets no cause. -/
theorem Ready.fetchCause {s : State} {k : Nat} (h : Ready s k) : s.dev.fetchCause (s.dev.strand k).regs = none := by
  unfold Dev.fetchCause
  cases hd : (s.dev.strand k).regs.drill with
  | false => simp [h.memory, h.there, h.clean]
  | true =>
    have hb : ¬ (s.dev.strand k).regs.dbudget = 0#64 := h.budget hd
    simp [h.memory, h.there, h.clean, h.fresh hd, hb, h.inside hd]

theorem Ready.canIssue {s : State} {k : Nat} (h : Ready s k) : s.dev.canIssue k = true := by
  have hl := h.live.1
  simp only [Dev.live, Bool.and_eq_true, Bool.not_eq_true'] at hl
  simp [Dev.canIssue, h.present, h.running, h.free, h.kept, hl.2]

/-- What a ready strand's instruction comes to. -/
theorem Runs.issue {s : State} {k : Nat} {word : BitVec 32} (h : Runs s k word) (drillOk illegal resolved : Bool)
    (body : Regs → IRes) :
    s.dev.issue s.mem k word drillOk illegal resolved body =
      if illegal then (s.dev.slotted s.mem k).raise k .illegal (word.zeroExtend 64)
      else if (s.dev.strand k).regs.drill && !drillOk then (s.dev.slotted s.mem k).raise k .priv (word.zeroExtend 64)
      else s.dev.execute s.mem k (body (s.dev.strand k).regs) := by
  have hr := h.ready
  unfold Dev.issue
  simp only [hr.canIssue, hr.slot, hr.fetchCause, hr.resolved, h.word, wordCause]
  cases illegal <;> cases (s.dev.strand k).regs.drill <;> cases drillOk <;> simp [Dev.execute, hr.resolved]

theorem retire_eq (d : Dev) (k : Nat) (r : Regs) (h : (d.strand k).spec = []) : d.retire k r = d.setStrand k ((d.strand k).completed r) := by
  simp [Dev.retire, Strand.completed, h]

/-- An exception while INEX is 0. -/
theorem raise_eq (d : Dev) (k : Nat) (c : Exc) (ev : Word) (hx : (d.strand k).regs.inex = false) :
    d.raise k c ev = d.setStrand k ((d.strand k).excepted c ev) := by
  simp [Dev.raise, Strand.excepted, Regs.deliver, hx]

/-- An instruction of a ready strand retires. -/
theorem Ready.execute_done {s : State} {k : Nat} (h : Ready s k) (d : Dev) (r : Regs) (hd : d.strand k = s.dev.strand k) :
    s.dev.execute s.mem k (.done d r) = s.retires k d r := by
  simp only [Dev.execute, Dev.finish, IRes.inTine, State.retires]
  rw [retire_eq _ _ _ (by simp [hd, h.resolved])]
  simp [hd]

theorem Ready.withStrand {s : State} {k : Nat} (h : Ready s k) (x : Strand) :
    s.did ((s.dev.slotted s.mem k).setStrand k x) = (s.issued k).withStrand k x := by
  rw [State.did_quiet]
  · rfl
  · exact h.live.2

/-- The instruction completes and changes nothing but its strand and its tine's issue. -/
theorem Runs.completes {s : State} {k : Nat} {word : BitVec 32} (h : Runs s k word) {f : Mem → Dev → Dev} {r : Regs}
    (drillOk resolved : Bool) (body : Regs → IRes)
    (hf : f s.mem s.dev = s.dev.issue s.mem k word drillOk false resolved body)
    (hd : drillOk = true ∨ (s.dev.strand k).regs.drill = false)
    (hb : body (s.dev.strand k).regs = .done s.dev r) : s.run f = .next (s.completes k r) := by
  rw [h.ready.live.run, hf, h.issue]
  have : ((s.dev.strand k).regs.drill && !drillOk) = false := by rcases hd with hd | hd <;> simp [hd]
  simp only [this, hb, h.ready.execute_done _ _ rfl, Bool.false_eq_true, if_false]
  exact congrArg Host.Outcome.next (h.ready.withStrand _)

theorem setStrand_setStrand (d : Dev) (k : Nat) (x y : Strand) (h : x.wait ≠ none) : (d.setStrand k x).setStrand k y = d.setStrand k y := by
  have hx : x ≠ strandInit := by rintro rfl; exact h rfl
  simp only [Dev.setStrand]
  rw [tset_tset _ _ _ _ _ hx]

theorem Runs.waits {s : State} {k : Nat} {word : BitVec 32} (h : Runs s k word) {f : Mem → Dev → Dev} {w : Wait}
    (drillOk resolved : Bool) (body : Regs → IRes)
    (hf : f s.mem s.dev = s.dev.issue s.mem k word drillOk false resolved body)
    (hd : drillOk = true ∨ (s.dev.strand k).regs.drill = false)
    (hb : body (s.dev.strand k).regs = .wait w) : s.run f = .next (s.waits k w) := by
  rw [h.ready.live.run, hf, h.issue]
  have : ((s.dev.strand k).regs.drill && !drillOk) = false := by rcases hd with hd | hd <;> simp [hd]
  simp only [this, hb, Dev.execute, Dev.finish, IRes.inTine, Bool.false_eq_true, if_false, Dev.modStrand]
  exact congrArg Host.Outcome.next (h.ready.withStrand _)

theorem Runs.raised {s : State} {k : Nat} {word : BitVec 32} (h : Runs s k word) {f : Mem → Dev → Dev} {c : Exc} {ev : Word}
    (hx : (s.dev.strand k).regs.inex = false) (hf : f s.mem s.dev = (s.dev.slotted s.mem k).raise k c ev) :
    s.run f = .next (s.raises k c ev) := by
  rw [h.ready.live.run, hf, raise_eq (s.dev.slotted s.mem k) k c ev hx]
  exact congrArg Host.Outcome.next (h.ready.withStrand _)

theorem Runs.raises {s : State} {k : Nat} {word : BitVec 32} (h : Runs s k word) {f : Mem → Dev → Dev} {c : Exc} {ev : Word}
    (drillOk resolved : Bool) (body : Regs → IRes) (hx : (s.dev.strand k).regs.inex = false)
    (hf : f s.mem s.dev = s.dev.issue s.mem k word drillOk false resolved body)
    (hd : drillOk = true ∨ (s.dev.strand k).regs.drill = false)
    (hb : body (s.dev.strand k).regs = .exc c ev) : s.run f = .next (s.raises k c ev) := by
  refine h.raised hx ?_
  have : ((s.dev.strand k).regs.drill && !drillOk) = false := by rcases hd with hd | hd <;> simp [hd]
  rw [hf, h.issue]
  simp only [this, hb, Dev.execute, h.ready.resolved, Bool.false_eq_true, if_false, if_true]

theorem Runs.priv {s : State} {k : Nat} {word : BitVec 32} (h : Runs s k word) {f : Mem → Dev → Dev}
    (resolved : Bool) (body : Regs → IRes) (hx : (s.dev.strand k).regs.inex = false)
    (hf : f s.mem s.dev = s.dev.issue s.mem k word false false resolved body)
    (hd : (s.dev.strand k).regs.drill = true) : s.run f = .next (s.raises k .priv (word.zeroExtend 64)) := by
  refine h.raised hx ?_
  rw [hf, h.issue]
  simp [hd]

end Sys2Proof.Machine
end

