-- ==== Sys2Proof/Laws/Load.lean ====
section
/-! SUPPORT. Loads and stores of a ready strand to memory: how a load starts and how its data lands, and what a store does. -/

namespace Sys2Proof.Machine

theorem Ready.startLoad {s : State} {k : Nat} (h : Ready s k) (r : Regs) (kind : LoadKind) (dst addr : Nat) (ev : Word)
    (hm : (s.dev.region addr).isMemory = true) (ha : s.dev.absent addr = false) : s.dev.startLoad k r kind dst addr ev = .wait (.load kind dst addr ev) := by
  have h1 : s.dev.mustResolve k addr = false := by simp [Dev.mustResolve, h.resolved]
  have h2 : s.dev.loadRefused kind addr = none := by
    unfold Dev.loadRefused
    cases hr : s.dev.region addr <;> simp_all [Region.isMemory]
  simp [Dev.startLoad, h1, h2]

theorem Runs.load {s : State} {k : Nat} (op : Nat) (d a : BitVec 5) (imm : BitVec 16) (h : Runs s k (wordRI op d a imm)) (kind : LoadKind) (ill : Bool)
    (hi : ill = false) (hd : (s.dev.strand k).regs.drill = false)
    (ea : Nat) (hea : ea = ((s.dev.strand k).regs.rd a.toNat + imm.signExtend 64).toNat) (hlt : ea < 2 ^ 48) (hal : ea % kind.size = 0)
    (hm : (s.dev.region ea).isMemory = true) (ha : s.dev.absent ea = false) :
    s.run (fun m x => x.load m k op d a imm kind ill) = .next (s.waits k (.load kind d.toNat ea ((s.dev.strand k).regs.rd a.toNat + imm.signExtend 64))) := by
  subst hi
  have key : s.dev.load s.mem k op d a imm kind false = (s.dev.slotted s.mem k).setStrand k { s.dev.strand k with wait := some (.load kind d.toNat ea ((s.dev.strand k).regs.rd a.toNat + imm.signExtend 64)) } := by
    unfold Dev.load
    rw [h.issue]
    have e1 : addrCause ((s.dev.strand k).regs.rd a.toNat + sx16 imm) kind.size = none := by
      unfold addrCause sx16; rw [← hea, if_neg (by omega), if_neg (by omega)]
    have e3 := h.ready.startLoad (s.dev.strand k).regs kind d.toNat ea ((s.dev.strand k).regs.rd a.toNat + imm.signExtend 64) hm ha
    have e2 : ((s.dev.strand k).regs.rd a.toNat + sx16 imm).toNat = ea := hea.symm
    simp only [hd, Bool.false_and, Bool.false_eq_true, if_false, e1, e2]
    rw [show sx16 imm = imm.signExtend 64 from rfl, e3]
    simp only [Dev.execute, Dev.finish, IRes.inTine, h.ready.free, Dev.modStrand, Dev.strand_setStrand_self, Dev.strand_slotted]
    unfold Dev.windowLoad
    have e4 : ((s.dev.slotted s.mem k).setStrand k { s.dev.strand k with wait := some (Wait.load kind d.toNat ea ((s.dev.strand k).regs.rd a.toNat + imm.signExtend 64)) }).region ea = s.dev.region ea := rfl
    rw [e4]
    cases hr : s.dev.region ea <;> simp_all [Region.isMemory]
  rw [h.ready.live.run]
  show Host.Outcome.next (s.did (s.dev.load s.mem k op d a imm kind false)) = _
  rw [show s.dev.load s.mem k op d a imm kind false = _ from key, h.ready.withStrand]; rfl

theorem mem_bytes (s : State) (d : Dev) (hp : d.part = s.dev.part) (hq : d.pads = s.dev.pads) (hw : d.wlog = []) (hs : s.Idle) (a n : Nat) :
   d.ldBytes s.mem a n = (List.range n).map fun i => s.byte (a + i) := by
  unfold Dev.ldBytes State.byte Dev.ld Dev.absent Dev.pad
  rw [hp, hq, hw, hs]

theorem Ready.returned {s : State} {k : Nat} (h : Ready s k) (kind : LoadKind) (dst ea : Nat) (ev : Word) (ext : List Byte)
   (hm : (s.dev.region ea).isMemory = true) (ha : s.dev.absent ea = false) (hp : s.dev.poisoned ea kind.size = false) (hk : kind.isAtomic = false) :
   exec (.loadDataReturn k ext false) (s.waits k (.load kind dst ea ev)) =
    .next (s.completes k ((s.dev.strand k).regs.next.landed kind dst ((List.range kind.size).map fun i => s.byte (ea + i)))) := by
  let s1 := s.waits k (.load kind dst ea ev)
  have hl : s1.Live := h.live
  show s1.run (fun m x => x.loadReturn m k ext false) = _
  rw [hl.run]
  have hst : s1.dev.strand k = { s.dev.strand k with wait := some (.load kind dst ea ev) } := Dev.strand_setStrand_self _ _ _
  have hsp : (s1.dev.strand k).spec = [] := by rw [hst]; exact h.resolved
  have hm1 : (s1.dev.region ea).isMemory = true := hm
  have ha1 : s1.dev.absent ea = false := ha
  have hp1 : s1.dev.poisoned ea kind.size = false := hp
  have hwl : s1.dev.wlog = [] := h.live.2
  have key : s1.dev.loadReturn s1.mem k ext false = s1.dev.finish k (.done s1.dev ((s1.dev.strand k).regs.next.landed kind dst ((List.range kind.size).map fun i => s.byte (ea + i)))) := by
    unfold Dev.loadReturn
    rw [show (s1.dev.strand k).wait = some (.load kind dst ea ev) by rw [hst]]
    have e1 : s1.dev.mustResolve k ea = false := by simp [Dev.mustResolve, hsp]
    have e2 : s1.dev.loadData s1.mem k ea kind.size ext = ((List.range kind.size).map fun i => s.byte (ea + i), s1.dev) := by
      have e3 : (s1.dev.withHeld k).ldBytes s1.mem ea kind.size = (List.range kind.size).map fun i => s.byte (ea + i) := by
        apply mem_bytes s (s1.dev.withHeld k) rfl rfl _ h.live.2
        show ((s1.dev.strand k).spec.reverse.flatMap fun c => c.stores) ++ s1.dev.wlog = []
        rw [hsp, hwl]; rfl
      unfold Dev.loadData
      revert hm1
      cases hr : s1.dev.region ea <;> intro hm1 <;> simp_all [Region.isMemory]
    dsimp only
    rw [e1, ha1, hp1, e2]
    cases kind <;> simp_all [LoadKind.isAtomic]
  rw [key]
  show Host.Outcome.next (s1.did (s1.dev.retire k _)) = _
  rw [retire_eq _ _ _ hsp, hst]
  show Host.Outcome.next (s1.did (((s.dev.slotted s.mem k).setStrand k _).setStrand k _)) = _
  rw [setStrand_setStrand _ _ _ _ (by simp), State.did_quiet _ _ (by exact h.live.2)]
  rfl

theorem extend_lo (n : Nat) (sg : Bool) (l : List Byte) (hl : l.length = n) (hn : n = 1 ∨ n = 2 ∨ n = 4 ∨ n = 8) :
    (∀ i, i < n → (extendLoad n sg (leNat l)).extractLsb' (8 * i) 8 = l[i]?.getD 0) ∧
    ∀ i, 8 * n ≤ i → i < 64 → (extendLoad n sg (leNat l)).getLsbD i = (sg && (extendLoad n sg (leNat l)).getLsbD (8 * n - 1)) := by
  have hlt := leNat_lt l
  rw [hl] at hlt
  generalize hv : leNat l = v at hlt
  have hn8 : n ≤ 8 := by omega
  have hn1 : 1 ≤ n := by omega
  unfold extendLoad
  split
  · next hc =>
    simp only [Bool.and_eq_true, decide_eq_true_eq] at hc
    obtain ⟨⟨h1, h2⟩, h3⟩ := hc
    have hbits : ∀ i, i < 64 → (v + 2 ^ 64 - 2 ^ (8 * n)).testBit i = (v.testBit i || decide (8 * n ≤ i)) := by
      have hle : 2 ^ (8 * n) ≤ 2 ^ 64 := Nat.pow_le_pow_right (by decide) (by omega)
      have e : v + 2 ^ 64 - 2 ^ (8 * n) = 2 ^ (8 * n) * (2 ^ (64 - 8 * n) - 1) + v := by
        rw [Nat.mul_sub, ← Nat.pow_add, show 8 * n + (64 - 8 * n) = 64 by omega]; omega
      intro i hi
      rw [e, Nat.testBit_two_pow_mul_add _ hlt]
      split
      · next hh => simp; omega
      · next hh =>
        rw [Nat.testBit_two_pow_sub_one]
        have : v.testBit i = false := Nat.testBit_lt_two_pow (Nat.lt_of_lt_of_le hlt (Nat.pow_le_pow_right (by decide) (by omega)))
        simp [this]; omega
    refine ⟨?_, ?_⟩
    · intro i hi
      rw [← ofle_byte (w := 64) l i (by omega), hv]
      apply BitVec.eq_of_getLsbD_eq
      intro j hj
      simp only [BitVec.getLsbD_extractLsb', BitVec.getLsbD_ofNat]
      rw [hbits _ (by omega)]
      have : ¬ (8 * n ≤ 8 * i + j) := by omega
      simp [this]
    · intro i h4 h5
      simp only [BitVec.getLsbD_ofNat]
      rw [hbits _ h5, hbits _ (by omega), h3]
      simp [h4, h5, h1]; omega
  · next hc =>
    refine ⟨?_, ?_⟩
    · intro i hi
      rw [← ofle_byte (w := 64) l i (by omega), hv]
    · intro i h4 h5
      simp only [BitVec.getLsbD_ofNat]
      have : v.testBit i = false := Nat.testBit_lt_two_pow (Nat.lt_of_lt_of_le hlt (Nat.pow_le_pow_right (by decide) h4))
      rw [this]
      have hn' : n < 8 := by omega
      cases sg <;> simp_all

theorem stB_wlog (d e : Dev) (a : Nat) (b : List Byte) (hp : d.part = e.part) (hq : d.pads = e.pads) (hw : d.wlog = e.wlog) : (d.stBytes a b).wlog = (e.stBytes a b).wlog := by
  induction b generalizing d e a with
  | nil => exact hw
  | cons x t ih =>
    unfold Dev.stBytes
    apply ih
    · simp [hp]
    · simp [hq]
    · unfold Dev.st Dev.absent Dev.pad; rw [hp, hq]; split <;> simp [hw]

theorem st_clean (d : Dev) (a : Nat) (b : Byte) : { d.st a b with wlog := [] } = { d with wlog := [] } := by
  unfold Dev.st; split <;> rfl
theorem stBytes_clean (d : Dev) (a : Nat) (b : List Byte) : { d.stBytes a b with wlog := [] } = { d with wlog := [] } := by
  induction b generalizing d a with
  | nil => rfl
  | cons x t ih => unfold Dev.stBytes; rw [ih, st_clean]

theorem stBytes_strand (d : Dev) (a : Nat) (b : List Byte) (k : Nat) : (d.stBytes a b).strand k = d.strand k := by simp [Dev.strand]

/-- A range of memory that the part has is no absent memory. -/
theorem noteAbsent_has {s : State} {a n : Nat} (h : s.has a n) (hn : n ≠ 0) (master : Nat) : s.dev.noteAbsent master a n = s.dev := by
  have h1 := h 0 (by omega)
  have h2 := h (n - 1) (by omega)
  rw [Nat.add_zero] at h1
  rw [show a + (n - 1) = a + n - min n 1 by omega] at h2
  simp [Dev.noteAbsent, Dev.absentIn, h1, h2]

theorem Runs.stores {s : State} {k : Nat} {word : BitVec 32} (h : Runs s k word) {f : Mem → Dev → Dev} {addr : Nat} {b : List Byte}
    (drillOk : Bool) (body : Regs → IRes)
    (hf : f s.mem s.dev = s.dev.issue s.mem k word drillOk false false body)
    (hd : drillOk = true ∨ (s.dev.strand k).regs.drill = false)
    (hb : body (s.dev.strand k).regs = s.dev.store s.mem k (s.dev.strand k).regs addr b)
    (hm : (s.dev.region addr).isMemory = true) (hn : b ≠ []) (hh : s.has addr b.length) :
    ∃ t, s.run f = .next t ∧ Stored s t addr b ∧ t.dev = (s.completes k (s.dev.strand k).regs.next).dev ∧ t.pending = s.pending := by
  have hab : s.dev.absent addr = false := hh 0 (by cases b; exact absurd rfl hn; simp)
  have e0 : s.dev.store s.mem k (s.dev.strand k).regs addr b = .done (s.dev.stBytes addr b) (s.dev.strand k).regs.next := by
    have e1 : s.dev.mustResolve k addr = false := by simp [Dev.mustResolve, h.ready.resolved]
    unfold Dev.store
    rw [e1]
    have e2 := h.ready.resolved
    have e4 := noteAbsent_has hh (by cases b; exact absurd rfl hn; simp) (tagStrand k)
    revert hm
    unfold Dev.wrMem
    cases hr : s.dev.region addr <;> intro hm <;> simp_all [Region.isMemory]
  have e3 : f s.mem s.dev = s.retires k (s.dev.stBytes addr b) (s.dev.strand k).regs.next := by
    rw [hf, h.issue]
    have : ((s.dev.strand k).regs.drill && !drillOk) = false := by rcases hd with hd | hd <;> simp [hd]
    simp only [this, hb, e0, Bool.false_eq_true, if_false]
    exact h.ready.execute_done _ _ (stBytes_strand _ _ _ _)
  refine ⟨_, h.ready.live.run f, ?_, ?_, rfl⟩
  · rw [e3]
    exact stored_of h.ready.live.2 _ addr b rfl (by show (s.dev.stBytes addr b).part = _; simp) (by show (s.dev.stBytes addr b).pads = _; simp) hh
  · rw [e3]
    have := stBytes_clean s.dev addr b
    show (({ (s.dev.stBytes addr b) with wlog := [] } : Dev).setTine _ _).setStrand k _ = _
    rw [this, Dev.wlog_nil _ h.ready.live.2]; rfl

end Sys2Proof.Machine
end

