-- ==== Sys2Proof/Laws/Pieces.lean ====
section
/-! SUPPORT. Each piece of the units as a record update, and short facts that many commands' effects share. -/

namespace Sys2Proof.Machine

theorem Dev.touchIn_pace (d : Dev) (v : PaceSt) : d.Touch [.pace] [] { d with pace := v } :=
  ⟨rfl, fun p hp => by cases p <;> first | rfl | simp at hp, fun _ _ => rfl⟩
theorem Dev.touchIn_tine (d : Dev) (v : TineSt) : d.Touch [.tines] [] { d with tine := v } :=
  ⟨rfl, fun p hp => by cases p <;> first | rfl | simp at hp, fun _ _ => rfl⟩
theorem Dev.touchIn_caps (d : Dev) (v : Tbl Capture) : d.Touch [.captures] [] { d with caps := v } :=
  ⟨rfl, fun p hp => by cases p <;> first | rfl | simp at hp, fun _ _ => rfl⟩
theorem Dev.touchIn_flt (d : Dev) (v : FaultSt) : d.Touch [.faults] [] { d with flt := v } :=
  ⟨rfl, fun p hp => by cases p <;> first | rfl | simp at hp, fun _ _ => rfl⟩
theorem Dev.touchIn_posted (d : Dev) (v : List Posted) : d.Touch [.posted] [] { d with posted := v } :=
  ⟨rfl, fun p hp => by cases p <;> first | rfl | simp at hp, fun _ _ => rfl⟩
theorem Dev.touchIn_host (d : Dev) (v : HostSt) : d.Touch [.host] [] { d with host := v } :=
  ⟨rfl, fun p hp => by cases p <;> first | rfl | simp at hp, fun _ _ => rfl⟩
theorem Dev.touchIn_ring (d : Dev) (v : RingSt) : d.Touch [.rings] [] { d with ring := v } :=
  ⟨rfl, fun p hp => by cases p <;> first | rfl | simp at hp, fun _ _ => rfl⟩
theorem Dev.touchIn_vault (d : Dev) (v : VaultSt) : d.Touch [.vault] [] { d with vault := v } :=
  ⟨rfl, fun p hp => by cases p <;> first | rfl | simp at hp, fun _ _ => rfl⟩
theorem Dev.touchIn_cipher (d : Dev) (v : Tbl CipherSt) : d.Touch [.ciphers] [] { d with cipher := v } :=
  ⟨rfl, fun p hp => by cases p <;> first | rfl | simp at hp, fun _ _ => rfl⟩
theorem Dev.touchIn_dma (d : Dev) (v : Tbl DmaCh) : d.Touch [.dma] [] { d with dma := v } :=
  ⟨rfl, fun p hp => by cases p <;> first | rfl | simp at hp, fun _ _ => rfl⟩
theorem Dev.touchIn_stg (d : Dev) (v : StgSt) : d.Touch [.storage] [] { d with stg := v } :=
  ⟨rfl, fun p hp => by cases p <;> first | rfl | simp at hp, fun _ _ => rfl⟩
theorem Dev.touchIn_fold (d : Dev) (v : Tbl FoldU) : d.Touch [.folds] [] { d with fold := v } :=
  ⟨rfl, fun p hp => by cases p <;> first | rfl | simp at hp, fun _ _ => rfl⟩
theorem Dev.touchIn_sow (d : Dev) (v : SowSt) : d.Touch [.sowing] [] { d with sow := v } :=
  ⟨rfl, fun p hp => by cases p <;> first | rfl | simp at hp, fun _ _ => rfl⟩
theorem Dev.touchIn_glean (d : Dev) (v : GleanSt) : d.Touch [.gleaning] [] { d with glean := v } :=
  ⟨rfl, fun p hp => by cases p <;> first | rfl | simp at hp, fun _ _ => rfl⟩
theorem Dev.touchIn_net (d : Dev) (v : NetSt) : d.Touch [.net] [] { d with net := v } :=
  ⟨rfl, fun p hp => by cases p <;> first | rfl | simp at hp, fun _ _ => rfl⟩
theorem Dev.touchIn_trd (d : Dev) (v : TrdSt) : d.Touch [.trd] [] { d with trd := v } :=
  ⟨rfl, fun p hp => by cases p <;> first | rfl | simp at hp, fun _ _ => rfl⟩
theorem Dev.touchIn_ten (d : Dev) (v : TenSt) : d.Touch [.tenants] [] { d with ten := v } :=
  ⟨rfl, fun p hp => by cases p <;> first | rfl | simp at hp, fun _ _ => rfl⟩
theorem Dev.touchIn_boot (d : Dev) (v : BootSt) : d.Touch [.boot] [] { d with boot := v } :=
  ⟨rfl, fun p hp => by cases p <;> first | rfl | simp at hp, fun _ _ => rfl⟩
theorem Dev.touchIn_pw (d : Dev) (v : PowerSt) : d.Touch [.power] [] { d with pw := v } :=
  ⟨rfl, fun p hp => by cases p <;> first | rfl | simp at hp, fun _ _ => rfl⟩
theorem Dev.touchIn_subsys (d : Dev) (v : Nat) : d.Touch [.subsys] [] { d with subsys := v } :=
  ⟨rfl, fun p hp => by cases p <;> first | rfl | simp at hp, fun _ _ => rfl⟩
theorem Dev.touchIn_out (d : Dev) (v : List Out) : d.Touch [.outside] [] { d with out := v } :=
  ⟨rfl, fun p hp => by cases p <;> first | rfl | simp at hp, fun _ _ => rfl⟩
theorem Dev.touchIn_pads (d : Dev) (v : List (Nat × Nat × Nat)) : d.Touch [.pads] [] { d with pads := v } :=
  ⟨rfl, fun p hp => by cases p <;> first | rfl | simp at hp, fun _ _ => rfl⟩
theorem Dev.touchIn_free (d : Dev) (v : Nat) : d.Touch [.free] [] { d with free := v } :=
  ⟨rfl, fun p hp => by cases p <;> first | rfl | simp at hp, fun _ _ => rfl⟩
theorem Dev.touchIn_clk (d : Dev) (v : Clock) : d.Touch [.clock] [] { d with clk := v } :=
  ⟨rfl, fun p hp => by cases p <;> first | rfl | simp at hp, fun _ _ => rfl⟩

/-- A fault report that names its master. -/
theorem recorded_blame (s : State) (c m a x : Nat) (h : m < 0x10000) :
    Recorded s (s.did (s.dev.blame c m a x)) { code := c, kind := 0, unit := 0, master := m, addr := a, detail := x } := by
  intro h1 h2
  unfold Dev.blame
  rw [if_pos h, State.did_flt]
  exact Dev.queued_report _ _ h1 h2

/-- A report is recorded. -/
theorem recorded_report (s : State) (r : Report) : Recorded s (s.did (s.dev.report r)) r := by
  intro h1 h2
  rw [State.did_flt]
  exact Dev.queued_report _ _ h1 h2

/-- A report is recorded after operations that leave the collector and the clock. -/
theorem recorded_after (s : State) (d : Dev) (r : Report) (hf : d.flt = s.dev.flt) (hc : d.clk = s.dev.clk) (e : Dev)
    (he : e.flt = (d.report r).flt) : Recorded s (s.did e) r := by
  intro h1 h2
  rw [State.did_flt, he, ← hf, ← hc]
  rw [← hf] at h1 h2
  exact Dev.queued_report _ _ h1 h2

/-- A fault report that names its master, after such operations. -/
theorem recorded_blame_after (s : State) (d : Dev) (c m a x : Nat) (hf : d.flt = s.dev.flt) (hc : d.clk = s.dev.clk)
    (h : m < 0x10000) :
    Recorded s (s.did (d.blame c m a x)) { code := c, kind := 0, unit := 0, master := m, addr := a, detail := x } := by
  unfold Dev.blame
  rw [if_pos h]
  exact recorded_after s d _ hf hc _ rfl

/-- What is sent outside after a report changes no record. -/
theorem recorded_emit {s : State} {d : Dev} {r : Report} (o : Out) (h : Recorded s (s.did d) r) :
    Recorded s (s.did (d.emit o)) r := by
  intro a b
  have := h a b
  rw [State.did_flt] at this ⊢
  exact this

theorem emit_fold {α : Type} (g : α → Out) (l : List α) (d : Dev) :
    l.foldl (fun d q => d.emit (g q)) d = { d with out := d.out ++ l.map g } := by
  induction l generalizing d with
  | nil => simp
  | cons x t ih => rw [List.foldl_cons, ih]; simp [Dev.emit]

/-- A field of one bit reads its bit. -/
theorem Fld.get_bit (f : Fld) (w : Word) (h : f.width = 1) : f.get w = if w.getLsbD f.lo then 1 else 0 := by
  unfold Fld.get bits
  rw [h, BitVec.getLsbD, Nat.testBit_eq_decide_div_mod_eq]
  have := Nat.mod_lt (w.toNat / 2 ^ f.lo) (show 0 < 2 ^ 1 by decide)
  by_cases h0 : w.toNat / 2 ^ f.lo % 2 = 1
  · simp [h0]
  · simp [h0]; omega

theorem State.withStrand_did {s : State} (h : s.Idle) (k : Nat) (x : Strand) :
    s.did (s.dev.setStrand k x) = s.withStrand k x := by
  rw [State.did_quiet]
  · rfl
  · exact h
theorem State.did_self {s : State} (h : s.Idle) : s.did s.dev = s := by rw [State.did_quiet _ _ h]

theorem Dev.safe_of_live {d : Dev} (h : d.live = true) : d.flt.safe = false := by
  simp only [Dev.live, Bool.and_eq_true, Bool.not_eq_true'] at h
  exact h.2

theorem tfind_filter {α : Type} (t : Tbl α) (p : Nat → Bool) (k : Nat) :
    tfind (t.filter fun e => p e.1) k = if p k then tfind t k else none := by
  induction t with
  | nil => simp [tfind]
  | cons e t ih =>
    obtain ⟨a, v⟩ := e
    by_cases ha : p a
    · rw [List.filter_cons_of_pos (by exact ha)]
      simp only [tfind]
      split
      · next h => rw [h, if_pos ha]
      · exact ih
    · rw [List.filter_cons_of_neg (by exact ha)]
      simp only [tfind]
      rw [ih]
      by_cases hk : k = a
      · rw [hk, if_neg ha, if_neg ha]
      · rw [if_neg hk]


/-- Storing bytes adds to the stores alone. -/
theorem Dev.stBytes_frame (d : Dev) (a : Nat) (b : List Byte) : d.stBytes a b = { d with wlog := (d.stBytes a b).wlog } := by
  have h := congrArg (fun e : Dev => { e with wlog := (d.stBytes a b).wlog }) (stBytes_clean d a b)
  exact h

/-- Storing bytes, and a change of what is neither memory nor its pads. -/
theorem Dev.stBytes_comm (d : Dev) (a : Nat) (b : List Byte) (f : Dev → Dev) (hf : ∀ e w, f { e with wlog := w } = { f e with wlog := w })
    (hp : (f d).part = d.part) (hq : (f d).pads = d.pads) (hw : (f d).wlog = d.wlog) :
    f (d.stBytes a b) = (f d).stBytes a b := by
  rw [Dev.stBytes_frame d a b, hf, Dev.stBytes_frame (f d) a b, stB_wlog (f d) d a b hp hq hw]
end Sys2Proof.Machine
end

