-- ==== Sys2Proof/Laws/HostFace.lean ====
section
/-! SUPPORT. What the host face's shared operations touch: interrupts, wake pins, errors of a function, writes to hosts. -/

namespace Sys2Proof.Machine

theorem Dev.touch_postWrite (d : Dev) (w : Posted) : d.Touch [.posted] [] (d.postWrite w) := d.touchIn_posted _
theorem Dev.touch_modFn (d : Dev) (f : Nat) (g : Fn → Fn) : d.Touch [.host] [] (d.modFn f g) := d.touchIn_host _

theorem Dev.touch_translate (d : Dev) (f a n : Nat) (p : Option Nat) : d.Touch [.host, .outside] [] (d.translate f a n p) := by
  unfold Dev.translate
  split
  · exact Dev.Touch.refl _ _ _
  · refine Dev.touch_fold _ _ _ _ (fun d i _ => ?_) d
    unfold Dev.translatePage
    dsimp only
    split
    · exact Dev.Touch.refl _ _ _
    · exact ⟨rfl, fun p hp => by cases p <;> first | rfl | simp at hp, fun _ _ => rfl⟩

theorem Dev.touch_postHost (d : Dev) (f m a : Nat) (p : Option Nat) (b : List Byte) (apt : Option Nat) :
    d.Touch [.host, .outside, .posted] [] (d.postHost f m a p b apt) := by
  unfold Dev.postHost
  exact ((d.touch_translate f a b.length p).seq (Dev.touch_postWrite _ _)).mono (by simp) (by simp)

theorem Dev.touch_if {ps : List Piece} {ks : List Nat} {d a b : Dev} {c : Prop} [Decidable c] (ha : d.Touch ps ks a)
    (hb : d.Touch ps ks b) : d.Touch ps ks (if c then a else b) := by split <;> assumption

theorem Dev.touch_setWake (d : Dev) (l : Nat) (on : Bool) :
    d.Touch [.regs, .outside] [RegName.HOST_LINK_STATUS.key [l]] (d.setWake l on) := by
  unfold Dev.setWake
  dsimp only
  have t := d.touch_setFld HOST_LINK_STATUS.WAKE_PEND (b2n on) [l]
  exact Dev.touch_if ((t.seq (Dev.touch_emit _ _)).mono (by simp) (fun _ h => h)) (t.mono (by simp) (fun _ h => h))

theorem Dev.touch_pmeSignal (d : Dev) (f : Nat) :
    d.Touch [.host, .regs, .outside] [RegName.HOST_LINK_STATUS.key [d.linkOf f]] (d.pmeSignal f) := by
  unfold Dev.pmeSignal
  dsimp only
  have t := d.touch_modFn f fun n => { n with pmeStatus := true }
  exact Dev.touch_if ((t.seq (Dev.touch_emit _ _)).mono (by simp) (by simp))
    ((t.seq (Dev.touch_setWake _ _ true)).mono (by simp) (by simp; rfl))

theorem Dev.touch_raiseVector (d : Dev) (f v : Nat) :
    d.Touch [.host, .regs, .outside, .posted] [RegName.HOST_LINK_STATUS.key [d.linkOf f]] (d.raiseVector f v) := by
  unfold Dev.raiseVector
  dsimp only
  refine Dev.touch_if (Dev.Touch.refl _ _ _) ?_
  have t : d.Touch [.host, .regs, .outside, .posted] [RegName.HOST_LINK_STATUS.key [d.linkOf f]]
      (if d.fld HOST_FN_STATE.DSTATE [f] ≠ 0 && (d.fn f).pmeEn then d.pmeSignal f else d) :=
    Dev.touch_if ((d.touch_pmeSignal f).mono (by simp) (fun _ h => h)) (Dev.Touch.refl _ _ _)
  refine Dev.touch_if t (Dev.touch_if (t.trans ?_) (t.trans ?_))
  · exact (Dev.touch_modFn _ f _).mono (by simp) (by simp)
  · exact (Dev.touch_postHost _ _ _ _ _ _ _).mono (by simp) (by simp)

theorem Dev.pfOf_lt (d : Dev) (f : Nat) : d.pfOf f < 256 := by
  unfold Dev.pfOf
  split
  · assumption
  · cases h : (List.range 256).find? fun p => d.vfOfPf p (f - 256) with
    | none => decide
    | some p => exact List.mem_range.1 (List.mem_of_find?_eq_some h)

/-- A function's link depends on the PF plan alone. -/
theorem Dev.linkOf_congr {d e : Dev} (h : ∀ p, p < 256 → e.reg .HOST_PF_PLAN [p] = d.reg .HOST_PF_PLAN [p]) (f : Nat) :
    e.linkOf f = d.linkOf f := by
  have g : ∀ (x : Fld) p, p < 256 → x.reg = .HOST_PF_PLAN → e.fld x [p] = d.fld x [p] := fun x p hp hr => by
    unfold Dev.fld; rw [hr, h p hp]
  have hp : e.pfOf f = d.pfOf f := by
    unfold Dev.pfOf
    split
    · rfl
    · congr 1
      have : ∀ l : List Nat, (∀ p ∈ l, p < 256) →
          (l.find? fun p => e.vfOfPf p (f - 256)) = l.find? fun p => d.vfOfPf p (f - 256) := by
        intro l
        induction l with
        | nil => intro _; rfl
        | cons x t ih =>
          intro hl
          have hx := hl x List.mem_cons_self
          have hv : e.vfOfPf x (f - 256) = d.vfOfPf x (f - 256) := by
            unfold Dev.vfOfPf Dev.flag
            rw [g HOST_PF_PLAN.PRESENT x hx rfl, g HOST_PF_PLAN.FIRST_VF x hx rfl, g HOST_PF_PLAN.TOTAL_VFS x hx rfl]
          rw [List.find?_cons, List.find?_cons, hv, ih fun p hp => hl p (List.mem_cons_of_mem _ hp)]
      exact this _ fun p hp => List.mem_range.1 hp
  unfold Dev.linkOf
  rw [hp, g HOST_PF_PLAN.LINK _ (d.pfOf_lt f) rfl]

theorem Dev.linkOf_fn {ps : List Piece} {ks : List Nat} {d e : Dev} (h : d.Touch ps ks e)
    (hk : ∀ k ∈ ks, k < 0x5010000 ∨ 0x5011000 ≤ k) (f : Nat) : e.linkOf f = d.linkOf f :=
  Dev.linkOf_congr (fun p hp => h.reg _ _ fun hm => by
    have := hk _ hm
    rw [key_HOST_PF_PLAN] at this
    omega) f

theorem Dev.touch_hostErr (d : Dev) (fl : Fld) (f : Nat) (h : fl.reg = .FN_HOST_ERR) :
    d.Touch [.host, .regs, .outside, .posted] [RegName.FN_HOST_ERR.key [f], RegName.HOST_LINK_STATUS.key [d.linkOf f]]
      (d.hostErr fl f) := by
  unfold Dev.hostErr
  refine Dev.touch_if (Dev.Touch.refl _ _ _) ?_
  have t := d.touch_setFld fl 1 [f]
  rw [h] at t
  have t2 := Dev.touch_raiseVector (d.setFld fl 1 [f]) f 0
  rw [Dev.linkOf_fn t (by simp; rw [key_FN_HOST_ERR]; omega)] at t2
  exact (t.seq t2).mono (by simp) (fun _ h => h)

/-- The registers at which an error of a function may show. -/
def fnErrKeys (d : Dev) (f : Nat) : List Nat :=
  [RegName.FN_HOST_ERR.key [f], RegName.HOST_LINK_STATUS.key [d.linkOf f], RegName.FN_HOST_ERR_ADDR.key [f],
    RegName.FAULT_COALESCED.key []]

theorem Dev.touch_bmeDrop (d : Dev) (f : Nat) :
    d.Touch [.host, .regs, .outside, .posted] (fnErrKeys d f) (d.bmeDrop f) := by
  unfold Dev.bmeDrop
  exact Dev.touch_if ((d.touch_hostErr _ f rfl).mono (fun _ h => h) (by simp [fnErrKeys])) (Dev.Touch.refl _ _ _)

theorem Dev.touch_hostFail (d : Dev) (fl : Fld) (f a : Nat) (h : fl.reg = .FN_HOST_ERR) :
    d.Touch [.host, .regs, .outside, .posted, .faults] (fnErrKeys d f) (d.hostFail fl f a) := by
  unfold Dev.hostFail
  have t := d.touch_setReg .FN_HOST_ERR_ADDR (BitVec.ofNat 64 a) [f]
  have t2 := Dev.touch_hostErr (d.setReg .FN_HOST_ERR_ADDR (BitVec.ofNat 64 a) [f]) fl f h
  rw [Dev.linkOf_fn t (by simp; rw [key_FN_HOST_ERR_ADDR]; omega)] at t2
  exact ((t.seq t2).seq (Dev.touch_report _ _)).mono (by simp) (by simp [fnErrKeys])

theorem Dev.touch_hostWrite (d : Dev) (f m a : Nat) (p : Option Nat) (b : List Byte) (apt : Option Nat) :
    d.Touch [.host, .regs, .outside, .posted] (fnErrKeys d f) (d.hostWrite f m a p b apt) := by
  unfold Dev.hostWrite
  exact Dev.touch_if (d.touch_bmeDrop f) ((d.touch_postHost _ _ _ _ _ _).mono (by simp) (by simp))

theorem Dev.touch_linkEvent (d : Dev) (fl : Fld) (l : Nat) (h : fl.reg = .HOST_LINK_STATUS) :
    d.Touch [.regs, .faults] [RegName.HOST_LINK_STATUS.key [l], RegName.FAULT_COALESCED.key []] (d.linkEvent fl l) := by
  unfold Dev.linkEvent
  dsimp only
  have t := d.touch_setFld fl 1 [l]
  rw [h] at t
  exact Dev.touch_if (t.mono (by simp) (by simp)) ((t.seq (Dev.touch_report _ _)).mono (by simp) (fun _ h => h))

theorem Dev.touch_fnEvent (d : Dev) (fl : Fld) (f : Nat) (h : fl.reg = .HOST_FN_STATE) :
    d.Touch [.regs, .faults] [RegName.HOST_FN_STATE.key [f], RegName.FAULT_COALESCED.key []] (d.fnEvent fl f) := by
  unfold Dev.fnEvent
  dsimp only
  have t := d.touch_setFld fl 1 [f]
  rw [h] at t
  exact Dev.touch_if (t.mono (by simp) (by simp)) ((t.seq (Dev.touch_report _ _)).mono (by simp) (fun _ h => h))

theorem Dev.transmit_eq (d : Dev) : d.transmit = { d with posted := [], out := d.out ++ d.posted.map Out.linkWrite } := by
  unfold Dev.transmit
  rw [emit_fold fun w => Out.linkWrite w]

end Sys2Proof.Machine
end

