-- ==== Sys2Proof/Laws/Legal.lean ====
section
/-! SUPPORT. A write of a register in which every field takes a legal value, and searches that pass over a changed key. -/

namespace Sys2Proof.Machine

/-- The field takes a legal value, and no new one that its unit's running bars. -/
def FieldDesc.fine (fd : FieldDesc) (old cand : Word) (st : Bool) (ok : Fld → Word → Bool) : Prop :=
  fd.acc = .rw → (fd.fld.get cand = fd.fld.get old ∨ fd.stopOnly = false ∨ st = true) ∧
    (match fd.legal with | .any => true | .range lo hi => lo ≤ fd.fld.get cand && fd.fld.get cand ≤ hi | .ruled => ok fd.fld cand) = true

theorem FieldDesc.fine_writes (w : Wr) (old cand : Word) (st : Bool) (ok : Fld → Word → Bool) (fd : FieldDesc) (acc : FieldResult)
    (h : FieldDesc.fine fd old cand st ok) :
    (writeField w old cand st ok fd acc).bad204 = acc.bad204 ∧ (writeField w old cand st ok fd acc).bad205 = acc.bad205 := by
  unfold writeField
  dsimp only
  split
  · exact ⟨rfl, rfl⟩
  · cases ha : fd.acc <;> try exact ⟨rfl, rfl⟩
    obtain ⟨h1, h2⟩ := h ha
    rw [if_neg]
    · dsimp only
      cases hl : fd.legal <;> simp only [hl] at h2 ⊢ <;> (first | rw [if_pos h2]; exact ⟨rfl, rfl⟩ | exact ⟨rfl, rfl⟩ | (simp [h2]))
    · simp only [Bool.and_eq_true, Bool.not_eq_true', decide_eq_true_eq, ne_eq]
      rintro ⟨⟨a, b⟩, c⟩
      rcases h1 with h1 | h1 | h1
      · exact a h1
      · rw [h1] at b; cases b
      · rw [h1] at c; cases c

/-- A write of legal values stores a word and records no fault. -/
theorem Dev.regWrite_fine (d : Dev) (r : RegName) (i : List Nat) (w : Wr) (st : Bool) (ok : Fld → Word → Bool)
    (ha : w.accepted r = true)
    (hf : ∀ fd ∈ r.fields, FieldDesc.fine fd (d.reg r i) (w.over (d.reg r i)) st ok) :
    ∃ v, d.regWrite r i w st ok = d.setReg r v i := by
  unfold Dev.regWrite
  dsimp only
  rw [ha]
  have key : ∀ (l : List FieldDesc) (acc : FieldResult),
      (∀ fd ∈ l, FieldDesc.fine fd (d.reg r i) (w.over (d.reg r i)) st ok) →
      (l.foldl (fun a fd => writeField w (d.reg r i) (w.over (d.reg r i)) st ok fd a) acc).bad204 = acc.bad204 ∧
      (l.foldl (fun a fd => writeField w (d.reg r i) (w.over (d.reg r i)) st ok fd a) acc).bad205 = acc.bad205 := by
    intro l
    induction l with
    | nil => intro acc _; exact ⟨rfl, rfl⟩
    | cons fd t ih =>
      intro acc h
      rw [List.foldl_cons]
      have a := ih (writeField w (d.reg r i) (w.over (d.reg r i)) st ok fd acc) (fun x hx => h x (List.mem_cons_of_mem _ hx))
      have b := FieldDesc.fine_writes w (d.reg r i) (w.over (d.reg r i)) st ok fd acc (h fd List.mem_cons_self)
      exact ⟨a.1.trans b.1, a.2.trans b.2⟩
  obtain ⟨k1, k2⟩ := key r.fields { word := d.reg r i } hf
  rw [k1, k2]
  exact ⟨_, rfl⟩

theorem Dev.touch_regWrite_fine (d : Dev) (r : RegName) (i : List Nat) (w : Wr) (st : Bool) (ok : Fld → Word → Bool)
    (ha : w.accepted r = true)
    (hf : ∀ fd ∈ r.fields, FieldDesc.fine fd (d.reg r i) (w.over (d.reg r i)) st ok) :
    d.Touch [.regs] [r.key i] (d.regWrite r i w st ok) := by
  obtain ⟨v, e⟩ := d.regWrite_fine r i w st ok ha hf
  rw [e]
  exact Dev.touch_setReg _ _ _ _

/-- A field that takes a legal value holds it. -/
theorem FieldDesc.takes_fine (fd : FieldDesc) (m h : Nat) (v old : Word) (st : Bool) (ok : Fld → Word → Bool) (ha : fd.acc = .rw)
    (hf : FieldDesc.fine fd old v st ok) (hm : fd.fld.mask ≠ 0) (hw : fd.fld.lo + fd.fld.width ≤ 64) :
    fd.takes ⟨m, 8, h, v⟩ old st ok = fd.fld.get v := by
  obtain ⟨h1, h2⟩ := hf ha
  unfold FieldDesc.takes writeField
  simp only [Wr.mask_whole, Wr.over_whole, BitVec.and_allOnes, if_neg hm, ha]
  rw [if_neg]
  · have fin : fd.fld.get (fd.fld.set old (fd.fld.get v)) = fd.fld.get v := by
      rw [Fld.get_set_self _ _ _ hw]
      exact Nat.mod_eq_of_lt (Nat.mod_lt _ (Nat.two_pow_pos _))
    cases hl : fd.legal <;> simp only [hl] at h2 ⊢ <;> (first | rw [if_pos h2]; exact fin | exact fin | (simp [h2]; exact fin))
  · simp only [Bool.and_eq_true, Bool.not_eq_true', decide_eq_true_eq, ne_eq]
    rintro ⟨⟨a, b⟩, c⟩
    rcases h1 with h1 | h1 | h1
    · exact a h1
    · rw [h1] at b; cases b
    · rw [h1] at c; cases c

/-- A search that passes over one key does not see a change at it. -/
theorem tput_find {α : Type} (t : Tbl α) (k : Nat) (v : α) (p : Nat × α → Bool) (hp : ∀ x, p (k, x) = false) :
    (tput t k v).find? p = t.find? p := by
  induction t with
  | nil => unfold tput; simp [hp]
  | cons e t ih =>
    obtain ⟨a, b⟩ := e
    unfold tput
    split
    · next h => subst h; simp [List.find?_cons, hp]
    · split
      · simp [List.find?_cons, hp]
      · simp only [List.find?_cons, ih]
theorem tdel_find {α : Type} (t : Tbl α) (k : Nat) (p : Nat × α → Bool) (hp : ∀ x, p (k, x) = false) :
    (tdel t k).find? p = t.find? p := by
  induction t with
  | nil => rfl
  | cons e t ih =>
    obtain ⟨a, b⟩ := e
    unfold tdel
    split
    · next h => subst h; simp [List.find?_cons, hp, ih]
    · simp only [List.find?_cons, ih]


theorem tset_find {α : Type} [DecidableEq α] (z : α) (t : Tbl α) (k : Nat) (v : α) (p : Nat × α → Bool) (hp : ∀ x, p (k, x) = false) :
    (tset z t k v).find? p = t.find? p := by
  unfold tset
  split
  · exact tdel_find t k p hp
  · exact tput_find t k v p hp

end Sys2Proof.Machine
end

