-- ==== Sys2Proof/WellFormed.lean ====
section
/-!
DEFINITION. Well-formed commands: the numbers that name units lie in the ranges the spec gives them (R1, R6, R17, R147,
R255, R297, R595, R624, R635, R695, R712, R829, R838). An ill-formed command names no unit, and the queue should hold
none; a meaning given one changes nothing, or changes nothing that a register or an interface shows.
-/

namespace Sys2Proof

/-- Who sends a command: a master by its owner tag (R624), nobody (0xFFFF), or the host of a function. -/
def masterOk (m : Nat) : Bool := m < 0x8000 || m = 0xFFFF || (0x10000 ≤ m && m < 0x10000 + 4352)

/-- The command names units that exist in the larger part. -/
def Instr.wellFormed : Instr → Bool
  | .powerOnReset => true
  | .firstAvsRequest => true
  | .stripTrainingStart => true
  | .hbmTrainingDone => true
  | .bootMailboxOpen => true
  | .powerLoss _ => true
  | .railOutOfRange _ => true
  | .refclkLoss => true
  | .registerWrite master _ _ _ => masterOk master
  | .snapCaptureRead master _ _ => masterOk master
  | .rcRead master _ _ => masterOk master
  | .placeWrite master _ half _ => masterOk master && half < 2
  | .paceInterval _ _ => true
  | .avsReport _ => true
  | .avsRequestFail => true
  | .belowFloorFault => true
  | .trdQuietExpire => true
  | .timeAdjWrite master _ _ => masterOk master
  | .slewComplete => true
  | .stepPendClear master _ half _ => masterOk master && half < 2
  | .timeRefWrite master _ half _ => masterOk master && half < 2
  | .refTimeout => true
  | .ppsInEdge => true
  | .ppsLost => true
  | .ppsOutPulse => true
  | .holdoverQualityStep => true
  | .add k _ _ _ => k < 512
  | .sub k _ _ _ => k < 512
  | .and k _ _ _ => k < 512
  | .or k _ _ _ => k < 512
  | .xor k _ _ _ => k < 512
  | .andn k _ _ _ => k < 512
  | .shl k _ _ _ => k < 512
  | .shr k _ _ _ => k < 512
  | .sar k _ _ _ => k < 512
  | .ror k _ _ _ => k < 512
  | .mul k _ _ _ => k < 512
  | .mulhu k _ _ _ => k < 512
  | .divu k _ _ _ => k < 512
  | .remu k _ _ _ => k < 512
  | .slt k _ _ _ => k < 512
  | .sltu k _ _ _ => k < 512
  | .minu k _ _ _ => k < 512
  | .maxu k _ _ _ => k < 512
  | .clz k _ _ _ => k < 512
  | .ctz k _ _ _ => k < 512
  | .popc k _ _ _ => k < 512
  | .bswap k _ _ _ => k < 512
  | .addi k _ _ _ => k < 512
  | .andi k _ _ _ => k < 512
  | .ori k _ _ _ => k < 512
  | .xori k _ _ _ => k < 512
  | .shli k _ _ _ => k < 512
  | .shri k _ _ _ => k < 512
  | .sari k _ _ _ => k < 512
  | .slti k _ _ _ => k < 512
  | .sltiu k _ _ _ => k < 512
  | .movw k _ _ _ _ _ => k < 512
  | .addpc k _ _ => k < 512
  | .ldb k _ _ _ => k < 512
  | .ldh k _ _ _ => k < 512
  | .ldw k _ _ _ => k < 512
  | .ldd k _ _ _ => k < 512
  | .ldbs k _ _ _ => k < 512
  | .ldhs k _ _ _ => k < 512
  | .ldws k _ _ _ => k < 512
  | .stb k _ _ _ => k < 512
  | .sth k _ _ _ => k < 512
  | .stw k _ _ _ => k < 512
  | .std k _ _ _ => k < 512
  | .wld k _ _ _ => k < 512
  | .wst k _ _ _ => k < 512
  | .loadDataReturn k _ _ => k < 512
  | .hld k _ _ _ _ _ _ => k < 512
  | .hst k _ _ _ _ _ _ => k < 512
  | .aadd k _ _ _ => k < 512
  | .aand k _ _ _ => k < 512
  | .aor k _ _ _ => k < 512
  | .axor k _ _ _ => k < 512
  | .aswp k _ _ _ => k < 512
  | .aminu k _ _ _ => k < 512
  | .amaxu k _ _ _ => k < 512
  | .acas k _ _ _ => k < 512
  | .fence k _ _ _ _ => k < 512
  | .fenceRelease k => k < 512
  | .beq k _ _ _ _ => k < 512
  | .bne k _ _ _ _ => k < 512
  | .blt k _ _ _ _ => k < 512
  | .bge k _ _ _ _ => k < 512
  | .bltu k _ _ _ _ => k < 512
  | .bgeu k _ _ _ _ => k < 512
  | .branchResolve k => k < 512
  | .jal k _ _ => k < 512
  | .jalr k _ _ _ => k < 512
  | .mfs k _ _ _ _ => k < 512
  | .mts k _ _ _ _ => k < 512
  | .eret k _ _ _ => k < 512
  | .denter k _ _ _ => k < 512
  | .dexit k _ _ _ => k < 512
  | .halt k _ _ _ => k < 512
  | .yield k _ _ _ => k < 512
  | .iflush k _ _ _ => k < 512
  | .wcall k _ _ _ => k < 512
  | .brk k _ _ _ => k < 512
  | .staleException k => k < 512
  | .qput k _ _ _ _ => k < 512
  | .qget k _ _ _ _ => k < 512
  | .qlen k _ _ _ _ => k < 512
  | .wait k _ _ _ _ => k < 512
  | .queueWaitResume k => k < 512
  | .waitDeadline k => k < 512
  | .wxor k _ _ _ => k < 512
  | .wmov k _ _ _ => k < 512
  | .wzero k _ _ _ => k < 512
  | .gfmac k _ _ _ => k < 512
  | .gfmul k _ _ _ => k < 512
  | .wget k _ _ _ => k < 512
  | .wput k _ _ _ => k < 512
  | .gfinv k _ _ _ => k < 512
  | .gfmuls k _ _ _ => k < 512
  | .hs256i k _ _ _ => k < 512
  | .hs256 k _ _ _ => k < 512
  | .keccak k _ _ _ => k < 512
  | .wcmp k _ _ _ => k < 512
  | .strandRun master k _ _ => masterOk master && k < 512
  | .strandStop master k _ _ => masterOk master && k < 512
  | .strandStep master k _ _ => masterOk master && k < 512
  | .strandStopped k => k < 512
  | .tineFail t _ => t < 128
  | .specClrDevice master _ => masterOk master
  | .specClrTines master _ => masterOk master
  | .sqDoorbell f n _ => f < 4352 && n < 65536
  | .ringFetchReturn g _ => g < 65536
  | .ringFetchFail g _ => g < 65536
  | .drillGapExpire g => g < 65536
  | .drillDispatch q k => q < 64 && k < 512
  | .nop r i => r < 16384 && i < 64
  | .code r i => r < 16384 && i < 64
  | .run r i k _ _ => r < 16384 && i < 64 && k < 512
  | .sowOpen r i => r < 16384 && i < 64
  | .sowWrite r i _ _ => r < 16384 && i < 64
  | .sowSeal r i _ => r < 16384 && i < 64
  | .sowDrop r i => r < 16384 && i < 64
  | .gleanRead r i _ _ => r < 16384 && i < 64
  | .objStat r i _ => r < 16384 && i < 64
  | .ledgerRead r i _ => r < 16384 && i < 64
  | .fixity r i _ _ _ => r < 16384 && i < 64
  | .repair r i _ _ => r < 16384 && i < 64
  | .selftest r i _ _ _ _ => r < 16384 && i < 64
  | .selftestResume r _ => r < 16384
  | .abort r => r < 16384
  | .completionMessage => true
  | .cqEntryWrite g => g < 65536
  | .cqDoorbell f n _ => f < 4352 && n < 65536
  | .cqCoalTimer g => g < 65536
  | .sqRun master g _ half _ => masterOk master && g < 65536 && half < 2
  | .sqStop master g _ half _ => masterOk master && g < 65536 && half < 2
  | .cqRun master g _ half _ => masterOk master && g < 65536 && half < 2
  | .restartSkip master g _ => masterOk master && g < 65536
  | .restartRetry master g _ => masterOk master && g < 65536
  | .restartResume master g _ => masterOk master && g < 65536
  | .errlogAckWrite f _ half _ => f < 4352 && half < 2
  | .perstAssert l _ => l < 64
  | .perstDeassert l => l < 64
  | .hotReset l => l < 64
  | .hostLinkDown l _ => l < 64
  | .hostLinkUp l state _ lanes => l < 64 && 2 ≤ state && state ≤ 5 && 1 ≤ lanes && lanes ≤ 16
  | .flr f => f < 4352
  | .flrSilenced f => f < 4352
  | .flrComplete f => f < 4352
  | .bmeClear f => f < 4352
  | .bmeSet f => f < 4352
  | .d3hotEnter f => f < 4352
  | .d0Return f => f < 4352
  | .vfEnableSet p => p < 256
  | .vfEnableClear p => p < 256
  | .numvfsWrite p n => p < 256 && n < 65536
  | .bufSlotWrite f _ half _ => f < 4352 && half < 2
  | .bufAttrCommit f _ half _ => f < 4352 && half < 2
  | .barHoleAccess f => f < 4352
  | .atsInvalidate f _ _ _ _ => f < 4352
  | .atsInvalidateDone => true
  | .hostCplTimeout _ _ _ _ => true
  | .hostCplError _ _ _ _ _ => true
  | .msixUnmask f _ => f < 4352
  | .freeze master f _ half _ => masterOk master && f < 4352 && half < 2
  | .thaw master f _ half _ => masterOk master && f < 4352 && half < 2
  | .save master _ half _ _ => masterOk master && half < 2
  | .restore master _ half _ => masterOk master && half < 2
  | .mbHostSend f _ _ => f < 4352
  | .mbNoticeDeliver => true
  | .mbRaise master _ _ => masterOk master
  | .mbHostFree f _ => f < 4352
  | .grainBufferGrant _ => true
  | .sowEpochWrite master _ half _ => masterOk master && half < 2
  | .sowNextWrite master _ half _ => masterOk master && half < 2
  | .dryOpenResume => true
  | .profileWrite master n _ half _ => masterOk master && n < 16 && half < 2
  | .sessionExpire f _ => f < 4352
  | .frontierWriteResume r i _ _ => r < 16384 && i < 64
  | .peerGrainReceive node _ _ data => node < 16777216 && data.length ≤ 65536
  | .peerDurableReport node _ _ _ _ => node < 16777216
  | .sealFullRedundancy f _ _ => f < 4352
  | .ledgerRecordAppend _ _ _ => true
  | .ledgerHomeReport _ _ _ => true
  | .init p u => p < 4 && u < 4
  | .fold p u => p < 4 && u < 4
  | .close p u => p < 4 && u < 4
  | .hash p u => p < 4 && u < 4
  | .tallyAppend p u => p < 4 && u < 4
  | .tallyFinal p u => p < 4 && u < 4
  | .verify p u => p < 4 && u < 4
  | .recon p u => p < 4 && u < 4
  | .tsbLockFree p u => p < 4 && u < 4
  | .foldChainUnitReady p u => p < 4 && u < 4
  | .foldUnitFail p u => p < 4 && u < 4
  | .foldClr master p u _ _ => masterOk master && p < 4 && u < 4
  | .derive => true
  | .mac => true
  | .macCheck => true
  | .exportEk => true
  | .provision => true
  | .loadRoot => true
  | .clearRoot => true
  | .flush => true
  | .vaultClr master _ _ => masterOk master
  | .xtsEnc p _ => p < 4
  | .xtsDec p _ => p < 4
  | .aesEnc p _ => p < 4
  | .aesDec p _ => p < 4
  | .g2Enc p _ => p < 4
  | .g2Dec p _ => p < 4
  | .loadPlain p _ => p < 4
  | .slotClear p => p < 4
  | .discard p => p < 4
  | .chainUnitWritten p _ => p < 4
  | .releaseEntryFree p _ => p < 4
  | .cipherCoreFail p _ => p < 4
  | .cipherClr master p _ _ => masterOk master && p < 4
  | .gleanFetchArrive r _ pos _ => r < 16384 && pos < 84
  | .gleanFetchTimeout r _ pos => r < 16384 && pos < 84
  | .hedgeThreshold r _ pos => r < 16384 && pos < 84
  | .survivorArrive r _ pos _ => r < 16384 && pos < 84
  | .repairLockGrant _ _ _ _ => true
  | .oldRowFree => true
  | .harrowReadIssue t _ => t < 4096
  | .harrowReadDone t _ _ _ _ _ => t < 4096
  | .harrowStateRecord t => t < 4096
  | .ledgerCheck _ => true
  | .gleanClr master _ _ => masterOk master
  | .harrowClr master _ _ => masterOk master
  | .storagePortUp n _ lanes _ => n < 192 && 1 ≤ lanes && lanes ≤ 16
  | .storagePortDown n _ => n < 192
  | .portHotReset master n _ half _ => masterOk master && n < 192 && half < 2
  | .cfgRequest master _ half _ => masterOk master && half < 2
  | .cfgComplete _ _ => true
  | .cfgTimeout => true
  | .inboundRequest n _ _ _ _ => n < 192
  | .cqWake r _ => r < 65536
  | .nvmeTimeout r _ _ => r < 65536
  | .storageCplTimeout _ _ _ _ => true
  | .qpStop master r _ half _ => masterOk master && r < 65536 && half < 2
  | .dmaGo master p c _ half _ => masterOk master && p < 4 && c < 64 && half < 2
  | .dmaPromote p c => p < 4 && c < 64
  | .copy p c _ => p < 4 && c < 64
  | .nvme p c _ => p < 4 && c < 64
  | .dmaBusError p c _ _ => p < 4 && c < 64
  | .dmaRetry master p c _ => masterOk master && p < 4 && c < 64
  | .dmaDrop master p c _ => masterOk master && p < 4 && c < 64
  | .bufmAlloc master p _ => masterOk master && p < 4
  | .bufmFree master p _ _ => masterOk master && p < 4
  | .bufmGive master p _ _ => masterOk master && p < 4
  | .bufmReclaim master p _ _ => masterOk master && p < 4
  | .bufmDisable master p _ half _ => masterOk master && p < 4 && half < 2
  | .netLinkUp n => n < 320
  | .netLinkDown n _ _ _ => n < 320
  | .portStop master n _ half _ _ _ => masterOk master && n < 320 && half < 2
  | .rxFrame n _ _ _ _ _ => n < 320
  | .pfcRefresh n => n < 320
  | .pfcReceive n _ _ => n < 320
  | .pfcPauseExpire n i => n < 320 && i < 8
  | .parseCellRun p => p < 4
  | .parseSwap master p _ _ => masterOk master && p < 4
  | .clsSwap master p _ _ => masterOk master && p < 4
  | .ruleValidWrite master p b r _ => masterOk master && p < 4 && b < 2 && r < 16384
  | .dqFrameDeliver p q => p < 4 && q < 256
  | .frameAdmit n i => n < 320 && i < 8
  | .frameTransmit n => n < 320
  | .frameTxDone n => n < 320
  | .meshAnnounce n => n < 320
  | .meshAnnounceRx n _ node => n < 320 && node < 16777216
  | .bridgeAge => true
  | .routeHoldoffExpire n => n < 320
  | .portFlush master n _ half _ => masterOk master && n < 320 && half < 2
  | .tableRead master t i _ => masterOk master && 1 ≤ t && t ≤ 6 && i < 16777216
  | .tableWrite master t i => masterOk master && 1 ≤ t && t ≤ 6 && i < 16777216
  | .tableInsert master t => masterOk master && 1 ≤ t && t ≤ 6
  | .tableDelete master t => masterOk master && 1 ≤ t && t ≤ 6
  | .tableLookup master t _ => masterOk master && 1 ≤ t && t ≤ 6
  | .plcStart master _ half _ => masterOk master && half < 2
  | .swClr master _ _ => masterOk master
  | .policerConfig master p k _ half _ => masterOk master && p < 4 && k < 16384 && half < 2
  | .resvAdmit master cls _ _ => masterOk master && cls < 8
  | .resvRelease master slot => masterOk master && slot < 256
  | .queueSample n => n < 320
  | .trdWrite p => p < 4
  | .trdRead p => p < 4
  | .trdSend p => p < 4
  | .trdPacketRx p _ => p < 4
  | .ackTransmit node splot dplot cls => node < 16777216 && splot < 4 && dplot < 4 && cls < 8
  | .ack p => p < 4
  | .nakSeq p => p < 4
  | .nakSync p => p < 4
  | .nakAccess p => p < 4
  | .nakHost p => p < 4
  | .nakRnr p => p < 4
  | .nakMsg p => p < 4
  | .rnrDelayExpire node splot dplot cls => node < 16777216 && splot < 4 && dplot < 4 && cls < 8
  | .retxTimeout node splot dplot cls _ => node < 16777216 && splot < 4 && dplot < 4 && cls < 8
  | .swcWaitResume p => p < 4
  | .trdClr master _ _ => masterOk master
  | .faultReport _ => true
  | .faultQueueDrain _ => true
  | .coalesceWindowClose => true
  | .fatalDetect _ _ => true
  | .hbmPcFail stack _ _ => stack < 4
  | .faultRingAckWrite master _ half _ => masterOk master && half < 2
  | .faultClr master _ _ => masterOk master
  | .faultForce master _ _ => masterOk master
  | .faultFatalClr master _ _ => masterOk master
  | .faultInject master _ half _ => masterOk master && half < 2
  | .bootPush _ _ => true
  | .bootRelease => true
  | .bootFlash => true
  | .pushWaitExpire _ _ => true
  | .pushStall => true
  | .zencenHello _ _ => true
  | .zencenPush _ _ => true
  | .zencenRelease _ _ => true
  | .zencenFlash _ _ => true
  | .zencenStatus _ _ => true
  | .eraseSlot master slot _ => masterOk master && slot < 2
  | .flashProgram master slot _ _ _ => masterOk master && slot < 2
  | .flashVerify master slot _ => masterOk master && slot < 2
  | .activate master slot _ => masterOk master && slot < 2
  | .confirm master _ _ _ => masterOk master
  | .flashRead master _ _ _ => masterOk master
  | .eraseRaw master _ _ => masterOk master
  | .programRaw master _ _ _ => masterOk master
  | .programKey master slot _ => masterOk master && slot < 8
  | .revoke master slot _ => masterOk master && slot < 8
  | .warmRestart master _ _ => masterOk master
  | .coldBoot master _ _ => masterOk master
  | .deepSleep master _ _ _ => masterOk master
  | .wake _ _ => true
  | .wakeTimer => true
  | .powerGateRequest master g _ half _ => masterOk master && g < 55 && half < 2
  | .gateDrainEnd g => g < 55
  | .powerGateRelease master g _ half _ => masterOk master && g < 55 && half < 2
  | .gateWakeDone g => g < 55
  | .gpioConfig master i _ half _ => masterOk master && i < 32 && half < 2
  | .gpioParkEnd i => i < 32
  | .smbIdent => true
  | .smbHealth => true
  | .smbWarm _ => true
  | .smbCold _ => true
  | .smbWake _ => true
  | .slewQualityStep => true
  | .refclkReturn => true
  | .petHoldExpire node splot dplot cls => node < 16777216 && splot < 4 && dplot < 4 && cls < 8
  | .gateDrainCutoff g => g < 55
  | .dmaChannelFail p c => p < 4 && c < 64
  | .flashSlotLoaded _ _ => true
  | .storageErrorMessage n => n < 192
  | .hostConfigWrite f _ _ => f < 4352
  | .testModeChange _ => true

end Sys2Proof
end

