-- ==== Sys2Proof/Tests/Slice0.lean ====
section
/-!
SUPPORT. Tests: the well-formedness checks, and for every statement with hypotheses states and operands that meet them.
The states are State.reset with the few units set that a hypothesis names.
-/

open Sys2Proof Sys2Proof.Machine

namespace Sys2Proof.Tests

-- Tests are checked one after another: each that waits for the kernel would hold a thread.
set_option Elab.async false

/-- A state whose units are `d`. -/
def st (d : Dev) : State := { dev := d }

/-- Units with register fields set. -/
def flds (l : List (Fld × List Nat × Nat)) (d : Dev := {}) : Dev := l.foldl (fun d e => d.setFld e.1 e.2.2 e.2.1) d

/-! ### Well-formedness: one ill-formed command for each check -/

/-- Commands that name no unit: their masters, functions, links, strands, rings, plots, ports and so on do not exist. -/
theorem test_ill_formed_refused :
    ([.registerWrite 0x8000 0 8 0, .placeWrite 0x6000 8 2 0, .add 512 1 2 3, .sqDoorbell 4352 0 0, .ringFetchReturn 65536 [],
      .drillDispatch 64 0, .nop 16384 0, .nop 0 64, .perstAssert 64 false, .hostLinkUp 0 6 6 16, .vfEnableSet 256, .numvfsWrite 0 65536,
      .profileWrite 0x6000 16 8 0 0, .peerGrainReceive 16777216 0 0 [], .init 4 0, .init 0 4, .gleanFetchTimeout 0 0 84,
      .harrowStateRecord 4096, .storagePortDown 192 [], .dmaPromote 0 64, .netLinkUp 320, .pfcPauseExpire 0 8,
      .ruleValidWrite 0x6000 0 2 0 true, .ruleValidWrite 0x6000 0 0 16384 true, .dqFrameDeliver 0 256, .tableRead 0x6000 7 0 true,
      .resvAdmit 0x6000 8 0 0, .resvRelease 0x6000 256, .hbmPcFail 4 0 [], .eraseSlot 0x6000 2 false,
      .programKey 0x6000 8 true, .gateDrainEnd 55, .gpioParkEnd 32, .tineFail 128 [], .policerConfig 0x6000 0 16384 8 0 0] :
      List Instr).map Instr.wellFormed = List.replicate 35 false := by decide

/-- The same commands at the last unit that exists. -/
theorem test_well_formed_accepted :
    ([.registerWrite 0x7FFF 0 8 0, .placeWrite 0x6000 8 1 0, .add 511 1 2 3, .sqDoorbell 4351 0 0, .ringFetchReturn 65535 [],
      .drillDispatch 63 0, .nop 16383 63, .perstAssert 63 true, .hostLinkUp 0 5 6 16, .vfEnableSet 255, .init 3 3,
      .harrowStateRecord 4095, .storagePortDown 191 [], .netLinkUp 319, .gateDrainEnd 54, .gpioParkEnd 31] :
      List Instr).map Instr.wellFormed = List.replicate 16 true := by decide

/-! ### The global statements -/

theorem witness_step_front : (({ pending := [.tineFail 1 []] } : State)).pending = .tineFail 1 [] :: [] := rfl

theorem witness_idle_step : State.reset.pending = [] ∧ State.reset.Idle ∧ State.reset.dev.pw.on = true ∧
    State.reset.dev.clk.refclk = true ∧ State.reset.dev.timeRate = 0 := ⟨rfl, rfl, rfl, rfl, by decide⟩

/-- Supplies are lost. -/
def sOff : State := st { pw := { on := false } }

theorem witness_idle_step_off : sOff.pending = [] ∧ sOff.Idle ∧ sOff.dev.pw.on = false := ⟨rfl, rfl, rfl⟩

theorem witness_need_full : Need.of (.add 0 1 2 3) = .full ∧ (st { flt := { safe := true } }).dev.flt.safe = true := ⟨rfl, rfl⟩

theorem witness_need_core : Need.of (.flr 0) = .core ∧ (st { pw := { asleep := true } }).dev.pw.asleep = true := ⟨rfl, rfl⟩

theorem witness_need_supplies : Need.of .smbIdent = .supplies ∧ sOff.dev.pw.on = false := ⟨rfl, rfl⟩

theorem witness_invariant : State.reset.Inv := ⟨rfl, rfl⟩

/-! ### Power and start-up -/

/-- Forty milliseconds after supplies became valid, no step of start-up done; port 0 is a storage port that is enabled. -/
def sStart : State := st (flds [(HOST_PF_PLAN.PRESENT, [0], 1), (STORAGE_PORT_PLAN.PRESENT, [0], 1),
  (STORAGE_PORT_CTL.ENABLE, [0], 1)] { clk := { mono := 40000000 } })

theorem witness_start_off : sOff.Idle ∧ sOff.dev.pw.on = false := ⟨rfl, rfl⟩

theorem witness_start_up : sStart.Live ∧ sStart.dev.pw.avs = false ∧ sStart.dev.pw.start + 1000000 ≤ sStart.dev.clk.mono ∧
    sStart.dev.pw.strips = false ∧ sStart.dev.pw.start + 5000000 ≤ sStart.dev.clk.mono ∧
    sStart.dev.pw.hbm = false ∧ sStart.dev.pw.start + 40000000 ≤ sStart.dev.clk.mono :=
  ⟨⟨by decide, rfl⟩, by decide⟩

theorem witness_start_up_units : sStart.dev.flag HOST_PF_PLAN.PRESENT [0] = true ∧
    sStart.dev.flag HOST_LINK_PLAN.PRESENT [0] = true ∧ sStart.dev.clk.refclk = true ∧
    sStart.dev.flag HOST_LINK_STATUS.PERST [0] = false ∧ sStart.dev.hasPort 0 = true ∧
    sStart.dev.flag STORAGE_PORT_CTL.ENABLE [0] = true ∧ sStart.dev.gateState 0x34 = 0 ∧ sStart.dev.netLane 192 = true ∧
    sStart.dev.fld NET_PORT_CTL.MODE [192] ≠ 0 ∧ sStart.dev.flag NET_PORT_CTL.RUN [192] = true ∧ sStart.dev.gateState 0x33 = 0 ∧
    sStart.dev.fld NET_PORT_STATUS.STATE [192] = 0 := by decide +kernel

theorem witness_power_loss : State.reset.On := ⟨rfl, rfl⟩

theorem witness_refclk_loss : State.reset.Idle ∧ State.reset.dev.clk.refclk = true ∧
    (st { pw := { asleep := true } }).dev.awake = false := ⟨rfl, rfl, rfl⟩

/-- REFCLK has stopped, before and after the strips left electrical idle. -/
def sNoRef : State := st { clk := { refclk := false } }
def sNoRefUp : State := st { clk := { refclk := false }, pw := { strips := true } }

theorem witness_refclk_return : sNoRef.Idle ∧ sNoRef.dev.clk.refclk = false ∧ (sNoRef.dev.awake && sNoRef.dev.pw.strips) = false ∧
    sNoRefUp.dev.awake = true ∧ sNoRefUp.dev.pw.strips = true := by refine ⟨rfl, ?_⟩; decide

/-! ### Pace and time -/

/-- One interval after the last request: no failure, two failures with a voltage acknowledged, three failures. -/
def sPace (n : Nat) : State := st { clk := { mono := 100000 }, pace := { fails := n, acked := 255 } }

theorem witness_pace : (sPace 0).Live ∧ (sPace 0).dev.pace.lastInterval + 100000 ≤ (sPace 0).dev.clk.mono ∧
    (sPace 0).dev.pace.fails ≠ 3 ∧ (sPace 3).dev.pace.fails = 3 ∧ (sPace 1).dev.pace.fails < 2 ∧
    (sPace 1).dev.pace.lastAttempt + 100000 ≤ (sPace 1).dev.clk.mono ∧ (sPace 2).dev.pace.fails = 2 ∧
    (sPace 2).dev.pace.acked < 256 := ⟨⟨by decide, rfl⟩, by decide⟩

/-- A deadline is pending below the floor, 10 ms after the last TRD packet. -/
def sDeadline : State := st (flds [(DEVICE_PACE_STATUS.BELOW_FLOOR, [], 1), (DEVICE_PACE_DEADLINE.TRD, [], 1)]
  { clk := { mono := 10000000 } })

theorem witness_deadline : sDeadline.Live ∧ sDeadline.dev.reg .DEVICE_PACE_DEADLINE ≠ 0 ∧
    sDeadline.dev.flag DEVICE_PACE_STATUS.BELOW_FLOOR = true ∧ sDeadline.dev.pace.lastBelow + 1000000 ≤ sDeadline.dev.clk.mono ∧
    sDeadline.dev.flag DEVICE_PACE_DEADLINE.TRD = true ∧ sDeadline.dev.trdBusy = false ∧
    sDeadline.dev.pace.lastTrd + 10000000 ≤ sDeadline.dev.clk.mono := ⟨⟨by decide, rfl⟩, by decide⟩

/-- The time of day is set and has locked, and an offset of 1 ns is still to be slewed out, or none. -/
def sSlew (e : Int) : State := st (flds [(TIME_REF.BOUND_NS, [], 500)] { clk := { set := true, everLocked := true, slew := e } })

theorem witness_time_step : State.reset.Awake ∧ State.reset.dev.clk.set = false ∧ (sSlew 0).dev.clk.set = true ∧
    ((1000000000 : Word).toInt).natAbs ≤ 1000000000 ∧ 1000000000 < ((1000000001 : Word).toInt).natAbs ∧
    (0x100 : Word).getLsbD 8 = true := ⟨⟨by decide, rfl⟩, by decide⟩

theorem witness_slew : (sSlew 1000000).On ∧ (sSlew 1000000).dev.clk.refclk = true ∧ (sSlew 1000000).dev.clk.slew ≠ 0 ∧
    (st { clk := { refclk := false, slew := 1 } }).dev.clk.refclk = false := ⟨⟨rfl, rfl⟩, by decide⟩

theorem witness_quality : (sSlew 0).On ∧ qualityBounds[0]? = some 1000 ∧ (sSlew 0).dev.clk.refclk = true ∧
    (sSlew 0).dev.clk.set = true ∧ (sSlew 0).dev.clk.everLocked = true ∧ (sSlew 0).dev.clk.locked = false ∧
    (sSlew 0).dev.quality = 0x10 + 0 ∧ (sSlew 0).dev.clk.lastRef ≤ (sSlew 0).dev.clk.mono ∧
    (sSlew 600000000).dev.clk.slew ≠ 0 ∧ (sSlew 600000000).dev.quality = 0x11 + 0 ∧
    (sSlew 600000000).dev.fld TIME_REF.BOUND_NS ≤ 1000 := ⟨⟨rfl, rfl⟩, by decide⟩

/-- A PTP reference, and a 1PPS one, locked 1.5 s ago, at a second boundary. -/
def sRef (src : Nat) : State := st (flds [(TIME_CTL.SRC, [], src), (TIME_CTL.REF_TIMEOUT, [], 15)]
  { clk := { mono := 1500000000, tod := 1000000000000000, locked := true, set := true } })

theorem witness_reference : (sRef 1).Awake ∧ (sRef 1).On ∧ (sRef 1).dev.fld TIME_CTL.SRC = 1 ∧ (sRef 1).dev.clk.locked = true ∧
    (sRef 1).dev.clk.lastRef + max 1 ((sRef 1).dev.fld TIME_CTL.REF_TIMEOUT) * 100000000 ≤ (sRef 1).dev.clk.mono ∧
    (sRef 2).dev.fld TIME_CTL.SRC = 2 ∧ (sRef 2).dev.clk.lastRef + 1500000000 ≤ (sRef 2).dev.clk.mono ∧
    (sRef 2).dev.clk.lastPps < (sRef 2).dev.clk.tod / 1000000000000000 ∧
    State.reset.dev.clk.tod / 1000000000000000 ≤ State.reset.dev.clk.lastPps ∧ State.reset.dev.clk.refclk = true ∧
    State.reset.dev.clk.slew = 0 := ⟨⟨by decide, rfl⟩, ⟨rfl, rfl⟩, by decide⟩

/-! ### Register access -/

theorem witness_registers : State.reset.Awake ∧ (0xFFFF : Nat) < 0x10000 ∧ hasCapture 0x6000 = true ∧ (0x3FFFFFFF : Nat) < 0x40000000 ∧
    ¬ (((8 : Nat) = 4 ∨ (8 : Nat) = 8) ∧ 0x3FFFFFFF % 8 = 0) ∧ ¬ (((3 : Nat) = 4 ∨ (3 : Nat) = 8) ∧ 0 % 3 = 0) :=
  ⟨⟨by decide, rfl⟩, by decide⟩

theorem witness_place : State.reset.dev.part = .t512 ∧ State.reset.dev.flag DEVICE_PLACE.LOCK = false ∧
    (flds [(DEVICE_PLACE.LOCK, [], 1)]).flag DEVICE_PLACE.LOCK = true ∧
    (flds [(DEVICE_SOW_EPOCH.VALID, [], 1)]).flag DEVICE_SOW_EPOCH.VALID = true ∧
    (flds [(DEVICE_SOW_EPOCH.VALID, [], 1)]).flag DEVICE_PLACE.LOCK = false ∧
    State.reset.dev.flag DEVICE_SOW_EPOCH.VALID = false := by decide

theorem witness_capture : (tget {} (st { caps := [(0x6000, { head := RegName.TIME_NOW_SEC.key [], words := [1, 2] })] }).dev.caps
      0x6000 : Capture).head = RegName.TIME_NOW_SEC.key [] ∧
    (tget {} State.reset.dev.caps 0x6000 : Capture).head ≠ RegName.TIME_NOW_SEC.key [] ∧
    locate (RegName.SCHED_QTEL_MAX.key [319, 15]) = some (.SCHED_QTEL_MAX, [319, 15]) := by decide

/-! ### Rings -/

/-- 64 bytes, 0 but for the listed ones, which rise. -/
def ent (l : List (Nat × Nat)) : List Byte := (List.range 64).map fun i => BitVec.ofNat 8 (tget 0 l i)

/-- Function 0 is up with one submission and one completion ring, numbers 5 and 6, both running; other fields, rings and drills
as given. -/
def dRing (fs : List (Fld × List Nat × Nat)) (q : Sq) (c : Cq) (r : RingSt) (n : Nat := 0) : Dev :=
  flds ([(HOST_FN_STATE.ENABLED, [0], 1), (HOST_FN_STATE.MSE, [0], 1), (HOST_FN_STATE.BME, [0], 1),
    (HOST_LINK_STATUS.STATE, [0], 2), (BOOT_STATUS.PHASE, [], 6), (TENANT_LIMITS.SQ_MAX, [0], 1), (TENANT_LIMITS.CQ_MAX, [0], 1),
    (RINGS_SQ_BIND.VALID, [5], 1), (RINGS_CQ_BIND.VALID, [6], 1)] ++ fs)
    { ring := { r with sqs := [(5, q)], cqs := [(6, c)] }, clk := { mono := n } }

/-- The ring has its tail doorbell rung: before it, at the fetch in flight, and after OWN was seen set. -/
def sBell (x : Option Fetch) : State := st (dRing [] { state := 1, fetch := x } {} {})
def sBell' (h t : Nat) (x : Option Fetch) : State := st (dRing [] { state := 1, fetch := x, head := h, tail := t } {} {})

theorem witness_doorbell : (sBell none).Live ∧ (sBell none).dev.barOk 0 = true ∧ 0 < (sBell none).dev.sqMax 0 ∧
    (sBell none).dev.findSq 0 0 = some 5 ∧ ((sBell none).dev.sq 5).overtook = false ∧
    ((sBell none).dev.sq 5).head < (sBell none).dev.sqSize 5 ∧
    (15 + (sBell none).dev.sqSize 5 - ((sBell none).dev.sq 5).head) % (sBell none).dev.sqSize 5 ≠ 0 ∧
    15 < (sBell none).dev.sqSize 5 ∧ (sBell none).dev.sqSize 5 ≤ 17 ∧
    (17 + (sBell none).dev.sqSize 5 - ((sBell none).dev.sq 5).head) % (sBell none).dev.sqSize 5 ≠ 0 ∧
    ((sBell none).dev.sq 5).fetch = none ∧ (sBell none).dev.canFetch 5 = true ∧
    ((sBell (some { count := 1, named := 1 })).dev.sq 5).fetch ≠ none :=
  ⟨⟨by decide, rfl⟩, by decide⟩

theorem witness_fetch_return : let s := sBell' 15 0 (some { count := 1, named := 1 })
    let e := ent [(0, 0x10), (1, 1), (63, 0x80)]
    s.Live ∧ (s.dev.sq 5).fetch = some { count := 1, named := 1 } ∧ s.dev.fnMaster (s.dev.sqFunc 5) = true ∧
    (({ count := 1, named := 1 } : Fetch).stalled = [] ∧ ({ count := 1, named := 1 } : Fetch).due ≤ s.dev.now) ∧
    s.dev.freezing (s.dev.sqFunc 5) = false ∧ (s.dev.sq 5).asked = false ∧ e = e.take 64 ∧ e.length = 64 ∧ Entry.own e = true ∧ Entry.isFirst e = true ∧
    Entry.isLast e = false ∧ (s.dev.sq 5).openDrill = none ∧ (s.dev.sq 5).overtook = false ∧
    (s.dev.sq 5).head < s.dev.sqSize 5 ∧ ((s.dev.sq 5).head + 1) % s.dev.sqSize 5 = (s.dev.sq 5).tail ∧
    (s.dev.sq 5).head ≠ (s.dev.sq 5).tail ∧ s.dev.freeRecord = some 0 := ⟨⟨by decide, rfl⟩, by decide⟩

theorem witness_fetch_past_tail : let s := sBell (some { count := 8, named := 0 })
    s.Live ∧ (s.dev.sq 5).fetch = some { count := 8, named := 0 } ∧ s.dev.fnMaster (s.dev.sqFunc 5) = true ∧
    (s.dev.sq 5).asked = false := ⟨⟨by decide, rfl⟩, by decide⟩

/-- An open drill of one entry, without a LAST, whose gap has passed. -/
def sGap : State := st (dRing [] { state := 1, openDrill := some 0 } {}
  { drills := [(0, { sq := 5, entries := [ent [(0, 1), (1, 1), (63, 0x80)]] })] } 1000000000)

theorem witness_gap : sGap.Live ∧ (sGap.dev.sq 5).openDrill = some 0 ∧ sGap.dev.ring.waiters.contains 5 = false ∧
    (sGap.dev.drill 0).gapFrom + gapNs (sGap.dev.fld RINGS_SQ_CTL.GAP [5]) ≤ sGap.dev.now ∧
    ∃ x, sGap.dev.checkDrill (sGap.dev.drill 0).func (sGap.dev.drill 0).entries (some 0x04) = some x :=
  ⟨⟨by decide, rfl⟩, by decide, by decide, by decide, Option.isSome_iff_exists.mp (by decide)⟩

/-- A NOP drill in record 0, accepted or dispatched. -/
def nopDrill (p : DrillPhase) : Drill := { sq := 5, entries := [ent [(0, 1), (1, 3), (63, 0x80)]], phase := p }

def sReady : State := st (dRing [] { state := 1, ready := [0], turns := 1 } { running := true }
  { drills := [(0, nopDrill .accepted)] })

theorem witness_dispatch : sReady.Live ∧ (sReady.dev.queue (epKey 1 0)).length < 16 ∧ tfind sReady.dev.ring.turn 0 = none ∧
    nextRing (sReady.dev.ringsOf 0) 65536 (fun g => sReady.dev.eligible g && (sReady.dev.sq g).turns ≠ 0) = some 5 ∧
    (sReady.dev.sq 5).ready = [0] ∧ sReady.dev.drill? 0 ≠ none ∧ (sReady.dev.drill 0).code = none ∧
    (sReady.dev.drill 0).nCode = 0 ∧ (sReady.dev.drill 0).won = false ∧ (sGap.dev.ringsOf 0).contains 5 = true ∧
    ((sGap.dev.ringsOf 0).any fun g => sGap.dev.eligible g && decide ((sGap.dev.sq g).turns ≠ 0)) = false ∧
    sGap.dev.turnGoesOn 0 = false := ⟨⟨by decide, rfl⟩, by decide⟩

/-- The completion message of that drill's entry. -/
def nopMsg : Msg :=
  { data := BitVec.ofNat 512 (2 ^ 184 + (widMake 0 0).toNat * 2 ^ 192 + 0x3FF0000000 * 2 ^ 256 + 5 * 2 ^ 320) }

def sMessage : State := st { dRing [] { state := 1 } { running := true } { drills := [(0, nopDrill .dispatched)] } with
  tine := { queues := [(epKey 0x10 0, [nopMsg])] } }

theorem witness_completion_message : sMessage.Live ∧ sMessage.dev.queue (epKey 0x10 0) = [nopMsg] ∧
    sMessage.dev.msgRecord nopMsg = some 0 ∧ sMessage.dev.stale (BitVec.ofNat 64 (leAt (wideBytes nopMsg.data) 24 8)) = false ∧
    leAt (wideBytes nopMsg.data) 20 2 = 0 := ⟨⟨by decide, rfl⟩, by decide +kernel⟩

/-- A completion that waits; entries written and not signalled; and the completion ring's doorbell. -/
def heldCpl : HeldCpl := { func := 0, cq := 0, sq := 5, tag := 7, index := 15, out := {}, last := true, record := none, entry := 0 }
def sCplWait : State := st (dRing [(RINGS_CQ_CTL.COAL_COUNT, [6], 2)] {} { running := true, unsignalled := 0 } { cpls := [heldCpl] })
def sCoal : State := st (dRing [] {} { running := true, unsignalled := 1 } {} 1000)

theorem witness_completion : sCplWait.Live ∧ sCplWait.dev.flag RINGS_CQ_BIND.VALID [6] = true ∧
    sCplWait.dev.ring.cpls = [heldCpl] ∧ heldCpl.func = sCplWait.dev.cqFunc 6 ∧
    heldCpl.cq = sCplWait.dev.fld RINGS_CQ_BIND.LOCAL [6] ∧ heldCpl.drop = false ∧ heldCpl.record = none ∧ sCplWait.dev.fnMaster 0 = true ∧ (sCplWait.dev.cq 6).running = true ∧
    sCplWait.dev.cqFull 6 = false ∧ (sCplWait.dev.cq 6).unsignalled + 1 < sCplWait.dev.fld RINGS_CQ_CTL.COAL_COUNT [6] :=
  ⟨⟨by decide, rfl⟩, by decide⟩

theorem witness_coalescing : sCoal.Live ∧ (sCoal.dev.cq 6).unsignalled ≠ 0 ∧
    (sCoal.dev.cq 6).oldest + max 1 (sCoal.dev.fld RINGS_CQ_CTL.COAL_TIME [6]) * 1000 ≤ sCoal.dev.now ∧
    sCoal.dev.barOk 0 = true ∧ 0 < sCoal.dev.cqMax 0 ∧ sCoal.dev.findCq 0 0 = some 6 ∧ 15 < sCoal.dev.cqSize 6 :=
  ⟨⟨by decide, rfl⟩, by decide⟩

/-- A value that changes nothing in a ring's register but, perhaps, RUN. -/
def keepsBut (d : Dev) (r : RegName) (run : Fld) (g : Nat) (v : Word) : Bool :=
  r.fields.all fun fd => fd.fld = run || fd.acc ≠ .rw || fd.fld.get v = d.fld fd.fld [g]

theorem witness_ring_run : let s := st (dRing [] {} {} {})
    s.Live ∧ keepsBut s.dev .RINGS_SQ_CTL RINGS_SQ_CTL.RUN 5 0x63000001010043 = true ∧ s.dev.fld RINGS_SQ_CTL.LOG2SIZE [5] = 4 ∧
    1 ≤ s.dev.fld RINGS_SQ_CTL.WEIGHT [5] ∧ 1 ≤ s.dev.fld RINGS_SQ_CTL.BURST [5] ∧ s.dev.fld RINGS_SQ_CTL.BURST [5] ≤ 64 ∧
    s.dev.fld RINGS_SQ_CTL.PREFETCH [5] ≤ 5 ∧ (0x63000001010043 : Word).getLsbD 0 = true ∧ (s.dev.sq 5).state = 0 ∧
    s.dev.sqUsable 5 = true ∧ (s.dev.sq 5).changed = false ∧ (s.dev.sq 5).overtook = false ∧ (s.dev.sq 5).tail = (s.dev.sq 5).head ∧
    (s.dev.sq 5).owed = false ∧
    (s.dev.sq 5).head < s.dev.sqSize 5 ∧ s.dev.flag HOST_FN_STATE.BME [s.dev.sqFunc 5] = true ∧
    s.dev.fld HOST_FN_STATE.DSTATE [s.dev.sqFunc 5] = 0 := ⟨⟨by decide, rfl⟩, by decide⟩

theorem witness_ring_stop : let s := st (dRing [] { state := 1 } {} {})
    keepsBut s.dev .RINGS_SQ_CTL RINGS_SQ_CTL.RUN 5 0x63000001010042 = true ∧ (0x63000001010042 : Word).getLsbD 0 = false ∧
    (s.dev.sq 5).state = 1 := by decide

theorem witness_cq_run : let s := st (dRing [(RINGS_CQ_CTL.VECTOR, [6], 1)] {} {} {})
    keepsBut s.dev .RINGS_CQ_CTL RINGS_CQ_CTL.RUN 6 0x10043 = true ∧ s.dev.fld RINGS_CQ_CTL.LOG2SIZE [6] = 4 ∧
    s.dev.fld RINGS_CQ_CTL.VECTOR [6] = 1 ∧ (s.dev.cq 6).running = false ∧ (s.dev.cq 6).changed = false ∧
    s.dev.cqUsable 6 = true := by decide

/-- Ring 5 is HALTED with a failure held, or FROZEN with an OWN mark withheld, or with its base changed since. -/
def sHalted : State := st (dRing [(RINGS_SQ_CTL.RUN, [5], 1)] { state := 3, held := [⟨0, 0, { status := 0x11 }⟩] } {}
  { drills := [(0, nopDrill .held)] })
def sFrozen : State := st (dRing [(RINGS_SQ_CTL.RUN, [5], 1)] { state := 4, ownDropped := [1023] } {} {})
def sMoved : State := st (dRing [(RINGS_SQ_CTL.RUN, [5], 1)] { state := 4, changed := true, head := 7, tail := 9 } {} {})

theorem witness_restart : sHalted.Live ∧ sHalted.dev.flag RINGS_SQ_CTL.RUN [5] = true ∧ (sHalted.dev.sq 5).rejects = [] ∧
    sHalted.dev.sqNamed 5 = 0 ∧ (sHalted.dev.sq 5).owed = false ∧ (sHalted.dev.sq 5).changed = false ∧ (sHalted.dev.sq 5).state = 3 ∧ (sHalted.dev.sq 5).held = [⟨0, 0, { status := 0x11 }⟩] ∧
    (sHalted.dev.drill 0).count = 0 + 1 ∧ sHalted.dev.drill? 0 ≠ none ∧ (sHalted.dev.drill 0).sq = 5 :=
  ⟨⟨by decide, rfl⟩, by decide⟩

theorem witness_restart_resume : sFrozen.Live ∧ sFrozen.dev.flag RINGS_SQ_CTL.RUN [5] = true ∧ (sFrozen.dev.sq 5).rejects = [] ∧
    sFrozen.dev.sqNamed 5 = 0 ∧ (sFrozen.dev.sq 5).owed = false ∧ (sFrozen.dev.sq 5).changed = false ∧
    (sFrozen.dev.sq 5).state = 4 ∧ (sFrozen.dev.sq 5).ownDropped = [1023] ∧
    (sFrozen.dev.sq 5).held = [] ∧ sFrozen.dev.fnMaster (sFrozen.dev.sqFunc 5) = true := ⟨⟨by decide, rfl⟩, by decide⟩

theorem witness_restart_changed : sMoved.Live ∧ sMoved.dev.flag RINGS_SQ_CTL.RUN [5] = true ∧ (sMoved.dev.sq 5).state = 4 ∧
    (sMoved.dev.sq 5).ownDropped = [] ∧ (sMoved.dev.sq 5).rejects = [] ∧ (sMoved.dev.sq 5).held = [] ∧
    (sMoved.dev.sq 5).changed = true ∧ (sMoved.dev.sq 5).owed = false ∧ sMoved.dev.fnMaster (sMoved.dev.sqFunc 5) = true :=
  ⟨⟨by decide, rfl⟩, by decide⟩

theorem witness_errlog : sFrozen.dev.barOk 0 = true ∧ sFrozen.dev.reg .RINGS_ERRLOG_ACK [0] ≤ 0 ∧
    0 ≤ sFrozen.dev.reg .RINGS_ERRLOG_HEAD [0] := by decide

/-! ### Work entries -/

/-- Record 0 holds a dispatched drill of one entry. -/
def sWork (e : List Byte) : State := st (dRing [] {} {} { drills := [(0, { sq := 5, entries := [e], phase := .dispatched })] })

theorem work_taken (e : List Byte) (op : Nat) (h : (sWork e).Live) (h1 : (sWork e).dev.workReady 0 0 = true)
    (h2 : Entry.opcode (((sWork e).dev.drill 0).entry 0) = op) (h3 : (sWork e).dev.stale ((sWork e).dev.drill 0).workid = false)
    (h4 : condHolds ((sWork e).dev.drill 0).done ((sWork e).dev.drill 0).nCode 0 (((sWork e).dev.drill 0).entry 0) = true) :
    WorkTaken (sWork e) 0 0 op := ⟨h, h1, h2, h3, h4⟩

theorem witness_nop : WorkTaken (sWork (ent [(0, 1), (1, 3)])) 0 0 0x01 :=
  work_taken _ _ ⟨by decide, rfl⟩ (by decide) (by decide) (by decide) (by decide)

theorem witness_selftest : WorkTaken (sWork (ent [(0, 0x40), (1, 3)])) 0 0 0x40 ∧
    (sWork (ent [(0, 0x40), (1, 3)])).dev.otherDrills 0 [0, 3] = false ∧
    ∀ t ∈ (sWork (ent [(0, 0x40), (1, 3)])).dev.ring.tests, t.drill ≠ 0 :=
  ⟨work_taken _ _ ⟨by decide, rfl⟩ (by decide) (by decide) (by decide) (by decide), by decide⟩

/-- A drill of one CODE entry and a RUN, whose code record holds DEXIT and whose ticket names strand 511. -/
def runDrill (n : Nat) : Drill :=
  { sq := 5, code := some 0, phase := .dispatched, next := n, written := n,
    entries := [ent [(0, 2), (1, 1), (8, 3), (11, 0xC8), (56, 1)], ent [(0, 3), (1, 2), (48, 8), (63, 0x80)]] }

def sCode (n : Nat) : State :=
  { mem := [(0x3FFFC00000, 0x03), (0x3FFFC00003, 0xC8)]
    dev := { dRing [] {} {} { drills := [(0, runDrill n)], codes := [0] } with
      tine := { strands := [(511, { run := true, stopped := false })]
                tickets := [(2 ^ 28, { strand := 511, dcode := 0x3FFFC00000, dlen := 4, workid := widMake 0 0 })] } } }

theorem witness_code : (sCode 0).Live ∧ (sCode 0).dev.drill? 0 ≠ none ∧ ((sCode 0).dev.drill 0).code = some 0 ∧
    0 < ((sCode 0).dev.drill 0).nCode ∧ ((sCode 0).dev.drill 0).phase = .dispatched := ⟨⟨by decide, rfl⟩, by decide⟩

theorem witness_run : WorkTaken (sCode 1) 0 1 0x03 ∧ ((sCode 1).dev.drill 0).code = some 0 ∧
    (sCode 1).dev.handlesOk 0 (((sCode 1).dev.drill 0).entry 1) = true ∧
    (∀ h, h < 4 → leAt (((sCode 1).dev.drill 0).entry 1) (8 + 4 * h) 4 = 0) ∧
    0 < leAt (((sCode 1).dev.drill 0).entry 1) 48 4 ∧ 4 ≤ 4 * (drillInsns ((sCode 1).dev.drill 0).entries).length ∧
    (drillInsns ((sCode 1).dev.drill 0).entries).length < 2 ^ 20 ∧
    (let d := (sCode 1).dev
     let base := d.codeBase + 1024 * 0
     let t : Ticket := { strand := 511, dcode := 0x3FFFC00000, dlen := 4, workid := widMake 0 0 }
     base < 2 ^ 46 ∧ (d.region base).isMemory = true ∧ d.absent base = false ∧ d.poisoned base 4 = false ∧
     d.ldWord (sCode 1).mem base = 0xC8000003 ∧ d.canIssue 511 = true ∧ (d.strand 511).regs.drill = false ∧
     d.ticketOf 0 1 511 = some (2 ^ 28, t) ∧ t.dcode = BitVec.ofNat 64 base ∧
     t.dlen = BitVec.ofNat 64 (4 * (drillInsns (d.drill 0).entries).length) ∧ t.workid = (d.drill 0).workid) :=
  ⟨⟨⟨by decide, rfl⟩, by decide, by decide, by decide, by decide⟩, by decide⟩

/-- A self-test of plot 0 with two checks left, paused or not, with the other drill that makes it wait or without. -/
def aTest (p : Bool) : SelfTest := { plots := [0], run := 3, left := 2, paused := p }
def sTest (o : Bool) (l : List SelfTest) : State := st (dRing [] {} {}
  { drills := (0, { sq := 5, entries := [ent [(0, 0x40), (1, 3)]], phase := .dispatched }) ::
      if o then [(1, nopDrill .dispatched)] else []
    tests := l } 1000000)

theorem witness_selftest_waits : WorkTaken (sTest true []) 0 0 0x40 ∧ (sTest true []).dev.otherDrills 0 [0] = true ∧
    (∀ p, (sTest p [aTest p]).Live) ∧ (∀ p, (sTest p [aTest p]).dev.ring.tests = [aTest p] ∧ (aTest p).drill = 0 ∧
      (aTest p).quietFrom + 1000000 ≤ (sTest p [aTest p]).dev.now ∧ (sTest p [aTest p]).dev.otherDrills 0 (aTest p).plots = p ∧
      1 < (aTest p).left ∧ (aTest p).left ≤ 2) :=
  ⟨⟨⟨by decide, rfl⟩, by decide, by decide, by decide, by decide⟩, by decide, fun p => ⟨by cases p <;> decide, rfl⟩, by decide⟩

/-- An ABORT in record 1 of the drill in record 0, whose tag is 9. -/
def sAbort : State := st (dRing [] {} {}
  { drills := [(0, { sq := 5, entries := [ent [(0, 1), (1, 3), (2, 9)]], phase := .accepted }),
      (1, { sq := 5, entries := [ent [(0, 0x41), (1, 3), (8, 9)]], phase := .abortReady })] })

theorem witness_abort : sAbort.Live ∧ (sAbort.dev.drill 1).phase = .abortReady ∧
    sAbort.dev.ring.drills = [(0, sAbort.dev.drill 0), (1, sAbort.dev.drill 1)] ∧
    (sAbort.dev.drill 0).func = (sAbort.dev.drill 1).func ∧ (sAbort.dev.drill 0).phase = .accepted ∧
    (sAbort.dev.drill 0).won = false ∧
    (sAbort.dev.drill 0).matchesTag (leAt ((sAbort.dev.drill 1).entry 0) 8 2) = true := ⟨⟨by decide, rfl⟩, by decide⟩

theorem witness_finish_work : let s := sWork (ent [(0, 1), (1, 3)])
    s.dev.drill? 0 = some (s.dev.drill 0) ∧ s.dev.stale (s.dev.drill 0).workid = false ∧ s.dev.posted = [] := by decide

/-! ### The host face -/

/-- Link 63 is planned x4 for 64 GT/s, up or in training, and carries no function, or PF 255; S7 has left electrical idle. -/
def sLink (state perst pf : Nat) : State := st (flds [(HOST_PF_PLAN.PRESENT, [255], pf), (HOST_PF_PLAN.LINK, [255], 63),
  (HOST_LINK_PLAN.PRESENT, [63], 1), (HOST_LINK_PLAN.WIDTH, [63], 2), (HOST_LINK_PLAN.MAX_RATE, [63], 6),
  (HOST_LINK_STATUS.STATE, [63], state), (HOST_LINK_STATUS.PERST, [63], perst), (HOST_FN_STATE.ENABLED, [255], pf)]
  { pw := { strips := true } })

theorem witness_link : (sLink 2 0 0).Awake ∧ (sLink 2 0 0).dev.flag HOST_LINK_STATUS.PERST [63] = false ∧
    (sLink 7 1 0).dev.flag HOST_LINK_STATUS.PERST [63] = true ∧
    (∀ p, p < 256 → (sLink 7 1 0).dev.flag HOST_PF_PLAN.PRESENT [p] = true → (sLink 7 1 0).dev.fld HOST_PF_PLAN.LINK [p] ≠ 63) ∧
    (sLink 2 0 0).dev.linkUp 63 = true ∧ 1 ≤ (sLink 1 0 0).dev.fld HOST_LINK_STATUS.STATE [63] ∧
    (sLink 1 0 0).dev.fld HOST_LINK_STATUS.STATE [63] ≤ 5 ∧ (sLink 1 0 0).dev.flag HOST_LINK_PLAN.PRESENT [63] = true ∧
    (sLink 1 0 0).dev.fld HOST_LINK_PLAN.MAX_RATE [63] = 6 ∧
    (∀ state ∈ [2, 3], state ≤ if (sLink 1 0 0).dev.fld HOST_LINK_STATUS.STATE [63] = 1 then 3 else 5) ∧
    (∀ state ∈ [2, 5], state ≤ if (sLink 4 0 0).dev.fld HOST_LINK_STATUS.STATE [63] = 1 then 3 else 5) ∧
    (sLink 4 0 0).dev.fld HOST_LINK_STATUS.STATE [63] = 4 ∧ 2 ^ (sLink 1 0 0).dev.fld HOST_LINK_PLAN.WIDTH [63] = 4 ∧
    (sLink 1 0 0).dev.pw.strips = true ∧ (sLink 1 0 0).dev.clk.refclk = true :=
  ⟨⟨by decide, rfl⟩, by decide +kernel⟩

theorem witness_link_function : (sLink 2 0 1).dev.pfsOf 63 = [255] ∧ (sLink 2 0 1).dev.fnExists 255 = true ∧
    ((sLink 2 0 1).dev.fn 255).vfEnable = false ∧
    (sLink 2 0 1).dev.linkUp ((sLink 2 0 1).dev.linkOf 255) = true ∧
    ((sLink 2 0 1).dev.items 255).contains (((sLink 2 0 1).dev.gen 255 + 1) % 65536) = false := by decide

/-- Function 255 on that link, its bits and its state as given. -/
def sFn (fs : List (Fld × List Nat × Nat)) (x : Fn) : State := st (flds fs { (sLink 2 0 1).dev with host := { fns := [(255, x)] } })

theorem witness_flr_steps : ((sFn [] { flrStep := 2 }).dev.fn 255).flrStep = 2 ∧ ((sFn [] { flrStep := 3 }).dev.fn 255).flrStep = 3 ∧
    ((sFn [] { flrStep := 3 }).dev.fn 255).sticky = false ∧ (sFn [] {}).Awake := ⟨by decide, by decide, by decide, by decide, rfl⟩

theorem witness_function : let s := sFn [] {}
    let u := sFn [(HOST_FN_STATE.BME, [255], 1), (HOST_FN_STATE.MSE, [255], 1)] {}
    s.dev.cfgOk 255 = true ∧ s.dev.flag HOST_FN_STATE.BME [255] = false ∧ s.dev.fld HOST_FN_STATE.DSTATE [255] = 0 ∧
    (∀ w ∈ s.dev.posted, w.toHost = true → w.unit ≠ 255) ∧ s.dev.sqsWhere (fun g => s.dev.sqFunc g = 255) = [] ∧
    u.dev.cfgOk 255 = true ∧ u.dev.flag HOST_FN_STATE.BME [255] = true ∧ u.dev.sqsWhere (fun g => u.dev.sqFunc g = 255) = [] ∧
    (sFn [(HOST_FN_STATE.DSTATE, [255], 3)] {}).dev.fld HOST_FN_STATE.DSTATE [255] ≠ 0 ∧
    (sFn [(HOST_FN_STATE.DSTATE, [255], 3)] {}).dev.cfgOk 255 = true ∧ (2 : Nat) ^ 32 - 1 < 2 ^ 32 ∧ (1 : Nat).testBit 0 = true := by decide

theorem witness_bme_rings : let s := st { (dRing [(HOST_FN_STATE.BME, [0], 0)] { state := 4, resumeAt := some 7 } {} {} 7) with
      host := { fns := [(0, {})] } }
    s.Awake ∧ s.dev.cfgOk 0 = true ∧ s.dev.flag HOST_FN_STATE.BME [0] = false ∧ s.dev.sqsWhere (fun g => s.dev.sqFunc g = 0) = [5] ∧
    (s.dev.sq 5).state = 4 ∧ (s.dev.sq 5).resumeAt = some s.dev.now ∧ s.dev.fld HOST_FN_STATE.DSTATE [0] = 0 ∧
    ∀ g, ((sFn [] {}).dev.sq g).resumeAt ≠ some (sFn [] {}).dev.now :=
  ⟨⟨by decide, rfl⟩, by decide, by decide, by decide, by decide, by decide, by decide, fun g => nofun⟩

theorem witness_vfs : let s (e : Bool) (n : Nat) := sFn [(HOST_PF_PLAN.TOTAL_VFS, [255], 1), (HOST_PF_PLAN.FIRST_VF, [255], 4095),
      (HOST_FN_STATE.NUM_VFS, [255], n), (HOST_FN_STATE.ENABLED, [4351], n)] { vfEnable := e, numVfs := 1 }
    (s false 0).dev.cfgOk 255 = true ∧ ((s false 0).dev.fn 255).vfEnable = false ∧ ((s false 0).dev.fn 255).numVfs ≠ 65535 ∧
    ((s false 0).dev.fn 255).numVfs = 1 ∧ 1 ≤ (s false 0).dev.fld HOST_PF_PLAN.TOTAL_VFS [255] ∧ (s true 1).dev.cfgOk 255 = true ∧
    ((s true 1).dev.fn 255).vfEnable = true ∧
    (s true 1).dev.vfsOf 255 ((s true 1).dev.fld HOST_FN_STATE.NUM_VFS [255]) = [4351] ∧ (s true 1).dev.fnExists 4351 = true := by
  decide +kernel

theorem witness_buffers : let s := sFn [(HOST_FN_STATE.MSE, [255], 1), (TENANT_TABLES.BUF_SLOTS, [255], 1048575),
      (FN_BUF_SLOT.SLOT, [255], 1048574)] { msix := [(2047, { pending := true })], msixEn := true }
    let u := sFn [(HOST_FN_STATE.MSE, [255], 1), (FN_BUF_SLOT.SLOT, [255], 0)] {}
    s.Live ∧ s.dev.barOk 255 = true ∧ s.dev.barUp 255 = true ∧ s.dev.fld FN_BUF_SLOT.SLOT [255] < s.dev.bufSlots 255 ∧
    (s.dev.reg .FN_BUF_BASE [255]).toNat + s.dev.fld FN_BUF_LEN.LENGTH [255] < 2 ^ 64 ∧ u.dev.barOk 255 = true ∧
    u.dev.bufSlots 255 ≤ u.dev.fld FN_BUF_SLOT.SLOT [255] ∧ 2047 < vecCount 255 ∧ (s.dev.vec 255 2047).masked = true :=
  ⟨⟨by decide, rfl⟩, by decide⟩

/-- Strand 511 waits for a host read that is due now. -/
def sRead : State := st { (sFn [] {}).dev with
  tine := { strands := [(511, { wait := some (.load (.general 8 false) 31 0x80000000000 0) })] }
  host := { reads := [{ func := 255, requester := .strand 511 }], invals := [] } }

theorem witness_host_read : sRead.Live ∧ sRead.dev.host.reads = [{ func := 255, requester := .strand 511 }] ∧
    (sRead.dev.strand 511).wait = some (.load (.general 8 false) 31 0x80000000000 0) ∧ 0 ≤ sRead.dev.now := ⟨⟨by decide, rfl⟩, by decide⟩

/-- An invalidation waits for its completion; requests that use older and newer translations, or another function's, do not. -/
def anInval : Inval := { func := 255, pasid := none, lo := 0, hi := 1, itag := 31 }
def sInval : State := st { host := { invals := [anInval], reads := [{ func := 255, xlated := true, old := [30] }, { func := 1, old := [31] }] }
                           posted := [{ unit := 255, xlated := true }], ring := { sqs := [(5, { fetch := some { count := 1, named := 1 } })] } }

theorem witness_invalidate : sInval.Live ∧ sInval.dev.host.invals = [anInval] ∧
    (∀ r ∈ sInval.dev.host.reads, r.func = anInval.func → anInval.itag ∉ r.old) ∧
    (∀ w ∈ sInval.dev.posted, w.toHost = true → w.unit = anInval.func → anInval.itag ∉ w.old) ∧
    (∀ q ∈ sInval.dev.ring.sqs, ∀ y, q.2.fetch = some y → anInval.itag ∉ y.old) ∧
    sInval.dev.host.reads[0]? = some { func := 255, xlated := true, old := [30] } ∧
    sInval.dev.posted[0]? = some { unit := 255, xlated := true } :=
  ⟨⟨by decide, rfl⟩, rfl, by decide, by decide, fun q h y e => by
    simp only [sInval, st, List.mem_singleton] at h; subst h; cases e; decide, rfl, rfl⟩

theorem witness_answered_drill : let s := sWork (ent [(0, 1), (1, 3)])
    s.dev.drill? 0 = some (s.dev.drill 0) ∧ (s.dev.drill 0).phase = .dispatched ∧ (s.dev.drill 0).next = 0 ∧
    0 < (s.dev.drill 0).count := by decide

/-! ### Tenants -/

/-- Function 4351 exists, frozen or not, and its fields are as given. -/
def sTen (fs : List (Fld × List Nat × Nat)) : State := st (flds ((HOST_FN_STATE.ENABLED, [4351], 1) :: fs))

theorem witness_freeze : let s := sTen []
    let u := sTen [(TENANT_CTL.FREEZE, [4351], 1)]
    let v := sTen [(TENANT_CTL.FREEZE, [4351], 1), (TENANT_CTL.SAVED, [4351], 1)]
    s.Live ∧ s.dev.sow.sess = [] ∧ s.dev.sow.waits = [] ∧ (1 : Word).getLsbD 0 = true ∧ (0 : Word).getLsbD 0 = false ∧
    s.dev.flag TENANT_CTL.FREEZE [4351] = false ∧ u.dev.flag TENANT_CTL.FREEZE [4351] = true ∧
    u.dev.flag TENANT_CTL.SAVED [4351] = false ∧ u.dev.ring.sqs = [] ∧ v.dev.flag TENANT_CTL.FREEZE [4351] = true ∧
    v.dev.flag TENANT_CTL.SAVED [4351] = true := ⟨⟨by decide, rfl⟩, by decide⟩

theorem witness_save : (sTen []).dev.flag TENANT_MIG_CTL.GO = false ∧ (sTen []).dev.frozen 4351 = false ∧
    (let d := (sTen [(TENANT_MIG_CTL.GO, [], 1), (TENANT_MIG_CTL.OP, [], 1), (TENANT_MIG_CTL.FUNC, [], 4351)]).dev
     d.flag TENANT_MIG_CTL.GO = true ∧ d.fld TENANT_MIG_CTL.OP = 1 ∧ d.fld TENANT_MIG_CTL.FUNC = 4351 ∧ d.frozen 4351 = false) ∧ (sTen [(TENANT_CTL.FREEZE, [4351], 1)]).dev.frozen 4351 = true ∧
    (sTen []).dev.fnExists 4351 = true ∧ (sTen []).dev.freezing 4351 = false := by decide

/-- A record of tenant 0 without sections at address 0, of 160 bytes, or one too short for a record. -/
def sRec (n : Nat) : State :=
  { mem := [(0, 0x54), (1, 0x47), (2, 0x54), (3, 0x52), (4, 1), (8, 160)]
    dev := { (sTen [(TENANT_CTL.FREEZE, [4351], 1), (TENANT_MIG_LEN.LENGTH, [], n)]).dev with
      vault := { root := some (List.replicate 32 1) } } }

theorem witness_restore_short : (sRec 159).dev.flag TENANT_MIG_CTL.GO = false ∧ (sRec 160).dev.flag TENANT_MIG_CTL.GO = false ∧
    (sRec 159).dev.frozen 4351 = true ∧ (sRec 159).dev.freezing 4351 = true ∧
    (sRec 159).dev.fld TENANT_MIG_LEN.LENGTH < 160 := by decide

theorem witness_restore : let d := (sRec 160).dev
    let b := d.ldBytes (sRec 160).mem (d.reg .TENANT_MIG_ADDR).toNat 160
    d.fnExists 4351 = true ∧ d.frozen 4351 = true ∧ d.freezing 4351 = true ∧ d.flag TENANT_CTL.SAVED [4351] = false ∧
    d.liveItems 4351 = 0 ∧ d.staleItems 4351 = 0 ∧ d.fld TENANT_MIG_LEN.LENGTH = 160 ∧
    d.inMemory (d.reg .TENANT_MIG_ADDR).toNat 160 = true ∧ slice b 0 4 = [0x54, 0x47, 0x54, 0x52] ∧ leAt b 4 2 = 1 ∧
    leAt b 8 4 = 160 ∧ d.rootOk = true ∧ readSections (leAt b 6 2) 0 ((slice b 0 (160 - 32)).drop 128) = some [] ∧
    d.restoreTooLarge 4351 [] = false ∧
    d.poolResv 4351 (bits (leAt (bodyOf [] 1) 24 8) 0 24) ≤ d.fld TENANT_POOL_RESV.COUNT ∧
    d.headOf (leAt b 16 4) = none := by decide +kernel

/-- Function 255 on its link may use its BARs, and its strand's mailbox holds some messages. -/
def sMail (n : Nat) (x : List (Nat × Word)) : State :=
  st { (sFn [(HOST_FN_STATE.MSE, [255], 1)] {}).dev with tine := { queues := [(0, List.replicate n {})] }, ten := { notices := x } }

theorem witness_mailbox : (sMail 15 []).Live ∧ (sMail 15 []).dev.barOk 255 = true ∧
    ((sMail 15 []).dev.ld (sMail 15 []).mem ((sMail 15 []).dev.mbAddr 255 + 7)).getLsbD 7 = false ∧
    (0x8000000000000000 : Word).getLsbD 63 = true ∧ (0 : Word).getLsbD 63 = false ∧ (sMail 15 []).dev.ten.notices = [] ∧
    ((sMail 15 []).dev.queue (epKey 0 ((sMail 15 []).dev.fld TENANT_POLICY.MB_STRAND [255]))).length = 15 ∧
    ((sMail 16 []).dev.queue (epKey 0 ((sMail 16 []).dev.fld TENANT_POLICY.MB_STRAND [255]))).length = 16 ∧
    (sMail 15 [(0, 255)]).dev.ten.notices = [(0, 255)] ∧ ((sMail 15 [(0, 255)]).dev.queue (epKey 0 0)).length = 15 ∧
    (sMail 15 []).dev.fnExists 255 = true ∧ 65535 ≠ (sMail 15 []).dev.gen 255 := ⟨⟨by decide, rfl⟩, by decide +kernel⟩

/-! ### Luasol -/

/-- Strand 511 alone is set, and runs; its tine has cached the word at its PC. -/
def sTine (x : Strand) (q : Tbl (List Msg) := []) (w : BitVec 32 := 0) : State :=
  st { tine := { strands := [(511, { x with run := true, stopped := false })], queues := q
                 tines := [(127, { icache := [(x.regs.pc, w)] })] } }

theorem ready_of {s : State} {k : Nat} (h : s.Live)
    (h' : let x := s.dev.strand k
      s.dev.hasStrand k = true ∧ x.run = true ∧ x.wait = none ∧ x.lost = false ∧ x.spec = [] ∧ s.dev.takesSlot s.mem k = true ∧
      (x.regs.drill = true → s.dev.staleIn x.regs = false) ∧ (x.regs.drill = true → x.regs.dbudget ≠ 0) ∧
      (x.regs.drill = true → x.regs.inCode x.regs.pc = true) ∧ (s.dev.region x.regs.pc).isMemory = true ∧
      s.dev.absent x.regs.pc = false ∧ s.dev.poisoned x.regs.pc 4 = false) : Ready s k :=
  ⟨h, h'.1, h'.2.1, h'.2.2.1, h'.2.2.2.1, h'.2.2.2.2.1, h'.2.2.2.2.2.1, h'.2.2.2.2.2.2.1, h'.2.2.2.2.2.2.2.1,
    h'.2.2.2.2.2.2.2.2.1, h'.2.2.2.2.2.2.2.2.2.1, h'.2.2.2.2.2.2.2.2.2.2.1, h'.2.2.2.2.2.2.2.2.2.2.2⟩

/-- Firmware context, with the addresses of the last bytes of HBM in g1 to g3, and slot 7 holding 64 bytes to read and write. -/
def rFirm : Regs := { g := [(1, 0x3FFFFFFFF8), (2, 0x3FFFFFFFC0), (3, 0xFFFFFFFFFFFFFFFF), (4, 2)]
                      hbase := [(7, 0x3FFFFFFFC0)], hlim := [(7, 0xC000000000000040)] }

/-- Drill context, of function 0 in its first generation, at the last word of its code. -/
def rDrill : Regs := { drill := true, dbudget := 1, dcode := 0x1000, dlen := 16, pc := 0x100C }

/-- A running strand of those states may execute whatever word its tine holds for it. -/
theorem ready_tine (r : Regs) (q : Tbl (List Msg)) (w : BitVec 32) (n : Nat)
    (h : ∀ x ∈ [r], (x.drill = true → (sTine { regs := x }).dev.staleIn x = false) ∧ (x.drill = true → x.dbudget ≠ 0) ∧
      (x.drill = true → x.inCode x.pc = true) ∧ ((sTine { regs := x }).dev.region x.pc).isMemory = true ∧
      (sTine { regs := x }).dev.absent x.pc = false) : Runs (sTine { regs := r, lastPort := n } q w) 511 w := by
  have h := h r (List.mem_singleton.mpr rfl)
  have slot : (sTine { regs := r, lastPort := n } q w).dev.takesSlot (sTine { regs := r, lastPort := n } q w).mem 511 = true := by
    simp [sTine, st, Dev.takesSlot, Dev.secondSlot, Dev.firstSlot, Dev.homeOf, Dev.tineOf, Dev.readyCtxs, Dev.contenders, Dev.strand,
      tget, tfind, strandInit, List.range, List.range.loop]
  refine ⟨⟨⟨rfl, rfl⟩, rfl, rfl, rfl, rfl, rfl, slot, h.1, h.2.1, h.2.2.1, h.2.2.2.1, h.2.2.2.2, rfl⟩, ?_⟩
  simp [sTine, st, Dev.fetched, Dev.cached, Dev.homeOf, Dev.tineOf, Dev.strand, tget, tfind, strandInit]

theorem witness_ready : Ready (sTine { regs := rFirm }) 511 ∧ (sTine { regs := rFirm }).dev.strand 511 =
    { regs := rFirm, run := true, stopped := false } := ⟨ready_of ⟨by decide, rfl⟩ (by decide), by decide⟩

theorem runs_firm (w : BitVec 32) : Runs (sTine { regs := rFirm } [] w) 511 w := ready_tine _ _ _ 255 (by decide)

theorem witness_ready_drill (w : BitVec 32) : Runs (sTine { regs := rDrill } [] w) 511 w ∧ rDrill.drill = true ∧
    rDrill.inex = false := ⟨ready_tine _ _ _ 255 (by decide), rfl, rfl⟩

theorem witness_unlisted : Ready (sTine { regs := rFirm } [] 0xFFFFFFFF) 511 ∧
    listed ((sTine { regs := rFirm } [] 0xFFFFFFFF).dev.fetched [] 511) = false := ⟨(runs_firm _).ready, by decide⟩

theorem witness_fields : (63 : BitVec 16).toNat < 64 ∧ (7 : BitVec 5).toNat < 8 := by decide

theorem witness_load (w : BitVec 32) : let s := sTine { regs := rFirm } [] w
    let ea := (rFirm.rd 1 + (0 : BitVec 16).signExtend 64).toNat
    let o := (rFirm.rd 0).toNat + (7 : BitVec 9).toNat * 2 ^ (3 : BitVec 3).toNat
    let lim := tget 0 rFirm.hlim 7
    Runs s 511 w ∧ rFirm.drill = false ∧ rFirm.inex = false ∧ ea < 2 ^ 48 ∧ (s.dev.region ea).isMemory = true ∧ ea % 8 = 0 ∧ s.has ea 8 ∧
    s.dev.poisoned ea 8 = false ∧ lim.getLsbD 63 = true ∧ lim.getLsbD 62 = true ∧ o + 2 ^ 3 = lim.toNat % 2 ^ 48 ∧
    (s.dev.region ((tget 0 rFirm.hbase 7).toNat + o)).isMemory = true ∧ ((tget 0 rFirm.hbase 7).toNat + o) % 8 = 0 ∧
    s.has ((tget 0 rFirm.hbase 7).toNat + o) 8 ∧ s.dev.poisoned ((tget 0 rFirm.hbase 7).toNat + o) 8 = false := by
  refine ⟨runs_firm w, rfl, rfl, by decide, rfl, by decide, fun _ _ => rfl, rfl, by decide, by decide, by decide, rfl,
    by decide, fun _ _ => rfl, rfl⟩

theorem witness_wide_load (w : BitVec 32) : let s := sTine { regs := rFirm } [] w
    let ea := (rFirm.rd 2 + (0 : BitVec 16).signExtend 64).toNat
    let o := (rFirm.rd 0).toNat + (0 : BitVec 9).toNat * 64
    Runs s 511 w ∧ ea < 2 ^ 48 ∧ (s.dev.region ea).isMemory = true ∧ ea % 64 = 0 ∧ s.has ea 64 ∧ s.dev.poisoned ea 64 = false ∧
    o + 64 = (tget 0 rFirm.hlim 7).toNat % 2 ^ 48 ∧ (tget 0 rFirm.hbase 7).toNat + o = ea := by
  refine ⟨runs_firm w, by decide, rfl, by decide, fun _ _ => rfl, rfl, by decide, by decide⟩

theorem witness_traps : 2 ^ 48 ≤ (rFirm.rd 3 + (0 : BitVec 16).signExtend 64).toNat ∧
    (rFirm.rd 1 + (0xFFFF : BitVec 16).signExtend 64).toNat < 2 ^ 48 ∧
    (rFirm.rd 1 + (0xFFFF : BitVec 16).signExtend 64).toNat % 2 ≠ 0 ∧ (rFirm.rd 4).toNat < 2 ^ 48 ∧ (rFirm.rd 4).toNat % 8 ≠ 0 := by
  decide

theorem witness_targets : rDrill.inCode (BitVec.ofNat 64 rDrill.pc + (0xFFFD : BitVec 16).signExtend 64 * 4).toNat = true ∧
    rDrill.inCode (BitVec.ofNat 64 rDrill.pc + (0x1FFFFD : BitVec 21).signExtend 64 * 4).toNat = true ∧
    rDrill.inCode (BitVec.ofNat 64 rDrill.pc + (1 : BitVec 21).signExtend 64 * 4).toNat = false ∧
    rDrill.inCode (rDrill.rd 0 + (0x1000 : BitVec 16).signExtend 64).toNat = true ∧
    rDrill.inCode (rDrill.rd 0 + (0x1010 : BitVec 16).signExtend 64).toNat = false ∧
    (rFirm.rd 0 + (4 : BitVec 16).signExtend 64).toNat % 4 = 0 ∧ (rFirm.rd 0 + (2 : BitVec 16).signExtend 64).toNat % 4 ≠ 0 := by
  decide

theorem witness_fence : (31 : BitVec 11).toNat < 32 ∧ ∀ p ∈ (sTine { regs := rFirm }).dev.posted, p.master ≠ tagStrand 511 := by
  decide

theorem witness_fence_waits (fn : BitVec 11) : let s := st { (sTine { regs := rFirm } [] (wordRR 0x21 0 0 0 fn)).dev with
      posted := [{ master := tagStrand 511, toHost := true, unit := 0, addr := 0, pasid := none, data := [] }] }
    Runs s 511 (wordRR 0x21 0 0 0 fn) ∧ ¬ ∀ p ∈ s.dev.posted, p.master ≠ tagStrand 511 :=
  let h := runs_firm (wordRR 0x21 0 0 0 fn)
  ⟨⟨⟨⟨rfl, rfl⟩, rfl, rfl, rfl, rfl, rfl, h.ready.slot, nofun, nofun, nofun, rfl, rfl, rfl⟩, h.word⟩,
    fun e => e _ (List.mem_singleton.mpr rfl) rfl⟩

/-- The ticket that g4 names is strand 511's, or there is none; the tine has cached DENTER. -/
def sTicket (a : BitVec 5) : State :=
  st { tine := { strands := [(511, { regs := rFirm, run := true, stopped := false })]
                 tickets := [(2, { strand := 511, dcode := 0x1000, dlen := 16 })]
                 tines := [(127, { icache := [(0, wordRR 0x32 0 a 0 2)] })] } }

theorem witness_ticket : Runs (sTicket 4) 511 (wordRR 0x32 0 4 0 2) ∧ Runs (sTicket 0) 511 (wordRR 0x32 0 0 0 2) ∧
    tfind (sTicket 4).dev.tine.tickets (rFirm.rd 4).toNat = some { strand := 511, dcode := 0x1000, dlen := 16 } ∧
    tfind (sTicket 0).dev.tine.tickets (rFirm.rd 0).toNat = none :=
  ⟨⟨ready_of ⟨by decide, rfl⟩ (by decide), by decide⟩, ⟨ready_of ⟨by decide, rfl⟩ (by decide), by decide⟩, by decide⟩

/-- Drill context of a function that does not exist, or whose work has been purged. -/
theorem witness_stale : ∀ r ∈ [{ rDrill with workid := widMake 4351 0 }, { rDrill with wvoid := true }], let s := sTine { regs := r }
    (s.dev.live = true ∧ s.dev.wlog = []) ∧ s.dev.canIssue 511 = true ∧ (s.dev.strand 511).spec = [] ∧
    (s.dev.strand 511).regs.drill = true ∧ s.dev.staleIn (s.dev.strand 511).regs = true ∧ (s.dev.strand 511).regs.inex = false := by
  decide

theorem witness_double (w : BitVec 32) : Runs (sTine { regs := { rFirm with inex := true } } [] w) 511 w :=
  ready_tine _ _ _ 255 (by decide)

/-- Ports 0 to 5: a put to the mailbox of strand 511, to fold endpoint 15 and to the vault; a get from strand 511's own mailbox and
from fold completion endpoint 15. -/
def rPort : Regs := { qmap := [(0, 0xC0000000000001FF), (1, 0xC00000000000400F), (2, 0xC000000000008000), (3, 0x80000000000001FF),
  (4, 0x800000000000500F)] }

theorem witness_put : let q (n : Nat) := [(511, List.replicate n {}), (4 * 4096 + 15, List.replicate n {}),
      (8 * 4096, List.replicate (4 * n) {})]
    let s (n : Nat) := sTine { regs := rPort } (q n)
    (∀ n w, Runs (sTine { regs := rPort } (q n) w) 511 w) ∧ rPort.drill = false ∧ (s 15).dev.staleIn rPort = false ∧
    (tget 0 rPort.qmap 0).toNat = 2 ^ 63 + 2 ^ 62 + 0 * 4096 + 511 ∧ (s 15).dev.epFallow 0 511 = false ∧
    (tget 0 rPort.qmap 1).toNat = 2 ^ 63 + 2 ^ 62 + 4 * 4096 + 15 ∧ (s 15).dev.epFallow 4 15 = false ∧
    (tget 0 rPort.qmap 2).toNat = 2 ^ 63 + 2 ^ 62 + 8 * 4096 + 0 ∧ (s 15).dev.epFallow 8 0 = false ∧
    ((s 15).dev.queue 511).length < 16 ∧ 16 ≤ ((s 16).dev.queue 511).length ∧ ((s 15).dev.queue (4 * 4096 + 15)).length < 16 ∧
    16 ≤ ((s 16).dev.queue (4 * 4096 + 15)).length ∧ ((s 15).dev.queue (8 * 4096)).length < 64 ∧
    64 ≤ ((s 16).dev.queue (8 * 4096)).length :=
  ⟨fun _ _ => ready_tine _ _ _ 255 (by decide), by decide⟩

theorem witness_get : let q (n : Nat) := [(511, List.replicate n {}), (5 * 4096 + 15, List.replicate n {})]
    let s (n : Nat) := sTine { regs := rPort } (q n)
    (∀ n w, Runs (sTine { regs := rPort } (q n) w) 511 w) ∧ (s 1).dev.queue 511 = [{}] ∧ (s 1).dev.queue (5 * 4096 + 15) = [{}] ∧
    (tget 0 rPort.qmap 3).toNat = 2 ^ 63 + 0 * 4096 + 511 ∧ (tget 0 rPort.qmap 4).toNat = 2 ^ 63 + 5 * 4096 + 15 ∧
    (s 0).dev.queue 511 = [] ∧ (s 0).dev.epFallow 0 511 = false ∧ (s 0).dev.queue (5 * 4096 + 15) = [] ∧
    (s 0).dev.epFallow 5 15 = false ∧ (tget 0 rPort.qmap 0).toNat = 2 ^ 63 + 2 ^ 62 + 511 :=
  ⟨fun _ _ => ready_tine _ _ _ 255 (by decide), rfl, rfl, by decide⟩

/-- The mask in g1 names port 63 of group 0, a get from the strand's own mailbox, which holds a message or none. -/
def rWait : Regs := { g := [(1, 0x8000000000000000)], qmap := [(63, 0x80000000000001FF)] }
def sWait (n : Nat) (w : BitVec 32 := 0) : State := sTine { regs := rWait, lastPort := 63 } [(511, List.replicate n {})] w

theorem witness_wait : (∀ n w, Runs (sWait n w) 511 w) ∧ rWait.drill = false ∧
    (let s := sWait 1
     let at' (j : Nat) : Nat := 64 * 0 + ((if (s.dev.strand 511).lastPort / 64 = 0 then (s.dev.strand 511).lastPort % 64 + 1 else 0) + j) % 64
     ((rWait.rd 1).getLsbD (at' 63 % 64) = true ∧ ∃ q, portOf 511 rWait (at' 63) = some q ∧ s.dev.portReady q = true) ∧
     ∀ j', j' < 63 → ¬ (rWait.rd 1).getLsbD (at' j' % 64) = true) ∧
    (∀ q, portOf 511 rWait 63 = some q → (sWait 0).dev.portReady q = false) ∧ rWait.rd 0 = 0 ∧ (rWait.rd 0).toNat ≤ (sWait 0).dev.clk.mono ∧
    (sWait 0).dev.clk.mono < (rWait.rd 1).toNat :=
  ⟨fun _ _ => ready_tine _ _ _ 63 (by decide), rfl, ⟨⟨by decide, ⟨0, 511, false⟩, by decide⟩, by decide⟩,
    fun q h => by (have e : portOf 511 rWait 63 = some ⟨0, 511, false⟩ := by decide); rw [e] at h; cases h; decide, by decide⟩

theorem witness_run_control : let s := State.reset
    s.Live ∧ s.dev.hasStrand 511 = true ∧ (s.dev.strand 511).lost = false ∧ s.dev.strandGated 511 = false ∧
    (1 : Word).getLsbD 0 = true ∧ (1 : Word).getLsbD 2 = false ∧ (5 : Word).getLsbD 2 = true ∧ (s.dev.strand 511).run = false ∧
    s.dev.hasStrand 512 = false ∧ (flds [(POWER_GATE.STATE, [0x2F], 2)]).strandGated 511 = true ∧
    ((st { tine := { strands := [(511, { lost := true })] } }).dev.strand 511).lost = true :=
  ⟨⟨by decide, rfl⟩, by decide⟩

/-- Strands 508 and 511 run on one tine, with SPRIs as given, and the context that issued last. -/
def sPair (a b turn : Nat) : State :=
  st { tine := { strands := [(508, { regs := { spri := a }, run := true }), (511, { regs := { spri := b }, run := true })]
                 tines := [(127, { turn := turn })] } }

theorem witness_priority : let s := sPair 3 1 4
    let u := sPair 2 2 0
    let t := 127
    (s.dev.homeOf 511).1 = t ∧ (0, 508) ∈ s.dev.readyCtxs t ∧ (s.dev.strand 511).regs.spri < (s.dev.strand 508).regs.spri ∧
    (s.dev.tineOf t).yielded ≠ some 508 ∧ (s.dev.tineOf t).first = none ∧ (3, 511) ∈ u.dev.readyCtxs t ∧
    (u.dev.tineOf t).yielded ≠ some 511 ∧ (u.dev.tineOf t).turn < 5 ∧
    (∀ e ∈ u.dev.readyCtxs t, (u.dev.strand e.2).regs.spri = (u.dev.strand 511).regs.spri ∧
      (3 + 4 - (u.dev.tineOf t).turn) % 5 ≤ (e.1 + 4 - (u.dev.tineOf t).turn) % 5) ∧ u.dev.takesSlot [] 511 = true := by
  decide

theorem witness_run_stop : let s := sTine { wait := some (.load (.general 8 false) 1 0 0) }
    let s' := sTine {}
    let s'' := st { tine := { strands := [(511, { stopped := false })] } }
    (0 : Word).getLsbD 0 = false ∧ (s.dev.strand 511).spec = [] ∧ (s.dev.strand 511).run = true ∧
    (s.dev.strand 511).wait = some (.load (.general 8 false) 1 0 0) ∧ (s'.dev.strand 511).run = true ∧ (s'.dev.strand 511).wait = none ∧
    (s''.dev.strand 511).run = false ∧ (s''.dev.strand 511).wait = none ∧ (s''.dev.strand 511).stopped = false := by decide

theorem witness_tine_fails : State.reset.Live ∧ State.reset.dev.hasTine 127 = true ∧ (State.reset.dev.tineOf 127).failed = false ∧
    (State.reset.dev.strand 511).lost = false ∧ (∀ e ∈ State.reset.dev.tine.tines, e.2.spare ≠ some 511) ∧
    (State.reset.dev.tineOf 127).spare = none ∧ State.reset.dev.hasTine 128 = false ∧
    ((st { tine := { tines := [(127, { failed := true })] } }).dev.tineOf 127).failed = true := ⟨⟨by decide, rfl⟩, by decide⟩

/-! ### Storage and data movers -/

/-- Register words set. -/
def words (l : List (RegName × List Nat × Word)) (d : Dev) : Dev := l.foldl (fun d e => d.setReg e.1 e.2.2 e.2.1) d

/-- Storage port 191 with fields set. -/
def sPort (fs : List (Fld × List Nat × Nat)) (g : StgSt := {}) : State :=
  st (flds ((STORAGE_PORT_PLAN.PRESENT, [191], 1) :: (STORAGE_PORT_CTL.ENABLE, [191], 1) :: fs)
    { stg := g, pw := { on := true, strips := true } })

theorem witness_port : (sPort []).Live ∧ (sPort []).dev.hasPort 191 = true ∧ (sPort []).dev.flag STORAGE_PORT_CTL.ENABLE [191] = true ∧
    (sPort []).dev.portUp 191 = false ∧ (sPort []).dev.stripOn (4 + 191 / 64) = true ∧ (sPort []).dev.targetsOf 191 = [] ∧
    (sPort [(STORAGE_PORT_STATUS.STATE, [191], 2)]).dev.portUp 191 = true ∧
    (sPort [(STORAGE_PORT_STATUS.STATE, [191], 2)]).dev.targetsOf 191 = [] ∧
    (sPort [(STORAGE_PORT_STATUS.STATE, [191], 4)]).dev.fld STORAGE_PORT_STATUS.STATE [191] = 4 ∧
    (sPort [(STORAGE_PORT_STATUS.STATE, [191], 4)]).dev.targetsOf 191 = [] := ⟨⟨by decide, rfl⟩, by decide +kernel⟩

theorem witness_hot_reset : (3 : Word).getLsbD 0 = true ∧ (3 : Word).getLsbD 1 = true ∧ (0 : Word).getLsbD 0 = false ∧
    (1 : Word).getLsbD 1 = false ∧ (sPort [(STORAGE_PORT_CTL.ENABLE, [191], 0)]).dev.flag STORAGE_PORT_CTL.ENABLE [191] = false := by decide

theorem witness_cfg : (sPort []).dev.flag STORAGE_CFG_CMD.BUSY = false ∧
    (sPort [(STORAGE_CFG_CMD.BUSY, [], 1)]).dev.flag STORAGE_CFG_CMD.BUSY = true ∧
    (sPort [(STORAGE_CFG_CMD.BUSY, [], 1)]).dev.stg.cfgDue ≤ (sPort [(STORAGE_CFG_CMD.BUSY, [], 1)]).dev.now := by decide

/-- Port 191's window 3 opens the page at 0 for writes, and window 2 all up to the first page above HBM. -/
def sInbound : State := sPort [(STORAGE_PORT_STATUS.STATE, [191], 2), (STORAGE_INWIN_LIM.VALID, [191, 3], 1),
  (STORAGE_INWIN_LIM.WRITE, [191, 3], 1), (STORAGE_INWIN_LIM.VALID, [191, 2], 1), (STORAGE_INWIN_BASE.BASE, [191, 2], 0x3FFFFFF),
  (STORAGE_INWIN_LIM.LIMIT, [191, 2], 0x4000000)]

theorem witness_inbound : let d := sInbound.dev
    let opens (k addr : Nat) (write : Bool) := (List.range 4).any fun i => d.flag STORAGE_INWIN_LIM.VALID [191, i] &&
      (!write || d.flag STORAGE_INWIN_LIM.WRITE [191, i]) && d.fld STORAGE_INWIN_BASE.BASE [191, i] * 4096 ≤ addr &&
      addr + k ≤ (d.fld STORAGE_INWIN_LIM.LIMIT [191, i] + 1) * 4096
    d.portUp 191 = true ∧ d.region 4095 = .hbm ∧ d.absent 4095 = false ∧ opens 1 4095 true = true ∧ opens 1 4095 false = true ∧
    opens 2 4095 true = false ∧ inHbm 4095 1 = true ∧ opens 2 0x3FFFFFFFFF false = true ∧ d.holeIn 0x3FFFFFFFFF 2 = true := by decide

/-- Channel 63 of plot 3 has an active set. -/
def sDma (ws : List (RegName × List Nat × Word)) (fs : List (Fld × List Nat × Nat)) (ch : DmaCh) (q : List (Nat × QpSt)) : State :=
  st (words ws (flds ((DMA_STATUS.ACTIVE, [3, 63], 1) :: fs)
    { dma := [(255, ch)], stg := { qps := q, loads := [(511, 0)] }
      tine := { strands := [(511, { wait := some (.load (.general 8 false) 31 0x1FFF00000000 0) })] } }))

theorem witness_storage_timeout : let s := sDma [] [] {} []
    s.Live ∧ tfind s.dev.stg.loads 511 = some 0 ∧
    (s.dev.strand 511).wait = some (.load (.general 8 false) 31 0x1FFF00000000 0) ∧ s.dev.region 0x1FFF00000000 = .storage :=
  ⟨⟨by decide, rfl⟩, by decide⟩

def copySet (src : Word) : List (RegName × List Nat × Word) :=
  [(.DMA_ACTIVE, [3, 63, 0], 1), (.DMA_ACTIVE, [3, 63, 1], src), (.DMA_ACTIVE, [3, 63, 2], 64), (.DMA_ACTIVE, [3, 63, 3], 16)]

/-- A copy from storage, or one to storage whose BARRIER read is in flight, for as long as its completions may take. -/
def sStgCopy (barrier : Bool) : State :=
  let s := sDma (if barrier then [(.DMA_ACTIVE, [3, 63, 0], 1), (.DMA_ACTIVE, [3, 63, 2], 0x1FFF00000000), (.DMA_ACTIVE, [3, 63, 3], 16)]
    else copySet 0x1FFF00000000) [] { barrier := barrier } []
  { s with dev := { s.dev with clk := { mono := 2 ^ 48 } } }

theorem witness_storage_copy : ∀ barrier, let d := (sStgCopy barrier).dev
    let x := d.dmaSet .DMA_ACTIVE 3 63
    let at' := leAt x (if (d.dmaCh 3 63).barrier then 16 else 8) 8
    d.dmaReady 3 63 = true ∧ leAt x 0 1 = 1 ∧ regionOf at' = .storage ∧ dmaBadCmd x = false ∧ (d.dmaCh 3 63).barrier = barrier ∧
    (d.dmaCh 3 63).since + max 1 (d.fld STORAGE_PORT_CTL.CPL_TO
      [d.fld STORAGE_TGT_BIND.PORT [(at' - 0x100000000000) / 0x100000000]]) * 1000000 ≤ d.now := by decide +kernel

/-- An NVME descriptor for queue pair 65535 of target 4095. -/
def sNvme (run : Nat) : State := sDma [(.DMA_ACTIVE, [3, 63, 0], 2), (.DMA_ACTIVE, [3, 63, 1], 64), (.DMA_ACTIVE, [3, 63, 4], 65535)]
  [(STORAGE_TGT_STATUS.PRESENT, [4095], 1), (STORAGE_QP_CTL.RUN, [65535], run), (STORAGE_QP_SQ.LOG2SIZE, [65535], 1)] {} []

theorem witness_nvme : let d := (sNvme 1).dev
    let b := d.dmaSet .DMA_ACTIVE 3 63
    (sNvme 1).Live ∧ d.dmaReady 3 63 = true ∧ leAt b 0 1 = 2 ∧ (d.dmaCh 3 63).cid = none ∧ d.stale (d.dmaCh 3 63).wid = false ∧
    dmaBadCmd b = false ∧ leAt b 32 2 = 65535 ∧ d.targetPresent 4095 = true ∧ d.copyRange (leAt b 8 8) 64 = true ∧ leAt b 16 8 = 0 ∧
    (d.region (leAt b 8 8)).isMemory = true ∧ d.poisoned (leAt b 8 8) 64 = false ∧ d.flag STORAGE_QP_CTL.RUN [65535] = true ∧
    d.qpInflight 65535 + 1 < 2 ^ d.fld STORAGE_QP_SQ.LOG2SIZE [65535] ∧
    d.engRead [] (tagDma 3 63) (leAt b 8 8) 64 [] = (List.replicate 64 0, d) ∧
    (List.range (2 ^ d.fld STORAGE_QP_SQ.LOG2SIZE [65535])).find? (fun i => (tfind (d.qp 65535).cmds i).isNone) = some 0 ∧
    (sNvme 0).dev.flag STORAGE_QP_CTL.RUN [65535] = false := ⟨⟨by decide, rfl⟩, by decide +kernel⟩

/-- Queue pair 65535 with a command in flight, or none, and a first completion entry of a phase. -/
def sCq (phase : Byte) (c : List (Nat × NvmeCmd)) : State :=
  { mem := [(14, phase)], dev := (sDma [] [(STORAGE_QP_CTL.STOPPED, [65535], 0), (STORAGE_QP_CTL.RUN, [65535], 1),
    (STORAGE_QP_CQ.LOG2SIZE, [65535], 1), (STORAGE_QP_STATUS.PHASE, [65535], 1)] {} [(65535, { cmds := c })]).dev }

def inFlight (op : NvmeOp := .other) : NvmeCmd := { plot := 3, ch := 63, due := 0, op := op }

theorem witness_cq : let s := sCq 1 [(0, inFlight)]
    let d := s.dev
    let phase (s : State) (i : Nat) := b2n (bit (leAt (s.dev.ldBytes s.mem (s.dev.fld STORAGE_QP_CQ.BASE [65535] * 4096 + 16 * i) 16) 14 2) 0)
    s.Live ∧ d.flag STORAGE_QP_CTL.STOPPED [65535] = false ∧ d.fld STORAGE_QP_CQ.LOG2SIZE [65535] ≠ 0 ∧
    d.fld STORAGE_QP_STATUS.CQ_HEAD [65535] = 0 ∧ phase s 0 = d.fld STORAGE_QP_STATUS.PHASE [65535] ∧
    phase s 1 ≠ d.fld STORAGE_QP_STATUS.PHASE [65535] ∧ phase (sCq 2 []) 0 ≠ (sCq 2 []).dev.fld STORAGE_QP_STATUS.PHASE [65535] ∧
    tfind (d.qp 65535).cmds (leAt (d.ldBytes s.mem 0 16) 12 2) = some inFlight ∧ inFlight.late = false ∧ inFlight.due ≤ d.now ∧
    (inFlight.plot < 4 ∧ inFlight.ch < 64) ∧ leAt (d.dmaSet .DMA_ACTIVE 3 63) 16 8 = 0 ∧ tfind ((sCq 1 []).dev.qp 65535).cmds 0 = none ∧
    d.flag STORAGE_QP_CTL.RUN [65535] = true ∧ d.qpWaiters 65535 = [] := ⟨⟨by decide, rfl⟩, by decide +kernel⟩

/-- The device once the entry at the head, of a command that asked for `op`, has been taken. -/
def cqTaken (s : State) (op : NvmeOp) : Dev :=
  let d := s.dev
  let status := leAt (d.ldBytes s.mem 0 16) 14 2 / 2
  let y := ((((d.setQp 65535 { d.qp 65535 with cmds := [] }).dmaEnd 3 63 (if status = 0 then 0 else 8) status).qpSettle 65535)).setFld
    STORAGE_QP_STATUS.CQ_HEAD 1 [65535]
  let y := { y with glean := { y.glean with quietFrom := [(4095, d.now)] } }
  match op with
  | .row row => if status = 0 then y.rowDone (y.node, 4095, row) else y.rowFail (y.node, 4095, row) true none
  | .label => if status = 0 then y.labelRead 4095 [] else y
  | .other => y

theorem witness_cq_taken : ∀ c ∈ [(1, NvmeOp.other), (3, .other), (1, .row 7), (3, .row 7), (1, .label), (3, .label)],
    let s := sCq c.1 [(0, inFlight c.2)]
    let y := cqTaken s c.2
    let phase (d : Dev) (i : Nat) := b2n (bit (leAt (d.ldBytes s.mem (d.fld STORAGE_QP_CQ.BASE [65535] * 4096 + 16 * i) 16) 14 2) 0)
    tfind (s.dev.qp 65535).cmds 0 = some (inFlight c.2) ∧ (inFlight c.2).late = false ∧ (inFlight c.2).due ≤ s.dev.now ∧
    phase s.dev 0 = s.dev.fld STORAGE_QP_STATUS.PHASE [65535] ∧ phase s.dev 1 ≠ s.dev.fld STORAGE_QP_STATUS.PHASE [65535] ∧
    phase y (y.fld STORAGE_QP_STATUS.CQ_HEAD [65535]) ≠ y.fld STORAGE_QP_STATUS.PHASE [65535] := by decide +kernel

theorem witness_dma : let d := (sDma (copySet 0) [(DMA_STATUS.HALTED, [3, 62], 1)] {} []).dev
    let b := d.dmaSet .DMA_ACTIVE 3 63
    (st d).Live ∧ d.flag DMA_CTL.GO [3, 63] = false ∧ (1 : Word).getLsbD 2 = false ∧ d.flag DMA_STATUS.HALTED [3, 62] = true ∧
    (d.queue (epKey 3 255)).length < 16 ∧ (d.dmaCh 3 63).held = [] ∧ d.dmaActive 3 63 = true ∧ d.flag DMA_STATUS.HALTED [3, 63] = false ∧
    leAt b 0 1 = 1 ∧ dmaBadCmd b = false ∧ d.stale (d.dmaCh 3 63).wid = false ∧ d.copyRange (leAt b 8 8) (leAt b 24 4) = true ∧
    d.copyRange (leAt b 16 8) (leAt b 24 4) = true ∧ d.copyBlocked b = none ∧ (d.region (leAt b 8 8)).isMemory = true ∧
    d.poisoned (leAt b 8 8) (leAt b 24 4) = false ∧ leAt b 4 1 < d.fld DMA_STATUS.TRIES [3, 63] + 1 ∧
    d.fld DMA_STATUS.TRIES [3, 62] + 1 ≤ 15 ∧ d.posted = [] := ⟨⟨by decide, rfl⟩, by decide +kernel⟩

theorem witness_dma_retries : let d := (sDma [(.DMA_ACTIVE, [3, 63, 0], 0xF00000001), (.DMA_ACTIVE, [3, 63, 3], 16)] [] {} []).dev
    let b := d.dmaSet .DMA_ACTIVE 3 63
    dmaBadCmd b = false ∧ d.fld DMA_STATUS.TRIES [3, 63] + 1 ≤ leAt b 4 1 := by decide +kernel

theorem witness_dma_promote : let d := (sDma [] [(DMA_STATUS.ACTIVE, [3, 63], 0), (DMA_CTL.GO, [3, 63], 1)] {} []).dev
    let u := (sDma [] [] { held := [{}] } []).dev
    3 < d.plots ∧ d.dmaActive 3 63 = false ∧ d.flag DMA_CTL.GO [3, 63] = true ∧ d.dmaOff 3 63 = false ∧ (u.dmaCh 3 63).held = [{}] ∧
    u.dmaActive 3 63 = true ∧ d.flag DMA_STATUS.SHEMPTY [3, 63] = true ∧ (d.dmaCh 3 63).failed = false := by decide +kernel

/-- A copy whose BARRIER read is in flight; one from the host that is due; GO from a strand whose work is purged; a part without
plot 3. -/
theorem witness_dma_more :
    let ready (d : Dev) := d.dmaActive 3 63 = true ∧ d.flag DMA_STATUS.HALTED [3, 63] = false ∧
      (d.dmaCh 3 63).held = [] ∧ leAt (d.dmaSet .DMA_ACTIVE 3 63) 0 1 = 1 ∧ dmaBadCmd (d.dmaSet .DMA_ACTIVE 3 63) = false ∧
      d.stale (d.dmaCh 3 63).wid = false
    let d := (sDma [(.DMA_ACTIVE, [3, 63, 0], 0x101), (.DMA_ACTIVE, [3, 63, 1], 0), (.DMA_ACTIVE, [3, 63, 2], 0x80000000000),
      (.DMA_ACTIVE, [3, 63, 3], 16)] [(HOST_APT_CTL.VALID, [0], 1), (HOST_FN_STATE.ENABLED, [0], 1), (HOST_FN_STATE.BME, [0], 1),
      (HOST_LINK_STATUS.STATE, [0], 2), (BOOT_STATUS.PHASE, [], 6)] { barrier := true } []).dev
    let h := { (sDma (copySet 0x80000000000) [] {} []).dev with clk := { mono := 2 ^ 48 } }
    let b := h.dmaSet .DMA_ACTIVE 3 63
    let u : Dev := { part := .t256, tine := { strands := [(5, { regs := { wvoid := true } })] } }
    ready d ∧ d.copyRange 0 16 = true ∧ d.copyRange 0x80000000000 16 = true ∧ d.copyBlocked (d.dmaSet .DMA_ACTIVE 3 63) = none ∧
    (d.dmaCh 3 63).barrier = true ∧ ready h ∧ regionOf (leAt b 8 8) = .host ∧ (h.dmaCh 3 63).barrier = false ∧
    (h.dmaCh 3 63).since + cplTimeoutNs (h.fn (h.aptFunc (leAt b 8 8))).cplTo ≤ h.now ∧ (st u).Live ∧ u.plots ≤ 2 ∧
    (u.strand 5).regs.wvoid = true ∧ u.flag DMA_CTL.GO [1, 63] = false := by
  refine ⟨?_, ?_, ?_, ?_, ?_, ?_, ?_, ?_, ?_, ⟨by decide, rfl⟩, ?_⟩ <;> decide +kernel

/-- Plot 3's buffer manager has two cells. -/
def sBufm (m : Bufm) : State :=
  st (flds [(BUFM_CFG.EN, [3], 1), (BUFM_CFG.COUNT, [3], 2)] { stg := { bufms := [(3, m)] } })

theorem witness_cells : (sBufm {}).Live ∧ (sBufm {}).dev.bufmEn 3 = true ∧ ((sBufm { freed := [1] }).dev.bufm 3).freed = [1] ∧
    ((sBufm {}).dev.bufm 3).fresh < (sBufm {}).dev.bufmCells 3 ∧ ((sBufm { fresh := 2 }).dev.bufm 3).freed = [] ∧
    (sBufm { fresh := 2 }).dev.bufmCells 3 ≤ ((sBufm { fresh := 2 }).dev.bufm 3).fresh ∧
    (sBufm {}).dev.cellAt 3 0x20018000100 = some 1 ∧ (sBufm {}).dev.cellAt 3 0x20018000200 = none ∧
    tfind ((sBufm { owner := [(1, 65536)] }).dev.bufm 3).owner 1 = some (65535 + 1) ∧
    tfind ((sBufm {}).dev.bufm 3).owner 1 = none ∧ (0 : Word).getLsbD 63 = false := ⟨⟨by decide, rfl⟩, by decide⟩

/-! ### Faults -/

/-- The collector with unit 21's queue and held reports, open windows, at 2 ms. -/
def sFault (q h : List Report) (w : List Window) : State :=
  st (flds [(FAULT_CTL.RING_EN, [], 1), (FAULT_CTL.NOTIFY, [], 0)]
    { clk := { mono := 2000000 }, flt := { queues := tset [] [] 21 q, held := tset [] [] 21 h, windows := w } })

def repC : Report := { code := 0x0103, kind := 12, unit := 21 }
def repN : Report := { code := 0x0001, kind := 9, unit := 63 }
def winC (n : Nat) : Window := { code := 0x0103, kind := 12, unit := 21, due := 2000000, count := n, last := repC }

theorem witness_fault_report : let d := (sFault [repC] [] []).dev
    (sFault [repC] [] []).Awake ∧ tget [] d.flt.queues 21 = [repC] ∧ faultClass repC.code = some 1 ∧ d.flt.windows = [] ∧
    d.flag FAULT_CTL.RING_EN = true ∧ chooseSlot (d.reg .FAULT_RING_ACK).toNat d.flt.slots = (0, false) ∧
    bit (d.fld FAULT_CTL.NOTIFY) 0 = false ∧ tget [] (sFault [repC] [] [winC 0]).dev.flt.queues 21 = [repC] ∧
    (sFault [repC] [] [winC 0]).dev.flt.windows = [winC 0] ∧ (winC 0).code = repC.code ∧ (winC 0).kind = repC.kind ∧
    (winC 0).unit = repC.unit ∧ tget [] (sFault [repN] [] []).dev.flt.queues 21 = [repN] ∧ faultClass repN.code = some 0 :=
  ⟨⟨by decide, rfl⟩, by decide⟩

theorem witness_fault_queue : tget [] (sFault [] [repC] []).dev.flt.held 21 = [repC] ∧
    (tget [] (sFault [] [repC] []).dev.flt.queues 21).length < 1024 := by decide

theorem witness_window : let d := (sFault [] [] [winC 3]).dev
    d.flt.windows = [winC 3] ∧ (winC 3).due ≤ d.now ∧ (winC 0).count = 0 ∧ (winC 3).count ≠ 0 ∧
    faultClass (winC 3).code = some 1 ∧ d.flag FAULT_CTL.RING_EN = true ∧
    chooseSlot (d.reg .FAULT_RING_ACK).toNat d.flt.slots = (0, false) ∧ bit (d.fld FAULT_CTL.NOTIFY) 0 = false := by decide

theorem witness_fatal : (st {}).Awake ∧ (st {}).Live ∧ (st {}).Idle ∧ (st {}).dev.flt.safe = false ∧ (1 : Word).getLsbD 0 = true ∧
    (2 : Word).getLsbD 0 = false := ⟨⟨by decide, rfl⟩, ⟨by decide, rfl⟩, rfl, by decide⟩

theorem witness_spare : let d : Dev := { flt := { sparesUsed := [(2, 1), (3, 2)] } }
    tfind d.flt.pcFailed (3 * 64 + 63) = none ∧ tfind d.flt.pcFailed (2 * 64 + 63) = none ∧ tget 0 d.flt.sparesUsed 2 < 2 ∧
    2 ≤ tget 0 d.flt.sparesUsed 3 := by decide

/-- A device under test, and the values that inject faults 0x0103 and 0x0F01. -/
def sInject : State := st { flt := { testMode := true }, boot := { factory := true } }

theorem witness_inject : let e (v : Word) := sInject.dev.regWrite .FAULT_INJ_CTL [] ⟨0x6000, 8, 0, v⟩
    sInject.Awake ∧ (st {}).dev.flt.testMode = false ∧ sInject.dev.flt.testMode = true ∧ sInject.dev.boot.factory = true ∧
    sInject.dev.flt.safe = false ∧ (e 0x8000000000050103).flag FAULT_INJ_CTL.GO = true ∧
    (e 0x8000000000050103).fld FAULT_INJ_CTL.CODE = 0x0103 ∧ (e 0x8000000000000F01).flag FAULT_INJ_CTL.GO = true ∧
    (e 0x8000000000000F01).fld FAULT_INJ_CTL.CODE = 0x0F01 := ⟨⟨by decide, rfl⟩, by decide⟩

/-! ### Boot -/

/-- Link 0 is up, so PF0 answers; no image has been released. -/
def sBoot (fs : List (Fld × List Nat × Nat)) (b : BootSt) : State :=
  st (flds ([(HOST_FN_STATE.ENABLED, [0], 1), (HOST_FN_STATE.MSE, [0], 1), (HOST_LINK_STATUS.STATE, [0], 2)] ++ fs)
    { boot := b, pw := { on := true, hbm := true }, clk := { mono := 2000000000 } })

theorem witness_mailbox_open : (sBoot [] {}).Live ∧ (sBoot [] {}).dev.released = false ∧ (sBoot [] {}).dev.phase = 0 ∧
    (sBoot [] {}).dev.pw.hbm = true ∧ (sBoot [] {}).dev.pw.start + 60000000 ≤ (sBoot [] {}).dev.now := ⟨⟨by decide, rfl⟩, by decide⟩

theorem witness_push : let s := sBoot [] { waiting := true }
    let u := sBoot [] { owner := some false }
    let v := sBoot [] { owner := some true }
    s.dev.barUp 0 = true ∧ s.dev.boot.waiting = true ∧ s.dev.boot.owner = none ∧
    s.dev.boot.waitFrom + 2000000000 ≤ s.dev.now ∧ s.dev.boot.slots = [] ∧ u.dev.boot.owner = some false ∧
    u.dev.boot.lastCmd + 2000000000 ≤ u.dev.now ∧ v.dev.boot.owner = some true ∧
    leAt ([0, 0xFF, 0xFF, 3, 7] : List Byte) 0 4 + 1 ≤ 0x4000000 ∧ leAt ([0, 0xFF, 0xFF, 3, 7] : List Byte) 0 4 % 4 = 0 := by decide

theorem witness_push_last : (0x3FFFFFF + 1 ≤ 0x4000000) ∧ 0x3C00000 % 4096 = 0 ∧ 0x3C00000 + 0x400000 ≤ 0x4000000 := by decide

theorem witness_slot_loaded : let s := sBoot [(BOOT_STATUS.PHASE, [], 4)] { slots := [1] }
    s.dev.phase = 4 ∧ s.dev.boot.waiting = false ∧ s.dev.boot.slots = [1] ∧ s.dev.released = false := by decide

/-- Slot B with marks, a run of an image and keys. -/
def sFlash (fs : List (Fld × List Nat × Nat)) (marks : List (Nat × Byte)) : State :=
  st (flds fs { boot := { flash := marks, keys := [(0, List.replicate 32 0), (7, List.replicate 32 0)]
                          run := some { entry := 4096, rollback := 256, fuseOk := true, key := 7 } } })

theorem witness_flash : let s := sFlash [] []
    let u := sFlash [(BOOT_STATUS.RUN_SLOT, [], 2), (BOOT_STATUS.PENDING, [], 1)] []
    s.Live ∧ s.dev.flag BOOT_STATUS.PENDING = false ∧ s.dev.fld BOOT_STATUS.RUN_SLOT ≠ 2 ∧
    u.dev.flag BOOT_STATUS.PENDING = true ∧ u.dev.fld BOOT_STATUS.RUN_SLOT = 2 ∧ s.dev.mark 1 0 = false ∧
    s.dev.inMemory (s.dev.fld BOOT_FLASH_ADDR.ADDR) 0x400000 = true ∧ u.dev.flashRead (slotState 1 + 5) 1 = [0xFF] ∧
    (s.dev.slotImage 1 0 4).all (· = 0xFF) = true := ⟨⟨by decide, rfl⟩, by decide⟩

theorem witness_flash_slot : let s := sFlash [] [(0x4000000, 0x54), (0x8010000, 0)]
    (s.dev.slotImage 1 0 4).all (· = 0xFF) = false ∧ s.dev.mark 1 0 = true ∧ s.dev.mark 1 1 = false := by decide

theorem witness_fuses : let d := (sFlash [] []).dev
    let r : RunImage := { entry := 4096, rollback := 256, fuseOk := true, key := 7 }
    d.boot.run = some r ∧ r.fuseOk = true ∧ d.boot.counter < r.rollback ∧ tfind d.boot.keys 6 = none ∧
    d.inMemory (d.fld BOOT_FLASH_ADDR.ADDR) 32 = true ∧ r.key ≠ 0 ∧
    ((List.range 8).filter fun j => (tfind d.boot.keys j).isSome && !bit d.boot.revoked j) ≠ [0] ∧
    (st { boot := { run := some {} } }).dev.boot.run = some {} := by decide

/-! ### Power -/

def sGate (g st' req failed : Nat) (since : Nat := 0) (u : TineSt := {}) : State :=
  st { flds [(POWER_GATE.STATE, [g], st'), (POWER_GATE.REQ, [g], req), (POWER_GATE.FAILED, [g], failed)]
    { clk := { mono := 100000 }, pw := { on := true, gates := [(g, { since := since })] } } with tine := u }

theorem witness_gate : (sGate 4 0 0 0).Live ∧ (∀ g ∈ [0, 4, 24, 28, 0x20, 0x2F, 0x30, 0x36], (sGate g 0 0 0).dev.hasGate g = true ∧
    (sGate g 0 0 0).dev.gateState g = 0) ∧ (1 : Word).getLsbD 0 = true ∧ (0 : Word).getLsbD 0 = false := ⟨⟨by decide, rfl⟩, by decide⟩

theorem witness_gate_release : (sGate 0x2F 2 1 0).dev.gateState 0x2F = 2 ∧ (sGate 0x2F 2 1 0).dev.flag POWER_GATE.FAILED [0x2F] = false ∧
    (sGate 0x2F 2 1 1).dev.flag POWER_GATE.FAILED [0x2F] = true := by decide

theorem witness_gate_drain : (sGate 0x20 1 1 0).dev.gateState 0x20 = 1 ∧ (sGate 0x20 1 1 0).dev.now = 100000 ∧
    (tget ({} : GateSt) (sGate 0x20 1 1 0).dev.pw.gates 0x20).cut = false ∧ (sGate 0x20 1 1 0).dev.gateBusy 0x20 = false ∧
    (sGate 0x20 1 1 0 0 { strands := [(31, { stopped := false })] }).dev.gateBusy 0x20 = true ∧
    (sGate 0x20 3 0 0).dev.gateState 0x20 = 3 ∧ (sGate 0x20 3 0 0).dev.flag POWER_GATE.REQ [0x20] = false := by decide

theorem witness_gpio : let d := flds [(POWER_GPIO_CFG.PARKED, [31], 1)]
    (st d).Live ∧ d.flag POWER_GPIO_CFG.PARKED [31] = true ∧ d.flag POWER_GPIO_CFG.PARKED [30] = false ∧
    d.fld POWER_GPIO_CFG.FUNC [30] = 0 ∧ (5 : Word).toNat % 16 = 5 ∧ (6 : Word).toNat % 16 = 6 := ⟨⟨by decide, rfl⟩, by decide⟩

def sAsleep : State := st (flds [(POWER_SLEEP_CTL.WAKE_EN, [], 0x12)] { pw := { on := true, asleep := true } })
def sSleepable (n : Nat) : State := st (flds [(POWER_SLEEP_CTL.WAKE_EN, [], n)])

theorem witness_reset : (sSleepable 2).Awake ∧ (sSleepable 2).dev.fld POWER_SLEEP_CTL.WAKE_EN ≠ 0 ∧
    (sSleepable 0).dev.fld POWER_SLEEP_CTL.WAKE_EN = 0 := ⟨⟨by decide, rfl⟩, by decide⟩

theorem witness_wake : sAsleep.On ∧ sAsleep.dev.pw.asleep = true ∧ sAsleep.dev.boot.run = none ∧
    Nat.land (sAsleep.dev.wakeEvents [] 2) (sAsleep.dev.fld POWER_SLEEP_CTL.WAKE_EN) ≠ 0 ∧
    Nat.land (sAsleep.dev.wakeEvents [] 4) (sAsleep.dev.fld POWER_SLEEP_CTL.WAKE_EN) = 0 ∧
    (sAsleep.dev.fld POWER_SLEEP_CTL.WAKE_EN).testBit 4 = true ∧ (sAsleep.dev.reg .POWER_WAKE_TIME).toNat ≤ sAsleep.dev.now ∧
    (sAsleep.dev.fld POWER_SLEEP_CTL.WAKE_EN).testBit 1 = true := ⟨⟨by decide, rfl⟩, by decide⟩

/-! ### The key vault and the engines of a plot -/

/-- A message of bytes at their places. -/
def msg (l : List (Nat × Nat)) : Msg := { data := BitVec.ofNat 512 (leNat (ent l)) }

/-- Memory bytes. -/
def bytesAt (a : Nat) (l : List Byte) : Mem := (List.range l.length).filterMap fun i =>
  if l.getD i 0 = 0 then none else some (a + i, l.getD i 0)

/-- A request waits in the vault, with a root of estate 0 or none. -/
def sVault (l : List (Nat × Nat)) (root : Option (List Byte) := none) (fs : List (Fld × List Nat × Nat) := []) : State :=
  st { flds fs with tine := { queues := [(epKey 0x8 0, [msg l])] }, vault := { root := root } }

/-- The state takes the request of operation `op`. -/
def vaultTakes (s : State) (op : Nat) : Bool :=
  match s.dev.queue (epKey 0x8 0) with
  | [x] =>
    let d := s.dev.pop (epKey 0x8 0)
    s.dev.live && !s.dev.stale x.workid && decide (leAt x.bytes 0 1 = op) && decide (d.vaultForm op x.bytes = 0) &&
      (vaultRanges op x.bytes).all fun r => r.2.2 || !d.poisoned r.1 r.2.1
  | _ => false

def aRoot : Option (List Byte) := some (List.replicate 32 1)

theorem witness_vault_takes : vaultTakes (sVault [(0, 0x01), (1, 0x11), (28, 3)] aRoot) 0x01 = true ∧
    vaultTakes (sVault [(0, 0x01), (1, 1)]) 0x01 = true ∧
    vaultTakes (sVault [(0, 0x02), (1, 2), (42, 1), (50, 1)] aRoot) 0x02 = true ∧
    vaultTakes (sVault [(0, 0x03), (1, 4), (40, 1), (50, 1)] aRoot) 0x03 = true ∧ vaultTakes (sVault [(0, 0x10)]) 0x10 = true ∧
    vaultTakes (sVault [(0, 0x11), (40, 0x58), (41, 6), (50, 1)]) 0x11 = true ∧
    vaultTakes (sVault [(0, 0x12), (40, 96)]) 0x12 = true ∧ vaultTakes (sVault [(0, 0x13)]) 0x13 = true ∧
    vaultTakes (sVault [(0, 0x20), (4, 255)]) 0x20 = true := by decide +kernel

theorem witness_vault_refuses : let bad (l : List (Nat × Nat)) (op : Nat) := decide ((sVault l).dev.vaultForm op (msg l).bytes ≠ 0)
    bad [(0, 0x01), (1, 2)] 0x01 = true ∧ bad [(0, 0x02), (1, 2)] 0x02 = true ∧ bad [(0, 0x03), (1, 1), (40, 1)] 0x03 = true ∧
    bad [(0, 0x10), (63, 1)] 0x10 = true ∧ bad [(0, 0x11), (37, 255)] 0x11 = true ∧ bad [(0, 0x12), (40, 95)] 0x12 = true ∧
    bad [(0, 0x13), (63, 1)] 0x13 = true ∧ bad [(0, 0x20), (63, 1)] 0x20 = true := by decide +kernel

theorem witness_vault_state : let d := (sVault [(0, 0x01), (1, 0x11), (28, 3)] aRoot).dev.pop (epKey 0x8 0)
    (sVault []).Live ∧ d.rootOk = true ∧ (sVault []).dev.rootOk = false ∧ d.gatedBlock 3 1 = false ∧
    (flds [(POWER_GATE.STATE, [25], 2)]).gatedBlock 3 1 = true ∧ d.absent 0x10000 = false ∧
    d.flag DEVICE_PLACE.LOCK = false ∧ (flds [(DEVICE_PLACE.LOCK, [], 1)]).flag DEVICE_PLACE.LOCK = true := ⟨⟨by decide, rfl⟩, by decide +kernel⟩

/-- A blob's header. -/
theorem witness_blob : let m := bytesAt 0 [0x54, 0x47, 0x4B, 0x33, 1, 0]
    let d : Dev := {}
    (d.ldBytes m 0 1624).take 4 = [0x54, 0x47, 0x4B, 0x33] ∧ leAt (d.ldBytes m 0 1624) 4 2 = 1 ∧
    leAt (d.ldBytes m 0 1624) 6 2 = 0 := by decide +kernel

/-- A command waits at plot 3's cipher block; slots 1 to 3 hold a key of each kind. -/
def sCiph (l : List (Nat × Nat)) (c : CipherSt := {}) : State :=
  st { tine := { queues := [(epKey 0x6 3, [msg l])] }
       cipher := [(3, { c with slots := [(1, .xts3 (List.replicate 64 1)), (2, .xts2 (List.replicate 64 2)), (3, .plain (List.replicate 32 3))] })] }

/-- The block is free, takes the command of operation `op`, and reads its `n` bytes, without a fault where they are memory. -/
def ciphTakes (s : State) (op n : Nat) : Bool :=
  match s.dev.queue (epKey 0x6 3) with
  | [x] =>
    let d := s.dev
    let e := d.pop (epKey 0x6 3)
    let c := ciphCmd x.bytes
    d.live && decide ((d.ciph 3).job = none) && !(d.ciph 3).waitRelease && decide ((d.ciph 3).coresDown.length ≠ 16) &&
      !d.stale x.workid && decide (c.op = op) && decide (d.ciphTest 3 x.bytes = 0) &&
      (n = 0 || decide ((e.engRead s.mem (tagCipher 3) c.src n []).2 = e))
  | _ => false

/-- A release of a plot, and a table full of them. -/
def aRelease : Release := { workid := 0, ctag := 0, plain := [], dst := 0, off := 0, len := 0 }
def allReleases : Tbl Release := (List.range 128).map fun i => (i, aRelease)

theorem witness_cipher_takes : ciphTakes (sCiph [(0, 1), (4, 1), (17, 16), (25, 16)]) 1 4096 = true ∧
    ciphTakes (sCiph [(0, 2), (4, 1), (17, 16), (25, 16)]) 2 4096 = true ∧
    ciphTakes (sCiph [(0, 3), (4, 3), (17, 16), (24, 16)]) 3 16 = true ∧
    ciphTakes (sCiph [(0, 4), (4, 1), (17, 16), (24, 16)]) 4 16 = true ∧
    ciphTakes (sCiph [(0, 5), (4, 2), (17, 16), (25, 2)]) 5 512 = true ∧
    ciphTakes (sCiph [(0, 6), (4, 2), (17, 16), (25, 2)]) 6 512 = true ∧ ciphTakes (sCiph [(0, 7), (4, 9)]) 7 32 = true ∧
    ciphTakes (sCiph [(0, 8), (4, 255), (5, 7)]) 8 0 = true := by decide +kernel

theorem witness_cipher_hold : let g := sCiph [(0, 6), (1, 2), (4, 2), (17, 16), (25, 2)]
    let x := sCiph [(0, 2), (1, 2), (4, 1), (18, 16), (26, 1)] { releases := allReleases }
    ciphTakes g 6 512 = true ∧ ciphTakes x 2 65536 = true ∧ (ciphCmd (msg [(0, 6), (1, 2), (4, 2), (17, 16), (25, 2)]).bytes).hold = true ∧
    (ciphCmd (msg [(0, 2), (1, 2), (4, 1), (18, 16), (26, 1)]).bytes).hold = true ∧ freeRelease (g.dev.ciph 3) = some 0 ∧
    freeRelease (x.dev.ciph 3) = none ∧
    ciphTakes (sCiph [(0, 9), (32, 0x7F), (33, 3)] { releases := [(127, aRelease)] }) 9 0 = true := by decide +kernel

theorem witness_cipher_chain : let l : List (Nat × Nat) := [(0, 1), (1, 1), (4, 1), (17, 16), (25, 16)]
    ciphTakes (sCiph l) 1 0 = true ∧ (ciphCmd (msg l).bytes).chain = true ∧ (ciphCmd (msg l).bytes).len ≠ 0 ∧
    (let d := (sCiph [] { job := some { msg := msg l, key := [] } }).dev
     (d.ciph 3).job = some { msg := msg l, key := [] } ∧ d.stale (msg l).workid = false ∧
     (d.engRead [] (tagCipher 3) 0 4096 []).2 = d ∧ d.stale (widMake 4351 0) = true) := by decide +kernel

/-- On a T256 the pages of plots 2 and 3 are absent. -/
theorem witness_absent_pages : let d (p : Part) : Dev := { part := p }
    (d .t256).absentPage (RegName.FOLD_CLR.key [3, 0]) = true ∧ (d .t512).absentPage (RegName.FOLD_CLR.key [3, 0]) = false ∧
    (d .t256).absentPage (RegName.CIPHER_CLR.key [2]) = true ∧ (d .t512).absentPage (RegName.CIPHER_CLR.key [2]) = false ∧
    (d .t256).plots = 2 := by decide

theorem witness_cipher_waits : let s := sCiph [(0, 6), (1, 2), (4, 2), (17, 16), (25, 2)] { waitRelease := true }
    let e := (s.dev.setCiph 3 { s.dev.ciph 3 with waitRelease := false }).pop (epKey 0x6 3)
    s.Live ∧ (s.dev.ciph 3).waitRelease = true ∧ freeRelease (s.dev.ciph 3) = some 0 ∧
    (e.engRead [] (tagCipher 3) 0 512 []).2 = e := ⟨⟨by decide, rfl⟩, by decide +kernel⟩

theorem witness_cipher_refuses : let bad (l : List (Nat × Nat)) := (sCiph l).dev.ciphTest 3 (msg l).bytes
    bad [(0, 1), (6, 1)] = 2 ∧ bad [(0, 2), (4, 1), (17, 8), (25, 16)] = 3 ∧ bad [(0, 3), (4, 2), (17, 16), (24, 16)] = 1 ∧
    bad [(0, 4), (24, 8)] = 2 ∧ bad [(0, 5), (25, 1)] = 2 ∧ bad [(0, 6), (4, 1), (17, 16), (25, 2)] = 1 ∧
    bad [(0, 7), (8, 8)] = 3 ∧ bad [(0, 8), (1, 1)] = 2 ∧ bad [(0, 9)] = 2 := by decide +kernel

theorem witness_core : (3 : Nat) < 4 ∧ (16 : Nat) ≤ 16 ∧ ((st {}).dev.ciph 3).coresDown.contains 15 = false ∧
    ((sCiph [] { g2Down := true }).dev.ciph 3).g2Down = true := by decide

/-- An accumulator of unit 3 of plot 3 for the context at 0x10000. -/
def anAcc : FoldAcc := { slot := 0, scx := 0x10000, k := 1, m := 1, g := 0, hash := 0, pbuf := [0], done := 0, grains := [] }

/-- A command waits at unit 3 of plot 3; the block at 0x10000 begins with `b`. -/
def sFold (l : List (Nat × Nat)) (b : List Byte := []) (f : FoldU := {}) : State :=
  { mem := bytesAt 0x10000 b, dev := { tine := { queues := [(epKey 0x4 15, [msg l])] }, fold := [(15, f)] } }

/-- The unit takes the command of operation `op`, and reads `n` bytes at `src` without a fault. -/
def foldTakes (s : State) (op src n : Nat) : Bool :=
  match s.dev.queue (epKey 0x4 15) with
  | [x] =>
    let d := s.dev
    let e := d.pop (epKey 0x4 15)
    d.live && !d.flag FOLD_STATUS.FAILED [3, 3] && decide ((d.foldU 3 3).job = none) && !d.stale x.workid &&
      decide (leAt x.bytes 0 1 = op) && decide (e.foldTest x.bytes = 0) && decide (leAt x.bytes 1 1 = 0) &&
      !e.poisoned src n && decide ((e.engRead s.mem (tagFold 3 3) src n []).2 = e)
  | _ => false

theorem witness_fold_takes : foldTakes (sFold [(0, 1), (10, 1)]) 1 0 64 = true ∧
    foldTakes (sFold [(0, 2), (10, 1)]) 2 0 65536 = true ∧ foldTakes (sFold [(0, 3), (10, 1), (18, 2)]) 3 0 64 = true ∧
    foldTakes (sFold [(0, 4), (10, 1), (16, 1)]) 4 0x10000 1 = true ∧
    foldTakes (sFold [(0, 5), (10, 1), (18, 2), (30, 1)]) 5 0 64 = true ∧ foldTakes (sFold [(0, 6), (10, 1)]) 6 0 64 = true ∧
    foldTakes (sFold [(0, 7)]) 7 0 65536 = true ∧
    foldTakes (sFold [(0, 8), (10, 1)]) 8 0 64 = true := by decide +kernel

theorem witness_fold_refuses : let bad (l : List (Nat × Nat)) := decide ((sFold l).dev.foldTest (msg l).bytes ≠ 0)
    ∀ op ∈ [1, 2, 3, 4, 5, 6, 7, 8], bad [(0, op), (63, 1)] = true := by decide +kernel

theorem witness_scx : let u : FoldU := { accs := [anAcc] }
    let d (b : List Byte) := (sFold [(0, 1), (10, 1)] b u).dev.pop (epKey 0x4 15)
    let bytes (b : List Byte) := (d b).ldBytes (sFold [] b u).mem 0x10000 256
    let test (op : Nat) (b : List Byte) := (d b).scxTest 3 3 op 0x10000 (bytes b)
    ((sFold [] [1, 1]).dev.pop (epKey 0x4 15)).acc? 3 3 0x10000 = none ∧ test 1 [1, 1] = 0 ∧ test 1 [] ≠ 0 ∧ test 2 [] ≠ 0 ∧
    test 3 [] ≠ 0 ∧ leAt (bytes [1, 1, 0, 0, 1, 16]) 4 1 = 1 ∧ (d []).acc? 3 3 0x10000 = some anAcc ∧
    test 2 [1, 1, 0, 0, 1, 16] = 0 ∧ test 3 [1, 1, 0, 0, 1, 16] = 0 ∧ (d []).inMemory 0x20000 (32 * (anAcc.m + anAcc.g)) = true ∧
    bit anAcc.done 0 = false ∧ 0 < anAcc.k ∧ bit { anAcc with done := 1 }.done 0 = true := by decide +kernel

theorem witness_tsb : let t (b : List Byte) := ({} : Dev).ldBytes (sFold [] b).mem 0x10000 1152
    let d : Dev := {}
    d.tsbFree 3 3 (d.ld (sFold []).mem 0x10009).toNat = true ∧
    d.tsbFree 3 3 (d.ld (sFold [] [0, 0, 0, 0, 0, 0, 0, 0, 0, 1]).mem 0x10009).toNat = false ∧ leAt (t []) 8 1 < 2 ∧ leAt (t []) 0 8 = 0 ∧
    leAt (t [0, 0, 0, 0, 1]) 0 8 = 2 ^ 32 ∧ 2 ^ 32 < leAt (t [0, 0, 0, 0, 1]) 0 8 + 1 ∧
    leAt (msg [(0, 5), (30, 1)]).bytes 24 4 = leAt (t []) 0 8 ∧ leAt (msg [(0, 5), (30, 1)]).bytes 28 4 = 65536 := by decide +kernel

/-- A reconstruction context: parity 1 of a 1 + 1 sheaf from its grain; and data 1 of a 2 + 1 sheaf from grain 0 alone. -/
def rcxGood : List Byte := [1, 1, 0, 0, 1, 0, 0, 0, 1] ++ List.replicate 15 0 ++ [2]
def rcxLost : List Byte := [2, 1, 0, 0, 2, 0, 0, 0, 1] ++ List.replicate 15 0 ++ [2] ++ List.replicate 23 0 ++ [2]

theorem witness_recon : ∀ b ∈ [rcxGood, rcxLost],
    let d : Dev := {}
    let m := bytesAt 0x10000 b
    let r := rcxOf (d.ldBytes m 0x10000 896)
    let checks := (r.targets.mapIdx fun t q => (r.check t, r.checkLen q)) ++ (if r.targets.any (· < r.shape.k) then [(r.tally, 32)] else [])
    r.bad = false ∧ (∀ q ∈ (List.range 84).filter fun q => bit r.avail q || bit r.target q, d.blockOk (r.addr q) 65536 = true) ∧
    (∀ c ∈ checks, d.blockOk c.1 c.2 = true) ∧ (∀ q ∈ r.used, d.poisoned (r.addr q) 65536 = false) ∧
    (∀ c ∈ checks, d.poisoned c.1 c.2 = false) ∧
    (reconstruct r.shape 65536 r.kpresent r.targets
      fun q => if bit r.avail q then some (d.ldBytes m (r.addr q) 65536) else none).isSome = decide (b = rcxGood) := by decide +kernel

theorem witness_recon_bad : (rcxOf (({} : Dev).ldBytes [] 0 896)).bad = true := by decide +kernel

theorem witness_fold_job : let j (l : Bool) : FoldJob := { msg := msg [(0, 4), (1, 1), (18, 1)], read := List.replicate 61440 0, lock := l }
    let d (l : Bool) := (sFold [] [] { job := some (j l) }).dev
    ((d true).foldU 3 3).job = some (j true) ∧ (d true).stale (j true).msg.workid = false ∧ (j true).lock = true ∧
    (d true).tsbFree 3 3 ((d true).ld [] (leAt (j true).msg.bytes 8 8 + 9)).toNat = true ∧ (j false).lock = false ∧
    (j false).read.length = 61440 ∧ (d false).chainUnit 3 0 61440 = .ready ∧ (d false).poisoned 61440 4096 = false ∧
    ((d false).engRead [] (tagFold 3 3) 61440 4096 []).2 = d false ∧
    ((d false).setCiph 3 { chain := [{ dst := 0, len := 65536, failed := some 5 }] }).chainUnit 3 0 61440 = .failed 11 :=
  ⟨rfl, by decide +kernel, rfl, by decide +kernel, rfl, List.length_replicate .., by decide +kernel, by decide +kernel, rfl,
    by decide +kernel⟩

theorem witness_fold_unit : (st {}).Live ∧ (st {}).dev.flag FOLD_STATUS.FAILED [3, 3] = false ∧ ((st {}).dev.foldU 3 3).job = none ∧
    (st {}).dev.queue (epKey 0x4 15) = [] := ⟨⟨by decide, rfl⟩, by decide⟩

/-! ### The network, tables and transport -/

/-- The hub's data registers hold an entry of table 5, and `l` are the entries of that table by way of its set. -/
def tabBytes5 : List Byte := ent [(0, 1), (63, 0x80)]
def sTab (data : List Byte) (l : List (Nat × List Byte)) : State :=
  let d : Dev := { net := { tables := [(5, l.map fun e => (tabSet 5 data * 8 + e.1, { data := e.2 }))] } }
  st ((List.range 8).foldl (fun d i => d.setReg .TABLES_DATA (BitVec.ofNat 64 (leAt data (8 * i) 8)) [i]) d)

/-- Eight pinned entries of other keys. -/
def pinned5 : List (Nat × List Byte) := (List.range 8).map fun i => (i, ent [(0, 2 + i), (12, 1), (63, 0x80)])

theorem witness_tables : let free := sTab tabBytes5 []
    let full := sTab tabBytes5 pinned5
    let found := sTab tabBytes5 [(7, tabBytes5)]
    let j := tabSet 5 tabBytes5 * 8
    let ways := (List.range 8).map (j + ·)
    free.dev.tabData = tabBytes5 ∧ free.dev.tabEntryOk 5 tabBytes5 = true ∧ tabHashed 5 = true ∧ tabValid 5 tabBytes5 = true ∧
    free.dev.tabFind [] 5 (tabStored 5 tabBytes5) = none ∧
    ways.find? (fun i => !tabValid 5 (free.dev.tabEnt [] 5 i).data) = some j ∧ tabSet 5 tabBytes5 = j / tabWays 5 ∧ j < tabEntries 5 ∧
    full.dev.tabFind [] 5 (tabStored 5 tabBytes5) = none ∧
    ways.find? (fun i => !tabValid 5 (full.dev.tabEnt [] 5 i).data) = none ∧
    (∀ i ∈ ways, full.dev.tabPinned 5 (full.dev.tabEnt [] 5 i) = true) ∧
    found.dev.tabFind [] 5 (tabStored 5 tabBytes5) = some (j + 7) ∧ found.dev.tabFind [] 5 tabBytes5 = some (j + 7) ∧
    free.dev.tabFind [] 5 tabBytes5 = none ∧ free.dev.tabEntryOk 5 (ent [(63, 1)]) = false ∧ tabEntries 2 ≤ 64 ∧
    tabHashed 2 = false := by decide +kernel

theorem witness_tables_live : (sTab tabBytes5 []).Live ∧ (flds [(TABLES_PLC.EN, [], 1)]).flag TABLES_PLC.EN = true ∧
    (st {}).dev.flag TABLES_PLC.EN = false ∧ inHbm (TABLES_PLC.BASE.get 1 * 67108864) 67108864 = true ∧ (1 : Word).getLsbD 0 = true :=
  ⟨⟨by decide, rfl⟩, by decide⟩

/-- Every reservation slot is taken. -/
def sResv : State := st { regs := (List.range 256).map fun i => (RegName.SCHED_RESV.key [i], 0x8000000000000000) }

theorem witness_reservations : let d := flds [(SCHED_RESV.VALID, [255], 1), (SCHED_RESV.RATE, [255], 6400)]
    (st {}).dev.resvSum + 6400 ≤ 6400 ∧ (st {}).dev.resvFree = some 0 ∧ 6400 < d.resvSum + 1 ∧ d.flag SCHED_RESV.VALID [255] = true ∧
    sResv.dev.resvFree = none ∧ sResv.dev.resvSum + 1 ≤ 6400 := by decide +kernel

/-- Port 0 is up, a second after reset. -/
def upPort (fs : List (Fld × List Nat × Nat)) (n : NetSt := {}) : State :=
  st (flds ((NET_PORT_STATUS.STATE, [0], 2) :: fs) { pw := { strips := true }, clk := { mono := 1000000000 }, net := n })

theorem witness_sample : let d := (upPort [(SCHED_PORT_TEL.EN, [0], 1)]).dev
    (upPort []).Live ∧ d.netLane 0 = true ∧ d.flag SCHED_PORT_TEL.EN [0] = true ∧ (d.port 0).sampleAt ≤ d.now ∧
    d.now % d.telPeriod 0 = 0 := ⟨⟨by decide, rfl⟩, by decide +kernel⟩

/-- A broadcast frame of `n` bytes. -/
def frameOf (n : Nat) : List Byte :=
  framed (slice ([0xFF, 0xFF, 0xFF, 0xFF, 0xFF, 0xFF, 0, 1, 2, 3, 4, 5, 0x08, 0] ++ List.replicate n 7) 0 (n - 4))
def aFrame : Frame := { port := 0, pri := 7, data := frameOf 64 }

/-- Frames queued at port 0 in the queues named. -/
def queued (qs : List Nat) (p : PortSt := {}) : NetSt :=
  { frames := [(7, aFrame)], next := 8, ents := qs.map fun q => { fr := 7, port := 0, q := q, plot := 0, since := 5 }, ports := [(0, p)] }

theorem witness_admit : let w (out : List (Nat × Nat)) : NetSt := { waits := [{ frame := aFrame, ports := out }] }
    let mine (w : WaitF) : Bool := decide (w.frame.port = 0) && decide (w.frame.pri = 7)
    (upPort [] (w [])).dev.net.waits.find? mine = some { frame := aFrame, ports := [] } ∧
    (upPort [] (w [(0, 15)])).dev.net.waits.find? mine = some { frame := aFrame, ports := [(0, 15)] } ∧
    (upPort [] (w [(0, 15)])).dev.netUp 0 = true ∧
    (upPort [] (w [(0, 15)])).dev.fits (plotOfLane 0) [(0, 15)] (cellsOf aFrame.data) = true := by decide +kernel

theorem witness_transmit : let d (qs : List Nat) (p : PortSt) := (upPort [] (queued qs p)).dev
    ((d [] {}).port 0).sending = none ∧ ((d [] { pfcOwed := 1 }).port 0).pfcOwed ≠ 0 ∧ ((d [] { announce := true }).port 0).announce = true ∧
    ((d [0] {}).qHead 0 0).isSome = true ∧ (d [0] {}).qReady 0 0 = true ∧ (d [1] {}).qReady 0 0 = false ∧ (d [1] {}).qReady 0 1 = true ∧
    ((d [1] {}).qHead 0 1).isSome = true ∧ (d [] {}).qReady 0 1 = false ∧ (d [] {}).wfqPick 0 = none ∧ (d [15, 2] {}).wfqPick 0 = some 2 ∧
    ((d [15, 2] {}).qHead 0 2).isSome = true ∧ (d [15, 2] {}).qReady 0 0 = false ∧ (d [15, 2] {}).qReady 0 1 = false ∧
    ((d [] { sending := some .control }).port 0).sending ≠ none := by decide +kernel

theorem witness_mesh : let d := (upPort [(SW_PORT_CTL.MESH, [0], 1)]).dev
    d.netUp 0 = true ∧ d.meshPort 0 = true ∧ (d.port 0).announceAt ≤ d.now ∧ (upPort [(SW_PORT_CTL.MESH, [0], 0)]).dev.meshPort 0 = false ∧
    (upPort []).dev.flag SW_PORT_STATUS.ROUTE_UP [0] = false ∧
    ((upPort [(SW_ROUTE_CTL.HOLDOFF, [], 1)]).dev.port 0).upAt + 1 * 1000000 ≤ (upPort []).dev.now ∧
    (0x800000 : Word).getLsbD 23 = true := by decide +kernel

theorem witness_age : let d := (upPort [(SW_BRIDGE_CTL.AGE, [], 1)] { tables := [(1, [(0, { data := ent [(10, 1)] })])] }).dev
    d.fld SW_BRIDGE_CTL.AGE * 1000000000 ≠ 0 ∧ (upPort [(SW_BRIDGE_CTL.AGE, [], 0)]).dev.fld SW_BRIDGE_CTL.AGE * 1000000000 = 0 ∧
    ∃ x ∈ tget [] d.net.tables 1, tabValid 1 x.2.data = true ∧ bridgeStatic x.2.data = false ∧
      x.2.stamp + d.fld SW_BRIDGE_CTL.AGE * 1000000000 ≤ d.now := by decide +kernel

theorem witness_net_link : let d (n : Nat) := (upPort [(NET_PORT_STATUS.STATE, [0], n)]).dev
    (d 0).portRuns 0 = true ∧ (d 0).fld NET_PORT_STATUS.STATE [0] ≠ 2 ∧ (d 2).fld NET_PORT_STATUS.STATE [0] = 2 ∧
    (upPort [(SW_ROUTE_CTL.HOLDOFF, [], 1)]).dev.fld SW_ROUTE_CTL.HOLDOFF ≠ 0 := by decide +kernel

theorem witness_port_stop : let d := (upPort []).dev
    let v := d.reg .NET_PORT_CTL [0] - 1
    d.netLane 0 = true ∧ d.flag NET_PORT_CTL.STOPPED [0] = false ∧ d.flag NET_PORT_CTL.RUN [0] = true ∧ NET_PORT_CTL.RUN.get v = 0 ∧
    NET_PORT_CTL.MODE.get v ≤ 5 ∧ d.part = .t512 ∧ ∀ fd ∈ RegName.NET_PORT_CTL.fields, fd.fld ≠ NET_PORT_CTL.RUN → fd.acc = .rw →
      fd.fld.get v = d.fld fd.fld [0] := by decide +kernel

theorem witness_rx : let d := (upPort []).dev
    let u := (upPort [(NET_PRI_THRESH.LIMIT, [0, 0], 0)]).dev
    let v := (upPort [(NET_PORT_CTL.PARSE, [0], 1), (PARSE_CTL.EN, [0], 1)]).dev
    let w := (upPort [(NET_PORT_CTL.MAX_FRAME, [0], 0)]).dev
    let takes (d : Dev) (l : List Byte) := d.account 0 (d.arriving 0 l).pri + cellsOf (l.take (d.maxFrame 0)) ≤
      d.fld NET_PRI_THRESH.LIMIT [0, (d.arriving 0 l).pri]
    d.netUp 0 = true ∧ (frameOf 63).length < 64 ∧ (frameOf 64).length = 64 ∧ beAt (frameOf 64) 12 2 ≠ 0x8808 ∧
    isAnnounce (frameOf 64) = false ∧ takes d (frameOf 64) ∧ ¬ takes u (frameOf 64) ∧ fcsOk (frameOf 64) = true ∧
    fcsOk (0 :: frameOf 64) = false ∧ takes d (0 :: frameOf 64) ∧ (frameOf 64).length ≤ d.maxFrame 0 ∧ w.maxFrame 0 < (frameOf 1600).length ∧
    beAt (frameOf 1600) 12 2 ≠ 0x8808 ∧ isAnnounce (frameOf 1600) = false ∧ takes w (frameOf 1600) ∧ d.net.parse = [] ∧
    (v.flag NET_PORT_CTL.PARSE [0] && v.flag PARSE_CTL.EN [0]) = true ∧
    (d.flag NET_PORT_CTL.PARSE [0] && d.flag PARSE_CTL.EN [0]) = false := by decide +kernel

theorem witness_pfc : let d := (upPort [(NET_PORT_PFC_STATUS.PAUSING, [0], 0x80), (NET_PORT_PFC_STATUS.PAUSED, [0], 0x80)]).dev
    d.fld NET_PORT_PFC_STATUS.PAUSING [0] ≠ 0 ∧ (d.port 0).refreshAt ≤ d.now ∧
    bit (d.fld NET_PORT_PFC_STATUS.PAUSED [0]) 7 = true ∧ tget 0 (d.port 0).pauses 7 ≤ d.now := by decide +kernel

theorem witness_parse : let g : Frame := { aFrame with port := 64 }
    let d := (upPort [(PARSE_CTL.EN, [0], 1)] { parse := [(g, false), (aFrame, false), (aFrame, true)] }).dev
    d.flag PARSE_CTL.EN [0] = true ∧ d.gatedBlock 0 3 = false ∧ (d.nextCell 0).isSome = true ∧
    d.net.parse = [(g, false)] ++ (aFrame, false) :: [(aFrame, true)] ∧ plotOfLane aFrame.port = 0 ∧ plotOfLane g.port ≠ 0 ∧
    (st {}).dev.part = .t512 := by decide +kernel

theorem witness_dq : let d := (upPort [(DQ_CTL.RUN, [3, 255], 1)] { dq := [(1023, [aFrame])] }).dev
    tget [] d.net.dq 1023 = [aFrame] ∧ d.flag DQ_CTL.RUN [3, 255] = true ∧ (d.fld DQ_TAIL.INDEX [3, 255] + 1) % d.dqSize 3 255 ≠
      d.fld DQ_HEAD.INDEX [3, 255] % d.dqSize 3 255 ∧ (d.queue (epKey 0 (d.fld DQ_CTL.STRAND [3, 255]))).length < 16 ∧
    (upPort []).dev.flag DQ_CTL.RUN [3, 255] = false := by decide +kernel

/-- A send command of operation `op` for 64 bytes to plot 0 of node 7. -/
def sendMsg (op : Nat) : Msg := msg [(0, op), (4, 7), (12, 64)]

/-- Commands wait at plot 1's send endpoint, and behind it; the device is placed. -/
def sTrd (l w : List Msg) (fs : List (Fld × List Nat × Nat) := []) (n : NetSt := {}) (t : TrdSt := {}) : State :=
  st { flds ([(TRD_CTL.EN, [], 1), (DEVICE_PLACE.LOCK, [], 1)] ++ fs) { clk := { mono := 1000000000 }, net := n, trd := t } with
    tine := { queues := [(epKey 0xA 1, l), (epKey 0xE 1, w)] } }

theorem witness_send : ∀ op ∈ [1, 2, 3], let d := (sTrd [sendMsg op] []).dev
    (sTrd [sendMsg op] []).Live ∧ d.queue (epKey 0xA 1) = [sendMsg op] ∧ d.stale (sendMsg op).workid = false ∧
    (sendCmd (sendMsg op).bytes).op = op ∧ d.queue (epKey 0xE 1) = [] ∧ d.sendTest 1 (sendMsg op) = 0 ∧
    d.swcRoom [] ((sendCmd (sendMsg op).bytes).flow 1) = true ∧ (flds [(TRD_CTL.EN, [], 0)]).sendTest 1 (sendMsg op) ∉ [0, 8, 9] := by
  intro op h
  simp only [List.mem_cons, List.not_mem_nil, or_false] at h
  rcases h with rfl | rfl | rfl <;> exact ⟨⟨by decide, rfl⟩, by decide +kernel⟩

/-- Every way of the set that `k`'s flow maps to is pinned. -/
def fullSwc (k : Nat) : NetSt :=
  { tables := [(5, pinned5.map fun e => (tabSet 5 (flowKey k) * 8 + e.1, { data := e.2 }))] }

theorem witness_send_waits : let k := (sendCmd (sendMsg 1).bytes).flow 1
    let d := (sTrd [sendMsg 1] [] [] (fullSwc k)).dev
    let u := (sTrd [] [sendMsg 2]).dev
    let w := (sTrd [] [{ sendMsg 2 with workid := widMake 4351 0 }]).dev
    d.sendTest 1 (sendMsg 1) = 0 ∧ d.swcRoom [] k = false ∧ u.queue (epKey 0xE 1) = [sendMsg 2] ∧ u.stale (sendMsg 2).workid = false ∧
    u.sendTest 1 (sendMsg 2) = 0 ∧ u.swcRoom [] k = true ∧ w.stale (widMake 4351 0) = true ∧
    (([sendMsg 2] : List Msg).any fun y => decide ((sendCmd y.bytes).flow 1 = k)) = true ∧
    w.queue (epKey 0xE 1) = [{ sendMsg 2 with workid := widMake 4351 0 }] := by decide +kernel

/-- Flow 7 has an entry of its own in the SWC, or in the PET, with bytes `l`. -/
def flowAt (t k : Nat) (l : List (Nat × Nat)) : NetSt :=
  { tables := [(t, [(tabSet t (flowKey k) * 8, { data := ent ((0, 7) :: (63, 0x80) :: l) })])] }

theorem witness_flow_timers : let d (f : Flow) := (sTrd [] [] [] (flowAt 5 7 [(8, 1), (24, 9)]) { flows := [(7, f)] }).dev
    let i := tabSet 5 (flowKey 7) * 8
    flowNum 7 0 0 0 = 7 ∧ (d {}).swcFind [] 7 = some i ∧ ((d { rnrAt := some 1 }).flow 7).rnrAt = some 1 ∧ 1 ≤ (d {}).now ∧
    (d {}).swcGet [] i 24 8 ≠ 0 ∧ (d {}).swcGet [] i 24 8 ≤ (d {}).now ∧
    (d {}).swcGet [] i 20 2 + 1 ≤ (flds [(TRD_TIMER.RETRIES, [], 1)]).fld TRD_TIMER.RETRIES ∧
    (flds [(TRD_TIMER.RETRIES, [], 0)]).fld TRD_TIMER.RETRIES < (d {}).swcGet [] i 20 2 + 1 ∧ (d {}).rowsOn (fun p => decide (p.1 = flowNode 7)) = [] := by
  decide +kernel

/-- A TRD frame as it stands at plot 0's engine: its datagram stands at byte 0. -/
def trdIn (h : TrdHead) (pay : List Byte) : Frame :=
  let b := { h with payLen := pay.length, src := 7 }.bytes ++ pay
  { port := 0, pri := 0, data := [0, 0, 0, 0] ++ beBytes 2 (52 + pay.length) ++ [0, 0] ++ b ++ beBytes 4 (crc32c b).toNat ++ [0, 0, 0, 0]
    record := List.replicate 63 0 ++ [4] }

theorem witness_acks : ∀ c ∈ [(8, 0), (9, 1), (9, 2), (9, 3), (9, 4), (9, 5), (9, 6)],
    let y := trdIn { typ := c.1, code := c.2, inc := 1, apsn := 1 } []
    let n (l : List (Nat × Nat)) : NetSt := { flowAt 5 7 l with trdIn := [(0, [y])] }
    let e (l : List (Nat × Nat)) := ({ (sTrd [] [] [] (n l)).dev with net := { n l with trdIn := [] } } : Dev).trdActive
    let i := tabSet 5 (flowKey 7) * 8
    (sTrd [] [] [] (n [])).dev.trdFrameOk y = true ∧ (trdParts y).1.typ = c.1 ∧ (trdParts y).1.code = c.2 ∧ (trdParts y).1.src = 7 ∧
    (e []).swcFind [] 7 = some i ∧ (e []).swcGet [] i 8 2 ≠ (trdParts y).1.inc ∧ (e [(8, 1)]).swcGet [] i 8 2 = (trdParts y).1.inc ∧
    psn ((trdParts y).1.apsn + 2 ^ 24 - (e [(8, 1), (12, 5)]).swcGet [] i 16 3) <
      psn ((e [(8, 1), (12, 5)]).swcGet [] i 12 3 + 2 ^ 24 - (e [(8, 1), (12, 5)]).swcGet [] i 16 3) ∧
    (sTrd []  []).dev.swcFind [] 7 = none := by decide +kernel

/-- Flow 7 sends to plot 0: an entry of incarnation 1 that expects PSN 5 next, its FLAGS, and reach key 0's entry, which
function 0 gave for reads and writes. -/
def sRecv (y : Frame) (flags : Nat := 0) (fs : List (Fld × List Nat × Nat) := []) : State :=
  let s := sTrd [] [] ([(TRD_REACH.VALID, [], 1), (HOST_FN_STATE.BME, [0], 1), (HOST_FN_STATE.ENABLED, [0], 1),
      (HOST_LINK_STATUS.STATE, [0], 2), (TRD_RING_CTL.RUN, [0, 63], 1)] ++ fs)
    { flowAt 4 7 [(8, 1), (12, 5), (16, 4), (20, flags), (27, 0x38)] with trdIn := [(0, [y])] }
  { s with mem := bytesAt 0 [7] }

/-- What `sRecv` is once the frame is taken, and its packet counted. -/
def taken (s : State) : Dev := (({ s.dev with net := { s.dev.net with trdIn := [] } } : Dev).trdActive).count .TRD_RX_PKTS

/-- The packet is `h`, of a flow with an entry, whose FLAGS are as given. -/
def accepts (s : State) (y : Frame) (psn' : Nat) (flag : Bool) : Bool :=
  let e := taken s
  s.dev.live && s.dev.trdFrameOk y && decide (e.petFind s.mem 7 = some (tabSet 4 (flowKey 7) * 8)) &&
    decide (e.petGet s.mem (tabSet 4 (flowKey 7) * 8) 8 2 = (trdParts y).1.inc) &&
    decide (e.petGet s.mem (tabSet 4 (flowKey 7) * 8) 12 3 = 5) && decide ((trdParts y).1.psn = psn') &&
    decide (bit (e.petGet s.mem (tabSet 4 (flowKey 7) * 8) 20 1) 1 = flag)

/-- A packet of type `t` of incarnation 1. -/
def pkt (t p : Nat) (key msgLen addr : Nat := 0) (first last : Bool := false) : Frame :=
  trdIn { typ := t, inc := 1, psn := p, key := key, msgLen := msgLen, addr := addr, first := first, last := last } (List.replicate 16 1)

theorem witness_receive : accepts (sRecv (pkt 1 5)) (pkt 1 5) 5 false = true ∧ accepts (sRecv (pkt 1 4)) (pkt 1 4) 4 false = true ∧
    accepts (sRecv (pkt 1 6)) (pkt 1 6) 6 false = true ∧ accepts (sRecv (pkt 2 5) 2) (pkt 2 5) 5 true = true ∧
    accepts (sRecv (pkt 2 5)) (pkt 2 5) 5 false = true ∧ accepts (sRecv (pkt 3 5)) (pkt 3 5) 5 false = true ∧
    accepts (sRecv (pkt 4 5 63 16 0 true false)) (pkt 4 5 63 16 0 true false) 5 false = true ∧
    (st {}).dev.flag TRD_CTL.EN = false ∧ (sRecv (pkt 1 5)).dev.trdFrameOk aFrame = false ∧
    (taken (sTrd [] [])).petFind [] 7 = none ∧ (trdParts (pkt 1 5)).1.sync = false := by decide +kernel

theorem witness_reach : let e := taken (sRecv (pkt 1 5))
    let h := (trdParts (pkt 1 5)).1
    (e.reachCheck (bytesAt 0 [7]) h h.payLen).1 = 0 ∧ e.needsXlate (e.reachCheck (bytesAt 0 [7]) h h.payLen).2 h.addr = false ∧
    e.fnMaster (e.reachCheck (bytesAt 0 [7]) h h.payLen).2.func = true ∧ (e.reachCheck [] h h.payLen).1 = 1 + 1 ∧
    psn (5 + 2 ^ 24 - 1 - 4) < e.trdWindow ∧ e.trdWindow ≤ psn (5 + 2 ^ 24 - 1 - 6) := by decide +kernel

theorem witness_receive_ring : let y := pkt 4 5 63 16 0 true false
    let h := (trdParts y).1
    let e := taken (sRecv y)
    let u := taken (sRecv y 0 [(TRD_RING_HEAD.INDEX, [0, 63], 1)])
    h.first = true ∧ h.last = false ∧ h.key % 256 = 63 ∧ e.flag TRD_RING_CTL.RUN [0, 63] = true ∧ e.flag TRD_RING_CTL.RUN [0, 62] = false ∧
    h.msgLen ≤ e.rxSlot 0 63 ∧ h.addr + (trdParts y).2.length ≤ e.rxSlot 0 63 ∧ e.rxMsg 7 = none ∧
    (e.rxNext 0 63 + 1) % e.rxSize 0 63 ≠ e.fld TRD_RING_HEAD.INDEX [0, 63] % e.rxSize 0 63 ∧
    (u.rxNext 0 63 + 1) % u.rxSize 0 63 = u.fld TRD_RING_HEAD.INDEX [0, 63] % u.rxSize 0 63 := by decide +kernel

theorem witness_pet : let d (l : List (Nat × Nat)) := (sTrd [] [] [] (flowAt 4 7 l)).dev
    let i := tabSet 4 (flowKey 7) * 8
    (d []).tabFind [] 4 (flowKey 7) = some i ∧ psn ((d [(12, 5)]).petGet [] i 16 3 + 1) ≠ (d [(12, 5)]).petGet [] i 12 3 ∧
    psn ((d [(12, 1)]).petGet [] i 16 3 + 1) = (d [(12, 1)]).petGet [] i 12 3 ∧ (d [(12, 1)]).clk.refclk = true := by decide +kernel

/-! ### Sowing, ledgers, gleaning and repair -/

/-- The drill in record 0 has the one entry `e`; function 0's buffer 0 is set, and its pool has 100 grains. -/
def sSow (fs : List (Fld × List Nat × Nat)) (e : List Byte) (g : SowSt) (busy : Bool := false) : State :=
  st { dRing ([(TENANT_TABLES.BUF_SLOTS, [0], 4), (TENANT_POOL_TOTAL.COUNT, [], 100)] ++ fs) {} {}
      { drills := [(0, { sq := 5, entries := [e], phase := .dispatched, busy := busy })] } with
    sow := g, vault := { root := aRoot }
    host := { fns := [(0, { bufs := [(0, { base := 0x10000, len := 0x100000, valid := true, read := true, write := true, gen := 0 })] })] } }

/-- The entry may run, and is of operation `op`. -/
def takesWork (s : State) (op : Nat) : Bool :=
  s.dev.workReady 0 0 && decide (Entry.opcode ((s.dev.drill 0).entry 0) = op) && !s.dev.stale (s.dev.drill 0).workid &&
    condHolds (s.dev.drill 0).done (s.dev.drill 0).nCode 0 ((s.dev.drill 0).entry 0)

theorem work_of (s : State) (op : Nat) (hl : s.Live) (h : takesWork s op = true) : WorkTaken s 0 0 op := by
  simp only [takesWork, Bool.and_eq_true, decide_eq_true_eq, Bool.not_eq_true'] at h
  exact ⟨hl, h.1.1.1, h.1.1.2, h.1.2, h.2⟩

/-- A session of slot 1 of function 0, opened, with five bytes. -/
def aSess : SowSess := { obj := 77, tenant := 1, epoch := 2, prof := 3, k := 2, m := 1, g := 0, hash := 0, fr := 5, part := [1, 2, 3, 4, 5] }

/-- An entry that names slot 1 and object 77, of operation `op`, offset `off` and length `len`. -/
def eSow (op off len : Nat) : List Byte := ent [(0, op), (1, 3), (9, 1), (15, 0x10), (16, if op = 0x12 then len else 0), (24, off), (32, len)]

theorem witness_sow_open : let locked (fs : List (Fld × List Nat × Nat)) (g : SowSt) := sSow ((DEVICE_PLACE.LOCK, [], 1) :: fs) (eSow 0x10 0 0) g
    let key := sessKey 0 (handleSlot (leAt (eSow 0x10 0 0) 8 4))
    (locked [] {}).Live ∧ takesWork (locked [] {}) 0x10 = true ∧ (sSow [] (eSow 0x10 0 0) {}).dev.placeUnset = true ∧
    (locked [] {}).dev.placeUnset = false ∧ (locked [] {}).dev.sess? key = none ∧ (locked [] {}).dev.rootOk = true ∧
    (locked [] {}).dev.flag DEVICE_SOW_ISSUED.DRY = false ∧ (locked [] {}).dev.sow.dry = [] ∧
    (locked [] { sess := [(key, aSess)] }).dev.sess? key ≠ none ∧
    (locked [(DEVICE_SOW_ISSUED.DRY, [], 1)] {}).dev.flag DEVICE_SOW_ISSUED.DRY = true ∧
    (locked [(DEVICE_PLACE.ESTATE, [], 1)] {}).dev.rootOk = false ∧ (locked [] { dry := [(0, 0)] }).dev.sow.dry = (0, 0) :: [] :=
  ⟨⟨by decide, rfl⟩, by decide +kernel⟩

theorem witness_sow_drop : let s (v : SowSess) := sSow [] (eSow 0x13 0 0) { sess := [(1, v)] }
    let key := sessKey 0 (handleSlot (leAt (eSow 0x13 0 0) 8 4))
    takesWork (s aSess) 0x13 = true ∧ (s aSess).dev.sess? key = some aSess ∧ aSess.phase ≠ .sealing ∧
    (sSow [] (eSow 0x13 0 0) {}).dev.sess? key = none := by decide +kernel

theorem witness_sow_write : let s (off : Nat) := sSow [] (eSow 0x11 off 6) { sess := [(1, aSess)] }
    let e := eSow 0x11 3 6
    let key := sessKey 0 (handleSlot (leAt e 8 4))
    let bytes := writeBytes e 5 [9, 8, 7, 6, 5, 4]
    (s 3).Live ∧ takesWork (s 3) 0x11 = true ∧ (s 3).dev.handlesOk 0 e = true ∧ (s 3).dev.sess? key = some aSess ∧
    (sSow [(TENANT_TABLES.BUF_SLOTS, [0], 0)] e {}).dev.handlesOk 0 e = false ∧ leAt e 24 8 ≤ aSess.fr ∧ bytes ≠ [] ∧
    aSess.part.length + bytes.length ≤ 65536 ∧ (s 3).dev.fnMaster 0 = true ∧ ((s 3).dev.drill 0).answer = none ∧
    takesWork (s 6) 0x11 = true ∧ aSess.fr < leAt (eSow 0x11 6 6) 24 8 ∧ (s 6).dev.freezing 0 = false ∧
    (flds [(TENANT_CTL.FREEZE, [0], 1)]).freezing 0 = true ∧
    (let v := { aSess with part := [], fr := 0 }
     let u := (sSow [] (eSow 0x11 0 6) { sess := [(1, v)], area := [(0, 10)] }).dev
     v.part = [] ∧ u.getsBuffers 1 v.need = true ∧ u.handlesOk 0 (eSow 0x11 0 6) = true) ∧
    2 ^ 48 ≤ leAt (ent [(0, 0x11), (30, 1)]) 24 8 := ⟨⟨by decide, rfl⟩, by decide +kernel⟩

/-- A write that waits for the frontier, or for a grain buffer with four bytes left, the first of them behind F. -/
def aWait (frontier : Bool) : SowWait :=
  { drill := 0, entry := 0, key := 1, off := if frontier then 3 else 131071, frontier := frontier,
    rest := if frontier then [] else [1, 2, 3, 4] }

theorem witness_sow_waits :
    let s (f : Bool) (v : SowSess) := sSow [] (eSow 0x11 3 6) { sess := [(1, v)], waits := [aWait f], area := [(0, 10)] } true
    let y (v : SowSess) := ((s false v).dev.dropWait 0 0).countWaits (sessFunc (aWait false).key)
    let w := { aSess with part := [], fr := 131072 }
    (s true aSess).Live ∧ (s true aSess).dev.sow.waits.find? (fun w => decide (w.drill = 0) && decide (w.entry = 0) && w.frontier) =
      some (aWait true) ∧ (s true aSess).dev.stale ((s true aSess).dev.drill 0).workid = false ∧
    (s true aSess).dev.sess? (aWait true).key = some aSess ∧ (aWait true).off ≤ aSess.fr ∧
    (s true aSess).dev.fnMaster 0 = true ∧ (s true aSess).dev.handlesOk 0 (eSow 0x11 3 6) = true ∧
    (let u := { aSess with part := [] }
     ((s true u).dev.dropWait 0 0).getsBuffers 1 u.need = true) ∧ (s false w).dev.nextGrant = some (aWait false) ∧ (y w).drill 0 = (s false w).dev.drill 0 ∧
    (y w).sess? 1 = some w ∧ (y w).fnMaster 0 = true ∧ (y w).mayTake 1 w.need = true ∧ (y w).handlesOk 0 (eSow 0x11 3 6) = true ∧
    (y w).stale ((y w).drill 0).workid = false ∧ (aWait false).fails = none ∧
    (aWait false).rest.drop (w.fr - (aWait false).off) = [2, 3, 4] :=
  ⟨⟨by decide, rfl⟩, by decide +kernel⟩

/-- A seal of an object of length 0 waits for a buffer, which is free. -/
theorem witness_seal_waits : let w : SowWait := { drill := 0, entry := 0, key := 1, off := 0, frontier := false, seals := true }
    let j : SealJob := { drill := 0, entry := 0, step := 1 }
    let v := { aSess with part := [], fr := 0, phase := .sealing, sealJob := some j }
    let d := (sSow [] (eSow 0x12 0 0) { sess := [(1, v)], waits := [w], area := [(0, 10)] } true).dev
    let y := (d.dropWait 0 0).countWaits (sessFunc 1)
    d.nextGrant = some w ∧ w.seals = true ∧ v.sealJob = some j ∧ y.drill 0 = d.drill 0 ∧ y.stale (y.drill 0).workid = false ∧
    y.sess? 1 = some v := by decide +kernel

/-- A session whose grains so far are complete. -/
def wholeSess : SowSess := { aSess with part := [], fr := 65536, digests := [[1]] }

theorem witness_sow_seal : let e := ent [(0, 0x12), (1, 3), (9, 1), (15, 0x10), (18, 1)]
    let s (v : SowSess) := sSow [] e { sess := [(1, v)] }
    let y (v : SowSess) := ((s v).dev.takeDispatch 0).noteObj 0 0 v.obj
    let z := { aSess with part := [], fr := 0 }
    let h := { aSess with part := [1], fr := 65537, digests := [[1]] }
    takesWork (s wholeSess) 0x12 = true ∧ (s wholeSess).dev.handlesOk 0 e = true ∧ (s wholeSess).dev.sess? (sessKey 0 (handleSlot (leAt e 8 4))) = some wholeSess ∧
    leAt e 16 8 = wholeSess.fr ∧ leAt e 16 8 ≠ aSess.fr ∧ ((y wholeSess).sealLast 1 []).isSome = true ∧
    (y wholeSess).getsBuffers 1 wholeSess.need = false ∧ z.digests = [] ∧ (y z).getsBuffers 1 z.need = false ∧
    leAt (eSow 0x12 0 0) 16 8 = z.fr ∧
    ([0, 1, 2, 3].foldl (fun (d : Dev) p => d.setFld POWER_GATE.STATE 2 [8 * p]) (y h)).sealLast 1 [] = none := by decide +kernel

theorem witness_seal_steps : let row : RowW := ⟨0, 1, some (0, 1, 2), true⟩
    let v (n : Nat) : SowSess := { wholeSess with phase := .sealing, sealJob := some { drill := 0, entry := 0, step := n, descs := [row] } }
    let s (n : Nat) := sSow [] (eSow 0x12 0 0) { sess := [(sessKey 0 1, v n)] } true
    let unplaced := { v 2 with sheaves := [{ idx := 0, kp := 1, grains := [], digs := [], rows := [⟨0, 0, none, false⟩] }] }
    (s 2).Live ∧ (∀ n ∈ [2, 3], (s n).dev.sess? (sessKey 0 1) = some (v n) ∧ (s n).dev.stale ((s n).dev.drill 0).workid = false) ∧
    (v 2).noRoom = false ∧ unplaced.noRoom = true ∧
    (∀ h ∈ (v 2).sheaves, h.full = true) ∧ (∀ w ∈ [row], w.durable = true) ∧ (s 3).dev.flag TIME_STATUS.STEP_PEND = false :=
  ⟨⟨by decide, rfl⟩, by decide +kernel⟩

theorem witness_session_expire : let s := sSow [] (eSow 0x11 0 0) { sess := [(sessKey 0 1, { aSess with idle := 2 ^ 64 })] }
    let d := s.dev
    d.sess? (sessKey 0 1) = some { aSess with idle := 2 ^ 64 } ∧ aSess.phase = .opened ∧ (∀ w ∈ d.sow.waits, w.key ≠ sessKey 0 1) ∧
    d.freezing 0 = false ∧ aSess.idleFrom + (d.idleNs - 2 ^ 64) ≤ d.clk.mono := by decide +kernel

theorem witness_epochs : let v : Word := 0x8000000000000005
    let d := flds [(DEVICE_SOW_EPOCH.EPOCH, [], 9)]
    (st {}).dev.flag DEVICE_PLACE.LOCK = false ∧ (flds [(DEVICE_PLACE.LOCK, [], 1)]).flag DEVICE_PLACE.LOCK = true ∧
    DEVICE_SOW_NEXT.EPOCH.get v = 5 ∧ DEVICE_SOW_NEXT.VALID.get v = 1 ∧ (st {}).dev.flag DEVICE_SOW_NEXT.VALID = false ∧
    (st {}).dev.fld DEVICE_SOW_EPOCH.EPOCH < 5 ∧ ¬ d.fld DEVICE_SOW_EPOCH.EPOCH < 5 ∧ (st {}).dev.flag DEVICE_SOW_ISSUED.DRY = false ∧
    (flds [(DEVICE_SOW_ISSUED.DRY, [], 1)]).flag DEVICE_SOW_ISSUED.DRY = true := by decide

theorem witness_profiles : let shape (v : Word) : Shape := { k := DEVICE_PROFILE.K.get v, m := DEVICE_PROFILE.M.get v, g := DEVICE_PROFILE.G.get v }
    (shape 0xC000000000120310).ok = true ∧ (shape 0).ok = false ∧ (st {}).dev.profileIdle 15 = true := by decide +kernel

/-- The label of a target of six rows, of this estate. -/
def aLabel : List Byte :=
  withCrc ((List.range 252).map fun i => BitVec.ofNat 8 (tget 0 [(0, 0x54), (1, 0x47), (2, 0x4D), (3, 0x33), (4, 3), (44, 6), (48, 100)] i))

/-- Target 1 is in service. -/
def serving : State := st { flds [(STORAGE_TGT_STATUS.PRESENT, [1], 1)] with stg := { labels := [(1, aLabel)] } }

theorem witness_peers : let row : RowW := ⟨0, 1, some (9, 1, 2), false⟩
    let v := { aSess with sealJob := some { drill := 0, entry := 0, descs := [row] } }
    let d := (sSow [] [] { sess := [(1, v)] }).dev
    serving.dev.canPlace (0, 1, 5) = true ∧ serving.dev.canPlace (0, 1, 6) = false ∧
    (flds [(DEVICE_SOW_CTL.PEER_POOL, [], 1)]).sow.peers.length < (flds [(DEVICE_SOW_CTL.PEER_POOL, [], 1)]).fld DEVICE_SOW_CTL.PEER_POOL ∧
    9 ≠ d.node ∧ d.sow.sess.find? (fun e => hasRow (9, 1, 2) e.2.allRows) = some (1, v) := by decide +kernel

def aReq : LedgerReq := { tenant := 3, kind := 2, object := 7, label := 1, epoch := 2, body := [1, 2] }

theorem witness_ledger : let waits (q : LedgerReq) : Bool := decide (q.tenant = 3) && decide (q.seq = none)
    let d := (sSow [] [] { reqs := [aReq] }).dev
    let u := (sSow [] [] { reqs := [{ aReq with sent := true }] }).dev
    (d.ledger 3).rows = [] ∧ (d.ledger 3).full = false ∧ d.rootOk = true ∧ d.flag TIME_STATUS.STEP_PEND = false ∧
    d.sow.reqs.find? waits = some aReq ∧ tfind d.sow.ledgers 3 = none ∧
    u.sow.reqs.find? (fun q => decide (q.tenant = 3) && decide (q.seq = none) && q.sent) = some { aReq with sent := true } ∧
    aReq.isSeal = false := by decide +kernel

theorem witness_ledger_home : let w : RowW := ⟨0, 0, some (0, 1, 2), true⟩
    let l : Ledger := { rows := [w], copies := [w], writing := 1 }
    let d := (sSow [] [] { ledgers := [(3, l)] }).dev
    tfind d.sow.ledgers 3 ≠ none ∧ (d.ledger 3).rows ≠ [] ∧ (d.ledger 3).copies ≠ [] ∧
    (∀ w ∈ (d.ledger 3).rows ++ (d.ledger 3).copies, w.durable = true) ∧ (d.ledger 3).writing % 2 ^ 24 ≠ 0 := by decide +kernel

theorem leBytes_length : ∀ n v, (leBytes n v).length = n
  | 0, _ => rfl
  | n + 1, v => by simp [leBytes, leBytes_length n]

theorem shaBlocks_length : ∀ n h l, h.length = 8 → (shaBlocks n h l).length = 8
  | 0, _, _, e => e
  | n + 1, h, l, _ => shaBlocks_length n (shaCompress h (l.take 64)) (l.drop 64) rfl

theorem shaBytes_length : ∀ h : List W32, (shaBytes h).length = 4 * h.length
  | [] => rfl
  | x :: t => by
    have e := shaBytes_length t
    simp only [shaBytes, List.flatMap_cons, List.length_append, List.length_cons] at e ⊢
    rw [e, beBytes, List.length_reverse, leBytes_length]
    omega

theorem hmac_length (k m : List Byte) : (hmac256 k m).length = 32 := by
  rw [hmac256, sha256, shaBytes_length, shaBlocks_length _ _ _ (by decide +kernel)]

theorem slice_append_left (a b : List Byte) (o n : Nat) (h : o + n ≤ a.length) : slice (a ++ b) o n = slice a o n := by
  unfold slice
  rw [List.drop_append_of_le_length (by omega), List.take_append_of_le_length (by rw [List.length_drop]; omega)]

theorem slice_all (a b : List Byte) : slice (a ++ b) 0 a.length = a ∧ slice (a ++ b) a.length b.length = b := by
  simp [slice]

/-- The head of a seal record of object 7, 5 bytes long, of a 2 + 1 shape; and the record, signed with a device's key. -/
def sealHead : List Byte := recordHead { tenant := 0, kind := 1, object := 7, body := leBytes 8 5 ++ [3, 2, 1, 0, 0] } 1 []
def sealRec (d : Dev) : List Byte := sealHead ++ hmac256 (d.recordKey 1 0 7 0).1 sealHead

theorem sealRec_at (d : Dev) (o n : Nat) (h : o + n ≤ 224) : leAt (sealRec d) o n = leAt sealHead o n := by
  rw [leAt, sealRec, slice_append_left _ _ _ _ (by rw [show sealHead.length = 224 from by decide +kernel]; exact h)]
  rfl

/-- A seal is found: the record of an object that this device signed. -/
theorem seal_found (d : Dev) (h : tfind d.sow.ledgers 0 = none) (hr : d.rootOk = true) :
    d.findSeal 0 7 { recs := [sealRec d] } = (.seal (sealRec d), (d.recordKey 1 0 7 0).2) := by
  have e1 : leAt (sealRec d) 5 1 = 1 := (sealRec_at d 5 1 (by decide)).trans (by decide +kernel)
  have e2 : leAt (sealRec d) 24 16 = 7 := (sealRec_at d 24 16 (by decide)).trans (by decide +kernel)
  have e3 : leAt (sealRec d) 16 4 = 0 := (sealRec_at d 16 4 (by decide)).trans (by decide +kernel)
  have e4 : leAt (sealRec d) 54 2 = 0 := (sealRec_at d 54 2 (by decide)).trans (by decide +kernel)
  have hl : sealHead.length = 224 := by decide +kernel
  have s := slice_all sealHead (hmac256 (d.recordKey 1 0 7 0).1 sealHead)
  rw [hl, hmac_length] at s
  have ok : d.recordOk (sealRec d) = (true, (d.recordKey 1 0 7 0).2) := by
    unfold Dev.recordOk
    rw [e1, e2, e3, e4]
    refine Prod.ext (decide_eq_true ?_) rfl
    exact (congrArg (hmac256 _) s.1).trans s.2.symm
  unfold Dev.findSeal Dev.ledgerOf
  rw [h]
  simp [e1, e2, hr, ok, Dev.foundSeal]

/-- What was read of a generation-3 object is as it was sealed. -/
theorem seal_as_read (d : Dev) (descs : List (List Byte)) : (objRef (sealRec d) descs).sealedAsRead = true := by
  have e : leAt (sealRec d) 4 1 = 3 := (sealRec_at d 4 1 (by decide)).trans (by decide +kernel)
  simp [ObjRef.sealedAsRead, objRef, sealRef, e]

/-- An entry of operation `op` on object 7, or on the ledger, with buffer 0. -/
def eGlean (op : Nat) : List Byte :=
  ent ([(0, op), (1, 3)] ++ if op = 0x30 then [(8, 1), (16, 1), (23, 0x10)] else [(8, 7)] ++
    if op = 0x20 then [(27, 0x10), (28, 5)] else if op = 0x32 then [] else [(27, 0x10)])
def sGlean (op : Nat) : State := sSow [] (eGlean op) {}

theorem witness_glean_takes : (∀ op ∈ [0x20, 0x21, 0x30, 0x31, 0x32], (sGlean op).dev.live = true ∧ takesWork (sGlean op) op = true ∧
    (sGlean op).dev.handlesOk 0 (((sGlean op).dev.drill 0).entry 0) = true) ∧
    (∀ op ∈ [0x20, 0x21, 0x30, 0x31], (sSow [(TENANT_TABLES.BUF_SLOTS, [0], 0)] (eGlean op) {}).dev.handlesOk 0 (eGlean op) = false) ∧
    (sGlean 0x20).dev.sessOf 0 7 = none ∧ (sGlean 0x20).dev.homePlot 0 ≠ none ∧ (sGlean 0x20).dev.fnMaster 0 = true ∧
    ((sGlean 0x20).dev.drill 0).answer = none ∧ (sGlean 0x30).dev.rootOk = true := by decide +kernel

/-- The device as an entry that names object 7 finds it. -/
def dGlean (op : Nat) : Dev := ((sGlean op).dev.takeDispatch 0).noteObj 0 0 7

theorem witness_glean_seal : ∀ op ∈ [0x20, 0x21, 0x31, 0x32], ∃ z, (dGlean op).findSeal 0 7 { recs := [sealRec (dGlean op)] } =
    (.seal (sealRec (dGlean op)), z) ∧ (objRef (sealRec (dGlean op)) []).len = 5 ∧ sealRec (dGlean op) ≠ [] ∧
    (objRef (sealRec (dGlean op)) []).sealedAsRead = true ∧ z.homePlot 0 ≠ none ∧ z.fnMaster 0 = true ∧ (z.drill 0).answer = none := by
  intro op h
  refine ⟨_, seal_found _ ?_ ?_, (sealRec_at _ 88 8 (by decide)).trans (by decide +kernel), ?_, seal_as_read _ _, ?_⟩
  · revert op h; decide +kernel
  · revert op h; decide +kernel
  · intro e
    have := sealRec_at (dGlean op) 88 8 (by decide)
    rw [e] at this
    revert this; decide +kernel
  · revert op h; decide +kernel

/-- FIPS 180-4's digest of the empty string. -/
theorem test_sha256_empty : sha256 [] = [0xE3, 0xB0, 0xC4, 0x42, 0x98, 0xFC, 0x1C, 0x14, 0x9A, 0xFB, 0xF4, 0xC8, 0x99, 0x6F, 0xB9, 0x24,
    0x27, 0xAE, 0x41, 0xE4, 0x64, 0x9B, 0x93, 0x4C, 0xA4, 0x95, 0x99, 0x1B, 0x78, 0x52, 0xB8, 0x55] := by decide +kernel

theorem sha256_length (l : List Byte) : (sha256 l).length = 32 := by
  rw [sha256, shaBytes_length, shaBlocks_length _ _ _ (by decide +kernel)]

theorem leNat_leBytes : ∀ n v, v < 256 ^ n → leNat (leBytes n v) = v
  | 0, v, h => by simp [leBytes, leNat] at *; omega
  | n + 1, v, h => by
    rw [leBytes, leNat, leNat_leBytes n (v / 256) (by rw [Nat.pow_succ] at h; omega), BitVec.toNat_ofNat]
    omega

/-- A structure written with its CRC checks. -/
theorem crcOk_withCrc (l : List Byte) : crcOk (withCrc l) = true := by
  have e : (withCrc l).length - 4 = l.length := by simp [withCrc, leBytes_length]
  have s := (slice_all l (leBytes 4 (crc32c l).toNat)).2
  rw [leBytes_length] at s
  refine decide_eq_true ?_
  rw [e, leAt, withCrc, s, List.take_left', leNat_leBytes _ _ (crc32c l).isLt]
  rfl

/-- A generation-2 seal record of object 7, the one record of its ledger. -/
def oldSeal : List Byte := (List.range 128).map fun i =>
  BitVec.ofNat 8 (tget 0 [(0, 0x54), (1, 0x47), (2, 0x45), (3, 0x32), (4, 2), (5, 1), (20, 7), (36, 5), (44, 1), (45, 1)] i)
/-- A descriptor row of object 7 whose payload is zeros. -/
def oldHead : List Byte := (List.range 48).map fun i =>
  BitVec.ofNat 8 (tget 0 [(0, 0x54), (1, 0x47), (2, 0x57), (3, 0x32), (4, 2), (5, 2), (8, 7)] i)
def oldDesc : List Byte := withCrc (oldHead ++ (sha256 (zeroGrain) ++ List.replicate 44 0))

theorem oldDesc_length : oldDesc.length = 128 := by simp [oldDesc, withCrc, leBytes_length, sha256_length, show oldHead.length = 48 from rfl]

theorem oldDesc_payload : rowPayload oldDesc = zeroGrain := by
  unfold rowPayload slice
  rw [List.drop_eq_nil_of_le (by rw [oldDesc_length]; decide)]
  rfl

theorem oldDesc_head (o n : Nat) (h : o + n ≤ 48) : slice oldDesc o n = slice oldHead o n := by
  rw [oldDesc, withCrc, List.append_assoc, slice_append_left _ _ _ _ h]

theorem oldDesc_ok : oldDescOk 7 0 oldDesc = true := by
  have c : crcOk (slice oldDesc 0 128) = true := by
    have e := (slice_all oldDesc []).1
    rw [List.append_nil, oldDesc_length] at e
    rw [e]
    exact crcOk_withCrc _
  have t : oldDesc.take 5 = [0x54, 0x47, 0x57, 0x32, 2] := rfl
  have d : slice oldDesc 48 32 = sha256 (zeroGrain) := by
    unfold oldDesc withCrc slice
    generalize leBytes 4 _ = c
    rw [List.append_assoc, List.append_assoc, List.drop_left' (show oldHead.length = 48 from rfl),
      List.take_left' (sha256_length _)]
    show sha256 zeroGrain ++ List.replicate (32 - (sha256 zeroGrain).length) 0 = _
    rw [sha256_length]
    exact List.append_nil _
  simp only [oldDescOk, oldRowChecks, t, c, leAt, oldDesc_head 5 1 (by decide), oldDesc_head 8 16 (by decide), oldDesc_head 32 4 (by decide),
    oldDesc_payload, d]
  decide +kernel

/-- What reading the object with one descriptor row gives. -/
theorem old_ref (x : List Byte) (h : oldDescOk 7 0 x = true) : objRef oldSeal [x] =
    { obj := 7, tenant := 0, label := 0x11, gen := 2, len := 5, k := 1, m := 1, tally := List.replicate 32 0, descs := [(0, x)] } := by
  have r : sealRef oldSeal = { obj := 7, tenant := 0, label := 0x11, gen := 2, len := 5, k := 1, m := 1, tally := List.replicate 32 0 } := by
    decide +kernel
  simp [objRef, r, ObjRef.sheaves, ObjRef.grains, h, tput, List.range_succ]

theorem old_unsealed (x : List Byte) (h : oldDescOk 7 0 x = true) (p : rowPayload x = zeroGrain) :
    (objRef oldSeal [x]).sealedAsRead = false := by
  have z : slice zeroGrain 640 32 = List.replicate 32 0 := by
    unfold slice zeroGrain grainLen
    rw [List.drop_replicate, List.take_replicate, show min 32 (65536 - 640) = 32 by decide]
    exact List.append_nil _
  have n : sha256 (List.replicate 32 0) ≠ List.replicate 32 0 := by decide +kernel
  rw [old_ref x h]
  simpa [ObjRef.sealedAsRead, ObjRef.grains, List.range_succ, ObjRef.desc, tfind, oldDigest, p, z, ObjRef.tallyFrom] using n

/-- The descriptors do not give the sealed tally. -/
theorem witness_old_descriptor : (objRef oldSeal [oldDesc]).sealedAsRead = false := old_unsealed _ oldDesc_ok oldDesc_payload
/-- The one record of a generation-2 ledger is found by its head. -/
theorem old_found (d : Dev) (b : List Byte) (h : tfind d.sow.ledgers 0 = none) (hr : d.rootOk = true)
    (e : (oldRecord b && decide (leAt b 16 4 = 0) && decide (leAt b 20 16 = 7)) = true) :
    d.findSeal 0 7 { old := [b], head := sha256 b } = (.seal b, d) := by
  unfold Dev.findSeal Dev.ledgerOf
  rw [h]
  simp only [List.find?_nil, List.dropWhile_cons, e, Bool.not_true, Bool.false_eq_true, if_false, hr, Dev.foundSeal, oldChain, decide_true,
    if_true]

theorem witness_glean_unsealed : ∀ op ∈ [0x20, 0x31, 0x32],
    (dGlean op).findSeal 0 7 { old := [oldSeal], head := sha256 oldSeal } = (.seal oldSeal, dGlean op) := by
  intro op h
  refine old_found _ _ ?_ ?_ (by decide +kernel) <;> revert op h <;> decide +kernel

theorem witness_glean_none : (dGlean 0x20).findSeal 0 7 {} = (.unknown, dGlean 0x20) ∧ Found.status .unknown = some stNoObject ∧
    (dGlean 0x30).ledgerOf 0 [] = [] ∧ (dGlean 0x30).ledgerOf 0 [[1]] ≠ [] := ⟨rfl, rfl, by decide +kernel⟩

theorem witness_glean_buffer : let v := { aSess with obj := 7 }
    let d (n : Nat) := (sSow [] (ent [(0, 0x20), (1, 3), (8, 7), (28, 5), (32, n)]) { sess := [(1, v)] }).dev
    (d 0).sessOf 0 7 = some v ∧ v.fr ≤ 5 ∧ 4 < min (4 + 5) v.fr ∧ (min (4 + 5) v.fr - 1) / 65536 = v.digests.length ∧ (d 4).rootOk = true ∧
    ({ d 4 with vault := {} } : Dev).rootOk = false := by decide +kernel

/-- A read of object 7 in progress, with one fetch, and a reconstruction that asked for position 1 of sheaf 1. -/
def aGlean (st' : GrainSt) : GleanJob :=
  { drill := 0, entry := 0, ref := objRef sealHead [], lo := 0, hi := 5, dst := 0x10000, pasid := none
    fetches := [{ sheaf := 0, pos := 0, due := 0, hedgeAt := some 0, st := st', verified := decide (st' = .released) }]
    recons := [{ sheaf := 1, targets := [0], asked := [(1, 0)] }] }

def sFetch (g : GleanSt) : State := let s := sSow [] (eGlean 0x20) {} true; { s with dev := { s.dev with glean := g } }

/-- Cipher unit 0's release entries are taken, and a read's copy waits for one. -/
def sFetchFull (free : Bool) : State :=
  let s := sFetch { gleans := [{ aGlean .flying with waiting := [((0, 0), false, [])] }] }
  let r : Release := { workid := 0, ctag := 0, plain := [], dst := 0, off := 0, len := 0 }
  { s with dev := s.dev.setCiph 0 { s.dev.ciph 0 with releases := (List.range (if free then 127 else 128)).map fun e => (e, r) } }

theorem witness_fetch_waits : freeRelease ((sFetchFull false).dev.ciph 0) = none ∧
    ((sFetchFull true).dev.ciph 0).waitRelease = false ∧ freeRelease ((sFetchFull true).dev.ciph 0) ≠ none ∧
    ((sFetchFull true).dev.glean.gleans.find? fun j => decide (j.plot = 0) && decide (j.waiting ≠ [])).isSome = true ∧
    (let d := (sFetch { gleans := [{ aGlean .flying with plot := 2 }] }).dev
     (d.setFld POWER_GATE.STATE 2 [16]).plotSows 2 = false ∧ (d.setFld POWER_GATE.STATE 2 [16]).gleanJob? 0 =
       some { aGlean .flying with plot := 2 }) := by decide +kernel

theorem witness_fetch : ∀ st' ∈ [GrainSt.flying, .released],
    let d := (sFetch { gleans := [aGlean st'] }).dev
    d.live = true ∧ d.gleanJob? 0 = some (aGlean st') ∧ d.stale (d.drill 0).workid = false ∧ d.fnMaster 0 = true ∧ d.plotSows (aGlean st').plot = true ∧
    (aGlean st').fetch? 0 0 = some { sheaf := 0, pos := 0, due := 0, hedgeAt := some 0, st := st', verified := decide (st' = .released) } ∧
    ((aGlean st').recon? 1).map GRecon.asked = some [(1, 0)] ∧ (aGlean st').fetch? 1 1 = none := by decide +kernel

theorem witness_fetch_lost : let d := (sFetch { losers := [(0, 1, 2)], oldRows := [(0, (0, 1, 2))] }).dev
    d.gleanJob? 0 = none ∧ d.glean.losers.contains (0, 1, 2) = true ∧ d.glean.oldRows = (0, (0, 1, 2)) :: [] ∧ 0 ≤ d.clk.mono := by decide

theorem witness_repair_lock : let j : RepairJob := { drill := some (0, 0), ref := objRef sealHead [] }
    let d := (sFetch { repairs := [j] }).dev
    j.ref.obj = 7 ∧ d.repair? 7 = none ∧ d.glean.repairs.find? (fun j => decide (j.ref.obj = 7)) = some j ∧
    d.stale (d.drill 0).workid = false := by decide +kernel

/-- Harrowing runs: target 1 is in its pass. -/
def sHarrow (g : GleanSt) : State :=
  let s := sSow [(DEVICE_HARROW_CTL.EN, [], 1), (DEVICE_HARROW_CTL.LEDGER, [], 1), (STORAGE_TGT_STATUS.PRESENT, [1], 1)] (eGlean 0x20)
    { ledgers := [(0, { recs := [[]], durable := 0, checked := 9 }), (1, { recs := [[]], durable := 1, checked := 9 })] }
  { s with dev := { s.dev with stg := { labels := [(1, aLabel)] }, glean := { g with pass := [1] }, clk := { mono := 60000000000 } } }

theorem witness_harrow_issue : let b : BadPos := ⟨7, 0, 0, 1, (0, 1, 2)⟩
    let d := (sHarrow { repairList := [b] }).dev
    let u := (sHarrow {}).dev
    d.live = true ∧ d.glean.pass ≠ [] ∧ d.flag DEVICE_HARROW_CTL.EN = true ∧ d.harrowBudget = true ∧ d.rootOk = true ∧
    d.glean.repairList = b :: [] ∧ d.glean.listed = none ∧ d.targetQuiet 1 = true ∧ u.glean.repairList = [] ∧ u.inService 1 = true ∧ 0 < labelRows (u.label 1) ∧
    (u.harrowTgt 1).reading = none ∧ (u.harrowTgt 1).swept = false ∧ (u.harrowTgt 1).row ≤ 0 ∧ u.targetQuiet 1 = true ∧
    (u.harrowTgt 1).recordedAt + 60000000000 ≤ u.clk.mono ∧
    ((sHarrow { targets := [(1, { reading := some 5 })] }).dev.harrowTgt 1).reading = some 5 := by decide +kernel

theorem witness_harrow_listed : let d := { (sHarrow {}).dev with glean := { listed := none } }
    ((sHarrow { listed := some ⟨7, 0, 0, 1, (0, 1, 2)⟩ }).dev.glean.listed).isSome = true ∧
    ∃ z, ({ d with sow := {} } : Dev).findSeal 0 7 { recs := [sealRec { d with sow := {} }] } = (.seal (sealRec { d with sow := {} }), z) :=
  ⟨by decide +kernel, _, seal_found _ (by decide +kernel) (by decide +kernel)⟩

theorem witness_ledger_check : let d := (sHarrow {}).dev
    let l (n : Nat) := (tfind d.sow.ledgers n).getD {}
    d.flag DEVICE_HARROW_CTL.LEDGER = true ∧ d.flag DEVICE_HARROW_CTL.EN = true ∧ d.rootOk = true ∧
    (l 0).checked ≠ d.fld DEVICE_HARROW_STATUS.PASSES + 1 ∧ (ledgerBreak d 1 [] ((l 0).recs.take (l 0).durable)).1 = none ∧
    (l 1).checked ≠ d.fld DEVICE_HARROW_STATUS.PASSES + 1 ∧ (ledgerBreak d 1 [] ((l 1).recs.take (l 1).durable)).1 = some 1 := by
  decide +kernel

end Sys2Proof.Tests
end

section
/-! PROOFS. Writes of DEVICE_PLACE (R20 to R22, R382). -/

namespace Sys2Proof.Machine

/-- DEVICE_PLACE has no WO field, so that writes of both sizes are performed (R87). -/
theorem Wr.accepted_place (m h : Nat) (v : Word) {size : Nat} (hs : size ∈ [4, 8]) :
    (⟨m, size, h, v⟩ : Wr).accepted .DEVICE_PLACE = true := by
  simp only [List.mem_cons, List.not_mem_nil, or_false] at hs
  rcases hs with rfl | rfl <;> rfl

theorem place_key_ne_coalesced : RegName.DEVICE_PLACE.key [] ≠ RegName.FAULT_COALESCED.key [] := by decide

/-- A write refused for the master that writes is the record of 0x0206 alone. -/
theorem Dev.refuse206_place (d : Dev) (w : Wr) :
    d.refuse206 .DEVICE_PLACE [] w =
      d.blame 0x0206 w.master (0x40000000000 + RegName.DEVICE_PLACE.key []) (RegName.DEVICE_PLACE.key []) := rfl

/-- Once LOCK is 1 a write is refused (R22). -/
theorem Dev.placeWrite_locked (d : Dev) (w : Wr) (ha : w.accepted .DEVICE_PLACE = true)
    (hl : d.flag DEVICE_PLACE.LOCK = true) : d.placeWrite w = d.refuse206 .DEVICE_PLACE [] w := by
  simp [Dev.placeWrite, ha, hl]

/-! ### The place's fields after a write of all 8 bytes -/

/-- The identifiers of the place are those of `v`. -/
def Dev.PlacedAt (d : Dev) (v : Word) : Prop :=
  d.fld DEVICE_PLACE.DEVICE = DEVICE_PLACE.DEVICE.get v ∧ d.fld DEVICE_PLACE.HOLDING = DEVICE_PLACE.HOLDING.get v ∧
    d.fld DEVICE_PLACE.COMMON = DEVICE_PLACE.COMMON.get v ∧ d.fld DEVICE_PLACE.ESTATE = DEVICE_PLACE.ESTATE.get v

theorem Dev.placedAt_regWrite (d : Dev) (m h : Nat) (v : Word) :
    (d.regWrite .DEVICE_PLACE [] ⟨m, 8, h, v⟩).PlacedAt v := by
  have take (fd : FieldDesc) (hm : fd ∈ RegName.DEVICE_PLACE.fields) (ha : fd.acc = .rw) (hl : fd.legal = .any)
      (hs : (fd.stopOnly && !true) = false) (h0 : fd.fld.mask ≠ 0) :
      (d.regWrite .DEVICE_PLACE [] ⟨m, 8, h, v⟩).fld fd.fld [] = fd.fld.get v := by
    rw [d.fld_regWrite _ _ _ _ _ (Wr.accepted_whole m h v _) place_key_ne_coalesced fd hm]
    exact fd.takes_rw m h v _ _ _ ha hl hs h0 (fieldsOk_mem (RegName.fields_ok _) hm).2
  exact ⟨take ⟨_, .rw, false, .any⟩ (by decide) rfl rfl rfl (by decide),
    take ⟨_, .rw, false, .any⟩ (by decide) rfl rfl rfl (by decide),
    take ⟨_, .rw, false, .any⟩ (by decide) rfl rfl rfl (by decide),
    take ⟨_, .rw, false, .any⟩ (by decide) rfl rfl rfl (by decide)⟩

/-- A field that a 1 sets keeps its bits, and takes those written 1. -/
theorem FieldDesc.takes_rw1s (fd : FieldDesc) (m h : Nat) (v old : Word) (st : Bool) (ok : Fld → Word → Bool)
    (ha : fd.acc = .rw1s) (hm : fd.fld.mask ≠ 0) (hw : fd.fld.lo + fd.fld.width ≤ 64) :
    fd.takes ⟨m, 8, h, v⟩ old st ok = fd.fld.get (old ||| v) := by
  unfold FieldDesc.takes writeField
  simp only [Wr.mask_whole, Wr.placed_whole, BitVec.and_allOnes, if_neg hm, ha]
  rw [Fld.get_set_self _ _ _ hw]
  exact Nat.mod_eq_of_lt (Nat.mod_lt _ (Nat.two_pow_pos _))

/-- A flag reads its register's bit. -/
theorem Dev.flag_eq_bit (d : Dev) (f : Fld) (i : List Nat) (h : f.width = 1) : d.flag f i = (d.reg f.reg i).getLsbD f.lo := by
  unfold Dev.flag Dev.fld
  rw [Fld.get_bit f _ h]
  cases (d.reg f.reg i).getLsbD f.lo <;> rfl

/-- LOCK, while it is 0, becomes bit 63 of the value written. -/
theorem Dev.lock_regWrite (d : Dev) (m h : Nat) (v : Word) (hl : d.flag DEVICE_PLACE.LOCK = false) :
    (d.regWrite .DEVICE_PLACE [] ⟨m, 8, h, v⟩).flag DEVICE_PLACE.LOCK = v.getLsbD 63 := by
  have hold : (d.reg .DEVICE_PLACE []).getLsbD 63 = false := (d.flag_eq_bit DEVICE_PLACE.LOCK [] rfl).symm.trans hl
  have hf : (d.regWrite .DEVICE_PLACE [] ⟨m, 8, h, v⟩).fld DEVICE_PLACE.LOCK =
      DEVICE_PLACE.LOCK.get (d.reg .DEVICE_PLACE [] ||| v) :=
    (d.fld_regWrite _ _ _ _ _ (Wr.accepted_whole m h v _) place_key_ne_coalesced
      ⟨DEVICE_PLACE.LOCK, .rw1s, false, .any⟩ (by decide)).trans
      (FieldDesc.takes_rw1s _ m h v _ _ _ rfl (by decide) (by decide))
  have hb : (d.reg .DEVICE_PLACE [] ||| v).getLsbD DEVICE_PLACE.LOCK.lo = v.getLsbD 63 := by
    rw [BitVec.getLsbD_or]
    exact (congrArg (· || v.getLsbD 63) hold).trans (Bool.false_or _)
  unfold Dev.flag
  rw [hf, Fld.get_bit _ _ rfl, hb]
  cases v.getLsbD 63 <;> rfl

/-- A write of the place stores its word and records no fault. -/
theorem Dev.touch_regWrite_place (d : Dev) (m h : Nat) (v : Word) :
    d.Touch [.regs] [RegName.DEVICE_PLACE.key []] (d.regWrite .DEVICE_PLACE [] ⟨m, 8, h, v⟩) := by
  have plain : ∀ fd ∈ RegName.DEVICE_PLACE.fields, fd.stopOnly = false ∧ fd.legal = .any := by decide
  refine d.touch_regWrite_fine _ _ _ _ _ (Wr.accepted_whole m h v _) fun fd hm _ => ?_
  obtain ⟨hs, hl⟩ := plain fd hm
  exact ⟨.inr (.inl hs), by rw [hl]⟩

/-- While LOCK is 0 the T512's place takes a write that does not set LOCK, or may set it (R382). -/
theorem Dev.placeWrite_taken (d : Dev) (m h : Nat) (v : Word) (hp : d.part = .t512)
    (hl : d.flag DEVICE_PLACE.LOCK = false) (hv : v.getLsbD 63 = false ∨ d.flag DEVICE_SOW_EPOCH.VALID = true) :
    d.placeWrite ⟨m, 8, h, v⟩ = d.regWrite .DEVICE_PLACE [] ⟨m, 8, h, v⟩ := by
  have t := d.touch_regWrite_place m h v
  have hpart : (d.regWrite .DEVICE_PLACE [] ⟨m, 8, h, v⟩).part = d.part := t.same .part (by decide)
  have hvalid := t.flag DEVICE_SOW_EPOCH.VALID [] (by decide)
  rcases hv with hv | hv
  · have hlock := (d.lock_regWrite m h v hl).trans hv
    simp [Dev.placeWrite, hl, hpart, hp, hlock]
  · simp [Dev.placeWrite, hl, hpart, hp, hvalid, hv]

/-- While DEVICE_SOW_EPOCH.VALID is 0, LOCK is written back to 0 and the write recorded (R382). -/
theorem Dev.placeWrite_lockRefused (d : Dev) (m h : Nat) (v : Word) (hp : d.part = .t512)
    (hl : d.flag DEVICE_PLACE.LOCK = false) (hv : v.getLsbD 63 = true) (he : d.flag DEVICE_SOW_EPOCH.VALID = false) :
    d.placeWrite ⟨m, 8, h, v⟩ =
      ((d.regWrite .DEVICE_PLACE [] ⟨m, 8, h, v⟩).setFld DEVICE_PLACE.LOCK 0).refuse206 .DEVICE_PLACE [] ⟨m, 8, h, v⟩ := by
  have t := d.touch_regWrite_place m h v
  have hpart : (d.regWrite .DEVICE_PLACE [] ⟨m, 8, h, v⟩).part = d.part := t.same .part (by decide)
  have hvalid := t.flag DEVICE_SOW_EPOCH.VALID [] (by decide)
  have hlock := (d.lock_regWrite m h v hl).trans hv
  simp [Dev.placeWrite, hl, hpart, hp, hvalid, hlock, he]

/-- The identifiers stay as LOCK is written and a fault recorded. -/
theorem Dev.PlacedAt.refused {d : Dev} {v : Word} (h : d.PlacedAt v) (w : Wr) :
    ((d.setFld DEVICE_PLACE.LOCK 0).refuse206 .DEVICE_PLACE [] w).PlacedAt v := by
  have keep (f : Fld) (hr : f.reg = .DEVICE_PLACE) (hf : f.lo + f.width ≤ 63) :
      ((d.setFld DEVICE_PLACE.LOCK 0).refuse206 .DEVICE_PLACE [] w).fld f = d.fld f := by
    rw [Dev.refuse206_place, (Dev.touch_blame _ _ _ _ _).fld f [] (by rw [hr]; decide),
      Dev.fld_setFld_beside d f DEVICE_PLACE.LOCK 0 [] hr (by omega) (.inl hf)]
  obtain ⟨hd, hh, hc, he⟩ := h
  exact ⟨(keep _ rfl (by decide)).trans hd, (keep _ rfl (by decide)).trans hh, (keep _ rfl (by decide)).trans hc,
    (keep _ rfl (by decide)).trans he⟩

theorem Dev.lock_refused (d : Dev) (w : Wr) :
    ((d.setFld DEVICE_PLACE.LOCK 0).refuse206 .DEVICE_PLACE [] w).flag DEVICE_PLACE.LOCK = false := by
  rw [Dev.refuse206_place, (Dev.touch_blame _ _ _ _ _).flag DEVICE_PLACE.LOCK [] (by decide)]
  unfold Dev.flag
  rw [Dev.fld_setFld_self _ _ _ _ (by decide)]
  rfl

/-- Settles O12: by the value of LOCK, of the bit written to it, and of DEVICE_SOW_EPOCH.VALID. -/
theorem placeLocks : Obligations.PlaceLocks := by
  unfold Obligations.PlaceLocks
  intro s master value hs hp hm d refused place
  have answer (size half : Nat) : exec (.placeWrite master size half value) s =
      .next (s.did (s.dev.placeWrite ⟨master, size, half, value⟩)) := hs.manage _
  have written := s.dev.touch_regWrite_place master 0 value
  have placed := s.dev.placedAt_regWrite master 0 value
  have lock (hl : s.dev.flag DEVICE_PLACE.LOCK = false) := s.dev.lock_regWrite master 0 value hl
  refine ⟨fun hl size hsz half => ?_, fun hl hv => ?_, fun hl hv he => ?_, fun hl hv he => ?_⟩ <;>
    refine ⟨_, answer _ _, ?_⟩
  · have t := s.dev.touch_blame 0x0206 master (0x40000000000 + RegName.DEVICE_PLACE.key []) (RegName.DEVICE_PLACE.key [])
    rw [Dev.placeWrite_locked _ _ (Wr.accepted_place _ _ _ hsz) hl, Dev.refuse206_place]
    exact ⟨recorded_blame s _ _ _ _ hm, (t.mono (by decide) fun _ h => h).only hs.2, t.regsBut⟩
  · rw [Dev.placeWrite_taken _ _ _ _ hp hl (.inl hv)]
    exact ⟨placed, (lock hl).trans hv, written.only hs.2, written.regsBut⟩
  · rw [Dev.placeWrite_taken _ _ _ _ hp hl (.inr he)]
    exact ⟨placed, (lock hl).trans hv, written.only hs.2, written.regsBut⟩
  · have stored := written.seq (Dev.touch_setFld _ DEVICE_PLACE.LOCK 0 [])
    have t := (stored.seq (Dev.touch_blame _ 0x0206 master (0x40000000000 + RegName.DEVICE_PLACE.key [])
      (RegName.DEVICE_PLACE.key []))).mono (qs := [.faults, .regs])
      (ls := [RegName.DEVICE_PLACE.key [], RegName.FAULT_COALESCED.key []]) (by decide) (by decide)
    rw [Dev.placeWrite_lockRefused _ _ _ _ hp hl hv he]
    exact ⟨placed.refused _, Dev.lock_refused _ _,
      recorded_blame_after s _ _ _ _ _ (stored.same .faults (by decide)) (stored.same .clock (by decide)) hm,
      t.only hs.2, t.regsBut⟩

end Sys2Proof.Machine
end

section
/-! PROOFS. Start-up: supplies, the first AVSBus request, the strips' training and HBM's (R32, R819, R821). -/

namespace Sys2Proof.Machine

/-! ### Supplies become valid, and the first request -/

theorem Dev.touch_harrowPassEnd (d : Dev) :
    d.Touch [.gleaning, .regs] [RegName.DEVICE_HARROW_STATUS.key []] d.harrowPassEnd := by
  unfold Dev.harrowPassEnd
  refine Dev.touch_if (Dev.Touch.refl _ _ _) ?_
  exact ((d.touch_setFld DEVICE_HARROW_STATUS.PASSES _ []).seq (Dev.touchIn_glean _ _)).mono (by decide) (by decide)

theorem clampCode_le (c : Nat) : clampCode c ≤ 44 := by unfold clampCode; omega

/-- The lower voltage limit is a code. -/
theorem Dev.paceLow_le (d : Dev) : d.paceLow ≤ 44 := by
  have hmin := clampCode_le (d.fld DEVICE_PACE_CTL.VMIN)
  have hfloor := clampCode_le (d.fld DEVICE_PACE_CTL.VFLOOR)
  unfold Dev.paceLow Dev.vfloor
  dsimp only
  split <;> omega

theorem Dev.touch_avsRequest (d : Dev) (c : Nat) :
    d.Touch [.regs, .outside, .pace] [RegName.DEVICE_PACE_STATUS.key []] (d.avsRequest c) := by
  unfold Dev.avsRequest
  exact (((d.touch_setFld DEVICE_PACE_STATUS.VREQ c []).seq (Dev.touch_emit _ _)).seq (Dev.touchIn_pace _ _)).mono
    (by decide) (by decide)

@[simp] theorem Dev.pw_avsRequest (d : Dev) (c : Nat) : (d.avsRequest c).pw = d.pw := rfl
@[simp] theorem Dev.out_avsRequest (d : Dev) (c : Nat) : (d.avsRequest c).out = d.out ++ [.avs c] := rfl
@[simp] theorem Dev.pace_avsRequest (d : Dev) (c : Nat) :
    (d.avsRequest c).pace = { d.pace with lastAttempt := d.clk.mono, fails := 0 } := rfl

/-- A request is noted as VREQ. -/
theorem Dev.vreq_avsRequest (d : Dev) {c : Nat} (h : c < 256) : (d.avsRequest c).fld DEVICE_PACE_STATUS.VREQ = c :=
  (d.fld_setFld_self DEVICE_PACE_STATUS.VREQ c [] (by decide)).trans (Nat.mod_eq_of_lt h)

/-! ### The registers that the strips' training writes -/

/-- The keys of HOST_FN_STATE of PFs. -/
def fnKeys : List Nat := (List.range 256).map fun p => RegName.HOST_FN_STATE.key [p]
/-- The keys of the status of links. -/
def linkKeys : List Nat := (List.range 64).map fun l => RegName.HOST_LINK_STATUS.key [l]
/-- The keys of the status of storage and network ports. -/
def portKeys : List Nat :=
  (List.range 192).map (fun n => RegName.STORAGE_PORT_STATUS.key [n]) ++
    (List.range 320).map (fun n => RegName.NET_PORT_STATUS.key [n])
/-- The keys of all of them. -/
def startKeys : List Nat :=
  fnKeys ++ linkKeys ++ (List.range 192).map (fun n => RegName.STORAGE_PORT_STATUS.key [n]) ++
    (List.range 320).map (fun n => RegName.NET_PORT_STATUS.key [n])

theorem mem_fnKeys {k : Nat} : k ∈ fnKeys ↔ ∃ p < 256, RegName.HOST_FN_STATE.key [p] = k := by
  simp only [fnKeys, List.mem_map, List.mem_range]

theorem mem_linkKeys {k : Nat} : k ∈ linkKeys ↔ ∃ l < 64, RegName.HOST_LINK_STATUS.key [l] = k := by
  simp only [linkKeys, List.mem_map, List.mem_range]

theorem mem_portKeys {k : Nat} : k ∈ portKeys ↔
    (∃ n < 192, RegName.STORAGE_PORT_STATUS.key [n] = k) ∨ ∃ n < 320, RegName.NET_PORT_STATUS.key [n] = k := by
  simp only [portKeys, List.mem_append, List.mem_map, List.mem_range]

theorem mem_startKeys {k : Nat} : k ∈ startKeys ↔ k ∈ fnKeys ∨ k ∈ linkKeys ∨ k ∈ portKeys := by
  simp only [startKeys, portKeys, List.mem_append, or_assoc]

theorem not_mem_fnKeys {k : Nat} (h : k < 0x5020000 ∨ 0x5021000 ≤ k) : k ∉ fnKeys := by
  rw [mem_fnKeys]
  rintro ⟨p, hp, rfl⟩
  rw [key_HOST_FN_STATE] at h; omega

theorem not_mem_linkKeys {k : Nat} (h : 0x5001000 ≤ k) : k ∉ linkKeys := by
  rw [mem_linkKeys]
  rintro ⟨l, hl, rfl⟩
  rw [key_HOST_LINK_STATUS] at h; omega

theorem not_mem_portKeys {k : Nat} (h : k < 0x6000000) : k ∉ portKeys := by
  rw [mem_portKeys]
  rintro (⟨n, _, rfl⟩ | ⟨n, _, rfl⟩)
  · rw [key_STORAGE_PORT_STATUS] at h; omega
  · rw [key_NET_PORT_STATUS] at h; omega

/-- Other blocks' registers, and those of plans and controls, are not among them. -/
theorem not_mem_startKeys {k : Nat} (h : k < 0x5000000 ∨ (k < 0x5020000 ∨ 0x5021000 ≤ k) ∧ k % 0x40 ≠ 8) : k ∉ startKeys := by
  rw [mem_startKeys, mem_fnKeys, mem_linkKeys, mem_portKeys]
  rintro (⟨p, hp, rfl⟩ | ⟨l, hl, rfl⟩ | ⟨n, hn, rfl⟩ | ⟨n, hn, rfl⟩)
  · rw [key_HOST_FN_STATE] at h; omega
  · rw [key_HOST_LINK_STATUS] at h; omega
  · rw [key_STORAGE_PORT_STATUS] at h; omega
  · rw [key_NET_PORT_STATUS] at h; omega

/-- What the strips' training may touch, once they have left electrical idle. -/
abbrev Dev.StartTouch (d e : Dev) : Prop := d.Touch [.regs, .host] startKeys e

/-! ### What decides whether a link or port trains is not touched -/

theorem Dev.Touch.gateState {ps : List Piece} {ks : List Nat} {d e : Dev} (h : d.Touch ps ks e) (hp : .part ∉ ps) (g : Nat)
    (hk : RegName.POWER_GATE.key [g] ∉ ks) : e.gateState g = d.gateState g := by
  unfold Dev.gateState
  rw [show e.part = d.part from h.same .part hp, h.fld POWER_GATE.STATE [g] hk]

theorem Dev.StartTouch.stripOn {d e : Dev} (h : d.StartTouch e) {n : Nat} (hn : n < 7) : e.stripOn n = d.stripOn n := by
  unfold Dev.stripOn
  rw [show e.pw = d.pw from h.same .power (by decide), show e.clk = d.clk from h.same .clock (by decide),
    h.gateState (by decide) _ (not_mem_startKeys (by rw [key_POWER_GATE]; omega))]

theorem Dev.StartTouch.canTrain {d e : Dev} (h : d.StartTouch e) {l : Nat} (hl : l < 64) : e.canTrain l = d.canTrain l := by
  have hk : RegName.HOST_LINK_PLAN.key [l] ∉ startKeys := not_mem_startKeys (by rw [key_HOST_LINK_PLAN]; omega)
  unfold Dev.canTrain
  rw [show e.pw = d.pw from h.same .power (by decide), show e.clk = d.clk from h.same .clock (by decide),
    h.flag HOST_LINK_PLAN.PRESENT [l] hk]

/-- A storage port starts to train with its strip (R601). -/
def Dev.storeRuns (d : Dev) (n : Nat) : Bool :=
  d.hasPort n && d.flag STORAGE_PORT_CTL.ENABLE [n] && d.stripOn (4 + n / 64)

theorem Dev.StartTouch.storeRuns {d e : Dev} (h : d.StartTouch e) {n : Nat} (hn : n < 192) : e.storeRuns n = d.storeRuns n := by
  have hp : RegName.STORAGE_PORT_PLAN.key [n] ∉ startKeys := not_mem_startKeys (by rw [key_STORAGE_PORT_PLAN]; omega)
  have hc : RegName.STORAGE_PORT_CTL.key [n] ∉ startKeys := not_mem_startKeys (by rw [key_STORAGE_PORT_CTL]; omega)
  unfold Dev.storeRuns Dev.hasPort
  rw [show e.part = d.part from h.same .part (by decide), h.stripOn (n := 4 + n / 64) (by omega),
    h.flag STORAGE_PORT_PLAN.PRESENT [n] hp, h.flag STORAGE_PORT_CTL.ENABLE [n] hc]

theorem Dev.lt_of_netLane {d : Dev} {n : Nat} (h : d.netLane n = true) : n < 320 := by
  simp only [Dev.netLane, Bool.and_eq_true, decide_eq_true_eq] at h; exact h.1

theorem Dev.StartTouch.netLane {d e : Dev} (h : d.StartTouch e) (n : Nat) : e.netLane n = d.netLane n := by
  unfold Dev.netLane Dev.planWord
  rw [show e.part = d.part from h.same .part (by decide), h.reg .DEVICE_STRIP_PLAN [] (not_mem_startKeys (.inl (by decide)))]

theorem Dev.StartTouch.portRuns {d e : Dev} (h : d.StartTouch e) {n : Nat} (hn : n < 320) : e.portRuns n = d.portRuns n := by
  have hc : RegName.NET_PORT_CTL.key [n] ∉ startKeys := not_mem_startKeys (by rw [key_NET_PORT_CTL]; omega)
  unfold Dev.portRuns
  rw [h.netLane, h.fld NET_PORT_CTL.MODE [n] hc, h.flag NET_PORT_CTL.RUN [n] hc, show e.flt = d.flt from h.same .faults (by decide),
    h.stripOn (by omega)]

/-! ### Planned links train -/

theorem Dev.touch_linkSet (d : Dev) (l st r n : Nat) : d.Touch [.regs] [RegName.HOST_LINK_STATUS.key [l]] (d.linkSet l st r n) := by
  unfold Dev.linkSet
  exact ((d.touch_setFld HOST_LINK_STATUS.STATE st [l]).trans (Dev.touch_setFld _ HOST_LINK_STATUS.RATE r [l])).trans
    (Dev.touch_setFld _ HOST_LINK_STATUS.LANES n [l])

theorem Dev.touch_trainLink (d : Dev) (l : Nat) (p : Bool) :
    d.Touch [.regs, .host] [RegName.HOST_LINK_STATUS.key [l]] (d.trainLink l p) := by
  unfold Dev.trainLink
  exact Dev.touch_if (((d.touch_linkSet l 1 0 0).seq (Dev.touchIn_host _ _)).mono (by decide) (by simp))
    ((d.touch_linkSet l _ 0 0).mono (by decide) fun _ h => h)

theorem Dev.startTouch_trainLink (d : Dev) {l : Nat} (hl : l < 64) : d.StartTouch (d.trainLink l) :=
  (d.touch_trainLink l false).mono (fun _ h => h) fun k hk => by
    rw [List.mem_singleton] at hk
    exact mem_startKeys.2 (.inr (.inl (mem_linkKeys.2 ⟨l, hl, hk.symm⟩)))

theorem linkStatus_not_mem {a l : Nat} (h : a ≠ l) : RegName.HOST_LINK_STATUS.key [l] ∉ [RegName.HOST_LINK_STATUS.key [a]] := by
  rw [List.mem_singleton, key_HOST_LINK_STATUS, key_HOST_LINK_STATUS]; omega

/-- A link's state is set beside the level of its PERST_N pin. -/
theorem Dev.perst_linkSet (d : Dev) (l st r n : Nat) :
    (d.linkSet l st r n).flag HOST_LINK_STATUS.PERST [l] = d.flag HOST_LINK_STATUS.PERST [l] := by
  unfold Dev.flag Dev.linkSet
  rw [Dev.fld_setFld_beside _ HOST_LINK_STATUS.PERST HOST_LINK_STATUS.LANES _ _ rfl (by decide) (by decide),
    Dev.fld_setFld_beside _ HOST_LINK_STATUS.PERST HOST_LINK_STATUS.RATE _ _ rfl (by decide) (by decide),
    Dev.fld_setFld_beside _ HOST_LINK_STATUS.PERST HOST_LINK_STATUS.STATE _ _ rfl (by decide) (by decide)]

theorem Dev.state_linkSet (d : Dev) (l st r n : Nat) :
    (d.linkSet l st r n).fld HOST_LINK_STATUS.STATE [l] = st % 16 := by
  unfold Dev.linkSet
  rw [Dev.fld_setFld_beside _ HOST_LINK_STATUS.STATE HOST_LINK_STATUS.LANES _ _ rfl (by decide) (by decide),
    Dev.fld_setFld_beside _ HOST_LINK_STATUS.STATE HOST_LINK_STATUS.RATE _ _ rfl (by decide) (by decide),
    Dev.fld_setFld_self _ _ _ _ (by decide)]
  rfl

theorem Dev.perst_trainLink (d : Dev) (a l : Nat) :
    (d.trainLink a).flag HOST_LINK_STATUS.PERST [l] = d.flag HOST_LINK_STATUS.PERST [l] := by
  by_cases h : a = l
  · subst h
    unfold Dev.trainLink
    split
    · exact (Dev.flag_congr rfl _ _).trans (d.perst_linkSet a 1 0 0)
    · exact d.perst_linkSet a _ 0 0
  · exact (d.touch_trainLink a false).flag _ _ (linkStatus_not_mem h)

/-- Link `l` trains, from TIME_MONO `t` on. -/
def Dev.LinkTrains (l t : Nat) (d : Dev) : Prop :=
  d.fld HOST_LINK_STATUS.STATE [l] = 1 ∧ tfind d.host.trainFrom l = some t

theorem Dev.linkTrains_trainLink (d : Dev) (l : Nat) (h : d.canTrain l = true) (hp : d.flag HOST_LINK_STATUS.PERST [l] = false) :
    Dev.LinkTrains l d.clk.mono (d.trainLink l) := by
  unfold Dev.trainLink
  rw [h, hp]
  exact ⟨d.state_linkSet l 1 0 0, tfind_tput_self _ _ _⟩

/-- Another link's training leaves link `l` as it trains. -/
theorem Dev.LinkTrains.trainLink {l t : Nat} {d : Dev} (h : Dev.LinkTrains l t d) {a : Nat} (ha : a ≠ l) :
    Dev.LinkTrains l t (d.trainLink a) := by
  refine ⟨((d.touch_trainLink a false).fld _ _ (linkStatus_not_mem ha)).trans h.1, ?_⟩
  unfold Dev.trainLink
  split
  · exact (tfind_tput_ne _ _ ha.symm).trans h.2
  · exact h.2

/-- Link `l` may train, at TIME_MONO `t`. -/
structure Dev.LinkReady (l t : Nat) (d : Dev) : Prop where
  can : d.canTrain l = true
  perst : d.flag HOST_LINK_STATUS.PERST [l] = false
  now : d.clk.mono = t

theorem Dev.LinkReady.trains {l t : Nat} {d : Dev} (h : d.LinkReady l t) : (d.trainLink l).LinkTrains l t :=
  h.now ▸ d.linkTrains_trainLink l h.can h.perst

theorem Dev.LinkReady.trainLink {l t : Nat} (hl : l < 64) {d : Dev} (h : d.LinkReady l t) {a : Nat} (ha : a < 64) :
    (d.trainLink a).LinkReady l t where
  can := ((d.startTouch_trainLink ha).canTrain hl).trans h.can
  perst := (d.perst_trainLink a l).trans h.perst
  now := (congrArg Clock.mono ((d.startTouch_trainLink ha).same .clock (by decide))).trans h.now

/-! ### Ports train -/

/-- From `d` to `e` ports may start to train, and nothing else changes. -/
structure Dev.PortsTrain (d e : Dev) : Prop where
  touch : d.Touch [.regs] portKeys e
  store : ∀ n < 192, e.fld STORAGE_PORT_STATUS.STATE [n] = d.fld STORAGE_PORT_STATUS.STATE [n] ∨
    e.fld STORAGE_PORT_STATUS.STATE [n] = 1
  net : ∀ n < 320, e.fld NET_PORT_STATUS.STATE [n] = d.fld NET_PORT_STATUS.STATE [n] ∨ e.fld NET_PORT_STATUS.STATE [n] = 1

theorem Dev.PortsTrain.refl (d : Dev) : d.PortsTrain d :=
  ⟨Dev.Touch.refl _ _ _, fun _ _ => .inl rfl, fun _ _ => .inl rfl⟩

/-- What two steps leave or set, they leave or set together. -/
theorem kept_or_set {a b c v : Nat} (h : b = a ∨ b = v) (g : c = b ∨ c = v) : c = a ∨ c = v := by omega

theorem Dev.PortsTrain.trans {a b c : Dev} (h : a.PortsTrain b) (g : b.PortsTrain c) : a.PortsTrain c :=
  ⟨h.touch.trans g.touch, fun n hn => kept_or_set (h.store n hn) (g.store n hn), fun n hn => kept_or_set (h.net n hn) (g.net n hn)⟩

theorem Dev.PortsTrain.fold {α : Type} (f : Dev → α → Dev) (l : List α) (h : ∀ b, ∀ a ∈ l, Dev.PortsTrain b (f b a)) (d : Dev) :
    d.PortsTrain (l.foldl f d) := foldl_rel Dev.PortsTrain Dev.PortsTrain.refl (fun _ _ _ => Dev.PortsTrain.trans) f l h d

theorem Dev.PortsTrain.startTouch {d e : Dev} (h : d.PortsTrain e) : d.StartTouch e :=
  h.touch.mono (by decide) fun _ hk => mem_startKeys.2 (.inr (.inr hk))

theorem Dev.fld_setFld_row (d : Dev) (f : Fld) (v x y n st : Nat) (hv : v < 2 ^ f.width) (hw : f.lo + f.width ≤ 64)
    (hd : f.reg.dims = [(n, st)]) (hs : 0 < st) :
    (d.setFld f v [x]).fld f [y] = d.fld f [y] ∨ (d.setFld f v [x]).fld f [y] = v := by
  by_cases h : y = x
  · subst h
    exact .inr ((d.fld_setFld_self f v [y] hw).trans (Nat.mod_eq_of_lt hv))
  · exact .inl (d.fld_setFld_ne f f v [x] [y] fun e => h (RegName.key_one_inj hd hs e))

/-- The status of storage ports and of network ports lie apart. -/
theorem store_key_ne_net {a n : Nat} (ha : a < 192) :
    RegName.STORAGE_PORT_STATUS.key [a] ≠ RegName.NET_PORT_STATUS.key [n] := by
  rw [key_STORAGE_PORT_STATUS, key_NET_PORT_STATUS]; omega

theorem Dev.portsTrain_store (d : Dev) {n : Nat} (hn : n < 192) : d.PortsTrain (d.setFld STORAGE_PORT_STATUS.STATE 1 [n]) where
  touch := (d.touch_setFld _ _ _).mono (fun _ h => h) fun k hk => mem_portKeys.2 (.inl ⟨n, hn, (List.mem_singleton.1 hk).symm⟩)
  store a _ := d.fld_setFld_row _ 1 n a _ _ (by decide) (by decide) rfl (by decide)
  net _ _ := .inl (d.fld_setFld_ne _ _ _ _ _ (store_key_ne_net hn).symm)

theorem Dev.portsTrain_net (d : Dev) {n : Nat} (hn : n < 320) : d.PortsTrain (d.setFld NET_PORT_STATUS.STATE 1 [n]) where
  touch := (d.touch_setFld _ _ _).mono (fun _ h => h) fun k hk => mem_portKeys.2 (.inr ⟨n, hn, (List.mem_singleton.1 hk).symm⟩)
  store _ ha := .inl (d.fld_setFld_ne _ _ _ _ _ (store_key_ne_net ha))
  net a _ := d.fld_setFld_row _ 1 n a _ _ (by decide) (by decide) rfl (by decide)

theorem Dev.lt_of_portRuns {d : Dev} {n : Nat} (h : d.portRuns n = true) : n < 320 := by
  simp only [Dev.portRuns, Bool.and_eq_true] at h
  exact Dev.lt_of_netLane h.1.1.1.1

theorem Dev.portsTrain_trainPort (d : Dev) (n : Nat) : d.PortsTrain (d.trainPort n) := by
  unfold Dev.trainPort
  split
  · next h =>
    rw [Bool.and_eq_true] at h
    exact d.portsTrain_net (Dev.lt_of_portRuns h.1)
  · exact Dev.PortsTrain.refl d

theorem Dev.portsTrain_trainPorts (d : Dev) (s : Nat) : d.PortsTrain (d.trainPorts s) :=
  Dev.PortsTrain.fold _ _ (fun b _ _ => b.portsTrain_trainPort _) d

/-- Storage port `n` of strip `s` trains, if it is to. -/
def Dev.trainStore (s : Nat) (d : Dev) (n : Nat) : Dev :=
  if n < 192 && d.hasPort n && d.flag STORAGE_PORT_CTL.ENABLE [n] && d.stripOn s then d.setFld STORAGE_PORT_STATUS.STATE 1 [n] else d

theorem Dev.stripTrains_net (d : Dev) {s : Nat} (h : s < 4) : d.stripTrains s = d.trainPorts s := if_pos h

theorem Dev.stripTrains_store (d : Dev) {s : Nat} (h : 4 ≤ s) :
    d.stripTrains s = ((List.range 64).map (64 * (s - 4) + ·)).foldl (Dev.trainStore s) (d.trainPorts s) :=
  if_neg (Nat.not_lt.2 h)

theorem Dev.portsTrain_trainStore (d : Dev) (s n : Nat) : d.PortsTrain (d.trainStore s n) := by
  unfold Dev.trainStore
  split
  · next h =>
    simp only [Bool.and_eq_true, decide_eq_true_eq] at h
    exact d.portsTrain_store h.1.1.1
  · exact Dev.PortsTrain.refl d

theorem Dev.portsTrain_fold_store (d : Dev) (s : Nat) (l : List Nat) : d.PortsTrain (l.foldl (Dev.trainStore s) d) :=
  Dev.PortsTrain.fold _ _ (fun b n _ => b.portsTrain_trainStore s n) d

theorem Dev.portsTrain_stripTrains (d : Dev) (s : Nat) : d.PortsTrain (d.stripTrains s) := by
  rcases Nat.lt_or_ge s 4 with h | h
  · exact d.stripTrains_net h ▸ d.portsTrain_trainPorts s
  · exact d.stripTrains_store h ▸ (d.portsTrain_trainPorts s).trans (Dev.portsTrain_fold_store _ _ _)

/-- A fold of such steps, one of which brings about `P` wherever `I` holds: both outlast every other step. -/
theorem Dev.PortsTrain.fold_mem {I P : Dev → Prop} (hI : ∀ {b e}, Dev.PortsTrain b e → I b → I e)
    (hP : ∀ {b e}, Dev.PortsTrain b e → P b → P e) (f : Dev → Nat → Dev) (hf : ∀ b a, Dev.PortsTrain b (f b a)) {l : List Nat}
    {x : Nat} (hx : x ∈ l) (h : ∀ b, I b → P (f b x)) {d : Dev} (hd : I d) : P (l.foldl f d) :=
  foldl_mem_inv I P f l x hx (fun b a _ => hI (hf b a)) h (fun b a _ _ => hP (hf b a)) d hd

/-! ### A network port that runs -/

/-- The link of network port `n` trains. -/
def Dev.NetTrains (n : Nat) (d : Dev) : Prop := d.fld NET_PORT_STATUS.STATE [n] = 1

/-- Network port `n` runs, and its link trains or is about to. -/
def Dev.NetReady (n : Nat) (d : Dev) : Prop :=
  d.portRuns n = true ∧ (d.fld NET_PORT_STATUS.STATE [n] = 0 ∨ d.fld NET_PORT_STATUS.STATE [n] = 1)

theorem Dev.PortsTrain.netReady {n : Nat} {d e : Dev} (h : d.PortsTrain e) (hd : d.NetReady n) : e.NetReady n := by
  have hn := Dev.lt_of_portRuns hd.1
  refine ⟨(h.startTouch.portRuns hn).trans hd.1, ?_⟩
  rcases h.net n hn with he | he
  · rw [he]; exact hd.2
  · exact .inr he

theorem Dev.PortsTrain.netTrains {n : Nat} (hn : n < 320) {d e : Dev} (h : d.PortsTrain e) (hd : d.NetTrains n) :
    e.NetTrains n := (h.net n hn).elim (fun he => he.trans hd) id

theorem Dev.NetReady.trainPort {n : Nat} {d : Dev} (h : d.NetReady n) : (d.trainPort n).NetTrains n := by
  obtain ⟨hr, h0 | h1⟩ := h
  · unfold Dev.trainPort
    rw [if_pos (by simp [hr, h0])]
    exact Dev.fld_setFld_self _ _ _ _ (by decide)
  · exact (d.portsTrain_trainPort n).netTrains (Dev.lt_of_portRuns hr) h1

theorem Dev.NetReady.trainPorts {n : Nat} {d : Dev} (h : d.NetReady n) : (d.trainPorts (n / 64)).NetTrains n :=
  Dev.PortsTrain.fold_mem Dev.PortsTrain.netReady (Dev.PortsTrain.netTrains (Dev.lt_of_portRuns h.1)) _
    (fun b _ => b.portsTrain_trainPort _) (List.mem_range.2 (Nat.mod_lt n (by decide)))
    (fun b hb => by rw [Nat.div_add_mod]; exact hb.trainPort) h

theorem Dev.NetReady.stripTrains {n : Nat} {d : Dev} (h : d.NetReady n) : (d.stripTrains (n / 64)).NetTrains n := by
  rcases Nat.lt_or_ge (n / 64) 4 with hs | hs
  · exact d.stripTrains_net hs ▸ h.trainPorts
  · exact d.stripTrains_store hs ▸ (Dev.portsTrain_fold_store _ _ _).netTrains (Dev.lt_of_portRuns h.1) h.trainPorts

theorem Dev.NetReady.strips {n : Nat} {d : Dev} (h : d.NetReady n) : ((List.range 7).foldl Dev.stripTrains d).NetTrains n := by
  have hn := Dev.lt_of_portRuns h.1
  exact Dev.PortsTrain.fold_mem Dev.PortsTrain.netReady (Dev.PortsTrain.netTrains hn) _ Dev.portsTrain_stripTrains
    (List.mem_range.2 (by omega : n / 64 < 7)) (fun _ hb => hb.stripTrains) h

/-! ### A storage port that is enabled -/

/-- Storage port `n` is to train. -/
def Dev.StoreReady (n : Nat) (d : Dev) : Prop := d.storeRuns n = true

/-- The link of storage port `n` trains. -/
def Dev.StoreTrains (n : Nat) (d : Dev) : Prop := d.fld STORAGE_PORT_STATUS.STATE [n] = 1

theorem Dev.PortsTrain.storeReady {n : Nat} (hn : n < 192) {d e : Dev} (h : d.PortsTrain e) (hd : d.StoreReady n) :
    e.StoreReady n := (h.startTouch.storeRuns hn).trans hd

theorem Dev.PortsTrain.storeTrains {n : Nat} (hn : n < 192) {d e : Dev} (h : d.PortsTrain e) (hd : d.StoreTrains n) :
    e.StoreTrains n := (h.store n hn).elim (fun he => he.trans hd) id

theorem Dev.StoreReady.trainStore {n : Nat} (hn : n < 192) {d : Dev} (h : d.StoreReady n) :
    (d.trainStore (4 + n / 64) n).StoreTrains n := by
  simp only [Dev.StoreReady, Dev.storeRuns, Bool.and_eq_true] at h
  unfold Dev.trainStore
  rw [if_pos (by simp [hn, h])]
  exact Dev.fld_setFld_self _ _ _ _ (by decide)

theorem Dev.StoreReady.stripTrains {n : Nat} (hn : n < 192) {d : Dev} (h : d.StoreReady n) :
    (d.stripTrains (4 + n / 64)).StoreTrains n := by
  rw [d.stripTrains_store (by omega)]
  have hm : n ∈ (List.range 64).map (64 * (4 + n / 64 - 4) + ·) :=
    List.mem_map.2 ⟨n % 64, List.mem_range.2 (Nat.mod_lt _ (by decide)), by omega⟩
  exact Dev.PortsTrain.fold_mem (Dev.PortsTrain.storeReady hn) (Dev.PortsTrain.storeTrains hn) _
    (fun b a => b.portsTrain_trainStore _ a) hm (fun _ hb => hb.trainStore hn) ((d.portsTrain_trainPorts _).storeReady hn h)

theorem Dev.StoreReady.strips {n : Nat} (hn : n < 192) {d : Dev} (h : d.StoreReady n) :
    ((List.range 7).foldl Dev.stripTrains d).StoreTrains n :=
  Dev.PortsTrain.fold_mem (Dev.PortsTrain.storeReady hn) (Dev.PortsTrain.storeTrains hn) _ Dev.portsTrain_stripTrains
    (List.mem_range.2 (by omega : 4 + n / 64 < 7)) (fun _ hb => hb.stripTrains hn) h

/-! ### The stages of the strips' start -/

/-- The strips leave electrical idle. -/
def Dev.stripsOn (d : Dev) : Dev := { d with pw := { d.pw with strips := true } }
/-- The functions that the plan names exist. -/
def Dev.fnsExist (d : Dev) : Dev :=
  ((List.range 256).filter fun p => d.flag HOST_PF_PLAN.PRESENT [p]).foldl (fun d p => d.setFld HOST_FN_STATE.ENABLED 1 [p]) d
/-- The planned links train. -/
def Dev.linksTrain (d : Dev) : Dev :=
  ((List.range 64).filter fun l => d.flag HOST_LINK_PLAN.PRESENT [l]).foldl (fun d l => d.trainLink l) d
/-- The ports of every strip train. -/
def Dev.portsStart (d : Dev) : Dev := (List.range 7).foldl Dev.stripTrains d

theorem Dev.startStrips_eq (d : Dev) : d.startStrips = d.stripsOn.fnsExist.linksTrain.portsStart := rfl

theorem mem_filter_range {n k : Nat} {p : Nat → Bool} : k ∈ (List.range n).filter p ↔ k < n ∧ p k = true := by
  rw [List.mem_filter, List.mem_range]

theorem Dev.touch_fnsExist (d : Dev) : d.Touch [.regs] fnKeys d.fnsExist :=
  (Dev.setFld_each HOST_FN_STATE.ENABLED 1 _ _ (by decide) (by decide) rfl (by decide) _ d).1.touch.mono (fun _ h => h)
    fun k hk => by
      obtain ⟨p, hp, rfl⟩ := List.mem_map.1 hk
      exact List.mem_map_of_mem (List.mem_filter.1 hp).1

theorem Dev.enabled_fnsExist (d : Dev) {p : Nat} (hp : p < 256) (h : d.flag HOST_PF_PLAN.PRESENT [p] = true) :
    d.fnsExist.fld HOST_FN_STATE.ENABLED [p] = 1 :=
  (Dev.setFld_each HOST_FN_STATE.ENABLED 1 _ _ (by decide) (by decide) rfl (by decide) _ d).2 p (mem_filter_range.2 ⟨hp, h⟩)

theorem Dev.touch_linksTrain (d : Dev) : d.Touch [.regs, .host] linkKeys d.linksTrain :=
  Dev.touch_fold _ _ _ _ (fun b l hl => (b.touch_trainLink l false).mono (fun _ h => h) fun _ hk =>
    mem_linkKeys.2 ⟨l, (mem_filter_range.1 hl).1, (List.mem_singleton.1 hk).symm⟩) d

theorem Dev.startTouch_fnsExist (d : Dev) : d.StartTouch d.fnsExist :=
  d.touch_fnsExist.mono (by decide) fun _ hk => mem_startKeys.2 (.inl hk)

theorem Dev.startTouch_linksTrain (d : Dev) : d.StartTouch d.linksTrain :=
  d.touch_linksTrain.mono (fun _ h => h) fun _ hk => mem_startKeys.2 (.inr (.inl hk))

/-- A planned link trains from now on: that it may, no other link's training changes. -/
theorem Dev.linkTrains_linksTrain (d : Dev) {l : Nat} (hl : l < 64) (hc : d.canTrain l = true)
    (hp : d.flag HOST_LINK_STATUS.PERST [l] = false) : d.linksTrain.LinkTrains l d.clk.mono := by
  have hpresent : d.flag HOST_LINK_PLAN.PRESENT [l] = true := by
    simp only [Dev.canTrain, Bool.and_eq_true] at hc; exact hc.2
  refine foldl_mem_inv (Dev.LinkReady l d.clk.mono) (Dev.LinkTrains l d.clk.mono) _ _ l (mem_filter_range.2 ⟨hl, hpresent⟩)
    (fun _ _ ha hb => hb.trainLink hl (mem_filter_range.1 ha).1) (fun _ hb => hb.trains) (fun b a ha hb ht => ?_) d ⟨hc, hp, rfl⟩
  by_cases hal : a = l
  · exact hal ▸ (hal ▸ hb : b.LinkReady a d.clk.mono).trains
  · exact ht.trainLink hal

theorem Dev.portsTrain_portsStart (d : Dev) : d.PortsTrain d.portsStart :=
  Dev.PortsTrain.fold _ _ (fun b s _ => b.portsTrain_stripTrains s) d

/-! ### What the strips' start leaves -/

theorem Dev.startTouch_startStrips (d : Dev) : d.stripsOn.StartTouch d.startStrips := by
  rw [d.startStrips_eq]
  exact ((Dev.startTouch_fnsExist _).trans (Dev.startTouch_linksTrain _)).trans (Dev.portsTrain_portsStart _).startTouch

theorem Dev.touch_startStrips (d : Dev) : d.Touch [.power, .regs, .host] startKeys d.startStrips :=
  ((d.touchIn_pw { d.pw with strips := true }).seq d.startTouch_startStrips).mono (by decide) fun _ h => h

theorem Dev.pw_startStrips (d : Dev) : d.startStrips.pw = { d.pw with strips := true } :=
  d.startTouch_startStrips.same .power (by decide)

theorem Dev.enabled_startStrips (d : Dev) {p : Nat} (hp : p < 256) (h : d.flag HOST_PF_PLAN.PRESENT [p] = true) :
    d.startStrips.fld HOST_FN_STATE.ENABLED [p] = 1 := by
  have hl : RegName.HOST_FN_STATE.key [p] ∉ linkKeys := not_mem_linkKeys (by rw [key_HOST_FN_STATE]; omega)
  have hk : RegName.HOST_FN_STATE.key [p] ∉ portKeys := not_mem_portKeys (by rw [key_HOST_FN_STATE]; omega)
  rw [d.startStrips_eq, (Dev.portsTrain_portsStart _).touch.fld HOST_FN_STATE.ENABLED [p] hk,
    (Dev.touch_linksTrain _).fld HOST_FN_STATE.ENABLED [p] hl]
  exact d.stripsOn.enabled_fnsExist hp h

theorem Dev.linkTrains_startStrips (d : Dev) {l : Nat} (hl : l < 64) (hc : d.stripsOn.canTrain l = true)
    (hp : d.flag HOST_LINK_STATUS.PERST [l] = false) : d.startStrips.LinkTrains l d.clk.mono := by
  have hf : RegName.HOST_LINK_STATUS.key [l] ∉ fnKeys := not_mem_fnKeys (by rw [key_HOST_LINK_STATUS]; omega)
  have hk : RegName.HOST_LINK_STATUS.key [l] ∉ portKeys := not_mem_portKeys (by rw [key_HOST_LINK_STATUS]; omega)
  have tf := d.stripsOn.touch_fnsExist
  have tp := (Dev.portsTrain_portsStart d.stripsOn.fnsExist.linksTrain).touch
  have hclk : d.stripsOn.fnsExist.clk.mono = d.clk.mono := congrArg Clock.mono (tf.same .clock (by decide))
  have hhost : d.stripsOn.fnsExist.linksTrain.portsStart.host = d.stripsOn.fnsExist.linksTrain.host := tp.same .host (by decide)
  obtain ⟨hst, hfrom⟩ := d.stripsOn.fnsExist.linkTrains_linksTrain hl ((d.stripsOn.startTouch_fnsExist.canTrain hl).trans hc)
    ((tf.flag HOST_LINK_STATUS.PERST [l] hf).trans hp)
  rw [d.startStrips_eq]
  exact ⟨(tp.fld HOST_LINK_STATUS.STATE [l] hk).trans hst, by rw [hhost, hfrom, hclk]⟩

theorem Dev.storeTrains_startStrips (d : Dev) {n : Nat} (hn : n < 192) (h : d.stripsOn.StoreReady n) :
    d.startStrips.StoreTrains n := by
  have t : d.stripsOn.StartTouch _ := (Dev.startTouch_fnsExist d.stripsOn).trans (Dev.startTouch_linksTrain _)
  rw [d.startStrips_eq]
  exact Dev.StoreReady.strips hn ((t.storeRuns hn).trans h)

theorem Dev.netTrains_startStrips (d : Dev) {n : Nat} (h : d.stripsOn.portRuns n = true)
    (h0 : d.fld NET_PORT_STATUS.STATE [n] = 0) : d.startStrips.NetTrains n := by
  have hf : RegName.NET_PORT_STATUS.key [n] ∉ fnKeys := not_mem_fnKeys (by rw [key_NET_PORT_STATUS]; omega)
  have hl : RegName.NET_PORT_STATUS.key [n] ∉ linkKeys := not_mem_linkKeys (by rw [key_NET_PORT_STATUS]; omega)
  have t : d.stripsOn.StartTouch _ := (Dev.startTouch_fnsExist d.stripsOn).trans (Dev.startTouch_linksTrain _)
  have hs := ((Dev.touch_linksTrain _).fld NET_PORT_STATUS.STATE [n] hl).trans
    ((Dev.touch_fnsExist d.stripsOn).fld NET_PORT_STATUS.STATE [n] hf)
  rw [d.startStrips_eq]
  exact Dev.NetReady.strips ⟨(t.portRuns (Dev.lt_of_portRuns h)).trans h, .inl (hs.trans h0)⟩

/-! ### What decides whether a link or port trains, once the strips are on -/

theorem Dev.canTrain_stripsOn (d : Dev) (l : Nat) :
    d.stripsOn.canTrain l = (d.clk.refclk && d.flag HOST_LINK_PLAN.PRESENT [l]) := rfl

theorem Dev.stripOn_stripsOn (d : Dev) (n : Nat) : d.stripsOn.stripOn n = (d.clk.refclk && d.gateState (0x30 + n) = 0) := rfl

theorem Dev.storeReady_stripsOn {d : Dev} {n : Nat} (hp : d.hasPort n = true) (he : d.flag STORAGE_PORT_CTL.ENABLE [n] = true)
    (hr : d.clk.refclk = true) (hg : d.gateState (0x34 + n / 64) = 0) : d.stripsOn.StoreReady n := by
  have hs : d.stripsOn.stripOn (4 + n / 64) = true := by
    rw [Dev.stripOn_stripsOn, ← Nat.add_assoc, hr, hg]; rfl
  exact Bool.and_eq_true_iff.2 ⟨Bool.and_eq_true_iff.2 ⟨hp, he⟩, hs⟩

theorem Dev.portRuns_stripsOn {d : Dev} {n : Nat} (hn : d.netLane n = true) (hm : d.fld NET_PORT_CTL.MODE [n] ≠ 0)
    (hrun : d.flag NET_PORT_CTL.RUN [n] = true) (hsafe : d.flt.safe = false) (hr : d.clk.refclk = true)
    (hg : d.gateState (0x30 + n / 64) = 0) : d.stripsOn.portRuns n = true := by
  have hs : d.stripsOn.stripOn (n / 64) = true := by rw [Dev.stripOn_stripsOn, hr, hg]; rfl
  have hf : d.stripsOn.flt.safe = false := hsafe
  have hl : d.stripsOn.netLane n = true := hn
  have hm' : d.stripsOn.fld NET_PORT_CTL.MODE [n] ≠ 0 := hm
  have hrun' : d.stripsOn.flag NET_PORT_CTL.RUN [n] = true := hrun
  simp [Dev.portRuns, hl, hm', hrun', hf, hs]

/-! ### What each command of start-up answers -/

theorem Answers.of_next {c : Instr} {s t : State} {p : State → Prop} (h : exec c s = .next t) (hp : p t) : Answers c s p :=
  ⟨t, h, hp⟩

theorem exec_powerOnReset {s : State} (hs : s.Idle) : exec .powerOnReset s =
    .next (s.did (if s.dev.pw.on then s.dev else { s.dev with pw := { on := true } }.harrowPassEnd)) := by
  show execPowerOnReset s = _
  rw [execPowerOnReset, hs.always]

theorem exec_firstAvsRequest {s : State} (hs : s.Live) (h0 : s.dev.pw.avs = false)
    (hdue : s.dev.pw.start + 1000000 ≤ s.dev.clk.mono) : exec .firstAvsRequest s =
      .next (s.did ({ s.dev with pw := { s.dev.pw with avs := true } }.avsRequest s.dev.paceLow)) := by
  show execFirstAvsRequest s = _
  rw [execFirstAvsRequest, hs.run, if_neg (by simp [h0]), Dev.at_due _ _ _ hdue]

theorem exec_stripTrainingStart {s : State} (hs : s.Live) (h0 : s.dev.pw.strips = false)
    (hdue : s.dev.pw.start + 5000000 ≤ s.dev.clk.mono) : exec .stripTrainingStart s = .next (s.did s.dev.startStrips) := by
  show execStripTrainingStart s = _
  rw [execStripTrainingStart, hs.run, if_neg (by simp [h0]), Dev.at_due _ _ _ hdue]

theorem exec_hbmTrainingDone {s : State} (hs : s.Live) (h0 : s.dev.pw.hbm = false)
    (hdue : s.dev.pw.start + 40000000 ≤ s.dev.clk.mono) : exec .hbmTrainingDone s =
      .next { s with dev := { s.dev with pw := { s.dev.pw with hbm := true } } } := by
  show execHbmTrainingDone s = _
  have quiet : ({ s.dev with pw := { s.dev.pw with hbm := true } } : Dev).wlog = [] := hs.2
  rw [execHbmTrainingDone, hs.run, if_neg (by simp [h0]), Dev.at_due _ _ _ hdue, State.did_quiet _ _ quiet]

/-- Settles O6: each step by what its operation touches; the strips' start stage by stage, and within a stage by the invariant
that what decides whether a link or port trains does not change. -/
theorem startUpFollowsItsSteps : Obligations.StartUpFollowsItsSteps := by
  unfold Obligations.StartUpFollowsItsSteps
  intro s
  refine ⟨fun hs => ⟨fun hon => ?_, fun hoff => ?_⟩, fun hs h0 hdue => ?_, fun hs h0 hdue => ?_, exec_hbmTrainingDone⟩
  · rw [exec_powerOnReset hs, if_pos hon, State.did_self hs]
  · have e := Dev.touch_harrowPassEnd { s.dev with pw := { on := true } }
    have t := (s.dev.touchIn_pw { on := true }).seq e
    refine Answers.of_next (exec_powerOnReset hs) ?_
    rw [if_neg (by simp [hoff])]
    exact ⟨(State.did_pw _ _).trans (e.same .power (by decide)), t.only hs, t.regsBut⟩
  · have t := ((s.dev.touchIn_pw { s.dev.pw with avs := true }).seq (Dev.touch_avsRequest _ s.dev.paceLow)).mono
      (qs := [.power, .regs, .pace, .outside]) (by decide) (fun _ h => h)
    have low := s.dev.paceLow_le
    refine Answers.of_next (exec_firstAvsRequest hs h0 hdue) ?_
    rw [State.did_pw, State.did_fld, State.did_out, State.did_pace, Dev.pw_avsRequest, Dev.out_avsRequest,
      Dev.pace_avsRequest, Dev.vreq_avsRequest _ (by omega)]
    exact ⟨rfl, rfl, rfl, rfl, t.only hs.2, t.regsBut⟩
  · have t := s.dev.touch_startStrips
    refine Answers.of_next (exec_stripTrainingStart hs h0 hdue) ?_
    rw [State.did_pw, State.did_host]
    refine ⟨s.dev.pw_startStrips, fun p hp h => ?_, fun l hl hpl hr hpe => ?_, fun n hn hp he hr hg => ?_,
      fun n hn hm hrun hr hg hst => ?_, t.only hs.2, t.regsBut⟩ <;> rw [State.did_fld]
    · exact s.dev.enabled_startStrips hp h
    · exact s.dev.linkTrains_startStrips hl (by rw [Dev.canTrain_stripsOn, hr, hpl]; rfl) hpe
    · exact s.dev.storeTrains_startStrips hn (Dev.storeReady_stripsOn hp he hr hg)
    · exact s.dev.netTrains_startStrips (Dev.portRuns_stripsOn hn hm hrun (Dev.safe_of_live hs.1) hr hg) hst

end Sys2Proof.Machine
end

section
/-! PROOFS. The invariant: every step answers a next state and keeps it. -/

namespace Sys2Proof.Machine

/-- An answer of a command keeps the invariant, and the queue as it stood when the command began. -/
theorem Answer.keeps_inv {s : State} {r : Res} (h : Answer s r) (hi : s.Inv) :
    ∃ t, r = .next t ∧ t.Inv ∧ t.pending = s.pending := by
  obtain rfl | ⟨f, rfl⟩ := h
  · exact ⟨s, rfl, hi, rfl⟩
  · exact ⟨s.after f, rfl, ⟨Mem.wf_commit _ _ hi.1, rfl⟩, rfl⟩

theorem step_of_nil {s : State} (h : s.pending = []) : step s = idle s := by rw [step, h]

theorem step_of_cons {s : State} {c : Instr} {rest : List Instr} (h : s.pending = c :: rest) :
    step s = exec c { s with pending := rest } := by rw [step, h]

/-- Settles O4: by the queue; an idle cycle and each command answer as `Answer` says, with stores performed in memory's canonical
form. -/
theorem everyStepKeepsTheInvariant : Obligations.EveryStepKeepsTheInvariant := by
  unfold Obligations.EveryStepKeepsTheInvariant
  intro s hi
  cases hq : s.pending with
  | nil =>
    obtain ⟨t, ht, hinv, hpending⟩ := (idle_answer s).keeps_inv hi
    exact ⟨t, (step_of_nil hq).trans ht, hinv, hpending.trans hq⟩
  | cons c rest =>
    obtain ⟨t, ht, hinv, hpending⟩ := (exec_answer c { s with pending := rest }).keeps_inv hi
    exact ⟨t, (step_of_cons hq).trans ht, hinv, hpending⟩

end Sys2Proof.Machine
end

section
/-! PROOFS. Accesses of control space by a master: where they lead (R73, R84), and how a half is read and written (R86, R87). -/

namespace Sys2Proof.Machine

/-! ### Sizes and places -/

/-- The sizes and alignments of R84. -/
theorem ctlSized_iff {off size : Nat} : ctlSized off size = true ↔ (size = 4 ∨ size = 8) ∧ off % size = 0 := by
  simp [ctlSized]

/-- An access within an 8-byte register. -/
theorem ctlSized_within {k o size : Nat} (hk : k % 8 = 0) (hs : (size = 4 ∨ size = 8) ∧ o % size = 0) :
    ctlSized (k + o) size = true := by
  obtain ⟨hsize, ho⟩ := hs
  exact ctlSized_iff.2 ⟨hsize, by rcases hsize with rfl | rfl <;> omega⟩

theorem halfOf_within {k : Nat} (hk : k % 8 = 0) (o size : Nat) (v : Word) : halfOf (k + o) size v = halfOf o size v := by
  simp only [halfOf, show (k + o) % 8 = o % 8 by omega]

theorem coverOf_within {k : Nat} (hk : k % 8 = 0) (o size : Nat) : coverOf (k + o) size = coverOf o size := by
  simp only [coverOf, show (k + o) % 8 = o % 8 by omega]

@[simp] theorem halfOf_whole (off : Nat) (v : Word) : halfOf off 8 v = v := rfl

/-- Pages of plots and tines alone may be absent (R4). -/
theorem Dev.absentPage_outside (d : Dev) {off : Nat} (h : off < 0x10000000 ∨ 0x28000000 ≤ off) : d.absentPage off = false := by
  unfold Dev.absentPage
  simp only [Bool.and_eq_false_iff, Bool.or_eq_false_iff, decide_eq_false_iff_not]
  omega

/-- Rule rows lie in plots' pages (R661). -/
theorem clsPlace_outside {off : Nat} (h : off < 0x10000000 ∨ 0x28000000 ≤ off) : clsPlace off = none := by
  unfold clsPlace
  rw [if_neg]
  simp only [Bool.and_eq_true, decide_eq_true_eq]
  omega

/-! ### Writes -/

section
variable (d : Dev) (m : Mem) {master off size : Nat} (value : Word)

theorem Dev.masterWrite_ctl (hm : master < 0x10000) (ho : off < 0x40000000) :
    d.masterWrite m master off size value = d.ctlWrite m master off size value := by
  rw [Dev.masterWrite, if_pos hm, if_pos ho]

theorem Dev.ctlWrite_missized (hs : ctlSized off size = false) :
    d.ctlWrite m master off size value = d.blame 0x0202 master (0x40000000000 + off) off := by
  simp [Dev.ctlWrite, hs]

theorem Dev.ctlWrite_hole (hs : ctlSized off size = true) (ho : off < 0x10000000 ∨ 0x28000000 ≤ off)
    (hl : locate (off / 8 * 8) = none) :
    d.ctlWrite m master off size value = d.blame 0x0201 master (0x40000000000 + off) := by
  simp [Dev.ctlWrite, hs, d.absentPage_outside ho, clsPlace_outside ho, hl]

theorem Dev.ctlWrite_reg {r : RegName} {i : List Nat} (hs : ctlSized off size = true) (ho : off < 0x10000000)
    (hl : locate (off / 8 * 8) = some (r, i)) :
    d.ctlWrite m master off size value = d.regPut m r i ⟨master, size, off % 8 / 4, value⟩ := by
  simp [Dev.ctlWrite, hs, d.absentPage_outside (.inl ho), clsPlace_outside (.inl ho), hl]

/-- A write at `o` bytes within a register below the plots' pages. -/
theorem Dev.masterWrite_reg {r : RegName} {i : List Nat} {o : Nat} (hm : master < 0x10000) (hlow : r.key i + 8 ≤ 0x10000000)
    (hk : r.key i % 8 = 0) (hl : locate (r.key i) = some (r, i)) (ho : o < 8) (hs : (size = 4 ∨ size = 8) ∧ o % size = 0) :
    d.masterWrite m master (r.key i + o) size value = d.regPut m r i ⟨master, size, o / 4, value⟩ := by
  rw [d.masterWrite_ctl m value hm (by omega), d.ctlWrite_reg m value (ctlSized_within hk hs) (by omega)
    (by rw [show (r.key i + o) / 8 * 8 = r.key i by omega]; exact hl), show (r.key i + o) % 8 = o by omega]

end

/-! ### Reads -/

section
variable (d : Dev) {master off size : Nat}

theorem Dev.readOut_ctl (m : Mem) (hm : master < 0x10000) (ho : off < 0x40000000) :
    d.readOut m master off size =
      (d.ctlRead master off size).2.emit (.regRead master off (d.ctlRead master off size).1) := by
  simp only [Dev.readOut, Dev.masterRead, if_pos hm, if_pos ho]

theorem Dev.ctlRead_missized (hs : ctlSized off size = false) :
    d.ctlRead master off size = (0, d.blame 0x0202 master (0x40000000000 + off) off) := by
  simp [Dev.ctlRead, hs]

theorem Dev.ctlRead_reg {r : RegName} {i : List Nat} (hs : ctlSized off size = true) (ho : off < 0x10000000)
    (hl : locate (off / 8 * 8) = some (r, i)) :
    d.ctlRead master off size =
      (halfOf off size (d.regRead master r i off size).1, (d.regRead master r i off size).2) := by
  simp [Dev.ctlRead, hs, d.absentPage_outside (.inl ho), clsPlace_outside (.inl ho), hl]

/-- A read at `o` bytes within a register below the plots' pages. -/
theorem Dev.readOut_reg (m : Mem) {r : RegName} {i : List Nat} {o : Nat} (hm : master < 0x10000)
    (hlow : r.key i + 8 ≤ 0x10000000) (hk : r.key i % 8 = 0) (hl : locate (r.key i) = some (r, i)) (ho : o < 8)
    (hs : (size = 4 ∨ size = 8) ∧ o % size = 0) :
    d.readOut m master (r.key i + o) size = (d.regRead master r i (r.key i + o) size).2.emit
      (.regRead master (r.key i + o) (halfOf o size (d.regRead master r i (r.key i + o) size).1)) := by
  rw [d.readOut_ctl m hm (by omega), d.ctlRead_reg (ctlSized_within hk hs) (by omega)
    (by rw [show (r.key i + o) / 8 * 8 = r.key i by omega]; exact hl), halfOf_within hk]

/-- A read of the whole of it. -/
theorem Dev.readOut_whole (m : Mem) {r : RegName} {i : List Nat} (hm : master < 0x10000)
    (hlow : r.key i + 8 ≤ 0x10000000) (hk : r.key i % 8 = 0) (hl : locate (r.key i) = some (r, i)) :
    d.readOut m master (r.key i) 8 = (d.regRead master r i (r.key i) 8).2.emit
      (.regRead master (r.key i) (d.regRead master r i (r.key i) 8).1) :=
  d.readOut_reg m (o := 0) hm hlow hk hl (by decide) ⟨.inr rfl, rfl⟩

end

/-! ### Halves -/

/-- A field depends on its own bits alone. -/
theorem Fld.get_congr (f : Fld) {v w : Word} (h : ∀ j, f.lo ≤ j → j < f.lo + f.width → v.getLsbD j = w.getLsbD j) :
    f.get v = f.get w := by
  apply Nat.eq_of_testBit_eq
  intro j
  unfold Fld.get
  rw [bits_testBit, bits_testBit]
  by_cases hj : j < f.width
  · exact congrArg (_ && ·) (h (f.lo + j) (by omega) (by omega))
  · simp [hj]

/-- A write takes its bits where it covers the word, and leaves the others. -/
theorem Wr.getLsbD_over (w : Wr) (old : Word) (j : Nat) :
    (w.over old).getLsbD j = if w.mask.getLsbD j then w.placed.getLsbD j else old.getLsbD j := by
  unfold Wr.over
  by_cases hj : j < 64
  · rw [BitVec.getLsbD_or, BitVec.getLsbD_and, BitVec.getLsbD_and, BitVec.getLsbD_not]
    cases w.mask.getLsbD j <;> simp [hj]
  · simp [BitVec.getLsbD_of_ge _ _ (Nat.le_of_not_lt hj)]

/-- A field of any value takes what the write makes of its register, if the write covers a bit of it. -/
theorem FieldDesc.takes_covered (fd : FieldDesc) (w : Wr) (old : Word) (st : Bool) (ok : Fld → Word → Bool)
    (ha : fd.acc = .rw) (hl : fd.legal = .any) (hs : fd.stopOnly = false) (hm : fd.fld.mask &&& w.mask ≠ 0)
    (hw : fd.fld.lo + fd.fld.width ≤ 64) : fd.takes w old st ok = fd.fld.get (w.over old) := by
  unfold FieldDesc.takes writeField
  simp only [if_neg hm, ha, hl, hs, Bool.and_false, Bool.false_and, Bool.false_eq_true, if_false, if_true]
  rw [Fld.get_set_self _ _ _ hw]
  exact Nat.mod_eq_of_lt (bits_lt _ _ _)

/-- A field of which the write covers no bit keeps its value (R87). -/
theorem FieldDesc.takes_uncovered (fd : FieldDesc) (w : Wr) (old : Word) (st : Bool) (ok : Fld → Word → Bool)
    (hm : fd.fld.mask &&& w.mask = 0) : fd.takes w old st ok = fd.fld.get old := by
  unfold FieldDesc.takes writeField
  simp only [if_pos hm]

end Sys2Proof.Machine
end

section
/-! PROOFS. Writes of control space: plain registers, wrong sizes and holes (R73, R84, R87). -/

namespace Sys2Proof.Machine

/-! ### Registers whose fields take any value, with no rule of their own -/

/-- Registers of which every field is RW, with any value legal at any time, or RO, and whose writes no unit looks at. -/
def plainRegs : List RegName :=
  [.TIME_CTL, .TENANT_MIG_ADDR, .TENANT_MIG_LEN, .DEVICE_SOW_CTL, .TRD_TIMER, .BOOT_FLASH_ADDR, .POWER_SLEEP_CTL, .POWER_WAKE_TIME]

theorem plainRegs_fields : ∀ r ∈ plainRegs, ∀ fd ∈ r.fields,
    fd.legal = .any ∧ fd.stopOnly = false ∧ fd.fld.mask ≠ 0 ∧ (fd.acc = .rw ∨ fd.acc = .ro) := by decide +kernel

theorem plainRegs_place : ∀ r ∈ plainRegs, r.key [] + 8 ≤ 0x10000000 ∧ r.key [] % 8 = 0 ∧
    r.key [] ≠ RegName.FAULT_COALESCED.key [] ∧ locate (r.key []) = some (r, []) := by decide +kernel

theorem Dev.regPut_plain (d : Dev) (m : Mem) (w : Wr) {r : RegName} (hr : r ∈ plainRegs) :
    d.regPut m r [] w = d.regWrite r [] w := by
  simp only [plainRegs, List.mem_cons, List.not_mem_nil, or_false] at hr
  rcases hr with rfl | rfl | rfl | rfl | rfl | rfl | rfl | rfl <;> rfl

/-- A write of a plain register, or of a half of it, is R84's and R87's alone. -/
theorem Dev.masterWrite_plain (d : Dev) (m : Mem) {master size o : Nat} (value : Word) {r : RegName} (hr : r ∈ plainRegs)
    (hm : master < 0x10000) (ho : o < 8) (hs : (size = 4 ∨ size = 8) ∧ o % size = 0) :
    d.masterWrite m master (r.key [] + o) size value = d.regWrite r [] ⟨master, size, o / 4, value⟩ := by
  obtain ⟨hlow, halign, -, hl⟩ := plainRegs_place r hr
  rw [d.masterWrite_reg m value hm hlow halign hl ho hs, d.regPut_plain m _ hr]

theorem Dev.touch_regWrite_plain (d : Dev) (w : Wr) {r : RegName} (hr : r ∈ plainRegs) (ha : w.accepted r = true) :
    d.Touch [.regs] [r.key []] (d.regWrite r [] w) :=
  d.touch_regWrite_fine r [] w _ _ ha fun fd hm _ => by
    obtain ⟨hl, hs, -, -⟩ := plainRegs_fields r hr fd hm
    exact ⟨.inr (.inl hs), by rw [hl]⟩

/-- Each field of a plain register after an accepted write. -/
theorem Dev.fld_regWrite_plain (d : Dev) (w : Wr) {r : RegName} (hr : r ∈ plainRegs) (ha : w.accepted r = true)
    (fd : FieldDesc) (hm : fd ∈ r.fields) :
    (d.regWrite r [] w).fld fd.fld = fd.takes w (d.reg r) true fun _ _ => true := by
  obtain ⟨-, -, hne, -⟩ := plainRegs_place r hr
  exact d.fld_regWrite r [] w _ _ ha hne fd hm

/-- A write of all 8 bytes gives an RW field its bits, and leaves an RO field. -/
theorem Dev.fld_regWrite_plain_whole (d : Dev) (master : Nat) (value : Word) {r : RegName} (hr : r ∈ plainRegs)
    (fd : FieldDesc) (hm : fd ∈ r.fields) :
    (d.regWrite r [] ⟨master, 8, 0, value⟩).fld fd.fld = if fd.acc = .rw then fd.fld.get value else d.fld fd.fld := by
  obtain ⟨hl, hs, h0, hacc⟩ := plainRegs_fields r hr fd hm
  obtain ⟨hreg, hw⟩ := fieldsOk_mem r.fields_ok hm
  rw [d.fld_regWrite_plain _ hr (Wr.accepted_whole master 0 value r) fd hm]
  rcases hacc with ha | ha
  · rw [if_pos ha, fd.takes_rw master 0 value _ _ _ ha hl (by rw [hs]; rfl) h0 hw]
  · rw [if_neg (by rw [ha]; decide), fd.takes_ro _ _ _ _ ha, Dev.fld, hreg]

/-! ### A half of TIME_CTL -/

theorem timeCtl_plain : RegName.TIME_CTL ∈ plainRegs := by decide

/-- TIME_CTL has no WO field, so that a write of 4 bytes is performed (R87). -/
theorem Wr.accepted_timeCtl (m h : Nat) (v : Word) : (⟨m, 4, h, v⟩ : Wr).accepted .TIME_CTL = true := rfl

@[simp] theorem Wr.mask_low (m : Nat) (v : Word) : (⟨m, 4, 0, v⟩ : Wr).mask = 0xFFFFFFFF := rfl
@[simp] theorem Wr.mask_high (m : Nat) (v : Word) : (⟨m, 4, 1, v⟩ : Wr).mask = 0xFFFFFFFF00000000 := rfl
@[simp] theorem Wr.placed_low (m : Nat) (v : Word) : (⟨m, 4, 0, v⟩ : Wr).placed = v &&& 0xFFFFFFFF := rfl
@[simp] theorem Wr.placed_high (m : Nat) (v : Word) : (⟨m, 4, 1, v⟩ : Wr).placed = v <<< 32 := rfl

/-- A write of the lower half takes its bits there. -/
theorem Wr.getLsbD_over_low (m : Nat) (v old : Word) {j : Nat} (h : j < 32) :
    ((⟨m, 4, 0, v⟩ : Wr).over old).getLsbD j = v.getLsbD j := by
  have low : ∀ j < 32, (0xFFFFFFFF : Word).getLsbD j = true := by decide
  have hm := low j h
  rw [Wr.getLsbD_over, Wr.mask_low, if_pos hm, Wr.placed_low, BitVec.getLsbD_and, hm, Bool.and_true]

/-- The upper half's lowest bit is the value's. -/
theorem Wr.getLsbD_over_high (m : Nat) (v old : Word) : ((⟨m, 4, 1, v⟩ : Wr).over old).getLsbD 32 = v.getLsbD 0 := by
  rw [Wr.getLsbD_over, Wr.mask_high, if_pos (by decide), Wr.placed_high]
  simp

theorem Dev.fld_timeCtl_low (d : Dev) (m : Nat) (v : Word) :
    (d.regWrite .TIME_CTL [] ⟨m, 4, 0, v⟩).fld TIME_CTL.HOLD_PPB = TIME_CTL.HOLD_PPB.get v ∧
      (d.regWrite .TIME_CTL [] ⟨m, 4, 0, v⟩).fld TIME_CTL.PPS_OUT_EN = d.fld TIME_CTL.PPS_OUT_EN := by
  have fld := d.fld_regWrite_plain ⟨m, 4, 0, v⟩ timeCtl_plain (Wr.accepted_timeCtl m 0 v)
  constructor
  · rw [fld ⟨TIME_CTL.HOLD_PPB, .rw, false, .any⟩ (by decide),
      FieldDesc.takes_covered _ _ _ _ _ rfl rfl rfl (by rw [Wr.mask_low]; decide) (by decide)]
    exact Fld.get_congr _ fun j _ hj => Wr.getLsbD_over_low m v _ (Nat.lt_trans hj (by decide))
  · exact (fld ⟨TIME_CTL.PPS_OUT_EN, .rw, false, .any⟩ (by decide)).trans
      (FieldDesc.takes_uncovered _ _ _ _ _ (by rw [Wr.mask_low]; decide))

theorem Dev.fld_timeCtl_high (d : Dev) (m : Nat) (v : Word) :
    (d.regWrite .TIME_CTL [] ⟨m, 4, 1, v⟩).fld TIME_CTL.HOLD_PPB = d.fld TIME_CTL.HOLD_PPB ∧
      (d.regWrite .TIME_CTL [] ⟨m, 4, 1, v⟩).fld TIME_CTL.PPS_OUT_EN = v.toNat % 2 := by
  have fld := d.fld_regWrite_plain ⟨m, 4, 1, v⟩ timeCtl_plain (Wr.accepted_timeCtl m 1 v)
  have hbit : ((⟨m, 4, 1, v⟩ : Wr).over (d.reg .TIME_CTL)).getLsbD TIME_CTL.PPS_OUT_EN.lo = v.getLsbD 0 :=
    Wr.getLsbD_over_high m v _
  constructor
  · exact (fld ⟨TIME_CTL.HOLD_PPB, .rw, false, .any⟩ (by decide)).trans
      (FieldDesc.takes_uncovered _ _ _ _ _ (by rw [Wr.mask_high]; decide))
  · rw [fld ⟨TIME_CTL.PPS_OUT_EN, .rw, false, .any⟩ (by decide),
      FieldDesc.takes_covered _ _ _ _ _ rfl rfl rfl (by rw [Wr.mask_high]; decide) (by decide), Fld.get_bit _ _ rfl, hbit,
      BitVec.getLsbD, Nat.testBit_zero]
    rcases Nat.mod_two_eq_zero_or_one v.toNat with h | h <;> simp [h]

/-! ### What is discarded -/

/-- Offsets at which no register lies. -/
theorem holes_place : ∀ off ∈ [0x20, 0x3000050, 0x3FFFFFF8], off < 0x40000000 ∧ (off < 0x10000000 ∨ 0x28000000 ≤ off) ∧
    ctlSized off 8 = true ∧ locate (off / 8 * 8) = none := by decide +kernel

/-- Settles O11: a write completes whatever it is; a plain register's follows its fields, and any other named one is the record of its
fault alone. -/
theorem registerWritesFollowTheirFields : Obligations.RegisterWritesFollowTheirFields := by
  unfold Obligations.RegisterWritesFollowTheirFields
  intro s master off size value hs hm
  have answer (m off size : Nat) : exec (.registerWrite m off size value) s =
      .next (s.did (s.dev.masterWrite s.mem m off size value)) := hs.manage _
  have refused (off size c x : Nat)
      (h : s.dev.masterWrite s.mem master off size value = s.dev.blame c master (0x40000000000 + off) x) :
      Answers (.registerWrite master off size value) s fun t =>
        Recorded s t { code := c, kind := 0, unit := 0, master := master, addr := 0x40000000000 + off, detail := x } ∧
        Only [.faults, .regs] s t ∧ RegsBut [RegName.FAULT_COALESCED.key []] s t := by
    have t := s.dev.touch_blame c master (0x40000000000 + off) x
    refine Answers.of_next (answer master off size) ?_
    rw [h]
    exact ⟨recorded_blame s _ _ _ _ hm, (t.mono (by decide) fun _ h => h).only hs.2, t.regsBut⟩
  have touched (h : Nat) := s.dev.touch_regWrite_plain ⟨master, 4, h, value⟩ timeCtl_plain (Wr.accepted_timeCtl _ _ _)
  refine ⟨fun m => answer m off size, fun r hr => Answers.of_next (answer _ _ _) ?_, Answers.of_next (answer _ _ _) ?_,
    Answers.of_next (answer _ _ _) ?_, fun ho hbad => ?_, fun off ho => ?_⟩
  · have t := s.dev.touch_regWrite_plain ⟨master, 8, 0, value⟩ hr (Wr.accepted_whole _ _ _ _)
    have whole := s.dev.masterWrite_plain s.mem (o := 0) value hr hm (by decide) ⟨.inr rfl, rfl⟩
    rw [Nat.add_zero] at whole
    rw [whole]
    exact ⟨s.dev.fld_regWrite_plain_whole master value hr, t.only hs.2, t.regsBut⟩
  · obtain ⟨hold, pps⟩ := s.dev.fld_timeCtl_low master value
    have low := s.dev.masterWrite_plain s.mem (o := 0) value timeCtl_plain hm (by decide) ⟨.inl rfl, rfl⟩
    rw [Nat.add_zero] at low
    rw [low]
    exact ⟨hold, pps, (touched 0).only hs.2, (touched 0).regsBut⟩
  · obtain ⟨hold, pps⟩ := s.dev.fld_timeCtl_high master value
    rw [s.dev.masterWrite_plain s.mem value timeCtl_plain hm (by decide) ⟨.inl rfl, rfl⟩]
    exact ⟨hold, pps, (touched 1).only hs.2, (touched 1).regsBut⟩
  · have hsz : ctlSized off size = false := by rw [← Bool.not_eq_true, ctlSized_iff]; exact hbad
    exact refused off size _ _ ((s.dev.masterWrite_ctl s.mem value hm ho).trans (s.dev.ctlWrite_missized s.mem value hsz))
  · obtain ⟨hlt, hout, hsz, hl⟩ := holes_place off ho
    exact refused off 8 _ 0 ((s.dev.masterWrite_ctl s.mem value hm hlt).trans (s.dev.ctlWrite_hole s.mem value hsz hout hl))

end Sys2Proof.Machine
end

section
/-! PROOFS. Reads of control space: capture buffers, bits that a read clears, wrong sizes (R84, R86, R90, R91). -/

namespace Sys2Proof.Machine

/-! ### Capture groups -/

section
variable (d : Dev) {master off n : Nat} {r h : RegName} {i : List Nat}

/-- The lower half or the whole of a head captures its group (R90). -/
theorem Dev.groupRead_head (hg : r.group = some (h, n)) (hc : hasCapture master = true) (hk : r.key i = h.key (headIdx r h i))
    (ho : off % 8 = 0) :
    d.groupRead master r i off =
      (d.view r i, { d with caps := tput d.caps master { head := r.key i, words := d.groupWords (r.key i) n } }) := by
  unfold Dev.groupRead
  rw [hg]
  simp [hc, hk, ho]

/-- Another member reads the capture while the buffer is tagged with its group (R91). -/
theorem Dev.groupRead_captured (hg : r.group = some (h, n)) (hc : hasCapture master = true)
    (hk : r.key i ≠ h.key (headIdx r h i)) (ht : (tget {} d.caps master).head = h.key (headIdx r h i))
    (hw : (tget {} d.caps master).words ≠ []) :
    d.groupRead master r i off =
      ((tget {} d.caps master).words.getD ((r.key i - h.key (headIdx r h i)) / 8) 0, d) := by
  unfold Dev.groupRead
  rw [hg]
  simp [hc, hk, ht, hw]

/-- Another member reads its live value while the buffer holds no capture of its group (R91). -/
theorem Dev.groupRead_live (hg : r.group = some (h, n)) (hc : hasCapture master = true)
    (hk : r.key i ≠ h.key (headIdx r h i)) (ht : (tget {} d.caps master).head ≠ h.key (headIdx r h i)) :
    d.groupRead master r i off = (d.view r i, d) := by
  unfold Dev.groupRead
  rw [hg]
  simp [hc, hk, ht]

end

/-! ### The time of day -/

theorem locate_timeNow : locate (RegName.TIME_NOW_SEC.key []) = some (.TIME_NOW_SEC, []) ∧
    locate (RegName.TIME_NOW_NS.key []) = some (.TIME_NOW_NS, []) := by decide +kernel

theorem timeNowNs_second :
    (RegName.TIME_NOW_NS.key [] - RegName.TIME_NOW_SEC.key (headIdx .TIME_NOW_NS .TIME_NOW_SEC [])) / 8 = 1 := by decide

theorem Dev.groupWords_timeNow (d : Dev) :
    d.groupWords (RegName.TIME_NOW_SEC.key []) 2 = [d.view .TIME_NOW_SEC [], d.view .TIME_NOW_NS []] := by
  have second : locate (RegName.TIME_NOW_SEC.key [] + 8) = some (.TIME_NOW_NS, []) := locate_timeNow.2
  simp [Dev.groupWords, List.range_succ, locate_timeNow.1, second]

/-- A member of a capture group, with no other effect of its reads. -/
theorem Dev.regRead_timeNow (d : Dev) (master off size : Nat) {r : RegName} (hr : r = .TIME_NOW_SEC ∨ r = .TIME_NOW_NS)
    (i : List Nat) : d.regRead master r i off size = d.groupRead master r i off := by
  rcases hr with rfl | rfl <;> rfl

/-! ### Bits that a read clears -/

theorem Dev.regRead_qtelMax (d : Dev) (master : Nat) (i : List Nat) (off size : Nat) :
    d.regRead master .SCHED_QTEL_MAX i off size =
      (d.reg .SCHED_QTEL_MAX i, d.setReg .SCHED_QTEL_MAX (d.reg .SCHED_QTEL_MAX i &&& ~~~coverOf off size) i) := rfl

/-- A read of SCHED_QTEL_MAX, of 4 bytes or 8, returns its bits and clears them (R86). -/
theorem Dev.readOut_qtelMax (d : Dev) (m : Mem) {master n q size o : Nat} (hm : master < 0x10000) (hn : n < 320) (hq : q < 16)
    (hl : locate (RegName.SCHED_QTEL_MAX.key [n, q]) = some (.SCHED_QTEL_MAX, [n, q])) (ho : o < 8)
    (hs : (size = 4 ∨ size = 8) ∧ o % size = 0) :
    d.readOut m master (RegName.SCHED_QTEL_MAX.key [n, q] + o) size =
      (d.setReg .SCHED_QTEL_MAX (d.reg .SCHED_QTEL_MAX [n, q] &&& ~~~coverOf o size) [n, q]).emit
        (.regRead master (RegName.SCHED_QTEL_MAX.key [n, q] + o) (halfOf o size (d.reg .SCHED_QTEL_MAX [n, q]))) := by
  have hk := key_SCHED_QTEL_MAX n q
  have halign : RegName.SCHED_QTEL_MAX.key [n, q] % 8 = 0 := by omega
  rw [d.readOut_reg m hm (by omega) halign hl ho hs, d.regRead_qtelMax, coverOf_within halign]

/-- Settles O13, by what is read: a group's head, another member of it with a capture and without, an RC register by its
halves, and an access that R84 does not perform. -/
theorem readsCaptureAndClear : Obligations.ReadsCaptureAndClear := by
  unfold Obligations.ReadsCaptureAndClear
  intro s master off size hs hm hc d sec ns max cap
  have snap (m off size : Nat) : exec (.snapCaptureRead m off size) s = .next (s.did (d.readOut s.mem m off size)) := hs.manage _
  have rc (m off size : Nat) : exec (.rcRead m off size) s = .next (s.did (d.readOut s.mem m off size)) := hs.manage _
  have sent (o : Out) : Only [.outside] s (s.did (d.emit o)) := (d.touch_emit o).only hs.2
  refine ⟨fun m => ⟨snap m off size, rc m off size⟩, Answers.of_next (snap _ _ _) ?_,
    fun ht hw => Answers.of_next (snap _ _ _) ?_, fun ht => Answers.of_next (snap _ _ _) ?_, fun n q hn hq hl => ?_,
    fun ho hbad => Answers.of_next (snap _ _ _) ?_⟩
  · rw [d.readOut_whole s.mem hm (by decide) (by decide) locate_timeNow.1, d.regRead_timeNow _ _ _ (.inl rfl),
      d.groupRead_head (h := sec) (n := 2) rfl hc rfl (by decide), d.groupWords_timeNow]
    have t := (d.touchIn_caps (tput d.caps master { head := sec.key [], words := [d.view sec [], d.view ns []] })).seq
      (Dev.touch_emit _ (.regRead master (sec.key []) (d.view sec [])))
    exact ⟨rfl, tget_tput_self _ _ _ _, fun m h => tget_tput_ne _ _ _ h, t.only hs.2⟩
  · rw [d.readOut_whole s.mem hm (by decide) (by decide) locate_timeNow.2, d.regRead_timeNow _ _ _ (.inr rfl),
      d.groupRead_captured (h := sec) (n := 2) rfl hc (by decide) ht hw, timeNowNs_second]
    exact ⟨rfl, sent _⟩
  · rw [d.readOut_whole s.mem hm (by decide) (by decide) locate_timeNow.2, d.regRead_timeNow _ _ _ (.inr rfl),
      d.groupRead_live (h := sec) (n := 2) rfl hc (by decide) ht]
    exact ⟨rfl, sent _⟩
  · intro v clears
    have clear (o size : Nat) (ho : o < 8) (hsz : (size = 4 ∨ size = 8) ∧ o % size = 0) :
        clears (max.key [n, q] + o) size (halfOf o size v) (coverOf o size) := by
      refine Answers.of_next (rc _ _ _) ?_
      rw [d.readOut_qtelMax s.mem hm hn hq hl ho hsz]
      have t := (d.touch_setReg max (v &&& ~~~coverOf o size) [n, q]).seq
        (Dev.touch_emit _ (.regRead master (max.key [n, q] + o) (halfOf o size v)))
      exact ⟨rfl, Dev.reg_setReg_self _ _ _ _, t.only hs.2, t.regsBut⟩
    exact ⟨clear 0 8 (by decide) (by decide), clear 0 4 (by decide) (by decide), clear 4 4 (by decide) (by decide)⟩
  · have hsz : ctlSized off size = false := by rw [← Bool.not_eq_true, ctlSized_iff]; exact hbad
    rw [d.readOut_ctl s.mem hm ho, d.ctlRead_missized hsz]
    have t := ((d.touch_blame 0x0202 master (0x40000000000 + off) off).seq (Dev.touch_emit _ (.regRead master off 0))).mono
      (qs := [.faults, .regs, .outside]) (ls := [RegName.FAULT_COALESCED.key []]) (by decide) (by decide)
    refine ⟨?_, recorded_emit _ (recorded_blame s _ _ _ _ hm), t.only hs.2, t.regsBut⟩
    show (d.blame _ _ _ _).out ++ _ = _
    rw [Dev.out_blame]

end Sys2Proof.Machine
end

section
/-! PROOFS. The counter-clear registers (R4, R87, R217, R469, R514, R515, R550, R703, R758, R783). -/

namespace Sys2Proof.Machine

/-! ### Counters set to 0 -/

/-- A register whose reset value is 0 stays 0 as another is set to 0, wherever it lies. -/
theorem Dev.reg_setReg_zero (d : Dev) {r c : RegName} {i : List Nat} (hr : r.reset i = 0) (hc : c.reset i = 0)
    (h : d.reg r i = 0) : (d.setReg c 0 i).reg r i = 0 := by
  by_cases hk : r.key i = c.key i
  · unfold Dev.reg Dev.setReg
    rw [hk, hr, hc]
    exact tget_tset_self 0 d.regs (c.key i) 0
  · rw [Dev.reg_setReg_ne _ _ _ _ _ _ hk, h]

/-- Counters, which reset to 0, are 0 once they are set to 0. -/
theorem Dev.reg_zeroRegs (d : Dev) {rs : List RegName} {i : List Nat} (h0 : ∀ r ∈ rs, r.reset i = 0) {r : RegName} (hr : r ∈ rs) :
    (d.zeroRegs rs i).reg r i = 0 :=
  foldl_mem (fun d => d.reg r i = 0) _ rs r hr (fun d => d.reg_setReg_self r 0 i)
    (fun d c hc h => d.reg_setReg_zero (h0 r hr) (h0 c hc) h) d

theorem Dev.touch_zeroRegs (d : Dev) (rs : List RegName) (i : List Nat) :
    d.Touch [.regs] (rs.map fun r => r.key i) (d.zeroRegs rs i) :=
  Dev.touch_fold _ _ _ rs (fun d r hr => (d.touch_setReg r 0 i).mono (fun _ h => h) fun k hk => by
    rw [List.mem_singleton] at hk
    exact List.mem_map.2 ⟨r, hr, hk.symm⟩) d

/-- What a counter-clear register clears resets to 0. -/
theorem RegName.reset_of_clears (r : RegName) (i : List Nat) : ∀ c ∈ r.clears, c.reset i = 0 := by
  have : (r.clears.all fun c => c.reset i = 0) = true := by cases r <;> rfl
  simpa using this

/-! ### Writes of the registers -/

/-- Bit 0 written 1, of 8 bytes, clears. -/
theorem Dev.clrWrite_whole (d : Dev) (r : RegName) (i : List Nat) (m : Nat) {v : Word} (hv : v.getLsbD 0 = true) :
    d.clrWrite r i ⟨m, 8, 0, v⟩ = d.zeroRegs r.clears i := by
  have hb : bit v.toNat 0 = true := hv
  simp [Dev.clrWrite, hb]

/-- Counter-clear registers of the whole device. -/
def clrRegs : List RegName := [.DEVICE_VAULT_CLR, .DEVICE_GLEAN_CLR, .DEVICE_HARROW_CLR, .SW_CLR, .TRD_CLR, .FAULT_CLR]

/-- A write of 4 bytes of one, whose field is WO, is refused (R87). -/
theorem Dev.clrWrite_half (d : Dev) {r : RegName} (hr : r ∈ clrRegs) (m : Nat) (v : Word) :
    d.clrWrite r [] ⟨m, 4, 0, v⟩ = d.blame 0x0202 m (0x40000000000 + r.key []) (r.key []) := by
  have wo : ∀ r ∈ clrRegs, r.hasWo = true ∧ r.addr [] = 0x40000000000 + r.key [] ∧ r.off [] = r.key [] := by decide
  obtain ⟨hwo, haddr, hoff⟩ := wo r hr
  simp [Dev.clrWrite, Wr.accepted, hwo, haddr, hoff]

theorem Dev.pageWrite_absent (d : Dev) (r : RegName) (i : List Nat) (f : Dev → Dev) (h : d.absentPage (r.key i) = true) :
    d.pageWrite r i 8 f = d := by simp [Dev.pageWrite, h]

theorem Dev.pageWrite_present (d : Dev) (r : RegName) (i : List Nat) (n : Nat) (f : Dev → Dev)
    (h : d.absentPage (r.key i) = false) : d.pageWrite r i n f = f d := by simp [Dev.pageWrite, h]

/-! ### Strands' counters -/

/-- Strand `k` with its counters 0. -/
def Strand.uncounted (x : Strand) : Strand := { x with mispred := 0, squash := 0 }

/-- Counters of the strands listed become 0. -/
theorem Dev.strand_uncounted (l : List (Nat × Strand)) (d : Dev) (k : Nat) :
    (l.foldl (fun d e => d.modStrand e.1 Strand.uncounted) d).strand k =
      if k ∈ l.map Prod.fst then (d.strand k).uncounted else d.strand k := by
  induction l generalizing d with
  | nil => rfl
  | cons e t ih =>
    rw [List.foldl_cons, ih, List.map_cons]
    by_cases hk : k = e.1
    · subst hk
      have self : (d.modStrand e.1 Strand.uncounted).strand e.1 = (d.strand e.1).uncounted := d.strand_setStrand_self _ _
      rw [self, if_pos List.mem_cons_self]
      split <;> rfl
    · have other : (d.modStrand e.1 Strand.uncounted).strand k = d.strand k := d.strand_setStrand_ne _ hk
      simp only [other, List.mem_cons, hk, false_or]

/-- A strand that is not listed is as at reset, with counters 0. -/
theorem Dev.strand_unlisted (d : Dev) {k : Nat} (h : k ∉ d.tine.strands.map Prod.fst) : d.strand k = strandInit := by
  have none_of (t : Tbl Strand) (ht : k ∉ t.map Prod.fst) : tfind t k = none := by
    induction t with
    | nil => rfl
    | cons e t ih =>
      rw [List.map_cons, List.mem_cons, not_or] at ht
      simp only [tfind, if_neg ht.1, ih ht.2]
  unfold Dev.strand tget
  rw [none_of _ h]
  rfl

theorem Dev.strand_clearTineSpec (d : Dev) (k : Nat) : d.clearTineSpec.strand k = (d.strand k).uncounted := by
  refine (Dev.strand_uncounted d.tine.strands d k).trans ?_
  split
  · rfl
  · next h => rw [d.strand_unlisted h]; rfl

/-- The rest of the tines stands. -/
theorem Dev.clearTineSpec_frame (d : Dev) : ∃ x, d.clearTineSpec = { d with tine := { d.tine with strands := x } } :=
  foldl_rel (fun d e : Dev => ∃ x, e = { d with tine := { d.tine with strands := x } }) (fun _ => ⟨_, rfl⟩)
    (fun _ _ _ ⟨_, h⟩ ⟨y, g⟩ => ⟨y, by rw [g, h]⟩) _ _ (fun _ _ _ => ⟨_, rfl⟩) d

theorem Dev.specClrWrite_device (d : Dev) (m : Nat) : d.specClrWrite ⟨m, 8, 0, 1⟩ = d.clearSpec := by
  simp [Dev.specClrWrite]
theorem Dev.specClrWrite_tines (d : Dev) (m : Nat) : d.specClrWrite ⟨m, 8, 0, 2⟩ = d.clearTineSpec := by
  simp [Dev.specClrWrite]

/-- Settles O41: every one sets a list of counters to 0 that reset to 0; the strands' are cleared one strand after another. -/
theorem counterClearsZeroTheCounters : Obligations.CounterClearsZeroTheCounters := by
  unfold Obligations.CounterClearsZeroTheCounters
  intro s master p u value hs hv clears
  have zeroed {c : Instr} {i : List Nat} {rs : List RegName} (h : exec c s = .next (s.did (s.dev.zeroRegs rs i)))
      (h0 : ∀ r ∈ rs, r.reset i = 0) : clears c i rs :=
    have t := s.dev.touch_zeroRegs rs i
    Answers.of_next h ⟨fun _ hr => s.dev.reg_zeroRegs h0 hr, t.only hs.2, t.regsBut⟩
  have cleared {c : Instr} (r : RegName) (i : List Nat)
      (h : exec c s = .next (s.did (s.dev.clrWrite r i ⟨master, 8, 0, value⟩))) :
      clears c i r.clears :=
    zeroed (h.trans (by rw [Dev.clrWrite_whole _ _ _ _ hv])) (r.reset_of_clears i)
  have paged {c : Instr} (r : RegName) (i : List Nat)
      (h : exec c s = .next (s.did (s.dev.pageWrite r i 8 fun d => d.clrWrite r i ⟨master, 8, 0, value⟩))) :
      (s.dev.absentPage (r.key i) = false → clears c i r.clears) ∧ (s.dev.absentPage (r.key i) = true → exec c s = .next s) :=
    ⟨fun ha => cleared r i (h.trans (by rw [Dev.pageWrite_present _ _ _ _ _ ha])),
      fun ha => h.trans (by rw [Dev.pageWrite_absent _ _ _ _ ha, State.did_self hs.2])⟩
  obtain ⟨fold, noFold⟩ := paged (c := .foldClr master p u 8 value) .FOLD_CLR [p, u] (hs.run _)
  obtain ⟨cipher, noCipher⟩ := paged (c := .cipherClr master p 8 value) .CIPHER_CLR [p] (hs.run _)
  have device : exec (.specClrDevice master 8) s = .next (s.did s.dev.clearSpec) :=
    (hs.run fun _ d => d.specClrWrite ⟨master, 8, 0, 1⟩).trans (by rw [Dev.specClrWrite_device])
  have tines : exec (.specClrTines master 8) s = .next (s.did s.dev.clearTineSpec) :=
    (hs.run fun _ d => d.specClrWrite ⟨master, 8, 0, 2⟩).trans (by rw [Dev.specClrWrite_tines])
  refine ⟨zeroed device (by decide), ?_, fold, noFold, cleared .DEVICE_VAULT_CLR [] (hs.run _), cipher, noCipher,
    cleared .DEVICE_GLEAN_CLR [] (hs.run _), cleared .DEVICE_HARROW_CLR [] (hs.run _), cleared .SW_CLR [] (hs.run _),
    cleared .TRD_CLR [] (hs.run _), cleared .FAULT_CLR [] (hs.awake.manage _), fun hm => ?_⟩
  · obtain ⟨x, hx⟩ := s.dev.clearTineSpec_frame
    refine Answers.of_next tines ⟨s.dev.strand_clearTineSpec, ?_⟩
    rw [hx]
    exact ⟨(s.dev.touchIn_tine _).only hs.2, rfl, rfl, rfl⟩
  · have refused {c : Instr} {r : RegName} (hr : r ∈ clrRegs)
        (h : exec c s = .next (s.did (s.dev.clrWrite r [] ⟨master, 4, 0, value⟩))) :
        Answers c s fun t => Recorded s t { code := 0x0202, kind := 0, unit := 0, master := master
                                            addr := 0x40000000000 + r.key [], detail := r.key [] } ∧
          Only [.faults, .regs] s t ∧ RegsBut [RegName.FAULT_COALESCED.key []] s t := by
      have t := s.dev.touch_blame 0x0202 master (0x40000000000 + r.key []) (r.key [])
      refine Answers.of_next h ?_
      rw [s.dev.clrWrite_half hr]
      exact ⟨recorded_blame s _ _ _ _ hm, (t.mono (by decide) fun _ h => h).only hs.2, t.regsBut⟩
    simp only [List.forall_mem_cons, List.not_mem_nil, false_implies, implies_true, and_true]
    exact ⟨refused (by decide) (hs.run _), refused (by decide) (hs.run _), refused (by decide) (hs.run _),
      refused (by decide) (hs.run _), refused (by decide) (hs.run _), refused (by decide) (hs.awake.manage _)⟩

end Sys2Proof.Machine
end

section
/-! PROOFS. Host links: PERST_N, hot resets, links that fall and train (R250, R280, R282, R289, R291, R294). -/

namespace Sys2Proof.Machine

/-! ### A function in D3cold -/

/-- The registers of a function's state lie apart from the collector's counter. -/
theorem fnState_ne_coalesced (f : Nat) : RegName.HOST_FN_STATE.key [f] ≠ RegName.FAULT_COALESCED.key [] := by
  rw [key_HOST_FN_STATE, show RegName.FAULT_COALESCED.key [] = 0x1000038 from rfl]; omega

/-- An event of a function sets its bit, whether or not it stood. -/
theorem Dev.fld_fnEvent (d : Dev) (ev fl : Fld) (f : Nat) (h : fl.reg = .HOST_FN_STATE) :
    (d.fnEvent ev f).fld fl [f] = (d.setFld ev 1 [f]).fld fl [f] := by
  unfold Dev.fnEvent
  dsimp only
  split
  · rfl
  · refine (Dev.touch_report _ _).fld fl [f] ?_
    rw [h, List.mem_singleton]
    exact fnState_ne_coalesced f

/-- A field beside the event bit stays. -/
theorem Dev.fld_fnEvent_beside (d : Dev) (ev fl : Fld) (f : Nat) (he : ev.reg = .HOST_FN_STATE) (h : fl.reg = .HOST_FN_STATE)
    (hw : fl.lo + fl.width ≤ 64) (ha : fl.lo + fl.width ≤ ev.lo ∨ ev.lo + ev.width ≤ fl.lo) :
    (d.fnEvent ev f).fld fl [f] = d.fld fl [f] :=
  (d.fld_fnEvent ev fl f h).trans (d.fld_setFld_beside fl ev 1 [f] (h.trans he.symm) hw ha)

theorem Dev.fnCold_of_cold (d : Dev) {f : Nat} (h : d.fld HOST_FN_STATE.DSTATE [f] = 3) : d.fnCold f = d := if_pos h

theorem Dev.fnCold_of_warm (d : Dev) {f : Nat} (h : d.fld HOST_FN_STATE.DSTATE [f] ≠ 3) :
    d.fnCold f = (d.setFld HOST_FN_STATE.DSTATE 3 [f]).fnEvent HOST_FN_STATE.DSTATE_EV f := if_neg h

/-- Without power or reference clock a function is in D3 (R289). -/
theorem Dev.dstate_fnCold (d : Dev) (f : Nat) : (d.fnCold f).fld HOST_FN_STATE.DSTATE [f] = 3 := by
  by_cases h : d.fld HOST_FN_STATE.DSTATE [f] = 3
  · rw [d.fnCold_of_cold h, h]
  · rw [d.fnCold_of_warm h, Dev.fld_fnEvent_beside _ _ _ _ rfl rfl (by decide) (by decide),
      Dev.fld_setFld_self _ _ _ _ (by decide)]
    rfl

/-- A change to D3 sets its event bit (R294). -/
theorem Dev.dstateEv_fnCold (d : Dev) {f : Nat} (h : d.fld HOST_FN_STATE.DSTATE [f] ≠ 3) :
    (d.fnCold f).fld HOST_FN_STATE.DSTATE_EV [f] = 1 := by
  rw [d.fnCold_of_warm h, Dev.fld_fnEvent _ _ _ _ rfl, Dev.fld_setFld_self _ _ _ _ (by decide)]
  rfl

/-! ### Links -/

theorem Dev.linkFall_up (d : Dev) {l : Nat} (h : d.linkUp l = true) :
    d.linkFall l = ((d.linkSet l 0 0 0).linkReset l).linkEvent HOST_LINK_STATUS.DOWN_EV l := if_pos h

theorem Dev.rate_linkSet (d : Dev) (l st r n : Nat) : (d.linkSet l st r n).fld HOST_LINK_STATUS.RATE [l] = r % 8 := by
  unfold Dev.linkSet
  rw [Dev.fld_setFld_beside _ HOST_LINK_STATUS.RATE HOST_LINK_STATUS.LANES _ _ rfl (by decide) (by decide),
    Dev.fld_setFld_self _ _ _ _ (by decide)]
  rfl

/-- VF Enable 0: no VF ceases to exist. -/
theorem Dev.dropVfs_none (d : Dev) {p : Nat} (ev : Fld) (sticky : Bool) (h : (d.fn p).vfEnable = false) :
    d.dropVfs p ev sticky = d := by
  unfold Dev.dropVfs
  rw [h]
  rfl

/-- A link of one PF without VFs resets that PF (R280). -/
theorem Dev.linkReset_one (d : Dev) {l p : Nat} (hl : d.pfsOf l = [p]) (he : d.fnExists p = true)
    (hv : (d.fn p).vfEnable = false) :
    d.linkReset l = (d.resetStart p HOST_FN_STATE.LINKRST_EV true).hostRstSync := by
  unfold Dev.linkReset
  rw [hl, List.foldl_cons, List.foldl_nil, if_pos he, d.dropVfs_none _ _ hv]

/-- A link that no planned PF uses has no functions. -/
theorem Dev.fnsOf_nil (d : Dev) {l : Nat}
    (h : ∀ p, p < 256 → d.flag HOST_PF_PLAN.PRESENT [p] = true → d.fld HOST_PF_PLAN.LINK [p] ≠ l) : d.fnsOf l = [] := by
  have hpfs : d.pfsOf l = [] := List.filter_eq_nil_iff.2 fun p hp => by
    simpa using h p (List.mem_range.1 hp)
  unfold Dev.fnsOf
  rw [hpfs]
  rfl

/-- PERST_N goes high on link `l`: its wake is answered and it trains (R282, R291). -/
def Dev.perstTrains (d : Dev) (l : Nat) : Dev :=
  ((d.setFld HOST_LINK_STATUS.PERST 0 [l]).setWake l false).trainLink l true

theorem Dev.touch_perstTrains (d : Dev) (l : Nat) :
    d.Touch [.regs, .outside, .host] [RegName.HOST_LINK_STATUS.key [l]] (d.perstTrains l) :=
  (((d.touch_setFld HOST_LINK_STATUS.PERST 0 [l]).seq (Dev.touch_setWake _ l false)).seq (Dev.touch_trainLink _ l true)).mono
    (by decide) (by simp; rfl)

/-- The plan of PFs stays, so that a link without functions has none afterwards. -/
theorem Dev.fnsOf_perstTrains (d : Dev) {l : Nat}
    (h : ∀ p, p < 256 → d.flag HOST_PF_PLAN.PRESENT [p] = true → d.fld HOST_PF_PLAN.LINK [p] ≠ l) :
    (d.perstTrains l).fnsOf l = [] := by
  refine Dev.fnsOf_nil _ fun p hp => ?_
  have hk : RegName.HOST_PF_PLAN.key [p] ∉ [RegName.HOST_LINK_STATUS.key [l]] := by
    rw [List.mem_singleton, key_HOST_PF_PLAN, key_HOST_LINK_STATUS]; omega
  rw [(d.touch_perstTrains l).flag HOST_PF_PLAN.PRESENT [p] hk, (d.touch_perstTrains l).fld HOST_PF_PLAN.LINK [p] hk]
  exact h p hp

theorem Dev.perstDeassert_bare (d : Dev) {l : Nat}
    (h : ∀ p, p < 256 → d.flag HOST_PF_PLAN.PRESENT [p] = true → d.fld HOST_PF_PLAN.LINK [p] ≠ l) :
    d.perstDeassert l = (d.perstTrains l).hostRstSync := by
  show (((d.perstTrains l).fnsOf l).foldl _ (d.perstTrains l)).hostRstSync = _
  rw [d.fnsOf_perstTrains h, List.foldl_nil]

/-! ### What the commands of links answer -/

theorem exec_perstAssert {s : State} (hs : s.Awake) {l : Nat} (hl : l < 64) (cold : Bool)
    (hp : s.dev.flag HOST_LINK_STATUS.PERST [l] = false) :
    exec (.perstAssert l cold) s = .next (s.did (s.dev.perstAssert l cold)) := by
  show execPerstAssert l cold s = _
  rw [execPerstAssert, hs.2.always, if_neg (by simp [hl, hp]), if_pos hs.1]

theorem exec_perstDeassert {s : State} (hs : s.Awake) {l : Nat} (hl : l < 64)
    (hp : s.dev.flag HOST_LINK_STATUS.PERST [l] = true) :
    exec (.perstDeassert l) s = .next (s.did (s.dev.perstDeassert l)) := by
  show execPerstDeassert l s = _
  rw [execPerstDeassert, hs.2.always, if_neg (by simp [hl, hp]), if_pos hs.1]

theorem exec_hotReset {s : State} (hs : s.Awake) {l : Nat} (hl : l < 64) (hu : s.dev.linkUp l = true) :
    exec (.hotReset l) s = .next (s.did
      ((((s.dev.linkSet l 0 0 0).linkReset l).linkEvent HOST_LINK_STATUS.HOTRST_EV l).trainLink l)) := by
  show execHotReset l s = _
  rw [execHotReset, hs.manage, if_pos (by simp [hl, hu])]

theorem exec_hostLinkDown {s : State} (hs : s.Awake) {l : Nat} (hl : l < 64) (hu : s.dev.linkUp l = true) (l2 : Bool) :
    exec (.hostLinkDown l l2) s = .next (s.did
      (if l2 then (s.dev.linkFall l).linkSet l 6 0 0 else (s.dev.linkFall l).trainLink l)) := by
  show execHostLinkDown l l2 s = _
  rw [execHostLinkDown, hs.manage, if_pos (by simp [hl, hu])]

/-- The bounds that completed training reports, and the states that the link may pass to. -/
theorem exec_hostLinkUp {s : State} (hs : s.Awake) {l state rate lanes : Nat} (hl : l < 64)
    (hst : 1 ≤ s.dev.fld HOST_LINK_STATUS.STATE [l] ∧ s.dev.fld HOST_LINK_STATUS.STATE [l] ≤ 5)
    (hstate : 2 ≤ state ∧ state ≤ if s.dev.fld HOST_LINK_STATUS.STATE [l] = 1 then 3 else 5)
    (hp : s.dev.flag HOST_LINK_PLAN.PRESENT [l] = true)
    (hrate : 1 ≤ rate ∧ rate ≤ s.dev.fld HOST_LINK_PLAN.MAX_RATE [l])
    (hlanes : 1 ≤ lanes ∧ lanes ≤ 2 ^ s.dev.fld HOST_LINK_PLAN.WIDTH [l]) :
    exec (.hostLinkUp l state rate lanes) s = .next (s.did (Dev.hostRstSync { (s.dev.linkSet l state rate lanes) with
      host := { s.dev.host with trainFrom := tdel s.dev.host.trainFrom l } })) := by
  show execHostLinkUp l state rate lanes s = _
  rw [execHostLinkUp, hs.manage, if_pos (by simp [hl, hst, hstate, hp, hrate, hlanes])]

/-- Settles O18: each command by its case, then what training, the reset of a link's one PF and D3cold leave in the registers. -/
theorem hostLinksTrainAndReset : Obligations.HostLinksTrainAndReset := by
  unfold Obligations.HostLinksTrainAndReset
  intro s l state rate lanes hs hl d down
  refine ⟨fun hp => ⟨exec_perstAssert hs hl false hp, exec_perstAssert hs hl true hp⟩,
    fun p _ => ⟨d.dstate_fnCold p, d.dstateEv_fnCold⟩, fun hp hnone => ?_, fun hu => ?_,
    fun h1 h5 hplan h2 hst hr hrate hn hlanes => ⟨?_, ?_, fun h8 => ?_⟩, fun hstrips href hplan hp => ?_,
    fun p hone he hv => d.linkReset_one hone he hv⟩
  · rw [exec_perstDeassert hs hl hp, s.dev.perstDeassert_bare hnone]
    rfl
  · have hdown := exec_hostLinkDown hs hl hu
    rw [s.dev.linkFall_up hu] at hdown
    exact ⟨exec_hotReset hs hl hu, hdown false, hdown true⟩
  · exact exec_hostLinkUp hs hl ⟨h1, h5⟩ ⟨h2, hst⟩ hplan ⟨hr, hrate⟩ ⟨hn, hlanes⟩
  · exact (d.state_linkSet l state rate lanes).trans (Nat.mod_eq_of_lt (by split at hst <;> omega))
  · exact (d.rate_linkSet l state rate lanes).trans (Nat.mod_eq_of_lt h8)
  · exact d.linkTrains_trainLink l (by simp [Dev.canTrain, hstrips, href, hplan]) hp

end Sys2Proof.Machine
end

section
/-! PROOFS. Functions: function level resets, Bus Master Enable, power states, virtual functions, configuration writes (R257,
R277 to R279, R283 to R288, R362). -/

namespace Sys2Proof.Machine

/-! ### The rings of a function, and registers that bind none -/

/-- A key of the registers that bind submission rings. -/
def isSqBind (k : Nat) : Bool := RegName.RINGS_SQ_BIND.key [0] ≤ k && k ≤ RegName.RINGS_SQ_BIND.key [65535]

/-- The bindings of submission rings that differ from reset. -/
def Dev.sqBinds (d : Dev) : Tbl Word := d.regs.filter fun e => isSqBind e.1

theorem isSqBind_key {g : Nat} (h : g ≤ 65535) : isSqBind (RegName.RINGS_SQ_BIND.key [g]) = true := by
  simp only [isSqBind, key_RINGS_SQ_BIND, Bool.and_eq_true, decide_eq_true_eq]
  omega

theorem isSqBind_fnState {f : Nat} (h : f < 4352) : isSqBind (RegName.HOST_FN_STATE.key [f]) = false := by
  simp only [isSqBind, key_RINGS_SQ_BIND, key_HOST_FN_STATE, Bool.and_eq_false_iff, decide_eq_false_iff_not]
  omega

/-- Of a table's entries, those a change at another key does not meet stay. -/
theorem filter_tset {α : Type} [DecidableEq α] (z : α) (t : Tbl α) {k : Nat} (v : α) (p : Nat → Bool) (h : p k = false) :
    (tset z t k v).filter (fun e => p e.1) = t.filter fun e => p e.1 := by
  have hdel : (tdel t k).filter (fun e => p e.1) = t.filter fun e => p e.1 := by
    induction t with
    | nil => rfl
    | cons e t ih =>
      obtain ⟨j, x⟩ := e
      by_cases hj : k = j
      · subst hj; simp [tdel, h, ih]
      · simp [tdel, hj, List.filter_cons, ih]
  have hput : (tput t k v).filter (fun e => p e.1) = t.filter fun e => p e.1 := by
    clear hdel
    induction t with
    | nil => simp [tput, h]
    | cons e t ih =>
      obtain ⟨j, x⟩ := e
      by_cases hj : k = j
      · subst hj; simp [tput, h]
      · by_cases hlt : k < j
        · simp [tput, hj, hlt, List.filter_cons, h]
        · simp [tput, hj, hlt, List.filter_cons, ih]
  unfold tset
  split
  · exact hdel
  · exact hput

theorem Dev.sqBinds_setReg (d : Dev) {r : RegName} (v : Word) {i : List Nat} (h : isSqBind (r.key i) = false) :
    (d.setReg r v i).sqBinds = d.sqBinds := filter_tset _ _ _ isSqBind h

theorem Dev.sqBinds_report (d : Dev) (r : Report) : (d.report r).sqBinds = d.sqBinds := by
  unfold Dev.report Dev.enqueue
  dsimp only
  split
  · rfl
  · split
    · exact d.sqBinds_setReg _ (by decide)
    · rfl

theorem Dev.sqBinds_setFnState (d : Dev) (fl : Fld) (v : Nat) {f : Nat} (hr : fl.reg = .HOST_FN_STATE) (hf : f < 4352) :
    (d.setFld fl v [f]).sqBinds = d.sqBinds := d.sqBinds_setReg _ (hr ▸ isSqBind_fnState hf)

theorem Dev.sqBinds_fnEvent (d : Dev) (ev : Fld) {f : Nat} (hr : ev.reg = .HOST_FN_STATE) (hf : f < 4352) :
    (d.fnEvent ev f).sqBinds = d.sqBinds := by
  unfold Dev.fnEvent
  dsimp only
  split
  · exact d.sqBinds_setFnState ev 1 hr hf
  · exact (Dev.sqBinds_report _ _).trans (d.sqBinds_setFnState ev 1 hr hf)

/-- A ring's function depends on the bindings alone. -/
theorem Dev.sqFunc_congr {d e : Dev} (h : e.sqBinds = d.sqBinds) {g : Nat} (hg : g ≤ 65535) : e.sqFunc g = d.sqFunc g := by
  have found (x : Dev) : tfind x.sqBinds (RegName.RINGS_SQ_BIND.key [g]) = tfind x.regs (RegName.RINGS_SQ_BIND.key [g]) := by
    rw [Dev.sqBinds, tfind_filter, if_pos (isSqBind_key hg)]
  have hreg : e.reg .RINGS_SQ_BIND [g] = d.reg .RINGS_SQ_BIND [g] :=
    Dev.reg_of_tfind ((found e).symm.trans (h ▸ found d))
  exact congrArg RINGS_SQ_BIND.FUNC.get hreg

/-- The rings that pass a test, from the bindings. -/
theorem Dev.sqsWhere_eq (d : Dev) (p : Nat → Bool) : d.sqsWhere p =
    (d.sqBinds.filter fun e => bit e.2.toNat 63 && p ((e.1 - RegName.RINGS_SQ_BIND.key [0]) / 8)).map
      fun e => (e.1 - RegName.RINGS_SQ_BIND.key [0]) / 8 := by
  simp only [Dev.sqsWhere, Dev.sqBinds, isSqBind, List.filter_filter, Bool.and_assoc, Bool.and_comm, Bool.and_left_comm]

theorem Dev.sqBinds_num_le {d : Dev} {e : Nat × Word} (h : e ∈ d.sqBinds) :
    (e.1 - RegName.RINGS_SQ_BIND.key [0]) / 8 ≤ 65535 := by
  have hk := (List.mem_filter.1 h).2
  simp only [isSqBind, key_RINGS_SQ_BIND, Bool.and_eq_true, decide_eq_true_eq] at hk ⊢
  omega

/-- A function's rings depend on the bindings alone. -/
theorem Dev.sqsWhere_func_congr {d e : Dev} (h : e.sqBinds = d.sqBinds) (f : Nat) :
    (e.sqsWhere fun g => e.sqFunc g = f) = d.sqsWhere fun g => d.sqFunc g = f := by
  rw [e.sqsWhere_eq, d.sqsWhere_eq, h]
  congr 1
  refine List.filter_congr fun x hx => ?_
  rw [Dev.sqFunc_congr h (Dev.sqBinds_num_le hx)]

theorem Dev.sqFunc_of_mem {d : Dev} {f g : Nat} (h : g ∈ d.sqsWhere fun g => d.sqFunc g = f) : d.sqFunc g = f := by
  rw [Dev.sqsWhere_eq] at h
  obtain ⟨x, hx, rfl⟩ := List.mem_map.1 h
  have hp := (List.mem_filter.1 hx).2
  simp only [Bool.and_eq_true, decide_eq_true_eq] at hp
  exact hp.2

/-! ### What an event of a function leaves -/

@[simp] theorem Dev.posted_fnEvent (d : Dev) (ev : Fld) (f : Nat) : (d.fnEvent ev f).posted = d.posted := by
  unfold Dev.fnEvent; dsimp only; split <;> simp
@[simp] theorem Dev.ring_fnEvent (d : Dev) (ev : Fld) (f : Nat) : (d.fnEvent ev f).ring = d.ring := by
  unfold Dev.fnEvent; dsimp only; split <;> simp
@[simp] theorem Dev.clk_fnEvent (d : Dev) (ev : Fld) (f : Nat) : (d.fnEvent ev f).clk = d.clk := by
  unfold Dev.fnEvent; dsimp only; split <;> simp
@[simp] theorem Dev.host_fnEvent (d : Dev) (ev : Fld) (f : Nat) : (d.fnEvent ev f).host = d.host := by
  unfold Dev.fnEvent; dsimp only; split <;> simp

/-! ### A function that falls silent with nothing queued -/

/-- Without queued writes and rings a function that may not issue requests any more loses nothing. -/
theorem Dev.quiesce_idle (d : Dev) (f : Nat) (hw : ∀ w ∈ d.posted, w.toHost = true → w.unit ≠ f)
    (hq : (d.sqsWhere fun g => d.sqFunc g = f) = []) : d.quiesce f = d := by
  have hmine : (d.posted.filter fun w => w.toHost && w.unit = f) = [] :=
    List.filter_eq_nil_iff.2 fun w hm => by simpa using hw w hm
  have hrest : (d.posted.filter fun w => !(w.toHost && w.unit = f)) = d.posted :=
    List.filter_eq_self.2 fun w hm => by simpa [Classical.or_iff_not_imp_left] using hw w hm
  unfold Dev.quiesce
  dsimp only
  rw [hmine, hrest, if_pos rfl]
  show (d.sqsWhere fun g => d.sqFunc g = f).foldl _ d = d
  rw [hq, List.foldl_nil]

/-! ### Steps of a function level reset -/

/-- A generation that no item carries needs no purge (R363). -/
theorem Dev.nextGen_fresh (d : Dev) {f : Nat} (h : (d.items f).contains ((d.gen f + 1) % 65536) = false) :
    d.nextGen f = d.setFld TENANT_STATE.GEN ((d.gen f + 1) % 65536) [f] := by
  unfold Dev.nextGen
  dsimp only
  rw [h]
  rfl

/-- A SAVE or RESTORE of the function ends with result 9. -/
def Dev.migAborts (d : Dev) (f : Nat) : Dev :=
  if d.flag TENANT_MIG_CTL.GO = true ∧ d.fld TENANT_MIG_CTL.FUNC = f then
    (d.setFld TENANT_MIG_CTL.RESULT 9).setFld TENANT_MIG_CTL.GO 0 else d

theorem Dev.migAborts_eq (d : Dev) (f : Nat) :
    (if d.flag TENANT_MIG_CTL.GO && d.fld TENANT_MIG_CTL.FUNC = f then d.migEnd 9 else d) = d.migAborts f := by
  simp only [Dev.migAborts, Dev.migEnd, Bool.and_eq_true, decide_eq_true_eq]

/-- Step 1 of R277 once the function's work has ended: its mailbox is cleared and it is closed to requests. -/
def Dev.resetCloses (d : Dev) (f : Nat) (ev : Fld) (sticky : Bool) : Dev :=
  let d := ((d.stBytes (d.mbAddr f) (List.replicate 8192 0)).setFld TENANT_CTL.SAVED 0 [f]).setFld HOST_FN_STATE.FLR_BUSY 1 [f]
  (d.modFn f fun n => { n with flrAt := d.now, flrStep := 2, sticky := sticky && (n.flrStep = 0 || n.sticky) }).fnEvent ev f

theorem Dev.resetStart_eq (d : Dev) (f : Nat) (ev : Fld) (sticky : Bool) :
    d.resetStart f ev sticky = (((d.nextGen f).endFnWork f).migAborts f).resetCloses f ev sticky := by
  rw [← Dev.migAborts_eq]
  rfl

/-! ### What the last step of a reset leaves -/

theorem Dev.host_resetRegs (d : Dev) (rs : List RegName) (i : List Nat) : (d.resetRegs rs i).host = d.host :=
  foldl_keep Dev.host (fun d r => d.setReg r (r.reset i) i) rs (fun _ _ _ => rfl) d

theorem Dev.host_resetRings (d : Dev) (f : Nat) : (d.resetRings f).host = d.host := by
  unfold Dev.resetRings
  refine (Dev.host_resetRegs _ _ _).trans ((foldl_keep Dev.host _ _ (fun b g _ => ?_) _).trans
    (foldl_keep Dev.host _ _ (fun b g _ => ?_) _)) <;> exact b.host_resetRegs _ [g]

theorem Dev.host_fnClear (d : Dev) (fl ev : Fld) (f : Nat) : (d.fnClear fl ev f).host = d.host := by
  unfold Dev.fnClear
  split
  · exact Dev.host_fnEvent _ _ _
  · rfl

@[simp] theorem Dev.fn_modFn_self (d : Dev) (f : Nat) (h : Fn → Fn) : (d.modFn f h).fn f = h (d.fn f) :=
  tget_tset_self _ _ _ _

theorem Dev.fn_congr {d e : Dev} (h : e.host = d.host) (f : Nat) : e.fn f = d.fn f := by
  unfold Dev.fn; rw [h]

theorem Fn.afterReset_plain {n : Fn} (h : n.sticky = false) : n.afterReset = {} := by
  unfold Fn.afterReset; rw [h]; rfl

/-- The registers as step 3 of R277 leaves them, but for FLR_BUSY. -/
def Dev.resetRegisters (d : Dev) (f : Nat) : Dev :=
  let cold := d.flag HOST_LINK_STATUS.PERST [d.linkOf f] && (d.fn f).sticky
  let d := (d.resetRings f).resetRegs [.FN_HOST_ERR, .FN_HOST_ERR_ADDR, .FN_BUF_SLOT, .FN_BUF_BASE, .FN_BUF_LEN, .FN_BUF_ATTR] [f]
  let d := ((d.setFld HOST_FN_STATE.MSE 0 [f]).fnClear HOST_FN_STATE.BME HOST_FN_STATE.BME_EV f).setFld HOST_FN_STATE.SILENCED 0 [f]
  let d := if cold then d else d.fnClear HOST_FN_STATE.DSTATE HOST_FN_STATE.DSTATE_EV f
  if (d.fn f).numVfs = 0 then d else d.fnEvent HOST_FN_STATE.VF_EV f

/-- Step 3 of R277, its registers apart. -/
theorem Dev.resetFinish_eq (d : Dev) (f : Nat) : d.resetFinish f =
    let e := ((d.resetRegisters f).setFld HOST_FN_STATE.FLR_BUSY 0 [f]).modFn f Fn.afterReset
    { e with host := { e.host with atc := e.host.atc.filter fun x => x.func ≠ f
                                   invals := e.host.invals.filter fun v => v.func ≠ f } } := rfl

theorem Dev.host_resetRegisters (d : Dev) (f : Nat) : (d.resetRegisters f).host = d.host := by
  simp only [Dev.resetRegisters, apply_ite Dev.host, Dev.host_fnEvent, Dev.host_fnClear, Dev.host_setFld, Dev.host_resetRegs,
    Dev.host_resetRings, ite_self]

/-- A function level reset leaves the function's state as at reset. -/
theorem Dev.fn_resetFinish (d : Dev) {f : Nat} (h : (d.fn f).sticky = false) : (d.resetFinish f).fn f = {} := by
  have hfn : ((d.resetRegisters f).setFld HOST_FN_STATE.FLR_BUSY 0 [f]).fn f = d.fn f :=
    Dev.fn_congr (d.host_resetRegisters f) f
  calc (d.resetFinish f).fn f
      = (((d.resetRegisters f).setFld HOST_FN_STATE.FLR_BUSY 0 [f]).modFn f Fn.afterReset).fn f := by
        rw [Dev.resetFinish_eq]; rfl
    _ = (d.fn f).afterReset := by rw [Dev.fn_modFn_self, hfn]
    _ = {} := Fn.afterReset_plain h

theorem Dev.flrBusy_resetFinish (d : Dev) (f : Nat) : (d.resetFinish f).fld HOST_FN_STATE.FLR_BUSY [f] = 0 :=
  Dev.fld_setFld_self _ HOST_FN_STATE.FLR_BUSY 0 [f] (by decide)

/-! ### What the commands of functions answer -/

/-- VF Enable of function `f` is 1. -/
def Dev.vfsOn (d : Dev) (f : Nat) : Dev := d.modFn f fun x => { x with vfEnable := true }

/-- Bus Master Enable of function `f` becomes `v`. -/
def Dev.setBme (d : Dev) (v f : Nat) : Dev := (d.setFld HOST_FN_STATE.BME v [f]).fnEvent HOST_FN_STATE.BME_EV f

/-- The units once function `f` is in D3hot. -/
def Dev.hotOn (d : Dev) (f : Nat) : Dev :=
  ((d.setFld HOST_FN_STATE.DSTATE 3 [f]).setFld HOST_FN_STATE.SILENCED 1 [f]).fnEvent HOST_FN_STATE.DSTATE_EV f

section
variable {s : State} (hs : s.Awake) {f : Nat}
include hs

theorem exec_flr (he : s.dev.fnExists f = true) (hl : s.dev.linkUp (s.dev.linkOf f) = true) :
    exec (.flr f) s = .next (s.did
      ((s.dev.dropVfs f HOST_FN_STATE.FLR_EV false).resetStart f HOST_FN_STATE.FLR_EV false).hostRstSync) := by
  show execFlr f s = _
  rw [execFlr, hs.manage, if_pos (by simp [he, hl])]

theorem exec_flrSilenced (h : (s.dev.fn f).flrStep = 2) : exec (.flrSilenced f) s = .next (s.did (s.dev.resetSilence f)) := by
  show execFlrSilenced f s = _
  rw [execFlrSilenced, hs.manage, if_pos h]

theorem exec_flrComplete (h : (s.dev.fn f).flrStep = 3) :
    exec (.flrComplete f) s = .next (s.did (s.dev.resetFinish f).hostRstSync) := by
  show execFlrComplete f s = _
  rw [execFlrComplete, hs.manage, if_pos h]

theorem exec_bmeSet (hc : s.dev.cfgOk f = true) (h0 : s.dev.flag HOST_FN_STATE.BME [f] = false) :
    exec (.bmeSet f) s = .next (s.did
      (if (s.dev.setBme 1 f).fld HOST_FN_STATE.DSTATE [f] = 0 then
        ((s.dev.setBme 1 f).sqsWhere fun g => (s.dev.setBme 1 f).sqFunc g = f).foldl Dev.resumeNow (s.dev.setBme 1 f)
       else s.dev.setBme 1 f)) := by
  show execBmeSet f s = _
  rw [execBmeSet, hs.manage, if_pos (by simp [hc, h0])]
  rfl

theorem exec_bmeClear (hc : s.dev.cfgOk f = true) (h1 : s.dev.flag HOST_FN_STATE.BME [f] = true) :
    exec (.bmeClear f) s = .next (s.did ((s.dev.setBme 0 f).quiesce f)) := by
  show execBmeClear f s = _
  rw [execBmeClear, hs.manage, if_pos (by simp [hc, h1])]
  rfl

theorem exec_d3hotEnter (hc : s.dev.cfgOk f = true) (h0 : s.dev.fld HOST_FN_STATE.DSTATE [f] = 0) :
    exec (.d3hotEnter f) s = .next (s.did ((s.dev.hotOn f).quiesce f)) := by
  show execD3hotEnter f s = _
  rw [execD3hotEnter, hs.manage, if_pos (by simp [hc, h0])]
  rfl

theorem exec_d0Return (hc : s.dev.cfgOk f = true) (h : s.dev.fld HOST_FN_STATE.DSTATE [f] ≠ 0) :
    exec (.d0Return f) s = .next (s.did (((s.dev.setFld HOST_FN_STATE.DSTATE 0 [f]).setFld HOST_FN_STATE.SILENCED 0 [f]).fnEvent
      HOST_FN_STATE.DSTATE_EV f)) := by
  show execD0Return f s = _
  rw [execD0Return, hs.manage, if_pos (by simp [hc, h])]

theorem exec_numvfsWrite (hc : s.dev.cfgOk f = true) (hf : f < 256) (hv : (s.dev.fn f).vfEnable = false) {n : Nat} (hn : n < 65536)
    (hne : (s.dev.fn f).numVfs ≠ n) : exec (.numvfsWrite f n) s =
      .next (s.did ((s.dev.modFn f fun x => { x with numVfs := n }).fnEvent HOST_FN_STATE.VF_EV f)) := by
  show execNumvfsWrite f n s = _
  rw [execNumvfsWrite, hs.manage, Nat.mod_eq_of_lt hn, if_pos (by simp [hc, hf, hv, hne])]

theorem exec_vfEnableClear (hc : s.dev.cfgOk f = true) (hf : f < 256) :
    exec (.vfEnableClear f) s = .next (s.did (s.dev.dropVfs f HOST_FN_STATE.FLR_EV false).hostRstSync) := by
  show execVfEnableClear f s = _
  rw [execVfEnableClear, hs.manage, if_pos (by simp [hc, hf])]

theorem exec_vfEnableSet (hc : s.dev.cfgOk f = true) (hf : f < 256) (hv : (s.dev.fn f).vfEnable = false) :
    exec (.vfEnableSet f) s = .next (s.did
      (let n := (s.dev.fn f).numVfs
       let d := (s.dev.vfsOn f).setFld HOST_FN_STATE.NUM_VFS (min n ((s.dev.vfsOn f).fld HOST_PF_PLAN.TOTAL_VFS [f])) [f]
       ((d.vfsOf f n).foldl (fun d g => d.setFld HOST_FN_STATE.ENABLED 1 [g]) d).fnEvent HOST_FN_STATE.VF_EV f)) := by
  show execVfEnableSet f s = _
  rw [execVfEnableSet, hs.manage, if_pos (by simp [hc, hf, hv])]
  rfl

end

/-! ### Bus Master Enable -/

theorem Dev.resumeNow_other (d : Dev) {g : Nat} (h : (d.sq g).resumeAt ≠ some d.now) : d.resumeNow g = d := by
  unfold Dev.resumeNow
  rw [if_neg (by simp [h])]

theorem Dev.resumeNow_due (d : Dev) {g : Nat} (h4 : (d.sq g).state = 4) (h : (d.sq g).resumeAt = some d.now) :
    d.resumeNow g = d.restartResume g := by
  unfold Dev.resumeNow
  rw [if_pos (by simp [h4, h])]

/-- Steps each of which leaves the state. -/
theorem foldl_id {α β : Type} (f : β → α → β) (l : List α) (b : β) (h : ∀ a ∈ l, f b a = b) : l.foldl f b = b := by
  induction l with
  | nil => rfl
  | cons a t ih =>
    rw [List.foldl_cons, h a List.mem_cons_self]
    exact ih fun x hx => h x (List.mem_cons_of_mem _ hx)

theorem Dev.sqBinds_setBme (d : Dev) (v : Nat) {f : Nat} (hf : f < 4352) : (d.setBme v f).sqBinds = d.sqBinds :=
  (Dev.sqBinds_fnEvent _ _ rfl hf).trans (d.sqBinds_setFnState _ v rfl hf)
theorem Dev.sq_setBme (d : Dev) (v f g : Nat) : (d.setBme v f).sq g = d.sq g := by
  simp only [Dev.sq, Dev.setBme, Dev.ring_fnEvent, Dev.ring_setFld]
theorem Dev.now_setBme (d : Dev) (v f : Nat) : (d.setBme v f).now = d.now := by
  simp only [Dev.now, Dev.setBme, Dev.clk_fnEvent, Dev.clk_setFld]
theorem Dev.dstate_setBme (d : Dev) (v f : Nat) :
    (d.setBme v f).fld HOST_FN_STATE.DSTATE [f] = d.fld HOST_FN_STATE.DSTATE [f] :=
  (Dev.fld_fnEvent_beside _ _ _ _ rfl rfl (by decide) (by decide)).trans
    (d.fld_setFld_beside HOST_FN_STATE.DSTATE HOST_FN_STATE.BME v [f] rfl (by decide) (by decide))

/-- Bus Master Enable restarts no ring but one whose RESUME was written at that moment (R285, R286). -/
theorem Dev.setBme_resumes_none (d : Dev) {f : Nat} (hf : f < 4352)
    (h : ∀ g, d.sqFunc g = f → (d.sq g).resumeAt ≠ some d.now) :
    ((d.setBme 1 f).sqsWhere fun g => (d.setBme 1 f).sqFunc g = f).foldl Dev.resumeNow (d.setBme 1 f) = d.setBme 1 f := by
  rw [Dev.sqsWhere_func_congr (d.sqBinds_setBme 1 hf)]
  refine foldl_id _ _ _ fun g hg => Dev.resumeNow_other _ ?_
  rw [d.sq_setBme, d.now_setBme]
  exact h g (Dev.sqFunc_of_mem hg)

theorem Dev.setBme_resumes_one (d : Dev) {f g : Nat} (hf : f < 4352) (hg : (d.sqsWhere fun g => d.sqFunc g = f) = [g])
    (h4 : (d.sq g).state = 4) (h : (d.sq g).resumeAt = some d.now) :
    ((d.setBme 1 f).sqsWhere fun g => (d.setBme 1 f).sqFunc g = f).foldl Dev.resumeNow (d.setBme 1 f) =
      (d.setBme 1 f).restartResume g := by
  rw [Dev.sqsWhere_func_congr (d.sqBinds_setBme 1 hf), hg, List.foldl_cons, List.foldl_nil]
  exact Dev.resumeNow_due _ ((congrArg Sq.state (d.sq_setBme 1 f g)).trans h4)
    (by rw [d.sq_setBme, d.now_setBme]; exact h)

/-- A change of a function's state leaves the bindings of rings and the writes that wait, so that an idle function loses nothing
as it falls silent. -/
theorem Dev.quiesce_same {d e : Dev} (hb : e.sqBinds = d.sqBinds) (hp : e.posted = d.posted) (f : Nat)
    (hw : ∀ w ∈ d.posted, w.toHost = true → w.unit ≠ f) (hq : (d.sqsWhere fun g => d.sqFunc g = f) = []) : e.quiesce f = e :=
  e.quiesce_idle f (hp ▸ hw) ((Dev.sqsWhere_func_congr hb f).trans hq)

theorem Dev.quiesce_setBme (d : Dev) {f : Nat} (hf : f < 4352) (hw : ∀ w ∈ d.posted, w.toHost = true → w.unit ≠ f)
    (hq : (d.sqsWhere fun g => d.sqFunc g = f) = []) : (d.setBme 0 f).quiesce f = d.setBme 0 f :=
  Dev.quiesce_same (d.sqBinds_setBme 0 hf) (Dev.posted_fnEvent _ _ _) f hw hq

theorem Dev.quiesce_hotOn (d : Dev) {f : Nat} (hf : f < 4352) (hw : ∀ w ∈ d.posted, w.toHost = true → w.unit ≠ f)
    (hq : (d.sqsWhere fun g => d.sqFunc g = f) = []) : (d.hotOn f).quiesce f = d.hotOn f :=
  Dev.quiesce_same ((Dev.sqBinds_fnEvent _ _ rfl hf).trans ((Dev.sqBinds_setFnState _ _ 1 rfl hf).trans
    (d.sqBinds_setFnState _ 3 rfl hf))) (Dev.posted_fnEvent _ _ _) f hw hq

/-! ### Virtual functions -/

/-- NumVFs 1 of a PF that has VFs: its first comes into being. -/
theorem Dev.vfsOf_one (d : Dev) {p : Nat} (h : 1 ≤ d.fld HOST_PF_PLAN.TOTAL_VFS [p]) :
    d.vfsOf p 1 = [256 + d.fld HOST_PF_PLAN.FIRST_VF [p]] := by
  unfold Dev.vfsOf
  rw [Nat.min_eq_left h]
  rfl

theorem Dev.vfsOf_congr {d e : Dev} {p : Nat} (h : e.reg .HOST_PF_PLAN [p] = d.reg .HOST_PF_PLAN [p]) (n : Nat) :
    e.vfsOf p n = d.vfsOf p n := by
  have fld (fl : Fld) (hr : fl.reg = .HOST_PF_PLAN) : e.fld fl [p] = d.fld fl [p] := by
    unfold Dev.fld; rw [hr, h]
  unfold Dev.vfsOf
  rw [fld _ rfl, fld _ rfl]

/-- A function's state lies apart from the plan of PFs. -/
theorem fnState_ne_plan {p f : Nat} (h : p < 256) : RegName.HOST_PF_PLAN.key [p] ≠ RegName.HOST_FN_STATE.key [f] := by
  rw [key_HOST_PF_PLAN, key_HOST_FN_STATE]; omega

/-- The first VF of a PF, once NUM_VFS of the PF is stored. -/
theorem Dev.vfsOf_numVfs (d : Dev) {p : Nat} (n : Nat) (hp : p < 256) (h : 1 ≤ d.fld HOST_PF_PLAN.TOTAL_VFS [p]) :
    (d.setFld HOST_FN_STATE.NUM_VFS n [p]).vfsOf p 1 = [256 + d.fld HOST_PF_PLAN.FIRST_VF [p]] :=
  (Dev.vfsOf_congr (d.reg_setFld_ne _ _ _ _ _ (fnState_ne_plan hp)) 1).trans (d.vfsOf_one h)

/-- VF Enable clears while one VF exists: that one ceases to exist (R257, R278). -/
theorem Dev.dropVfs_one (d : Dev) {p v : Nat} (ev : Fld) (sticky : Bool) (hv : (d.fn p).vfEnable = true)
    (hone : d.vfsOf p (d.fld HOST_FN_STATE.NUM_VFS [p]) = [v]) (he : d.fnExists v = true) : d.dropVfs p ev sticky =
      (((((d.modFn p fun n => { n with vfEnable := false }).setFld HOST_FN_STATE.NUM_VFS 0 [p]).fnEvent HOST_FN_STATE.VF_EV p).resetStart
        v ev sticky).setFld HOST_FN_STATE.ENABLED 0 [v]) := by
  unfold Dev.dropVfs
  rw [hv, if_neg (by decide), hone, List.filter_cons_of_pos he, List.filter_nil]
  rfl

/-! ### Configuration fields -/

/-- A command that a test stands before, where the test passes. -/
theorem State.Awake.manage_passed {s : State} (hs : s.Awake) {p : Dev → Bool} {g : Mem → Dev → Dev} (h : p s.dev = true) :
    s.manage (fun m d => if !p d then d else g m d) = .next (s.did (g s.mem s.dev)) := by
  rw [hs.manage, if_neg (by simp [h])]

section
variable {s : State} (hs : s.Awake) {f n : Nat} (hc : s.dev.cfgOk f = true)
include hs hc

/-- Fields that every function has, in the order of their codes. -/
theorem exec_configFn :
    exec (.hostConfigWrite f 0 n) s = .next (s.did (s.dev.setFld HOST_FN_STATE.MSE n [f])) ∧
      exec (.hostConfigWrite f 1 n) s = .next (s.did (s.dev.modFn f fun x => { x with atsEn := n.testBit 0 })) ∧
      exec (.hostConfigWrite f 3 n) s = .next (s.did (s.dev.modFn f fun x => { x with cplTo := n % 16 })) ∧
      exec (.hostConfigWrite f 5 n) s = .next (s.did (if n.testBit 0 then s.dev.modFn f fun x => { x with pmeStatus := false }
        else s.dev)) ∧
      exec (.hostConfigWrite f 8 n) s = .next (s.did (s.dev.modFn f fun x => { x with stu := n % 32 })) ∧
      exec (.hostConfigWrite f 14 n) s = .next (s.did { s.dev with
        host := { s.dev.host with bus := tset 0 s.dev.host.bus (s.dev.linkOf f) (n % 256) } }) :=
  have ok : (fun d : Dev => d.cfgOk f) s.dev = true := hc
  ⟨hs.manage_passed ok, hs.manage_passed ok, hs.manage_passed ok, hs.manage_passed ok, hs.manage_passed ok, hs.manage_passed ok⟩

/-- Fields of PFs alone, but for AER. -/
theorem exec_configPf (hf : f < 256) :
    exec (.hostConfigWrite f 2 n) s = .next (s.did (s.dev.modFn f fun x => { x with pasidEn := n.testBit 0 })) ∧
      exec (.hostConfigWrite f 4 n) s = .next (s.did (s.dev.modFn f fun x => { x with pmeEn := n.testBit 0 })) :=
  have ok : (fun d : Dev => d.cfgOk f) s.dev = true := hc
  have pf (a b : Dev) : (.next (s.did (if f < 256 then a else b)) : Res) = .next (s.did a) := by rw [if_pos hf]
  ⟨(hs.manage_passed ok).trans (pf _ _), (hs.manage_passed ok).trans (pf _ _)⟩

/-- AER registers. -/
theorem exec_configAer (hf : f < 256) {k : Nat} (hk : k ∈ [9, 10, 11, 12, 13]) :
    exec (.hostConfigWrite f k n) s = .next (s.did (s.dev.modFn f fun x => x.aerWrite k n)) := by
  have ok : (fun d : Dev => d.cfgOk f) s.dev = true := hc
  have pf (a b : Dev) : (.next (s.did (if f < 256 then a else b)) : Res) = .next (s.did a) := by rw [if_pos hf]
  simp only [List.mem_cons, List.not_mem_nil, or_false] at hk
  rcases hk with rfl | rfl | rfl | rfl | rfl <;> exact (hs.manage_passed ok).trans (pf _ _)

end

/-- Settles O19: each command by its case; a reset's first step is what it does to the function's work, then to a migration, then
what closes the function; a change of the function's state leaves the bindings of rings. -/
theorem functionsResetAndChange : Obligations.FunctionsResetAndChange := by
  unfold Obligations.FunctionsResetAndChange
  intro s f n v hs hf _ d
  refine ⟨fun he hl hv hfresh => ?_, exec_flrSilenced hs, fun h3 => ⟨exec_flrComplete hs h3, fun hst =>
    ⟨d.fn_resetFinish hst, d.flrBusy_resetFinish f⟩⟩, fun hc => ⟨fun h0 => ⟨fun hnone => ?_, fun g hg h4 hnow hd0 => ?_⟩,
    fun hw hq => ⟨fun h1 => ?_, fun hd0 => ?_⟩, exec_d0Return hs hc, fun hpf hv => ⟨exec_numvfsWrite hs hc hpf hv,
    fun h1 htotal => ?_⟩, fun hpf hv hone hexists => ?_, ?_⟩⟩
  · rw [exec_flr hs he hl, s.dev.dropVfs_none _ _ hv, s.dev.resetStart_eq, s.dev.nextGen_fresh hfresh]
    rfl
  · rw [exec_bmeSet hs hc h0, s.dev.setBme_resumes_none hf hnone, ite_self]
    rfl
  · rw [exec_bmeSet hs hc h0, s.dev.dstate_setBme, if_pos hd0, s.dev.setBme_resumes_one hf hg h4 hnow]
    rfl
  · rw [exec_bmeClear hs hc h1, s.dev.quiesce_setBme hf hw hq]
    rfl
  · rw [exec_d3hotEnter hs hc hd0, s.dev.quiesce_hotOn hf hw hq]
    rfl
  · rw [exec_vfEnableSet hs hc hpf hv, h1]
    dsimp only
    have total : 1 ≤ (s.dev.vfsOn f).fld HOST_PF_PLAN.TOTAL_VFS [f] := htotal
    rw [Nat.min_eq_left total, Dev.vfsOf_numVfs _ 1 hpf total]
    rfl
  · rw [exec_vfEnableClear hs hc hpf, s.dev.dropVfs_one _ _ hv hone hexists]
  · obtain ⟨mse, ats, cplTo, pmeStatus, stu, bus⟩ := exec_configFn hs (n := n) hc
    refine ⟨mse, ats, cplTo, exec_configPf hs hc, fun h => ?_, stu, bus, fun hpf hn => ?_⟩
    · rw [pmeStatus, if_pos h]
    · have aer {k : Nat} (hk : k ∈ [9, 10, 11, 12, 13]) := exec_configAer hs (n := n) hc hpf hk
      simp only [Fn.aerWrite, Nat.mod_eq_of_lt hn] at aer
      exact ⟨aer (k := 9) (by decide), aer (k := 10) (by decide), aer (k := 11) (by decide), aer (k := 12) (by decide),
        aer (k := 13) (by decide)⟩

end Sys2Proof.Machine
end

section
/-! PROOFS. The buffer table's window where FN_BUF_ATTR holds a bit of no field (R266, R267). -/

namespace Sys2Proof.Machine

/-- Function 1 is open to its host and has one buffer slot; bit 32 of its FN_BUF_ATTR, which no field holds, is 1. -/
def strayAttr : State := { dev := { regs := [(RegName.HOST_LINK_STATUS.key [0], HOST_LINK_STATUS.STATE.set 0 2),
  (RegName.HOST_FN_STATE.key [1], HOST_FN_STATE.MSE.set (HOST_FN_STATE.ENABLED.set 0 1) 1),
  (RegName.TENANT_TABLES.key [1], TENANT_TABLES.BUF_SLOTS.set 0 1), (RegName.FN_BUF_ATTR.key [1], 2 ^ 32)] } }

theorem strayAttr_live : strayAttr.Live := ⟨by decide, rfl⟩

theorem strayAttr_open : strayAttr.dev.barOk 1 = true ∧ strayAttr.dev.fld FN_BUF_SLOT.SLOT [1] < strayAttr.dev.bufSlots 1 := by
  decide

/-- The commit of 0 to entry 0 writes the fields alone, and leaves bit 32. -/
theorem strayAttr_commit :
    (strayAttr.dev.bufCommit 1 ⟨0x10001, 8, 0, 0⟩).reg .FN_BUF_ATTR [1] = 2 ^ 32 := by decide

theorem exec_bufAttrCommit {s : State} (hs : s.Live) {f : Nat} (hb : s.dev.barOk f = true) (size half : Nat) (value : Word) :
    exec (.bufAttrCommit f size half value) s = .next (s.did (s.dev.bufCommit f ⟨0x10000 + f, size, half, value⟩)) := by
  show execBufAttrCommit f size half value s = _
  rw [execBufAttrCommit, hs.run, if_pos hb]

/-- Refutes O20: a write of FN_BUF_ATTR writes its fields, which end at bit 31, and keeps the bits above, so that the register
does not read the value written where one of these is 1, as the statement's states allow. -/
theorem not_hostFaceAnswersTheHost : ¬ Obligations.HostFaceAnswersTheHost := by
  unfold Obligations.HostFaceAnswersTheHost
  intro h
  obtain ⟨buffers, -⟩ := h strayAttr 1 0 0 0 0 0 none 0 0 0 strayAttr_live
  obtain ⟨-, commit, -⟩ := buffers strayAttr_open.1 (by decide)
  obtain ⟨t, ht, hattr, -⟩ := commit (by decide)
  rw [exec_bufAttrCommit strayAttr_live strayAttr_open.1] at ht
  obtain rfl := Host.Outcome.next.inj ht
  have kept : (2 ^ 32 : Word) = 0 := strayAttr_commit.symm.trans hattr
  exact absurd kept (by decide)

end Sys2Proof.Machine
end

section
/-! PROOFS. Run control of rings, restarts, and the error log's acknowledgement (R305 to R309, R333 to R335). -/

namespace Sys2Proof.Machine

/-! ### Rings and drills that are set -/

@[simp] theorem Dev.sq_setSq_self (d : Dev) (g : Nat) (v : Sq) : (d.setSq g v).sq g = v := tget_tset_self _ _ _ _
@[simp] theorem Dev.sq_putDrill (d : Dev) (r : Nat) (v : Drill) (g : Nat) : (d.putDrill r v).sq g = d.sq g := rfl
@[simp] theorem Dev.drill_pushCpl (d : Dev) (c : HeldCpl) (r : Nat) : (d.pushCpl c).drill r = d.drill r := rfl

@[simp] theorem Dev.drill_putDrill_self (d : Dev) (r : Nat) (v : Drill) : (d.putDrill r v).drill r = v := by
  rw [Dev.drill, Dev.drill?, Dev.putDrill, tfind_tput_self, Option.getD_some]

/-- Of two settings of a ring the later stays. -/
theorem Dev.setSq_setSq (d : Dev) (g : Nat) {v : Sq} (w : Sq) (h : v ≠ sqInit) : (d.setSq g v).setSq g w = d.setSq g w := by
  simp only [Dev.setSq, tset_tset _ _ _ _ _ h]

theorem Dev.putDrill_putDrill (d : Dev) (r : Nat) (v w : Drill) : (d.putDrill r v).putDrill r w = d.putDrill r w := by
  simp only [Dev.putDrill, tput_tput]

/-- A drill that exists is changed in its record. -/
theorem Dev.modDrill_exists (d : Dev) {r : Nat} (h : d.drill? r ≠ none) (f : Drill → Drill) :
    d.modDrill r f = d.putDrill r (f (d.drill r)) := by
  obtain ⟨v, hv⟩ := Option.ne_none_iff_exists'.1 h
  simp only [Dev.modDrill, Dev.drill, hv, Option.getD_some]

theorem Sq.ne_init_of_state {q : Sq} (h : q.state ≠ 0) : q ≠ sqInit := fun e => h (congrArg Sq.state e)

/-! ### No fetch is owed -/

theorem Dev.kickFetch_idle (d : Dev) {g : Nat} (hn : d.sqNamed g = 0) (ho : (d.sq g).owed = false) : d.kickFetch g = d := by
  simp [Dev.kickFetch, hn, ho]

/-- With TAIL at HEAD a doorbell has named no entry. -/
theorem Dev.sqNamed_level (d : Dev) {g : Nat} (h : (d.sq g).tail = (d.sq g).head) : d.sqNamed g = 0 := by
  have hn : (d.sq g).head % d.sqSize g + d.sqSize g - (d.sq g).head % d.sqSize g = d.sqSize g := Nat.add_sub_cancel_left ..
  simp only [Dev.sqNamed, h, hn, Nat.mod_self, ite_self]

/-- A ring whose indices stay names the entries that it named. -/
theorem Dev.sqNamed_setSq (d : Dev) (g : Nat) {v : Sq} (ho : v.overtook = (d.sq g).overtook) (ht : v.tail = (d.sq g).tail)
    (hh : v.head = (d.sq g).head) : (d.setSq g v).sqNamed g = d.sqNamed g := by
  have hsize : (d.setSq g v).sqSize g = d.sqSize g := rfl
  simp only [Dev.sqNamed, Dev.sq_setSq_self, hsize, ho, ht, hh]

theorem Dev.sqNamed_congr {d e : Dev} {g : Nat} (hq : e.sq g = d.sq g) (hr : e.regs = d.regs) : e.sqNamed g = d.sqNamed g := by
  have hsize : e.sqSize g = d.sqSize g := by rw [Dev.sqSize, Dev.sqSize, Dev.fld_congr hr]
  simp only [Dev.sqNamed, hq, hsize]

/-! ### A write that changes nothing but RUN -/

/-- The value leaves every field of ring `g` but `run`. -/
def Dev.Keeps (d : Dev) (r : RegName) (run : Fld) (g : Nat) (v : Word) : Prop :=
  ∀ fd ∈ r.fields, fd.fld ≠ run → fd.acc = .rw → fd.fld.get v = d.fld fd.fld [g]

/-- The field may hold `n`, whatever its unit does. -/
def FieldDesc.Admits (fd : FieldDesc) (n : Nat) : Prop :=
  match fd.legal with | .any => True | .range lo hi => lo ≤ n ∧ n ≤ hi | .ruled => False

theorem FieldDesc.admits_any {fd : FieldDesc} (h : fd.legal = .any) (n : Nat) : fd.Admits n := by
  unfold FieldDesc.Admits
  rw [h]
  trivial

/-- From `d` to `e` the control register of ring `g` is stored with the bit of `v` in `run`, and its other fields kept. -/
structure Dev.RunSet (d : Dev) (r : RegName) (run : Fld) (g : Nat) (v : Word) (e : Dev) : Prop where
  stored : ∃ x, e = d.setReg r x [g]
  flag : e.flag run [g] = v.getLsbD run.lo
  kept : ∀ fd ∈ r.fields, fd.fld ≠ run → fd.acc = .rw → e.fld fd.fld [g] = d.fld fd.fld [g]

theorem Dev.RunSet.touch {d e : Dev} {r : RegName} {run : Fld} {g : Nat} {v : Word} (h : d.RunSet r run g v e) :
    d.Touch [.regs] [r.key [g]] e := by
  obtain ⟨x, rfl⟩ := h.stored
  exact d.touch_setReg r x [g]

theorem Dev.RunSet.ring {d e : Dev} {r : RegName} {run : Fld} {g : Nat} {v : Word} (h : d.RunSet r run g v e) :
    e.ring = d.ring := h.touch.same .rings (by decide)

/-- What a command answers that sets RUN, and gives the ring engine the state `x`. -/
theorem Dev.RunSet.answer {s : State} {e : Dev} {r : RegName} {run : Fld} {g : Nat} {v : Word} (h : s.dev.RunSet r run g v e)
    (hs : s.Idle) (x : RingSt) : let t := s.did { e with ring := x }
    t.dev.flag run [g] = v.getLsbD run.lo ∧ t.dev.ring = x ∧ Only [.rings, .regs] s t ∧ RegsBut [r.key [g]] s t := by
  have t := h.touch.seq (e.touchIn_ring x)
  exact ⟨h.flag, rfl, (t.mono (by decide) fun _ hk => hk).only hs, t.regsBut⟩

/-- A value that keeps legal settings is taken, whether the ring runs or not. -/
theorem Dev.Keeps.fine {d : Dev} {r : RegName} {run : Fld} {g : Nat} {v : Word} (h : d.Keeps r run g v)
    (hrun : ∀ fd ∈ r.fields, fd.fld = run → fd.stopOnly = false ∧ fd.legal = .any)
    (hl : ∀ fd ∈ r.fields, fd.Admits (d.fld fd.fld [g])) (m : Nat) (st : Bool) (ok : Fld → Word → Bool) :
    ∀ fd ∈ r.fields, fd.fine (d.reg r [g]) ((⟨m, 8, 0, v⟩ : Wr).over (d.reg r [g])) st ok := by
  intro fd hm ha
  rw [Wr.over_whole]
  by_cases hr : fd.fld = run
  · obtain ⟨hs, hany⟩ := hrun fd hm hr
    exact ⟨.inr (.inl hs), by rw [hany]⟩
  · have hk := h fd hm hr ha
    have hreg : d.fld fd.fld [g] = fd.fld.get (d.reg r [g]) := by rw [Dev.fld, (fieldsOk_mem r.fields_ok hm).1]
    refine ⟨.inl (hk.trans hreg), ?_⟩
    have hv := hl fd hm
    rw [← hk] at hv
    unfold FieldDesc.Admits at hv
    cases hlegal : fd.legal with
    | any => rfl
    | range lo hi => rw [hlegal] at hv; exact Bool.and_eq_true_iff.2 ⟨decide_eq_true hv.1, decide_eq_true hv.2⟩
    | ruled => rw [hlegal] at hv; exact hv.elim

/-- What such a write of 8 bytes does. -/
theorem Dev.Keeps.runSet {d : Dev} {r : RegName} {run : Fld} {g : Nat} {v : Word} (h : d.Keeps r run g v)
    (hrun : ∀ fd ∈ r.fields, fd.fld = run → fd.stopOnly = false ∧ fd.legal = .any)
    (hl : ∀ fd ∈ r.fields, fd.Admits (d.fld fd.fld [g])) (hm : ∀ fd ∈ r.fields, fd.fld.mask ≠ 0)
    (hr : ⟨run, .rw, false, .any⟩ ∈ r.fields) (hw : run.width = 1)
    (hc : r.key [g] ≠ RegName.FAULT_COALESCED.key []) (m : Nat) (st : Bool) :
    d.RunSet r run g v (d.regWrite r [g] ⟨m, 8, 0, v⟩ st) := by
  have fine := h.fine hrun hl m st fun _ _ => true
  have take (fd : FieldDesc) (hf : fd ∈ r.fields) (ha : fd.acc = .rw) :
      (d.regWrite r [g] ⟨m, 8, 0, v⟩ st).fld fd.fld [g] = fd.fld.get v := by
    rw [d.fld_regWrite _ _ _ _ _ (Wr.accepted_whole m 0 v r) hc fd hf]
    exact fd.takes_fine m 0 v _ _ _ ha (Wr.over_whole m 0 v _ ▸ fine fd hf) (hm fd hf) (fieldsOk_mem r.fields_ok hf).2
  refine ⟨d.regWrite_fine r [g] _ st _ (Wr.accepted_whole m 0 v r) fine, ?_,
    fun fd hf hne ha => (take fd hf ha).trans (h fd hf hne ha)⟩
  rw [Dev.flag, take _ hr rfl, Fld.get_bit run v hw]
  cases v.getLsbD run.lo <;> rfl

/-! ### Submission rings -/

/-- A register that binds no completion ring leaves what the rings of a function are. -/
theorem Dev.findCq_setReg (d : Dev) (r : RegName) (x : Word) (i : List Nat) (f n : Nat)
    (h : r.key i < RegName.RINGS_CQ_BIND.key [0] ∨ RegName.RINGS_CQ_BIND.key [65535] < r.key i) :
    (d.setReg r x i).findCq f n = d.findCq f n := by
  unfold Dev.findCq Dev.bound?
  dsimp only
  rw [show (d.setReg r x i).regs = tset (r.reset i) d.regs (r.key i) x from rfl, tset_find]
  intro y
  rcases h with below | above
  · rw [decide_eq_false (Nat.not_le.2 below)]
    rfl
  · rw [decide_eq_false (Nat.not_le.2 above), Bool.and_false]
    rfl

/-- A submission ring whose settings are legal. -/
structure Dev.SqLegal (d : Dev) (g : Nat) : Prop where
  size : 4 ≤ d.fld RINGS_SQ_CTL.LOG2SIZE [g] ∧ d.fld RINGS_SQ_CTL.LOG2SIZE [g] ≤ 16
  weight : 1 ≤ d.fld RINGS_SQ_CTL.WEIGHT [g]
  burst : 1 ≤ d.fld RINGS_SQ_CTL.BURST [g] ∧ d.fld RINGS_SQ_CTL.BURST [g] ≤ 64
  prefetch : d.fld RINGS_SQ_CTL.PREFETCH [g] ≤ 5

theorem sqCtl_ranges : ∀ fd ∈ RegName.RINGS_SQ_CTL.fields, fd.legal = .any ∨
    fd = ⟨RINGS_SQ_CTL.LOG2SIZE, .rw, true, .range 4 16⟩ ∨ fd = ⟨RINGS_SQ_CTL.WEIGHT, .rw, true, .range 1 255⟩ ∨
    fd = ⟨RINGS_SQ_CTL.BURST, .rw, true, .range 1 64⟩ ∨ fd = ⟨RINGS_SQ_CTL.PREFETCH, .rw, true, .range 0 5⟩ := by decide

theorem Dev.SqLegal.admits {d : Dev} {g : Nat} (h : d.SqLegal g) :
    ∀ fd ∈ RegName.RINGS_SQ_CTL.fields, fd.Admits (d.fld fd.fld [g]) := by
  intro fd hm
  rcases sqCtl_ranges fd hm with hany | rfl | rfl | rfl | rfl
  · exact FieldDesc.admits_any hany _
  · exact h.size
  · exact ⟨h.weight, Nat.le_of_lt_succ (bits_lt _ _ 8)⟩
  · exact h.burst
  · exact ⟨Nat.zero_le _, h.prefetch⟩

theorem sqCtl_key_ne_coalesced (g : Nat) : RegName.RINGS_SQ_CTL.key [g] ≠ RegName.FAULT_COALESCED.key [] := by
  have hc : RegName.FAULT_COALESCED.key [] < 0xc000000 := by decide
  rw [key_RINGS_SQ_CTL]
  omega

theorem Dev.Keeps.sqRunSet {d : Dev} {g : Nat} {v : Word} (h : d.Keeps .RINGS_SQ_CTL RINGS_SQ_CTL.RUN g v) (hl : d.SqLegal g)
    (m : Nat) (st : Bool) :
    d.RunSet .RINGS_SQ_CTL RINGS_SQ_CTL.RUN g v (d.regWrite .RINGS_SQ_CTL [g] ⟨m, 8, 0, v⟩ st) :=
  h.runSet (by decide) hl.admits (by decide) (by decide) rfl (sqCtl_key_ne_coalesced g) m st

section
variable {d e : Dev} {g : Nat} {v : Word} (h : d.RunSet .RINGS_SQ_CTL RINGS_SQ_CTL.RUN g v e)
include h

theorem Dev.RunSet.sq : e.sq g = d.sq g := by rw [Dev.sq, Dev.sq, h.ring]

theorem Dev.RunSet.setSq (w : Sq) : e.setSq g w = { e with ring := (d.setSq g w).ring } := by
  rw [Dev.setSq, Dev.setSq, h.ring]

theorem Dev.RunSet.sqLog2 : e.fld RINGS_SQ_CTL.LOG2SIZE [g] = d.fld RINGS_SQ_CTL.LOG2SIZE [g] :=
  h.kept ⟨_, .rw, true, .range 4 16⟩ (by decide) (by decide) rfl

theorem Dev.RunSet.sqCqNumber : e.fld RINGS_SQ_CTL.CQ [g] = d.fld RINGS_SQ_CTL.CQ [g] :=
  h.kept ⟨_, .rw, true, .any⟩ (by decide) (by decide) rfl

theorem Dev.RunSet.sqSize : e.sqSize g = d.sqSize g := by rw [Dev.sqSize, Dev.sqSize, h.sqLog2]

theorem Dev.RunSet.sqFunc (hg : g < 65536) : e.sqFunc g = d.sqFunc g :=
  h.touch.fld RINGS_SQ_BIND.FUNC [g] (by
    rw [List.mem_singleton, show RINGS_SQ_BIND.FUNC.reg = .RINGS_SQ_BIND from rfl, key_RINGS_SQ_BIND, key_RINGS_SQ_CTL]; omega)

theorem Dev.RunSet.sqCq (hg : g < 65536) : e.sqCq g = d.sqCq g := by
  have hf := h.sqFunc hg
  have hc := h.sqCqNumber
  obtain ⟨x, rfl⟩ := h.stored
  rw [Dev.sqCq, Dev.sqCq, hf, hc, Dev.findCq_setReg _ _ _ _ _ _ (.inl (by rw [key_RINGS_SQ_CTL, key_RINGS_CQ_BIND]; omega))]

theorem Dev.RunSet.sqUsable (hg : g < 65536) : e.sqUsable g = d.sqUsable g := by
  have hbound : e.sqBound g = d.sqBound g := h.touch.flag RINGS_SQ_BIND.VALID [g] (by
    rw [List.mem_singleton, show RINGS_SQ_BIND.VALID.reg = .RINGS_SQ_BIND from rfl, key_RINGS_SQ_BIND, key_RINGS_SQ_CTL]; omega)
  have hbase : e.sqBase g = d.sqBase g := congrArg BitVec.toNat (h.touch.reg .RINGS_SQ_BASE [g] (by
    rw [List.mem_singleton, key_RINGS_SQ_BASE, key_RINGS_SQ_CTL]; omega))
  rw [Dev.sqUsable, Dev.sqUsable, hbound, hbase, h.sqSize, h.sqCq hg]

/-- The function of the ring may issue requests as before: its state is in another register. -/
theorem Dev.RunSet.sqFnState (hg : g < 65536) (f : Fld) (hr : f.reg = .HOST_FN_STATE) :
    e.fld f [e.sqFunc g] = d.fld f [d.sqFunc g] := by
  have hn : d.sqFunc g < 8192 := bits_lt _ _ 13
  rw [h.sqFunc hg]
  exact h.touch.fld f _ (by rw [List.mem_singleton, hr, key_HOST_FN_STATE, key_RINGS_SQ_CTL]; omega)

end

/-- A write of 8 bytes that keeps the ring's settings starts or stops it (R305). -/
theorem Dev.sqCtlWrite_run (d : Dev) (g m : Nat) (v : Word)
    (h : d.RunSet .RINGS_SQ_CTL RINGS_SQ_CTL.RUN g v (d.regWrite .RINGS_SQ_CTL [g] ⟨m, 8, 0, v⟩ (d.sqStopped g))) :
    d.sqCtlWrite g ⟨m, 8, 0, v⟩ =
      if v.getLsbD 0 then (d.regWrite .RINGS_SQ_CTL [g] ⟨m, 8, 0, v⟩ (d.sqStopped g)).sqStart g
      else (d.regWrite .RINGS_SQ_CTL [g] ⟨m, 8, 0, v⟩ (d.sqStopped g)).sqStop g := by
  have hsize : _ = RINGS_SQ_CTL.LOG2SIZE.get (d.reg .RINGS_SQ_CTL [g]) := h.sqLog2
  have hcq : _ = RINGS_SQ_CTL.CQ.get (d.reg .RINGS_SQ_CTL [g]) := h.sqCqNumber
  have hrun : _ = v.getLsbD 0 := h.flag
  simp [Dev.sqCtlWrite, hsize, hcq, hrun]

/-- A usable ring that is stopped and whose function may issue requests runs (R305 to R307). -/
theorem Dev.sqStart_usable (d : Dev) {g : Nat} (h0 : (d.sq g).state = 0) (hu : d.sqUsable g = true)
    (hc : (d.sq g).changed = false) (hl : (d.sq g).tail = (d.sq g).head) (ho : (d.sq g).owed = false)
    (hb : d.flag HOST_FN_STATE.BME [d.sqFunc g] = true) (hd : d.fld HOST_FN_STATE.DSTATE [d.sqFunc g] = 0) :
    d.sqStart g = d.setSq g { d.sq g with state := 1 } := by
  have starts : d.sqStart g = (d.setSq g { d.sq g with state := 1 }).kickFetch g := by
    simp [Dev.sqStart, h0, hu, hc, hb, hd]
  exact starts.trans (Dev.kickFetch_idle _ (Dev.sqNamed_level _ (by rw [Dev.sq_setSq_self]; exact hl))
    (by rw [Dev.sq_setSq_self]; exact ho))

/-- A running ring stops once nothing is in flight (R305, R307). -/
theorem Dev.sqStop_running (d : Dev) {g : Nat} (h1 : (d.sq g).state = 1) :
    d.sqStop g = d.setSq g { d.sq g with state := if (d.sq g).dispatched = 0 then 0 else 2, cause := 0 } := by
  simp [Dev.sqStop, h1, stSuccess]

/-- RUN written 1 starts a usable ring that is stopped (R305 to R307). -/
theorem Dev.sqCtlWrite_starts (d : Dev) {g : Nat} (hg : g < 65536) (m : Nat) {v : Word} (hv : v.getLsbD 0 = true)
    (h : d.RunSet .RINGS_SQ_CTL RINGS_SQ_CTL.RUN g v (d.regWrite .RINGS_SQ_CTL [g] ⟨m, 8, 0, v⟩ (d.sqStopped g)))
    (h0 : (d.sq g).state = 0) (hu : d.sqUsable g = true) (hc : (d.sq g).changed = false) (hl : (d.sq g).tail = (d.sq g).head)
    (ho : (d.sq g).owed = false) (hb : d.flag HOST_FN_STATE.BME [d.sqFunc g] = true)
    (hd : d.fld HOST_FN_STATE.DSTATE [d.sqFunc g] = 0) :
    d.sqCtlWrite g ⟨m, 8, 0, v⟩ =
      (d.regWrite .RINGS_SQ_CTL [g] ⟨m, 8, 0, v⟩ (d.sqStopped g)).setSq g { d.sq g with state := 1 } := by
  have hsq := h.sq
  have hu' := (h.sqUsable hg).trans hu
  have hd' := (h.sqFnState hg HOST_FN_STATE.DSTATE rfl).trans hd
  have hb' := (congrArg (fun n => decide (n ≠ 0)) (h.sqFnState hg HOST_FN_STATE.BME rfl)).trans hb
  rw [d.sqCtlWrite_run g m v h, if_pos hv]
  rw [← hsq] at h0 hc hl ho ⊢
  exact Dev.sqStart_usable _ h0 hu' hc hl ho hb' hd'

/-- RUN written 0 stops a running ring, once nothing is in flight (R305, R307). -/
theorem Dev.sqCtlWrite_stops (d : Dev) (g m : Nat) {v : Word} (hv : v.getLsbD 0 = false)
    (h : d.RunSet .RINGS_SQ_CTL RINGS_SQ_CTL.RUN g v (d.regWrite .RINGS_SQ_CTL [g] ⟨m, 8, 0, v⟩ (d.sqStopped g)))
    (h1 : (d.sq g).state = 1) :
    d.sqCtlWrite g ⟨m, 8, 0, v⟩ = (d.regWrite .RINGS_SQ_CTL [g] ⟨m, 8, 0, v⟩ (d.sqStopped g)).setSq g
      { d.sq g with state := if (d.sq g).dispatched = 0 then 0 else 2, cause := 0 } := by
  have hsq := h.sq
  rw [d.sqCtlWrite_run g m v h, if_neg (Bool.eq_false_iff.1 hv)]
  rw [← hsq] at h1 ⊢
  exact Dev.sqStop_running _ h1

/-! ### Completion rings -/

/-- A completion ring whose settings are legal. -/
structure Dev.CqLegal (d : Dev) (g : Nat) : Prop where
  size : 4 ≤ d.fld RINGS_CQ_CTL.LOG2SIZE [g] ∧ d.fld RINGS_CQ_CTL.LOG2SIZE [g] ≤ 16
  vector : 1 ≤ d.fld RINGS_CQ_CTL.VECTOR [g] ∧ d.fld RINGS_CQ_CTL.VECTOR [g] ≤ 2047

theorem cqCtl_ranges : ∀ fd ∈ RegName.RINGS_CQ_CTL.fields, fd.legal = .any ∨
    fd = ⟨RINGS_CQ_CTL.LOG2SIZE, .rw, true, .range 4 16⟩ ∨ fd = ⟨RINGS_CQ_CTL.VECTOR, .rw, true, .range 1 2047⟩ := by decide

theorem Dev.CqLegal.admits {d : Dev} {g : Nat} (h : d.CqLegal g) :
    ∀ fd ∈ RegName.RINGS_CQ_CTL.fields, fd.Admits (d.fld fd.fld [g]) := by
  intro fd hm
  rcases cqCtl_ranges fd hm with hany | rfl | rfl
  · exact FieldDesc.admits_any hany _
  · exact h.size
  · exact h.vector

theorem Dev.Keeps.cqRunSet {d : Dev} {g : Nat} {v : Word} (h : d.Keeps .RINGS_CQ_CTL RINGS_CQ_CTL.RUN g v) (hl : d.CqLegal g)
    (m : Nat) (st : Bool) :
    d.RunSet .RINGS_CQ_CTL RINGS_CQ_CTL.RUN g v (d.regWrite .RINGS_CQ_CTL [g] ⟨m, 8, 0, v⟩ st) :=
  h.runSet (by decide) hl.admits (by decide) (by decide) rfl (by
    have hc : RegName.FAULT_COALESCED.key [] < 0xc000000 := by decide
    rw [key_RINGS_CQ_CTL]; omega) m st

section
variable {d e : Dev} {g : Nat} {v : Word} (h : d.RunSet .RINGS_CQ_CTL RINGS_CQ_CTL.RUN g v e)
include h

theorem Dev.RunSet.cq : e.cq g = d.cq g := by rw [Dev.cq, Dev.cq, h.ring]

theorem Dev.RunSet.setCq (w : Cq) : e.setCq g w = { e with ring := (d.setCq g w).ring } := by
  rw [Dev.setCq, Dev.setCq, h.ring]

theorem Dev.RunSet.cqLog2 : e.fld RINGS_CQ_CTL.LOG2SIZE [g] = d.fld RINGS_CQ_CTL.LOG2SIZE [g] :=
  h.kept ⟨_, .rw, true, .range 4 16⟩ (by decide) (by decide) rfl

theorem Dev.RunSet.cqUsable (hg : g < 65536) : e.cqUsable g = d.cqUsable g := by
  have hbind : e.reg .RINGS_CQ_BIND [g] = d.reg .RINGS_CQ_BIND [g] := h.touch.reg _ _ (by
    rw [List.mem_singleton, key_RINGS_CQ_BIND, key_RINGS_CQ_CTL]; omega)
  have hbase : e.cqBase g = d.cqBase g := congrArg BitVec.toNat (h.touch.reg .RINGS_CQ_BASE [g] (by
    rw [List.mem_singleton, key_RINGS_CQ_BASE, key_RINGS_CQ_CTL]; omega))
  have hvalid : e.flag RINGS_CQ_BIND.VALID [g] = d.flag RINGS_CQ_BIND.VALID [g] :=
    congrArg (fun w => decide (RINGS_CQ_BIND.VALID.get w ≠ 0)) hbind
  have hfunc : e.cqFunc g = d.cqFunc g := congrArg RINGS_CQ_BIND.FUNC.get hbind
  have hvector : e.fld RINGS_CQ_CTL.VECTOR [g] = d.fld RINGS_CQ_CTL.VECTOR [g] :=
    h.kept ⟨_, .rw, true, .range 1 2047⟩ (by decide) (by decide) rfl
  rw [Dev.cqUsable, Dev.cqUsable, Dev.cqSize, Dev.cqSize, hvalid, hbase, h.cqLog2, hvector, hfunc]

end

/-- A write of 8 bytes with RUN 1 that keeps the settings of a usable ring starts it where it was (R309). -/
theorem Dev.cqCtlWrite_run (d : Dev) {g : Nat} (hg : g < 65536) (m : Nat) {v : Word} (hv : v.getLsbD 0 = true)
    (h : d.RunSet .RINGS_CQ_CTL RINGS_CQ_CTL.RUN g v (d.regWrite .RINGS_CQ_CTL [g] ⟨m, 8, 0, v⟩ (d.cqStopped g)))
    (h0 : (d.cq g).running = false) (hc : (d.cq g).changed = false) (hu : d.cqUsable g = true) :
    d.cqCtlWrite g ⟨m, 8, 0, v⟩ = (d.regWrite .RINGS_CQ_CTL [g] ⟨m, 8, 0, v⟩ (d.cqStopped g)).setCq g
      { d.cq g with config := false, running := true } := by
  have hsize : _ = RINGS_CQ_CTL.LOG2SIZE.get (d.reg .RINGS_CQ_CTL [g]) := h.cqLog2
  have hrun : _ = true := h.flag.trans hv
  simp [Dev.cqCtlWrite, hsize, hrun, h.cq, h0, hc, h.cqUsable hg, hu, Dev.modCq]

/-! ### Restarts -/

/-- A ring that runs again, with its rejected drills' completions on their way. -/
def Sq.restarted (q : Sq) : Sq :=
  { q with state := 1, held := [], rejects := [], head := if q.changed then 0 else q.head, tail := if q.changed then 0 else q.tail
           overtook := q.overtook && !q.changed, changed := false }

theorem Sq.restarted_unchanged {q : Sq} (hr : q.rejects = []) (hc : q.changed = false) :
    q.restarted = { q with state := 1, held := [] } := by
  simp [Sq.restarted, hr, hc]

/-- While RUN is 1, with no drill rejected and no fetch owed, a restart changes the ring alone (R334). -/
theorem Dev.sqRestarted_run (d : Dev) {g : Nat} (hrun : d.flag RINGS_SQ_CTL.RUN [g] = true) (hr : (d.sq g).rejects = [])
    (ho : (d.sq g).owed = false) (hn : (d.sq g).changed = false → d.sqNamed g = 0) :
    d.sqRestarted g = d.setSq g (d.sq g).restarted := by
  have named : (d.setSq g (d.sq g).restarted).sqNamed g = 0 := by
    cases hc : (d.sq g).changed with
    | false => rw [d.sqNamed_setSq g, hn hc] <;> simp [Sq.restarted, hc]
    | true => exact Dev.sqNamed_level _ (by simp [Sq.restarted, hc])
  have idle := Dev.kickFetch_idle _ named (by rw [Dev.sq_setSq_self]; exact ho)
  unfold Dev.sqRestarted
  simp only [hrun, hr, if_true, List.foldl_nil]
  exact idle

/-- SKIP of a failure of a drill's last entry: its completion goes on its way, and the drill has ended. -/
theorem Dev.restartSkip_last (d : Dev) {g : Nat} {h : HeldFail} (hh : (d.sq g).held = [h])
    (hl : (d.drill h.drill).count = h.entry + 1) (he : d.drill? h.drill ≠ none) :
    d.restartSkip g = ((d.pushCpl (d.cplOf h.drill h.entry h.out false)).putDrill h.drill
      { d.drill h.drill with phase := .ended }).sqRestarted g := by
  have hlast : ¬ h.entry + 1 < (d.drill h.drill).count := by omega
  have ended := Dev.modDrill_exists (d.pushCpl (d.cplOf h.drill h.entry h.out false)) he fun x => { x with phase := .ended }
  simp [Dev.restartSkip, hh, hlast, ended]

/-- RETRY of one failure: its drill waits first in its ring, to run from the failed entry on. -/
theorem Dev.restartRetry_one (d : Dev) {g : Nat} {h : HeldFail} (hh : (d.sq g).held = [h]) (he : d.drill? h.drill ≠ none)
    (hq : (d.drill h.drill).sq = g) :
    d.restartRetry g = ((d.putDrill h.drill { d.drill h.drill with
        done := tdel (d.drill h.drill).done h.entry, phase := .accepted, start := h.entry, next := h.entry
        resumed := true, retry := true }).setSq g { d.sq g with ready := h.drill :: (d.sq g).ready }).sqRestarted g := by
  have cleared := d.modDrill_exists he fun x => { x with done := tdel x.done h.entry }
  simp [Dev.restartRetry, hh, cleared, Dev.redispatch, Dev.putDrill_putDrill, Dev.modSq, hq]

theorem restartAction_resume (m : Nat) : restartAction ⟨m, 8, 0, 1⟩ = some 0 := by
  show restartAction ⟨0, 8, 0, 1⟩ = _
  decide

theorem restartAction_skip (m : Nat) : restartAction ⟨m, 8, 0, 3⟩ = some 1 := by
  show restartAction ⟨0, 8, 0, 3⟩ = _
  decide

theorem restartAction_retry (m : Nat) : restartAction ⟨m, 8, 0, 5⟩ = some 2 := by
  show restartAction ⟨0, 8, 0, 5⟩ = _
  decide

section
variable (d : Dev) {g : Nat} {w : Wr} (hw : w.accepted .RINGS_SQ_RESTART = true)
include hw

/-- A HALTED ring's RESUME is accepted while its function may issue requests. -/
theorem Dev.restartWrite_resume (ha : restartAction w = some 0) (h4 : (d.sq g).state = 4)
    (hf : d.fnMaster (d.sqFunc g) = true) : d.restartWrite g w = d.restartResume g := by
  simp only [Dev.fnMaster, Dev.fnLive, Bool.and_eq_true, decide_eq_true_eq] at hf
  obtain ⟨⟨⟨-, hd⟩, -⟩, hb⟩ := hf
  simp [Dev.restartWrite, hw, ha, h4, hb, hd]

theorem Dev.restartWrite_skip (ha : restartAction w = some 1) (h3 : (d.sq g).state = 3) :
    d.restartWrite g w = d.restartSkip g := by
  simp [Dev.restartWrite, hw, ha, h3]

theorem Dev.restartWrite_retry (ha : restartAction w = some 2) (h3 : (d.sq g).state = 3) :
    d.restartWrite g w = d.restartRetry g := by
  simp [Dev.restartWrite, hw, ha, h3]

end

/-- A ring that its restart has set goes on as it was set. -/
theorem Dev.sqRestarted_setSq (d : Dev) {g : Nat} {v : Sq} (hv : v.state ≠ 0) (hrun : d.flag RINGS_SQ_CTL.RUN [g] = true)
    (hr : v.rejects = []) (ho : v.owed = false) (hn : v.changed = false → (d.setSq g v).sqNamed g = 0) :
    (d.setSq g v).sqRestarted g = d.setSq g v.restarted := by
  have hsq := d.sq_setSq_self g v
  rw [Dev.sqRestarted_run (d.setSq g v) hrun (by rw [hsq]; exact hr) (by rw [hsq]; exact ho) (by rw [hsq]; exact hn), hsq,
    Dev.setSq_setSq _ _ _ (Sq.ne_init_of_state hv)]

/-- A ring with its withheld OWN marks written. -/
def Sq.resumed (q : Sq) : Sq := { q with ownDropped := [], resumeAt := none }

theorem Sq.resumed_unchanged {q : Sq} (hr : q.rejects = []) (hh : q.held = []) (hc : q.changed = false) :
    q.resumed.restarted = { q with state := 1, ownDropped := [], resumeAt := none } := by
  simp [Sq.resumed, Sq.restarted, hr, hh, hc]

theorem Sq.resumed_changed {q : Sq} (ha : q.ownDropped = []) (hr : q.rejects = []) (hh : q.held = []) (hc : q.changed = true) :
    q.resumed.restarted = { q with state := 1, resumeAt := none, head := 0, tail := 0, overtook := false, changed := false } := by
  simp [Sq.resumed, Sq.restarted, ha, hr, hh, hc]

/-- RESUME writes the OWN marks withheld, and the ring goes on (R334). -/
theorem Dev.restartResume_run (d : Dev) {g : Nat} (h4 : (d.sq g).state = 4) {e : Dev}
    (he : e = (d.sq g).ownDropped.foldl (fun d a => d.hostWrite (d.sqFunc g) tagRing a none [0]) d)
    (hring : e.ring = d.ring) (hregs : e.regs = d.regs) (hrun : d.flag RINGS_SQ_CTL.RUN [g] = true)
    (hr : (d.sq g).rejects = []) (ho : (d.sq g).owed = false) (hn : (d.sq g).changed = false → d.sqNamed g = 0) :
    d.restartResume g = e.setSq g (d.sq g).resumed.restarted := by
  have hsq : e.sq g = d.sq g := by rw [Dev.sq, Dev.sq, hring]
  unfold Dev.restartResume
  rw [← he]
  show (e.setSq g (e.sq g).resumed).sqRestarted g = _
  rw [hsq]
  refine Dev.sqRestarted_setSq e (by rw [Sq.resumed, h4]; decide) ((Dev.flag_congr hregs _ _).trans hrun) hr ho fun hc => ?_
  have index := Dev.sqNamed_setSq e g (v := (d.sq g).resumed) (by rw [hsq]; rfl) (by rw [hsq]; rfl) (by rw [hsq]; rfl)
  exact index.trans ((Dev.sqNamed_congr hsq hregs).trans (hn hc))

/-- A function that may issue requests posts its write. -/
theorem Dev.hostWrite_master (d : Dev) {f : Nat} (hf : d.fnMaster f = true) (m a : Nat) (b : List Byte) :
    d.hostWrite f m a none b = { d.translate f a b.length none with
      posted := d.posted ++ [{ master := m, toHost := true, unit := f, addr := a, pasid := none, rid := d.routingId f
                               xlated := (d.fn f).atsEn, data := b }] } := by
  have hposted : (d.translate f a b.length none).posted = d.posted := (d.touch_translate _ _ _ _).same .posted (by decide)
  rw [Dev.hostWrite, hf, Dev.postHost, Dev.postWrite, hposted]
  rfl

/-- That write leaves the rings and the registers. -/
theorem Dev.hostWrite_master_same (d : Dev) {f : Nat} (hf : d.fnMaster f = true) (m a : Nat) (b : List Byte) :
    (d.hostWrite f m a none b).ring = d.ring ∧ (d.hostWrite f m a none b).regs = d.regs := by
  have t := d.touch_translate f a b.length none
  rw [d.hostWrite_master hf]
  exact ⟨t.same .rings (by decide), t.same .regs (by decide)⟩

/-! ### The error log -/

/-- An acknowledgement between the last one and HEAD is taken (R333). -/
theorem Dev.errlogAckWrite_between (d : Dev) (f m : Nat) {v : Word} (hl : d.reg .RINGS_ERRLOG_ACK [f] ≤ v)
    (hh : v ≤ d.reg .RINGS_ERRLOG_HEAD [f]) :
    d.errlogAckWrite f ⟨m, 8, 0, v⟩ = d.setReg .RINGS_ERRLOG_ACK v [f] := by
  have hmin : min v.toNat (d.reg .RINGS_ERRLOG_HEAD [f]).toNat = v.toNat := Nat.min_eq_left hh
  have hle : (d.reg .RINGS_ERRLOG_ACK [f]).toNat ≤ v.toNat := hl
  simp [Dev.errlogAckWrite, hmin, hle]

/-! ### What each command of a ring's control answers -/

section
variable {s : State} (hs : s.Live)
include hs

theorem exec_sqRun {master g : Nat} {value : Word} (hv : value.getLsbD 0 = true) :
    exec (.sqRun master g 8 0 value) s = .next (s.did (s.dev.sqCtlWrite g ⟨master, 8, 0, value⟩)) := by
  show execSqRun master g 8 0 value s = _
  rw [execSqRun, hs.run]
  exact congrArg (fun d => Host.Outcome.next (s.did d)) (if_pos hv)

theorem exec_sqStop {master g : Nat} {value : Word} (hv : value.getLsbD 0 = false) :
    exec (.sqStop master g 8 0 value) s = .next (s.did (s.dev.sqCtlWrite g ⟨master, 8, 0, value⟩)) := by
  show execSqStop master g 8 0 value s = _
  rw [execSqStop, hs.run]
  exact congrArg (fun d => Host.Outcome.next (s.did d)) (if_neg (Bool.eq_false_iff.1 hv))

theorem exec_cqRun {master g : Nat} {value : Word} (hv : value.getLsbD 0 = true) :
    exec (.cqRun master g 8 0 value) s = .next (s.did (s.dev.cqCtlWrite g ⟨master, 8, 0, value⟩)) := by
  show execCqRun master g 8 0 value s = _
  rw [execCqRun, hs.run]
  exact congrArg (fun d => Host.Outcome.next (s.did d)) (if_pos hv)

theorem exec_restartSkip (master : Nat) {g : Nat} (h3 : (s.dev.sq g).state = 3) :
    exec (.restartSkip master g 8) s = .next (s.did (s.dev.restartSkip g)) := by
  show execRestartSkip master g 8 s = _
  rw [execRestartSkip, hs.run, Dev.restartWrite_skip _ rfl (restartAction_skip master) h3]

theorem exec_restartRetry (master : Nat) {g : Nat} (h3 : (s.dev.sq g).state = 3) :
    exec (.restartRetry master g 8) s = .next (s.did (s.dev.restartRetry g)) := by
  show execRestartRetry master g 8 s = _
  rw [execRestartRetry, hs.run, Dev.restartWrite_retry _ rfl (restartAction_retry master) h3]

theorem exec_restartResume (master : Nat) {g : Nat} (h4 : (s.dev.sq g).state = 4)
    (hf : s.dev.fnMaster (s.dev.sqFunc g) = true) :
    exec (.restartResume master g 8) s = .next (s.did (s.dev.restartResume g)) := by
  show execRestartResume master g 8 s = _
  rw [execRestartResume, hs.run, Dev.restartWrite_resume _ rfl (restartAction_resume master) h4 hf]

theorem exec_errlogAckWrite {f : Nat} (hb : s.dev.barOk f = true) (value : Word) :
    exec (.errlogAckWrite f 8 0 value) s = .next (s.did (s.dev.errlogAckWrite f ⟨0x10000 + f, 8, 0, value⟩)) := by
  show execErrlogAckWrite f 8 0 value s = _
  rw [execErrlogAckWrite, hs.run, if_pos hb]

end

/-- Settles O16: run control by the one field that the write changes, a restart by what its action does before the ring goes
on. -/
theorem ringControls : Obligations.RingControls := by
  unfold Obligations.RingControls
  intro s master f g value hs hg d q keeps
  refine ⟨fun hk hsize0 hsize1 hweight hburst0 hburst1 hprefetch => ?_, fun hk hsize0 hsize1 hvector0 hvector1 hv h0 hc hu => ?_,
    fun hrun hr hn ho hc => ⟨fun h h3 hh hl he => ⟨?_, fun hq => ?_⟩, fun a h4 ha hh hf => ?_⟩,
    fun hrun h4 ha hr hh hc ho hf => ?_, fun hb hl hh => ?_⟩
  · have run := Dev.Keeps.sqRunSet hk ⟨⟨hsize0, hsize1⟩, hweight, ⟨hburst0, hburst1⟩, hprefetch⟩ master (s.dev.sqStopped g)
    refine ⟨fun hv h0 hu hc _ hlevel ho _ hbme hdstate => ⟨_, exec_sqRun hs hv, ?_⟩, fun hv h1 => ⟨_, exec_sqStop hs hv, ?_⟩⟩
    · rw [Dev.sqCtlWrite_starts _ hg master hv run h0 hu hc hlevel ho hbme hdstate, run.setSq]
      exact (run.answer hs.2 _).imp_left (·.trans hv)
    · rw [Dev.sqCtlWrite_stops _ g master hv run h1, run.setSq]
      exact (run.answer hs.2 _).imp_left (·.trans hv)
  · have run := Dev.Keeps.cqRunSet hk ⟨⟨hsize0, hsize1⟩, hvector0, hvector1⟩ master (s.dev.cqStopped g)
    refine ⟨_, exec_cqRun hs hv, ?_⟩
    rw [Dev.cqCtlWrite_run _ hg master hv run h0 hc hu, run.setCq]
    exact (run.answer hs.2 _).imp_left (·.trans hv)
  · rw [exec_restartSkip hs master h3, Dev.restartSkip_last _ hh hl he]
    refine congrArg (fun d => Host.Outcome.next (s.did d)) (Eq.trans (Dev.sqRestarted_run _ hrun hr ho fun _ => hn) ?_)
    exact congrArg (Dev.setSq _ g) (Sq.restarted_unchanged hr hc)
  · rw [exec_restartRetry hs master h3, Dev.restartRetry_one _ hh he hq]
    refine congrArg (fun d => Host.Outcome.next (s.did d))
      (Eq.trans (Dev.sqRestarted_setSq _ (h3 ▸ by decide : q.state ≠ 0) hrun hr ho fun _ => ?_) ?_)
    · exact Eq.trans (Dev.sqNamed_setSq _ g rfl rfl rfl) hn
    · exact congrArg (Dev.setSq _ g) (Sq.restarted_unchanged hr hc)
  · obtain ⟨hring, hregs⟩ := s.dev.hostWrite_master_same hf tagRing a [0]
    rw [exec_restartResume hs master h4 hf, Dev.restartResume_run _ h4 (by rw [ha]; rfl) hring hregs hrun hr ho fun _ => hn,
      s.dev.hostWrite_master hf]
    exact congrArg (fun v => Host.Outcome.next (s.did (Dev.setSq _ g v))) (Sq.resumed_unchanged hr hh hc)
  · rw [exec_restartResume hs master h4 hf, Dev.restartResume_run _ h4 (by rw [ha]; rfl) rfl rfl hrun hr ho
      fun h => absurd (hc.symm.trans h) (by decide)]
    exact congrArg (fun v => Host.Outcome.next (s.did (Dev.setSq _ g v))) (Sq.resumed_changed ha hr hh hc)
  · rw [exec_errlogAckWrite hs hb, Dev.errlogAckWrite_between _ _ _ hl hh]

end Sys2Proof.Machine
end

section
/-! PROOFS. Fold units: commands taken and refused, accumulators, chained sources, tallies, reconstruction, failure (R445 to
R467, R503). -/

namespace Sys2Proof.Machine

/-! ### The command at the front of a unit's queue -/

/-- Unit `u` of plot `p` works and holds no command, and `x`, which is not stale, is the first that waits. -/
structure State.FoldFront (s : State) (p u : Nat) (x : Msg) : Prop where
  live : s.Live
  plot : p < 4
  unit : u < 4
  works : s.dev.flag FOLD_STATUS.FAILED [p, u] = false
  free : (s.dev.foldU p u).job = none
  first : ∃ rest, s.dev.queue (epKey 0x4 (4 * p + u)) = x :: rest
  fresh : s.dev.stale x.workid = false

/-- The command is of operation `op`, and its operands pass their test. -/
structure State.FoldTakes (s : State) (p u op : Nat) (x : Msg) : Prop extends s.FoldFront p u x where
  code : leAt x.bytes 0 1 = op
  known : op ∈ foldOps
  test : (s.dev.pop (epKey 0x4 (4 * p + u))).foldTest x.bytes = 0

/-- The device as the body of a command sees it: the command is removed, and the blocks it reads are noted. -/
def Dev.foldTaken (d : Dev) (p u : Nat) (x : Msg) : Dev :=
  (d.pop (epKey 0x4 (4 * p + u))).noteReads (tagFold p u) (foldReads x.bytes)

theorem exec_did {c : Instr} {s : State} {y z : Dev} (h : exec c s = .next (s.did y)) (hz : y = z) :
    exec c s = .next (s.did z) := hz ▸ h

section
variable {s : State} {p u op : Nat} {x : Msg}

theorem State.FoldFront.takeCmd (h : s.FoldFront p u x) (hop : leAt x.bytes 0 1 = op) (hk : op ∈ foldOps) :
    s.dev.takeCmd (epKey 0x4 (4 * p + u)) foldOps op = .cmd x := by
  obtain ⟨rest, hq⟩ := h.first
  simp [Dev.takeCmd, hq, h.fresh, hop, hk]

/-- A command of the operation that is run is removed, and runs if its operands pass their test. -/
theorem State.FoldFront.foldRun (h : s.FoldFront p u x) (hop : leAt x.bytes 0 1 = op) (hk : op ∈ foldOps)
    (body : Dev → Msg → List Byte → Dev) : s.dev.foldRun p u op body =
      let e := s.dev.pop (epKey 0x4 (4 * p + u))
      if e.foldTest x.bytes = 0 then body (s.dev.foldTaken p u x) x x.bytes
      else e.foldFail p u x (e.foldTest x.bytes) none := by
  have hrun : ¬ ((s.dev.foldU p u).job.isSome || s.dev.flag FOLD_STATUS.FAILED [p, u] || s.dev.flt.safe || 4 ≤ p ||
      4 ≤ u : Bool) = true := by
    simp [h.free, h.works, Dev.safe_of_live h.live.1, h.plot, h.unit]
  refine (if_neg hrun).trans ?_
  rw [h.takeCmd hop hk]
  rfl

theorem State.FoldFront.refuses (h : s.FoldFront p u x) (hop : leAt x.bytes 0 1 = op) (hk : op ∈ foldOps)
    (ht : (s.dev.pop (epKey 0x4 (4 * p + u))).foldTest x.bytes ≠ 0) {c : Instr}
    {body : Mem → Dev → Msg → List Byte → Dev} (hc : exec c s = s.run fun m d => d.foldRun p u op (body m)) :
    exec c s = .next (s.did ((s.dev.pop (epKey 0x4 (4 * p + u))).foldFail p u x
      ((s.dev.pop (epKey 0x4 (4 * p + u))).foldTest x.bytes) none)) :=
  exec_did (hc.trans (h.live.run _)) ((h.foldRun hop hk _).trans (if_neg ht))

/-- What the instruction of a command that is taken answers: the state that its body gives. -/
theorem State.FoldTakes.answers (h : s.FoldTakes p u op x) {c : Instr} {y : Dev}
    {body : Mem → Dev → Msg → List Byte → Dev} (hc : exec c s = s.run fun m d => d.foldRun p u op (body m))
    (hy : body s.mem (s.dev.foldTaken p u x) x x.bytes = y) :
    exec c s = .next (s.did y) :=
  exec_did (hc.trans (h.live.run _)) ((h.toFoldFront.foldRun h.code h.known _).trans ((if_pos h.test).trans hy))

end

/-! ### Memory that a unit notes reads as before -/

theorem Dev.pad_blame (d : Dev) (c w a k b : Nat) : (d.blame c w a k).pad b = d.pad b := by
  unfold Dev.pad
  rw [Dev.pads_blame]

theorem Dev.ld_blame (d : Dev) (m : Mem) (c w a k b : Nat) : (d.blame c w a k).ld m b = d.ld m b := by
  unfold Dev.ld Dev.absent
  rw [Dev.part_blame, Dev.wlog_blame, Dev.pad_blame]

@[simp] theorem Dev.ldBytes_noteAbsent (d : Dev) (m : Mem) (tag a n b k : Nat) :
    (d.noteAbsent tag a n).ldBytes m b k = d.ldBytes m b k := by
  unfold Dev.noteAbsent
  split
  · simp only [Dev.ldBytes, Dev.ld_blame]
  · rfl

@[simp] theorem Dev.ldBytes_noteReads (d : Dev) (m : Mem) (tag b k : Nat) (l : List (Nat × Nat)) :
    (d.noteReads tag l).ldBytes m b k = d.ldBytes m b k := by
  unfold Dev.noteReads
  induction l generalizing d with
  | nil => rfl
  | cons e l ih => rw [List.foldl_cons, ih, Dev.ldBytes_noteAbsent]

/-! ### Sources, read at once or unit by unit -/

section
variable {d : Dev} {ctl : CtlPut} {m : Mem} {p u src : Nat} {x : Msg} {data : List Byte}

theorem Dev.foldSource_plain {n : Nat} {claimed : Bool} (hflags : leAt x.bytes 1 1 = 0) (hp : d.poisoned src n = false)
    (hr : d.engRead m (tagFold p u) src n [] = (data, d)) :
    d.foldSource ctl m p u x claimed src n = d.foldFinish ctl m p u x data := by
  have hchain : bit (leAt x.bytes 1 1) 0 = false := by rw [hflags]; rfl
  simp [Dev.foldSource, hchain, hp, Dev.foldRead, hr]

theorem Dev.foldFinish_fold (h : leAt x.bytes 0 1 = 2) : d.foldFinish ctl m p u x data = d.foldGrain p u x data := by
  simp only [Dev.foldFinish, h]

theorem Dev.foldFinish_hash (h : leAt x.bytes 0 1 = 4) : d.foldFinish ctl m p u x data = d.foldHash p u x data := by
  simp only [Dev.foldFinish, h]

theorem Dev.foldFinish_verify (h : leAt x.bytes 0 1 = 7) :
    d.foldFinish ctl m p u x data = d.foldVerify ctl m p u x data := by
  simp only [Dev.foldFinish, h]

/-- The last unit of a chained source ends the reading. -/
theorem Dev.foldAbsorb_last {j : FoldJob} (hc : d.chainUnit p src (src + j.read.length) = .ready)
    (hp : d.poisoned (src + j.read.length) 4096 = false)
    (hr : d.engRead m (tagFold p u) (src + j.read.length) 4096 [] = (data, d)) :
    Dev.foldAbsorb ctl m p u src 1 j d = (d.chainFree p j.msg src).foldFinish ctl m p u j.msg (j.read ++ data) := by
  simp [Dev.foldAbsorb, hc, hp, Dev.foldRead, hr]

theorem Dev.foldAbsorb_failed {j : FoldJob} {r n : Nat} (hn : 0 < n) (hc : d.chainUnit p src (src + j.read.length) = .failed r) :
    Dev.foldAbsorb ctl m p u src n j d = (d.foldUnclaim p u j).foldFail p u j.msg r (d.foldR1 p u j.msg) := by
  obtain ⟨n, rfl⟩ := Nat.exists_eq_add_one.2 hn
  simp [Dev.foldAbsorb, hc]

/-- The grain of the command joins the accumulator that the unit holds. -/
theorem Dev.foldGrain_held {v : FoldAcc} (h : d.acc? p u (leAt x.bytes 8 8) = some v) :
    d.foldGrain p u x data =
      let done := v.done ||| 2 ^ leAt x.bytes 24 1
      ((((d.putAcc p u { v with done := done, grains := foldIn v.shape (leAt x.bytes 24 1) data v.grains }).scxMark p u
        (leAt x.bytes 8 8) 1 (foldName p u)).scxDone p u (leAt x.bytes 8 8) done).count .FOLD_BYTES [p, u] 65536).foldAnswer
          p u x 0 done 0 (hashH v.hash data) := by
  simp only [Dev.foldGrain, h, frOk, grainLen]

/-- What VERIFY tests of its grain: its digest is the one named, or a leaf of the tally named. -/
def Dev.verifies (d : Dev) (m : Mem) (x : Msg) (data : List Byte) : Bool :=
  let b := x.bytes
  let dig := hashH (leAt b 48 1) data
  let n := leAt b 40 8
  let i := leAt b 32 4
  let len := pathLen 40 i n
  decide (if n = 0 then dig = d.ldBytes m (leAt b 16 8) 32 else
    verifyPath (leAt b 48 1) dig i n (digestList len (d.ldBytes m (leAt b 16 8) (32 * len)))
      (d.ldBytes m (leAt b 24 8) 32) = true)

theorem Dev.foldVerify_eq : d.foldVerify ctl m p u x data =
    let dig := hashH (leAt x.bytes 48 1) data
    let y := d.count .FOLD_BYTES [p, u] 65536
    if d.verifies m x data = true then (y.releaseEntry ctl (leAt x.bytes 52 4)).foldAnswer p u x 0 1 0 dig
    else ((y.count .FOLD_MISMATCH [p, u]).discardEntry (leAt x.bytes 52 4) true).foldAnswer p u x 1 0 0 dig := by
  simp only [Dev.foldVerify, Dev.verifies, decide_eq_true_eq, frOk, frMismatch, grainLen]

end

/-! ### Tallies -/

section
variable {d : Dev} {m : Mem} {p u : Nat} {x : Msg}

theorem Dev.tallyStart_free (h : d.tsbFree p u (d.ld m (leAt x.bytes 8 8 + 9)).toNat = true) :
    d.tallyStart m p u x = d.tallyRun m p u x := if_pos h

theorem Dev.tallyStart_locked (h : d.tsbFree p u (d.ld m (leAt x.bytes 8 8 + 9)).toNat = false) :
    d.tallyStart m p u x = d.setFoldU p u { d.foldU p u with job := some { msg := x, lock := true } } :=
  if_neg (Bool.eq_false_iff.1 h)

/-- COUNT of the tally state block that the command names. -/
def Dev.tsbCount (d : Dev) (m : Mem) (x : Msg) : Nat := leAt (d.ldBytes m (leAt x.bytes 8 8) 1152) 0 8

/-- The tally state block that the command names is well formed. -/
def Dev.TsbFine (d : Dev) (m : Mem) (x : Msg) : Prop :=
  leAt (d.ldBytes m (leAt x.bytes 8 8) 1152) 8 1 < 2 ∧ d.tsbCount m x ≤ 2 ^ 32

/-- The lock of the block that the command names is free again. -/
def Dev.tsbFreed (d : Dev) (p u : Nat) (x : Msg) : Dev := d.engWrite (tagFold p u) (leAt x.bytes 8 8 + 9) [0]

theorem Dev.TsbFine.tallyRun (h : d.TsbFine m x) : d.tallyRun m p u x =
    let b := x.bytes
    let t := d.ldBytes m (leAt b 8 8) 1152
    let count := d.tsbCount m x
    let num := leAt b 28 4
    if leAt b 0 1 = 5 then
      if leAt b 24 4 ≠ count ∨ 2 ^ 32 < count + num then (d.tsbFreed p u x).foldFail p u x 5 (some count)
      else
        let t' := tsbAppend t (digestList num (d.ldBytes m (leAt b 16 8) (32 * num)))
        (((d.engWrite (tagFold p u) (leAt b 8 8 + 64) (slice t' 64 1056)).engWrite (tagFold p u) (leAt b 8 8)
          (slice t' 0 8)).tsbFreed p u x).foldAnswer p u x 0 (count + num) 0 (List.replicate 32 0)
    else if count = 0 then (d.tsbFreed p u x).foldFail p u x 6 (some 0)
    else (d.tsbFreed p u x).foldAnswer p u x 0 count 0 (tsbTally t) := by
  obtain ⟨hhash, hcount⟩ := h
  unfold Dev.tsbCount at hcount
  simp only [Dev.tallyRun, Dev.tsbCount, Dev.tsbFreed, Nat.not_le.2 hhash, Nat.not_lt.2 hcount, decide_false, Bool.or_self,
    Bool.false_eq_true, if_false, Bool.or_eq_true, decide_eq_true_eq, frOk, frOrder, frEmpty]
  rfl

end

/-! ### The commands -/

section
variable {s : State} {p u : Nat} {x : Msg} {data : List Byte}

/-- The 256 bytes of the sheaf context that the command names. -/
def Dev.scxBytes (d : Dev) (m : Mem) (x : Msg) : List Byte := d.ldBytes m (leAt x.bytes 8 8) 256

/-- What the command meets at its sheaf context. -/
def Dev.scxMeets (d : Dev) (m : Mem) (p u op : Nat) (x : Msg) : Nat :=
  d.scxTest p u op (leAt x.bytes 8 8) (d.scxBytes m x)

theorem State.FoldTakes.init_claims (t : s.FoldTakes p u 1 x) : let e := s.dev.foldTaken p u x
    let b := e.scxBytes s.mem x
    let a := leAt x.bytes 8 8
    e.scxMeets s.mem p u 1 x = 0 → e.acc? p u a = none → exec (.init p u) s = .next (s.did
      (((e.foldClaim p u a b 0 (List.replicate (leAt b 1 1 + leAt b 2 1) zeroGrain)).scxDone p u a 0).foldAnswer p u x 0 0 0
        (List.replicate 32 0))) := by
  intro e b a hok hn
  refine t.answers rfl ((if_neg (not_not_intro hok)).trans ?_)
  dsimp only
  rw [hn]
  rfl

/-- FOLD with the accumulator that the unit holds: a position that the sheaf lacks, one that is done, and one that is read. -/
theorem State.FoldTakes.fold_held (t : s.FoldTakes p u 2 x) {v : FoldAcc} : let e := s.dev.foldTaken p u x
    let pos := leAt x.bytes 24 1
    e.scxMeets s.mem p u 2 x = 0 → leAt (e.scxBytes s.mem x) 4 1 = 1 → e.acc? p u (leAt x.bytes 8 8) = some v →
      exec (.fold p u) s = .next (s.did
        (if v.k ≤ pos then e.foldFail p u x 8 (some v.done)
        else if bit v.done pos then e.foldFail p u x 2 (some v.done)
        else e.foldSource (ctlPut s.mem) s.mem p u x false (leAt x.bytes 16 8) 65536)) := by
  dsimp only [Dev.scxBytes]
  intro hok hst hv
  refine t.answers rfl ((if_neg (not_not_intro hok)).trans ?_)
  simp [Dev.foldLoad, hst, hv, frBadCmd, frDuplicate, grainLen]

/-- CLOSE of an accumulator that the unit holds. -/
theorem State.FoldTakes.close_held (t : s.FoldTakes p u 3 x) {v : FoldAcc} : let e := s.dev.foldTaken p u x
    let a := leAt x.bytes 8 8
    let tag := tagFold p u
    e.scxMeets s.mem p u 3 x = 0 → leAt (e.scxBytes s.mem x) 4 1 = 1 → e.acc? p u a = some v →
      e.inMemory (leAt x.bytes 16 8) (32 * (v.m + v.g)) = true → exec (.close p u) s = .next (s.did
        (let y := (v.pbuf.zip v.grains).foldl (fun y g => y.engWrite tag g.1 g.2) e
         let y := y.engWrite tag (leAt x.bytes 16 8) (v.grains.flatMap (hashH v.hash))
         let y := ((y.dropAcc p u a).scxMark p u a 3 0).count .FOLD_BYTES [p, u] (65536 * v.grains.length)
         (y.scxDone p u a v.done).foldAnswer p u x 0 v.done 0 (List.replicate 32 0))) := by
  dsimp only [Dev.scxBytes]
  intro hok hst hv hm
  refine t.answers rfl ((if_neg (not_not_intro hok)).trans ?_)
  simp [Dev.foldLoad, hst, hv, hm, frOk, grainLen]

theorem State.FoldTakes.hash_read (t : s.FoldTakes p u 4 x) : let e := s.dev.foldTaken p u x
    leAt x.bytes 1 1 = 0 → e.poisoned (leAt x.bytes 8 8) (leAt x.bytes 16 4) = false →
    e.engRead s.mem (tagFold p u) (leAt x.bytes 8 8) (leAt x.bytes 16 4) [] = (data, e) →
      exec (.hash p u) s = .next (s.did (e.foldHash p u x data)) := by
  intro e hflags hp hr
  exact t.answers rfl ((Dev.foldSource_plain hflags hp hr).trans (Dev.foldFinish_hash t.code))

/-- VERIFY with its grain read, by whether the grain verifies. -/
theorem State.FoldTakes.verify_read (t : s.FoldTakes p u 7 x) : let e := s.dev.foldTaken p u x
    leAt x.bytes 1 1 = 0 → e.poisoned (leAt x.bytes 8 8) 65536 = false →
    e.engRead s.mem (tagFold p u) (leAt x.bytes 8 8) 65536 [] = (data, e) →
      let dig := hashH (leAt x.bytes 48 1) data
      let y := e.count .FOLD_BYTES [p, u] 65536
      (e.verifies s.mem x data = true → exec (.verify p u) s = .next (s.did
        ((y.releaseEntry (ctlPut s.mem) (leAt x.bytes 52 4)).foldAnswer p u x 0 1 0 dig))) ∧
      (e.verifies s.mem x data = false → exec (.verify p u) s = .next (s.did
        (((y.count .FOLD_MISMATCH [p, u]).discardEntry (leAt x.bytes 52 4) true).foldAnswer p u x 1 0 0 dig))) := by
  intro e hflags hp hr dig y
  have run := (Dev.foldSource_plain (claimed := false) (ctl := ctlPut s.mem) hflags hp hr).trans
    ((Dev.foldFinish_verify t.code).trans Dev.foldVerify_eq)
  exact ⟨fun h => t.answers rfl (run.trans (if_pos h)), fun h => t.answers rfl (run.trans (if_neg (Bool.eq_false_iff.1 h)))⟩

/-- A tally command whose lock is free works on the block that it names. -/
theorem State.FoldTakes.append_runs (t : s.FoldTakes p u 5 x) : let e := s.dev.foldTaken p u x
    e.tsbFree p u (e.ld s.mem (leAt x.bytes 8 8 + 9)).toNat = true →
      exec (.tallyAppend p u) s = .next (s.did (e.tallyRun s.mem p u x)) :=
  fun h => t.answers rfl (Dev.tallyStart_free h)

theorem State.FoldTakes.final_runs (t : s.FoldTakes p u 6 x) : let e := s.dev.foldTaken p u x
    e.tsbFree p u (e.ld s.mem (leAt x.bytes 8 8 + 9)).toNat = true →
      exec (.tallyFinal p u) s = .next (s.did (e.tallyRun s.mem p u x)) :=
  fun h => t.answers rfl (Dev.tallyStart_free h)

end

/-! ### Reconstruction -/

/-- The positions whose buffers a reconstruction context names. -/
def Rcx.named (r : Rcx) : List Nat := (List.range 84).filter fun q => bit r.avail q || bit r.target q

/-- The blocks that the targets are checked against. -/
def Rcx.checks (r : Rcx) : List (Nat × Nat) :=
  (r.targets.mapIdx fun t q => (r.check t, r.checkLen q)) ++ if r.targets.any (· < r.shape.k) then [(r.tally, 32)] else []

/-- Every block that a reconstruction context names. -/
def Rcx.blocks (r : Rcx) : List (Nat × Nat) :=
  (r.named.map fun q => (r.addr q, 65536)) ++ (r.targets.mapIdx fun t q => (r.check t, r.checkLen q)) ++
    if r.targets.any (· < r.shape.k) then [(r.tally, 32)] else []

theorem Rcx.blocks_eq (r : Rcx) : r.blocks = (r.named.map fun q => (r.addr q, 65536)) ++ r.checks := List.append_assoc ..

theorem Rcx.drop_blocks (r : Rcx) : r.blocks.drop r.named.length = r.checks := by
  rw [r.blocks_eq, List.drop_left' (List.length_map _)]

/-- The blocks that a reconstruction reads. -/
def Rcx.reads (r : Rcx) : List (Nat × Nat) := (r.used.map fun q => (r.addr q, 65536)) ++ r.checks

/-- Every block that the context names is memory, and those to be read are sound. -/
structure Dev.ReconReadable (d : Dev) (r : Rcx) : Prop where
  grains : ∀ q ∈ r.named, d.blockOk (r.addr q) 65536 = true
  checks : ∀ c ∈ r.checks, d.blockOk c.1 c.2 = true
  used : ∀ q ∈ r.used, d.poisoned (r.addr q) 65536 = false
  sound : ∀ c ∈ r.checks, d.poisoned c.1 c.2 = false

theorem Dev.ReconReadable.blockOk {d : Dev} {r : Rcx} (h : d.ReconReadable r) :
    r.blocks.all (fun e => d.blockOk e.1 e.2) = true := by
  simp only [r.blocks_eq, List.all_append, List.all_map, Bool.and_eq_true, List.all_eq_true, Function.comp_apply]
  exact ⟨h.grains, h.checks⟩

theorem Dev.ReconReadable.reads {d : Dev} {r : Rcx} (h : d.ReconReadable r) :
    r.reads.any (fun e => d.poisoned e.1 e.2) = false := by
  simp only [Rcx.reads, List.any_append, List.any_map, Bool.or_eq_false_iff, List.any_eq_false, Function.comp_apply,
    Bool.not_eq_true]
  exact ⟨h.used, h.sound⟩

/-- The grains of a sheaf, as far as those that are there give the targets. -/
def Dev.rebuilt (d : Dev) (m : Mem) (r : Rcx) : Option (List Grain) :=
  reconstruct r.shape 65536 r.kpresent r.targets fun q => if bit r.avail q then some (d.ldBytes m (r.addr q) 65536) else none

@[simp] theorem Dev.rebuilt_noteReads (d : Dev) (m : Mem) (tag : Nat) (l : List (Nat × Nat)) (r : Rcx) :
    (d.noteReads tag l).rebuilt m r = d.rebuilt m r := by
  simp only [Dev.rebuilt, Dev.ldBytes_noteReads]

/-- RECON with the grains rebuilt: those targets are written that verify. -/
def Dev.reconWrites (d : Dev) (m : Mem) (p u : Nat) (x : Msg) (r : Rcx) (all : List Grain) : Dev :=
  let ts := r.targets
  let good := (ts.mapIdx fun t q => if d.reconVerifies m r t q (all.getD q []) then [q] else []).flatten
  let mask := (good.map (2 ^ ·)).sum
  let y := good.foldl (fun y q => y.engWrite (tagFold p u) (r.addr q) (all.getD q [])) d
  let y := ((y.count .FOLD_RECON [p, u] good.length).count .FOLD_MISMATCH [p, u] (ts.length - good.length)).count
    .FOLD_BYTES [p, u] (65536 * ts.length)
  y.foldAnswer p u x (if good.length = ts.length then 0 else 1) (mask % 2 ^ 64) (mask / 2 ^ 64) (List.replicate 32 0)

section
variable {s : State} {p u : Nat} {x : Msg}

/-- The reconstruction context that the command names. -/
def Dev.rcx (d : Dev) (m : Mem) (x : Msg) : Rcx := rcxOf (d.ldBytes m (leAt x.bytes 8 8) 896)

theorem State.FoldTakes.recon_bad (t : s.FoldTakes p u 8 x) : let e := s.dev.foldTaken p u x
    (e.rcx s.mem x).bad = true → exec (.recon p u) s = .next (s.did (e.foldFail p u x 8 none)) :=
  fun h => t.answers rfl (if_pos h)

theorem State.FoldTakes.recon_reads (t : s.FoldTakes p u 8 x) : let e := s.dev.foldTaken p u x
    let r := e.rcx s.mem x
    let y := e.noteReads (tagFold p u) r.reads
    r.bad = false → e.ReconReadable r →
      (e.rebuilt s.mem r = none → exec (.recon p u) s = .next (s.did (y.foldFail p u x 7 none))) ∧
      ∀ all, e.rebuilt s.mem r = some all → exec (.recon p u) s = .next (s.did (y.reconWrites s.mem p u x r all)) := by
  dsimp only
  intro hb h
  rw [← Dev.rebuilt_noteReads _ _ (tagFold p u) (Dev.rcx _ _ x).reads]
  have hreads := h.reads
  rw [Rcx.reads, ← Rcx.drop_blocks] at hreads ⊢
  refine ⟨fun hn => t.answers rfl ?_, fun all ha => t.answers rfl ?_⟩ <;>
    refine (if_neg (Bool.eq_false_iff.1 hb)).trans ((if_neg (Bool.eq_false_iff.1 (congrArg (!·) h.blockOk))).trans
      ((if_neg (Bool.eq_false_iff.1 hreads)).trans ?_))
  · dsimp only
    split
    next => rfl
    next all ha => exact absurd (hn.symm.trans ha) (Option.some_ne_none all).symm
  · dsimp only
    split
    next hn => exact absurd (ha.symm.trans hn) (Option.some_ne_none all)
    next found hf =>
      obtain rfl := Option.some.inj (ha.symm.trans hf)
      rfl

end

/-! ### Waiting commands, and units that fail -/

section
variable {s : State} (hs : s.Live) {p u : Nat}
include hs

theorem exec_tsbLockFree {j : FoldJob} (hj : (s.dev.foldU p u).job = some j) (hf : s.dev.stale j.msg.workid = false)
    (hl : j.lock = true) : exec (.tsbLockFree p u) s = .next (s.did
      ((s.dev.setFoldU p u { s.dev.foldU p u with job := none }).tallyStart s.mem p u j.msg)) := by
  show execTsbLockFree p u s = _
  simp [execTsbLockFree, hs.run, hj, hf, hl]

theorem exec_foldChainUnitReady {j : FoldJob} (hj : (s.dev.foldU p u).job = some j)
    (hf : s.dev.stale j.msg.workid = false) (hl : j.lock = false) : exec (.foldChainUnitReady p u) s = .next (s.did
      (Dev.foldAbsorb (ctlPut s.mem) s.mem p u (leAt j.msg.bytes (if leAt j.msg.bytes 0 1 = 2 then 16 else 8) 8)
        (16 - j.read.length / 4096) j (s.dev.setFoldU p u { s.dev.foldU p u with job := none }))) := by
  show execFoldChainUnitReady p u s = _
  have hfe : (s.dev.setFoldU p u { s.dev.foldU p u with job := none }).stale j.msg.workid = false := hf
  simp [execFoldChainUnitReady, hs.run, hj, hfe, hl]

/-- A unit that fails while it holds no command, and none waits, loses its grains. -/
theorem exec_foldUnitFail (hp : p < s.dev.plots) (hu : u < 4) (hw : s.dev.flag FOLD_STATUS.FAILED [p, u] = false)
    (hj : (s.dev.foldU p u).job = none) (hq : s.dev.queue (epKey 0x4 (4 * p + u)) = []) :
    exec (.foldUnitFail p u) s = .next (s.did
      (((((s.dev.setQueue (epKey 0x4 (4 * p + u)) []).setFoldU p u
        { accs := (s.dev.foldU p u).accs.map fun v => { v with grains := [] } }).setFld FOLD_STATUS.FAILED 1 [p, u]).report
          { code := 0x0305, kind := 5, unit := p * 256 + u }).queueFallow)) := by
  show execFoldUnitFail p u s = _
  have hp := Nat.not_le.2 hp
  have hu := Nat.not_le.2 hu
  simp [execFoldUnitFail, hs.run, Dev.foldUnitFail, hp, hu, hw, hj, hq]

end

/-- Settles O51: a command at the front by its operation; a chained source by the unit it waits for. -/
theorem foldUnitsAnswerTheirCommands : Obligations.FoldUnitsAnswerTheirCommands := by
  unfold Obligations.FoldUnitsAnswerTheirCommands
  intro s p u hs hp hu hw d m ep tag zeros
  refine ⟨fun x rest data hj hq hf => ?_, fun j hj hf => ?_, fun hpl hj hq => ?_⟩
  · have front : s.FoldFront p u x := ⟨hs, hp, hu, hw, hj, ⟨rest, hq⟩, hf⟩
    intro e0 b e a bytes takes reads answers fails
    have taken {op : Nat} (h : takes op) (hk : op ∈ foldOps) : s.FoldTakes p u op x := ⟨front, h.1, hk, h.2⟩
    refine ⟨?refused, ?context, fun h hok hn => (taken h (by decide)).init_claims hok hn,
      fun v hst hv => ⟨fun h hok => ?fold, fun h hok hm => (taken h (by decide)).close_held hok hst hv hm⟩,
      fun h ⟨hflags, hpois, hread⟩ => (taken h (by decide)).hash_read hflags hpois hread,
      fun h ⟨hflags, hpois, hread⟩ => ?verify, ?tally, fun h => ?recon⟩
    case refused =>
      intro c hc hop ht
      simp only [List.mem_cons, List.not_mem_nil, or_false] at hc
      obtain rfl | rfl | rfl | rfl | rfl | rfl | rfl | rfl := hc <;> exact front.refuses hop (by simp [foldOps]) ht rfl
    case context =>
      intro c hc h ht
      simp only [List.mem_cons, List.not_mem_nil, or_false] at hc
      obtain rfl | rfl | rfl := hc <;> exact (taken h (by simp [foldOps])).answers rfl (if_pos ht)
    case fold =>
      have t := taken h (by decide)
      refine ⟨fun hpos => ?_, fun hpos hdone => ?_, fun hpos hdone hr => ?_⟩
      · exact exec_did (t.fold_held hok hst hv) (if_pos hpos)
      · exact exec_did (t.fold_held hok hst hv) ((if_neg (Nat.not_le.2 hpos)).trans (if_pos hdone))
      · obtain ⟨hflags, hpois, hread⟩ := hr
        exact exec_did (t.fold_held hok hst hv) ((if_neg (Nat.not_le.2 hpos)).trans ((if_neg (Bool.eq_false_iff.1 hdone)).trans
          ((Dev.foldSource_plain hflags hpois hread).trans ((Dev.foldFinish_fold t.code).trans (Dev.foldGrain_held hv)))))
    case verify =>
      exact ((taken h (by decide)).verify_read hflags hpois hread).imp (· ∘ decide_eq_true) (· ∘ decide_eq_false)
    case tally =>
      intro t count free freed num
      refine ⟨?_, fun hfree hhash hcount => ?_⟩
      · intro c hc h hfree
        simp only [List.mem_cons, List.not_mem_nil, or_false] at hc
        obtain rfl | rfl := hc <;> exact (taken h (by simp [foldOps])).answers rfl (Dev.tallyStart_locked hfree)
      · have run := Dev.TsbFine.tallyRun (d := e) (p := p) (u := u) (m := m) (x := x) ⟨hhash, hcount⟩
        refine ⟨fun h => ?_, fun h => ?_⟩
        · have t := taken h (by decide)
          refine ⟨fun hne => ?_, fun heq hle => ?_⟩ <;>
            refine exec_did (t.append_runs hfree) (run.trans ((if_pos t.code).trans ?_))
          · exact if_pos hne
          · exact if_neg (not_or.2 ⟨not_not_intro heq, Nat.not_lt.2 hle⟩)
        · have t := taken h (by decide)
          have hfinal : leAt b 0 1 ≠ 5 := by rw [t.code]; decide
          refine ⟨fun h0 => ?_, fun h0 => ?_⟩ <;>
            refine exec_did (t.final_runs hfree) (run.trans ((if_neg hfinal).trans ?_))
          · exact if_pos h0
          · exact if_neg h0
    case recon =>
      intro r ts grains checks rebuilt
      have t := taken h (by decide)
      exact ⟨t.recon_bad, fun hb hg hc hu hp => t.recon_reads hb ⟨hg, hc, hu, hp⟩⟩
  · intro e src at'
    refine ⟨fun hl hfree => ?_, fun unit hl hlen hc hpois hr => ?_, fun r hl hlen hc => ?_⟩
    · exact exec_did (exec_tsbLockFree hs hj hf hl) (Dev.tallyStart_free hfree)
    · refine exec_did (exec_foldChainUnitReady hs hj hf hl) ?_
      rw [hlen]
      exact Dev.foldAbsorb_last hc hpois hr
    · exact exec_did (exec_foldChainUnitReady hs hj hf hl) (Dev.foldAbsorb_failed (by omega) hc)
  · exact exec_foldUnitFail hs hpl hu hw hj hq

end Sys2Proof.Machine
end
